-- ==== Sys2Proof/Word.lean ====
section
/-!
DEFINITION. The word types of the register file and the plain shape of the tables: a bit field by its position, a sparse
map as a list of keyed values, and the form in which the spec's register tables are written down.
-/

namespace Sys2Proof

/-- One byte. -/
abbrev Byte := BitVec 8

/-- A register: 32 bits (R55). -/
abbrev Word := BitVec 32

/-- A sparse map: keys strictly rising, no value equal to what an unlisted key reads as. -/
abbrev NMap (α : Type) := List (Nat × α)

/-- A bit field of a register: its lowest bit and its width. -/
structure BF where
  lo : Nat
  width : Nat
  deriving DecidableEq, Repr

/-- Access types (R60); rwh covers the RWH fields, which hardware also updates (R64). -/
inductive FieldType where
  | ro | rw | ros | rwh | w1c | w1s | wo | rwl | rcs
  deriving DecidableEq, Repr

/-- Configuration classes (R67, R68); none for a field that software cannot configure. -/
inductive FieldClass where
  | none | static | epoch | live
  deriving DecidableEq, Repr

/-- The values a field's row allows: any, at most n, a range, a list (others are reserved, R62), or a clamp, unsigned or
of a signed 12-bit value, which stores the nearer limit. -/
inductive Limit where
  | any
  | upto (n : Nat)
  | range (a b : Nat)
  | oneOf (l : List Nat)
  | clamp (a b : Nat)
  | sclamp (a b : Nat)
  deriving DecidableEq, Repr

/-- One field row of a register table. -/
structure FieldDesc where
  lo : Nat
  width : Nat
  type : FieldType
  cls : FieldClass
  reset : Nat
  limit : Limit
  deriving DecidableEq, Repr

/-- 32-bit register, 64-bit read-only counter (R63, R66), or writable 64-bit counter. -/
inductive RegWidth where
  | w32 | ctr64 | rw64
  deriving DecidableEq, Repr

/-- Whether a write reaches one slice or is applied to all nine (R141, R176, R202, R225). -/
inductive RegScope where
  | plain | bcast
  deriving DecidableEq, Repr

/-- One register row: name, base address, index dimensions (count, stride) from the outermost in, width, scope, fields. -/
structure RegDesc where
  name : String
  base : Nat
  dims : List (Nat × Nat)
  width : RegWidth
  scope : RegScope
  fields : List FieldDesc
  deriving DecidableEq, Repr

end Sys2Proof
end

