-- ==== Sys2Proof/Syntax.lean ====
section
/-!
DEFINITION. The commands the engine takes: one constructor of Instr per row of spec/opcode_table.json, in the table's order,
with the operands the row's rule takes from outside the block (log 21). Beside it, the shapes of those operands.
-/

namespace Sys2Proof

/-- A requester of register accesses (R58); vf n is VF n, n = 1 to 63. -/
inductive Req where
  | pf
  | core (c : Fin 4)
  | boot
  | safety
  | debug
  | vf (n : Fin 64)
  deriving DecidableEq, Repr, Inhabited

/-- A mailbox (R71); vf p m is mailbox m of parcel window p (R391). -/
inductive Mbx where
  | rstBlk | boot | pwr | flt | dtm (m : Fin 2) | par | tet | mbus (m : Fin 4) | bpm (m : Fin 2) | fbk
  | pat (e : Fin 4) | upd | vf (p : Fin 64) (m : Fin 2)
  deriving DecidableEq, Repr, Inhabited

/-- Levels of the strap pins: RSTPROF, TESTMODE and SLOT_ID (R33, R35). -/
structure Straps where
  rstprof : Bool
  testmode : Bool
  slotId : Fin 16
  deriving DecidableEq, Repr, Inhabited

/-- What the flash devices answer: a device on XSPI_CS_N[0] and one on XSPI_CS_N[1] (R91), and a read timeout of slot A or B
(R96). -/
structure FlashEnv where
  cs0 : Bool
  cs1 : Bool
  timeoutA : Bool
  timeoutB : Bool
  deriving DecidableEq, Repr, Inhabited

/-- The partner's Clause 73 base page (R104): its types, the ability 25GBASE-KR-S, FEC bits F0 to F3 (bit 0 is F0); parallel: it
sends no pages, and types are those that parallel detection finds. -/
structure AnPage where
  types : BitVec 17
  krS : Bool
  fec : BitVec 4
  parallel : Bool
  deriving DecidableEq, Repr, Inhabited

/-- A frame as its port receives it: bytes without the FCS, what the coding and the FCS check found (R111, R112, R116),
the FEC codewords corrected and not, and the corrected symbols of port lanes 0 to 7. -/
structure RxFrame where
  bytes : List Byte
  fcsGood : Bool
  codeErr : Bool
  corrCw : Nat
  uncorrCw : Nat
  syms : List Nat
  /-- codewords between frames: no frame lies in them -/
  noFrame : Bool
  deriving DecidableEq, Repr, Inhabited

/-- A protected location: an entry or word of a memory (R140, R200, R201, R344).
space: 0 parser control store, 1 dispatch table, 2 type map, 3 rewrite control store, each unit's two banks counted on
(bank * 4096 + word); 4 rule row; 5 automaton word (region * 2^20 + word) of engine unit; 6 table entry (table code of
R175 in unit, its entry in index); 7 packet SRAM cell; 8 other state. -/
structure Loc where
  space : Nat
  unit : Nat
  index : Nat
  deriving DecidableEq, Repr, Inhabited

/-- Bits of a protected word that flip: the word of the location, and the bits, of which those at or beyond the word's width are its
check bits. Words: a whole entry of the spaces 0 to 3 and of 8 is word 0; a rule row has 17 words of 64 bits, VALUE first, then MASK and
action word (R200); an automaton word has 8 bytes of 8 bits, bit 8 the parity bit (R201); a table entry has words of 64 bits
(R344); a cell has 16 words of 128 bits (R248). -/
structure Hit where
  loc : Loc
  seg : Nat
  bits : List Nat
  deriving DecidableEq, Repr, Inhabited

/-- A request of another user in an HBM bank queue (R281): its service class, 0 table backing, 1 packet read, 2 packet write, 3
background, its direction and row, and how long before now, in picoseconds, it entered the CORE to MEM queue. -/
structure MemReq where
  cls : Fin 4
  write : Bool
  row : Nat
  since : Nat
  deriving DecidableEq, Repr, Inhabited

/-- A request that a command makes to HBM (R281 to R283): controller, pseudo-channel, bank and row; when it entered, in picoseconds before
now; the requests of others that entered the same bank queue before it and after it; and the errors that the access corrects. -/
structure MemAcc where
  k : Fin 4
  pch : Fin 64
  bank : Fin 1024
  row : Nat
  since : Nat
  before : List MemReq
  after : List MemReq
  corr : Nat
  deriving DecidableEq, Repr, Inhabited

/-- Uncorrectable 32-byte accesses of a spilled record in its queue descriptor or a page header, each as controller and physical rank: in
one half, and in both halves (R286, R287). -/
structure DescErrs where
  half : List (Fin 4 × Fin 128)
  both : List (Fin 4 × Fin 128)
  deriving DecidableEq, Repr, Inhabited

/-- A record write that has ended: its queue and its requests (R238). -/
structure SpillWrite where
  q : Fin 131072
  accs : List MemAcc
  deriving DecidableEq, Repr, Inhabited

/-- A field-book record that has been written: whether its memory answered with an uncorrectable error, and its requests (R222). -/
structure RecordWrite where
  ue : Bool
  accs : List MemAcc
  deriving DecidableEq, Repr, Inhabited

/-- A rank block that controller k has copied (R290): writes to it that waited for its copy, its words of 32 bytes that are
uncorrectable in the source, and its requests. -/
structure BlockCopy where
  k : Fin 4
  held : Nat
  bad : List (Fin 128)
  accs : List MemAcc
  deriving DecidableEq, Repr, Inhabited

/-- What else a backing traverse meets: words uncorrectable in every copy, and its requests (R293). -/
structure BackingRest where
  bothBad : List Loc
  accs : List MemAcc
  deriving DecidableEq, Repr, Inhabited

/-- RESET_N low for so many picoseconds, whether it then rises, and the straps' levels (R34, R35). -/
structure ResetPulse where
  heldPs : Nat
  rises : Bool
  straps : Straps
  deriving DecidableEq, Repr, Inhabited

/-- SUPPLY_GOOD high for so many picoseconds, and the straps' levels (R42, R35). -/
structure SupplyRise where
  heldPs : Nat
  straps : Straps
  deriving DecidableEq, Repr, Inhabited

/-- How a block reset goes: whether it ends within its bound, and the write bursts that it meets (R87, R90). -/
structure BlockReset where
  ok : Bool
  bursts : Nat
  deriving DecidableEq, Repr, Inhabited

/-- A lane that a degrade retry finds: whether its condition has held (R120). -/
structure LaneCheck where
  lane : Fin 8
  held : Bool
  deriving DecidableEq, Repr, Inhabited

/-- A spare-lane message block and in how many consecutive slots it was received (R118, R119). -/
structure SpareMsg where
  d1 : Byte
  d2 : Byte
  d3 : Byte
  slots : Nat
  deriving DecidableEq, Repr, Inhabited

/-- An update descriptor (R380); op is the code in its OP byte, rsv: a reserved field or value was not zero. -/
structure Desc where
  seq : BitVec 64
  op : BitVec 8
  slot : Fin 256
  table : Fin 16
  index : BitVec 32
  addr : BitVec 64
  len : BitVec 32
  data : BitVec 256
  rsv : Bool
  deriving DecidableEq, Repr, Inhabited

/-- An event on a fault wire pair: unit code, line, class, outcome (0 masked, 1 degraded, 2 reported, 3 critical) and
syndrome; for the packet SRAM the group concerned (R9); lost: the syndrome found its die's queue full (R328), which the collector
decides whatever a command says. -/
structure FaultEv where
  unit : Nat
  line : Nat
  cls : Nat
  outcome : Nat
  syn : BitVec 64
  group : Nat
  lost : Bool
  deriving DecidableEq, Repr, Inhabited

/-- A Tether message after its EtherType (R399): last is BLEN[15]. -/
structure TetMsg where
  last : Bool
  gen : BitVec 16
  role : Fin 4
  slotId : Fin 16
  tseq : BitVec 64
  body : List Byte
  fcsGood : Bool
  deriving DecidableEq, Repr, Inhabited

/-- An abstract command of the debug module (R413): registers by the regno of the RISC-V debug specification, 0x1000 + n for xn. -/
inductive AbsCmd where
  | readReg (r : Fin 8192)
  | writeReg (r : Fin 8192) (v : BitVec 64)
  | readMem (a : BitVec 64)
  | writeMem (a : BitVec 64) (v : BitVec 64)
  deriving DecidableEq, Repr, Inhabited

/-- A system bus access (R413): to a core memory (byte address in the memory of a hart) or to the register file. -/
inductive SbAccess where
  | memRead (hart : Fin 6) (a : Nat)
  | memWrite (hart : Fin 6) (a : Nat) (v : BitVec 64)
  | regRead (addr : Nat) (w64 : Bool)
  | regWrite (addr : Nat) (v : BitVec 64) (w64 : Bool)
  deriving DecidableEq, Repr, Inhabited

/-- What a management bus does during a command (R421 to R423): for each recovery try the number of pulses until SDA is high
(none: never), and then the target's answers. stuck: SDA found low before the transaction. -/
structure BusEnv where
  stuck : Bool
  tries : List Bool
  addrAck : Bool
  dataAck : Bool
  stretchOut : Bool
  arbLost : Bool
  pecGood : Bool
  reads : List Byte
  deriving DecidableEq, Repr, Inhabited

/-- The commands, one constructor per row of the opcode table. -/
inductive Instr where
  /-- RESET_N_LOW (R34): RESET_N held low past the filter count is taken as reset source 1, which quenches and restarts boot at B1. -/
  | resetNLow (pulse : ResetPulse)
  /-- SUPPLY_GOOD_HIGH (R42): SUPPLY_GOOD continuously high for 100 µs is taken as high, which ends B0 once RESET_N is also high. -/
  | supplyGoodHigh (rise : SupplyRise)
  /-- SUPPLY_GOOD_LOW (R42): SUPPLY_GOOD low for 10 AON cycles acts as a power-on reset, or completes entry into Stowed from Stowed-ready. -/
  | supplyGoodLow (aonCycles : Nat)
  /-- VDD_AON_LOSS (R44): VDD_AON below range is a power-on reset, and the BKP domain switches to VBAT. -/
  | vddAonLoss
  /-- RAIL_OUT_OF_RANGE (R347): An undervoltage monitor finds a rail out of range while SUPPLY_GOOD is high, and the domain is switched off as a power fault. -/
  | railOutOfRange (dom : Fin 117)
  /-- TEMP_SAMPLE (R50): A temperature sensor is sampled and compared with its WARN and TRIP levels. -/
  | tempSample (n : Fin 32) (t : BitVec 12)
  /-- REFCLK_LOSS (R348): Loss of REFCLK quenches, holds FAULT_N and runs the PLLs in holdover. -/
  | refclkLoss
  /-- REFCLK_RESTORED (R348): Under the native profile, REFCLK back in tolerance for 1 ms leads the safety core to write a software cold reset. -/
  | refclkRestored
  /-- REGISTER_WRITE (R68): A write to a register with no row of its own is applied by access type and configuration class, or refused with an error flag. -/
  | registerWrite (rq : Req) (addr : Nat) (value : BitVec 64) (w64 be : Bool)
  /-- BAD_READ (R56): A read that is unaligned, unmapped or reaches a powered-off block returns 0 and sets BAD_ACCESS or OFF_ACCESS. -/
  | badRead (rq : Req) (addr : Nat) (w64 : Bool)
  /-- LATCHING_READ (R66): A read of the low word of a 64-bit counter, or of another latching register, latches the related words for the requester. -/
  | latchingRead (rq : Req) (addr : Nat) (w64 : Bool)
  /-- DATUM_NS_READ (R324): A read of a Datum NS register latches the other registers of its group at the same tick for the requester. -/
  | datumNsRead (rq : Req) (clk : Fin 3) (pps : Bool)
  /-- MAILBOX_COMPLETE (R72): A mailbox operation completes and its RESULT becomes DONE with its TAG and CODE. -/
  | mailboxComplete (m : Mbx)
  /-- GLB_LOCK_SET (R61): Writing 1 to GLB_LOCK.LOCK locks every RWL field. -/
  | glbLockSet (rq : Req)
  /-- BKP_WRITE (R81): A write to a BKP-held field completes its four-phase handshake into the BKP domain. -/
  | bkpWrite
  /-- SW_WARM_RESET (R75): RST_SWRESET with the key and KIND warm is reset source 4 and restarts boot at B1. -/
  | swWarmReset (rq : Req)
  /-- SW_COLD_RESET (R75): RST_SWRESET with the key and KIND cold is reset source 5 and restarts boot at B0. -/
  | swColdReset (rq : Req)
  /-- SAFETY_WATCHDOG_EXPIRY (R75): The safety-core watchdog expires, which is reset source 3, or is held under the Plain profile. -/
  | safetyWatchdogExpiry
  /-- CRITICAL_STATE_ERROR (R75): A double-bit or parity error in AON critical state, or a lockstep mismatch, is reset source 6, or is held under the Plain profile. -/
  | criticalStateError
  /-- RESET_UNIT (R87): RST_BLK_CMD OP 0x0001 resets one disabled unit to its reset values. -/
  | resetUnit (rq : Req) (tag : BitVec 16) (x : BlockReset)
  /-- BOOT_B0 (R83): From VDD_AON in range, the engine senses fuses, trims the AON oscillator, checks for BKP loss and records the reset cause. -/
  | bootB0
  /-- BOOT_B1 (R96): B1 resets the flash, samples the straps, brings up PCIe, selects and checks a slot and applies its early records. -/
  | bootB1 (rstprof testmode : Bool) (slotId : Fin 16) (dev : FlashEnv)
  /-- BOOT_B2 (R83): B2 streams the image body, loads sections, stages tables and checks the body digest. -/
  | bootB2 (dev : FlashEnv)
  /-- BOOT_B3 (R83): B3 trains the HBM stacks and CXL ports and releases the CXL resets. -/
  | bootB3 (failedRanks : List (Nat × Nat)) (cxlGib : List Nat)
  /-- BOOT_B4 (R83): B4 writes the backing copies and commits the staged transaction as the first epoch. -/
  | bootB4
  /-- BOOT_B5 (R83): B5 enables panels and ports, enters Aloft at the image's level and sets GLB_LOCK. -/
  | bootB5
  /-- BOOT_WATCHDOG_EXPIRY (R85): The boot phase watchdog of a phase expires, which is reset source 2. -/
  | bootWatchdogExpiry
  /-- BOOT_BACKOFF_END (R86): The 100 ms backoff before B1 ends, BACKOFF clears and B1 starts. -/
  | bootBackoffEnd
  /-- FLASH_READ (R100): The BOOT mailbox reads flash bytes into its data window. -/
  | flashRead (rq : Req) (tag : BitVec 16) (err : Bool)
  /-- FLASH_ERASE (R100): The BOOT mailbox erases 64 KiB blocks of a slot that is not running. -/
  | flashErase (rq : Req) (tag : BitVec 16) (err : Bool)
  /-- FLASH_WRITE (R100): The BOOT mailbox programs flash from its data window. -/
  | flashWrite (rq : Req) (tag : BitVec 16) (err : Bool)
  /-- SLOT_CHECK (R100): The BOOT mailbox runs the slot checks of B1 without loading and reports the refusal code. -/
  | slotCheck (rq : Req) (tag : BitVec 16) (dev : FlashEnv)
  /-- ADVANCE_SVN (R98): The BOOT mailbox blows anti-rollback fuses up to a new SVN_MIN no higher than the running SVN. -/
  | advanceSvn (rq : Req) (tag : BitVec 16) (blown : Bool)
  /-- REVOKE_KEY (R97): The BOOT mailbox blows the revocation bit of a key other than the running or last unrevoked key. -/
  | revokeKey (rq : Req) (tag : BitVec 16) (blown : Bool)
  /-- PERST_ASSERT (R78): PCIe PERST_N resets the host interface, parcels and rings only. -/
  | perstAssert
  /-- PF_FLR (R376): A function-level reset of the PF resets the rings, mailboxes and MSI-X state of parcel 0. -/
  | pfFlr
  /-- VF_FLR (R392): A function-level reset of a VF quiesces and resets its parcel. -/
  | vfFlr (n : Fin 64)
  /-- RECEIVE_FRAME (R116): A received frame is checked for coding, length and FCS and is delivered to the Bridle, consumed or discarded with one counter. -/
  | receiveFrame (port : Fin 256) (f : RxFrame)
  /-- BRIDLE_INGRESS (R230): The Bridle grants a waiting frame an ingress slot and head slot, and the buffer pool manager admits it into cells or discards it. -/
  | bridleIngress (panel : Fin 8)
  /-- PFC_REFRESH (R271): Every REFRESH_US while a priority stays over XOFF, the port repeats its PFC or pause frame. -/
  | pfcRefresh (port : Fin 256)
  /-- PARSE_HEAD (R131): A head in a slice head slot is stamped with the epoch and parsed into the metadata record, key vector and header index. -/
  | parseHead (slice : Fin 9) (hits : List Hit)
  /-- RESIDENCE_OVERRUN (R16): A packet reaching 4 µs of residence is dropped with reason 0x01, and its copies not yet made are discarded. -/
  | residenceOverrun (slice : Fin 9)
  /-- PATTERN_SCAN (R190): A pattern engine scans a queued window and resolves the winning pattern, whose action the classifier applies. -/
  | patternScan (engine : Fin 4) (hits : List Hit)
  /-- REPLICATION_COPY (R213): A free head slot serves the replication queue, which makes the next replication copy. -/
  | replicationCopy (slice : Fin 9) (hits : List Hit)
  /-- HEAD_CACHE_REFILL (R231): The allocators refill a slice's head-cell cache in the background. -/
  | headCacheRefill (slice : Fin 9)
  /-- SPILL_WRITE_COMPLETE (R238): A copy's record write to HBM completes, and the copy frees its head cells and chain reference. -/
  | spillWriteComplete (w : SpillWrite)
  /-- READBACK (R239): The oldest HBM record of a spilling queue is read back into refill cells. -/
  | readback (q : Fin 131072) (errs : List (Fin 4 × Fin 128)) (desc : DescErrs) (accs : List MemAcc)
  /-- DEQUEUE (R265): A panel scheduler chooses an eligible element, applies shapers and deficit round robin, and dequeues a copy. -/
  | dequeue (port : Fin 256)
  /-- AGE_SWEEP (R267): The age sweep visits a non-empty queue and discards head copies beyond the sojourn limit. -/
  | ageSweep (q : Fin 131072)
  /-- TRANSMIT_COPY (R115): The transmit MAC sends or discards a copy, applies its time-dependent writes and releases its references. -/
  | transmitCopy (port : Fin 256) (hits : List Hit)
  /-- PORT_ENABLE (R101): Writing PORT_CTRL.EN 1 enables a port, or refuses it with CFG_ERR. -/
  | portEnable (rq : Req) (port : Fin 256)
  /-- PORT_DISABLE (R109): Writing PORT_CTRL.EN 0 disables the port and takes its link down. -/
  | portDisable (rq : Req) (port : Fin 256)
  /-- PORT_RESTART (R123): PORT_CTRL.RESTART takes the link down, ends swaps and fallback and restarts at full width. -/
  | portRestart (rq : Req) (port : Fin 256)
  /-- PORT_RELEASE (R122): PORT_CTRL.RELEASE returns receive swaps of recovered lanes to their lanes and sends RELEASE_REQ. -/
  | portRelease (rq : Req) (port : Fin 256) (below : List Nat)
  /-- AUTONEG_COMPLETE (R105): Clause 73 resolves the highest common type, and link training starts on its lanes. -/
  | autonegComplete (port : Fin 256) (partner : AnPage) (nextPages : Nat)
  /-- TRAINING_COMPLETE (R108): Link training completes on all lanes of the resolved type. -/
  | trainingComplete (port : Fin 256)
  /-- TRAINING_TIMEOUT (R106): Training not completed within 4.0 s is abandoned and auto-negotiation restarts. -/
  | trainingTimeout (port : Fin 256)
  /-- LINK_UP (R107): PCS lock without fault brings LINK to 1, raises the link event and loads the latency constants. -/
  | linkUp (port : Fin 256)
  /-- PORT_FAULT (R114): Loss of lock, hi_ber or a received remote fault puts the port in fault. -/
  | portFault (port : Fin 256) (kind : Fin 3)
  /-- FAULT_CLEAR (R114): A fault that clears within the hold time returns the port to up with LINK unchanged. -/
  | faultClear (port : Fin 256)
  /-- HOLD_EXPIRY (R114): A fault outlasting the hold time takes LINK to 0, counts LINK_DOWN and raises the link event. -/
  | holdExpiry (port : Fin 256)
  /-- DEGRADE_TRIGGER (R120): A lane's symbol error ratio above threshold in two consecutive 10 ms windows starts a swap. -/
  | degradeTrigger (port : Fin 256) (lane : Fin 8)
  /-- FAILURE_TRIGGER (R120): A lane losing CDR or block lock starts a swap. -/
  | failureTrigger (port : Fin 256) (lane : Fin 8)
  /-- DEGRADE_RETRY (R120): A degrade condition held for a further 1 s after failed attempts starts a new swap. -/
  | degradeRetry (port : Fin 256) (x : LaneCheck)
  /-- HELLO (R118): A HELLO message received on a spare marks the partner present. -/
  | hello (panel : Fin 8) (spare : Fin 2) (msg : SpareMsg)
  /-- BRIDGE_REQ (R121): A received BRIDGE_REQ is answered with BRIDGE_ACK and bridging, or with BRIDGE_NAK. -/
  | bridgeReq (panel : Fin 8) (spare : Fin 2) (msg : SpareMsg)
  /-- BRIDGE_ACK (R120): A received BRIDGE_ACK lets the engine wait for the bridged stream on the spare. -/
  | bridgeAck (panel : Fin 8) (spare : Fin 2) (msg : SpareMsg)
  /-- BRIDGE_NAK (R120): A received BRIDGE_NAK ends the attempt, counts SWAP_FAILS and tries the other spare or falls back. -/
  | bridgeNak (panel : Fin 8) (spare : Fin 2) (msg : SpareMsg)
  /-- SWAP_DONE (R118): A received SWAP_DONE reports that the partner takes its receive of the lane from the spare. -/
  | swapDone (panel : Fin 8) (spare : Fin 2) (msg : SpareMsg)
  /-- RELEASE_REQ (R122): A received RELEASE_REQ ends the engine's transmit bridge and is answered with RELEASE_ACK. -/
  | releaseReq (panel : Fin 8) (spare : Fin 2) (msg : SpareMsg)
  /-- RELEASE_ACK (R122): A received RELEASE_ACK confirms the partner stopped bridging the lane. -/
  | releaseAck (panel : Fin 8) (spare : Fin 2) (msg : SpareMsg)
  /-- BRIDGE_ACK_TIMEOUT (R120): No ACK within 2 ms ends the attempt, counts SWAP_FAILS and tries the other spare or falls back. -/
  | bridgeAckTimeout (panel : Fin 8) (spare : Fin 2)
  /-- SWAP_SWITCH (R120): At the lane's alignment marker on the spare the engine deskews, switches reception to the spare and sends SWAP_DONE. -/
  | swapSwitch (panel : Fin 8) (spare : Fin 2)
  /-- SPARE_PARTNER_TIMEOUT (R119): No valid message on a spare for 10 ms clears PARTNER. -/
  | sparePartnerTimeout (panel : Fin 8) (spare : Fin 2)
  /-- SPARE_TRAIN_RETRY (R117): A spare whose training failed is retrained every 10 s. -/
  | spareTrainRetry (panel : Fin 8) (spare : Fin 2)
  /-- PAUSE_FRAME_RX (R270): A received pause or PFC frame pauses or unpauses the priorities it names. -/
  | pauseFrameRx (port : Fin 256) (pfc : Bool) (enable : BitVec 8) (quanta : List Nat)
  /-- PAUSE_EXPIRY (R270): The quanta of a pause run out and the priority is no longer paused. -/
  | pauseExpiry (port : Fin 256) (pri : Fin 8)
  /-- PFC_WATCHDOG_TICK (R272): On each 1 ms tick the PFC watchdog checks each pause and fires or restores priorities. -/
  | pfcWatchdogTick
  /-- QUEUE_SAMPLE (R268): At each sampling period a queue's depth and largest sojourn are written to its sample registers. -/
  | queueSample (q : Fin 131072)
  /-- OPEN (R145): An OPEN descriptor takes the lowest free software slot for the parcel. -/
  | openSlot (parcel : Fin 64) (ring : Fin 4) (d : Desc)
  /-- WRITE (R146): A WRITE descriptor stages an entry version in all five stores, with relocation if needed, or fails the transaction. -/
  | write (parcel : Fin 64) (ring : Fin 4) (d : Desc) (row : List Byte)
  /-- DELETE (R146): A DELETE descriptor marks an entry retired in the transaction, or fails it. -/
  | delete (parcel : Fin 64) (ring : Fin 4) (d : Desc)
  /-- CLOSE (R148): A CLOSE descriptor starts closing an open transaction. -/
  | close (parcel : Fin 64) (ring : Fin 4) (d : Desc)
  /-- CLOSE_COMPLETE (R148): Once every write of the transaction has committed and been queued to the backing copy, the slot becomes CLOSED. -/
  | closeComplete (slot : Fin 256)
  /-- ABORT (R153): An ABORT descriptor starts removing a transaction's created entries and retire marks, or completes with COMMITTED. -/
  | abort (parcel : Fin 64) (ring : Fin 4) (d : Desc)
  /-- ABORT_DONE (R145): The removal of an aborted transaction ends and the slot becomes FREE. -/
  | abortDone (slot : Fin 256)
  /-- COMMIT (R149): A COMMIT descriptor requests a flip. -/
  | commit (parcel : Fin 64) (ring : Fin 4) (d : Desc)
  /-- NOP (R380): A NOP descriptor is sequence-checked and completed with no effect. -/
  | nop (parcel : Fin 64) (ring : Fin 4) (d : Desc)
  /-- PATCH (R384): A PATCH descriptor on parcel 0 checks and loads a microcode or pattern patch into the idle bank or region. -/
  | patch (parcel : Fin 64) (ring : Fin 4) (d : Desc) (image : List Byte)
  /-- LOAD_COMPLETE (R139): A patch load into an idle bank or region completes, sets VALID and the version and clears LOADING. -/
  | loadComplete
  /-- FLIP (R150): The update engine commits every CLOSED slot, copies epoch-class shadows and sends the new epoch to the slices. -/
  | flip
  /-- SWEEP_START (R155): 8 µs after its flip a committed slot starts its sweep. -/
  | sweepStart (slot : Fin 256)
  /-- SWEEP_DONE (R155): A sweep finishes clearing CV, freeing retired entries and folding shadows, and the slot becomes FREE. -/
  | sweepDone (slot : Fin 256)
  /-- LEARN_REQUEST (R158): The learn engine takes a learn or move request and creates or moves a MAC entry in its transaction. -/
  | learnRequest
  /-- LEARN_TICK (R159): At each learn tick the learn engine closes its transaction, requests a flip and opens the next learn slot. -/
  | learnTick
  /-- AGING_PASS (R160): Every AGE seconds the learn engine deletes unhit dynamic MAC entries and clears the hit bits. -/
  | agingPass
  /-- PROBE (R175): The UPD mailbox looks up a key or index as a packet of the given epoch would. -/
  | probe (rq : Req) (tag : BitVec 16) (hits : List Hit)
  /-- READ_RAW (R175): The UPD mailbox reads a table location without a visibility test. -/
  | readRaw (rq : Req) (tag : BitVec 16) (hits : List Hit)
  /-- REHASH (R168): The UPD mailbox copies a logical partition onto the spare partition under new seeds. -/
  | rehash (rq : Req) (tag : BitVec 16)
  /-- REHASH_COPY_DONE (R168): The rehash copy finishes, the partition map shadow is written and a flip is requested. -/
  | rehashCopyDone
  /-- REHASH_CLEANUP (R168): 8 µs after the rehash flip the old physical partition is cleared and becomes the spare. -/
  | rehashCleanup
  /-- PRS_TRAVERSE (R140): Every 10 ms a parity traverse reads both parser and rewrite banks and handles their errors. -/
  | prsTraverse (slice : Fin 9) (hits : List Hit)
  /-- REPAIR_COMPLETE (R342): A damaged entry, word or row is rewritten from a backing copy or sibling, or recorded as REPAIR_FAIL. -/
  | repairComplete (loc : Loc) (copyA copyB sibling : Bool)
  /-- PRS_RD_ADDR_WRITE (R140): Writing PRS_RD_ADDR copies a bank entry into PRS_RD_DATA and handles its errors as a read. -/
  | prsRdAddrWrite (rq : Req) (slice : Fin 9) (value : BitVec 32) (hits : List Hit)
  /-- RWR_RD_ADDR_WRITE (R217): Writing RWR_RD_ADDR copies a rewrite control-store word into RWR_RD_DATA and handles its errors. -/
  | rwrRdAddrWrite (rq : Req) (slice : Fin 9) (value : BitVec 32) (hits : List Hit)
  /-- CLS_RD_ADDR_WRITE (R200): Writing CLS_RD_ADDR copies a rule row into CLS_RD_DATA and handles errors as a traverse. -/
  | clsRdAddrWrite (rq : Req) (slice : Fin 9) (value : BitVec 32) (hits : List Hit)
  /-- RULE_TRAVERSE (R200): Every TRAV_MS a traverse reads all rule rows, correcting or excluding and repairing rows. -/
  | ruleTraverse (slice : Fin 9) (hits : List Hit)
  /-- PATTERN_TRAVERSE (R201): The automaton traverse reads a word and handles a parity error. -/
  | patternTraverse (engine : Fin 4) (hits : List Hit) (passEnd : Bool)
  /-- SCAN_TEST (R203): The PAT mailbox scans test bytes exactly as a packet scan would. -/
  | scanTest (rq : Req) (tag : BitVec 16) (engine : Fin 4) (hits : List Hit)
  /-- READ_RULE (R203): The PAT mailbox returns a 16-byte pattern rule. -/
  | readRule (rq : Req) (tag : BitVec 16) (engine : Fin 4) (hits : List Hit)
  /-- FBK_RECORD_WRITE (R223): A staged field-book record is drained to its ring in HBM or extension memory and PROD advances. -/
  | fbkRecordWrite (w : RecordWrite)
  /-- READ_RECORD (R224): The FBK mailbox copies a held record of a ring into its data registers. -/
  | readRecord (rq : Req) (tag : BitVec 16) (bad : List (Fin 5))
  /-- POOL_INIT (R243): Writing EN 1 to an extension pool starts initialisation of its leaf words and audit records. -/
  | poolInit (rq : Req) (pool : Fin 16)
  /-- POOL_INIT_DONE (R243): Pool initialisation finishes and READY is set. -/
  | poolInitDone (pool : Fin 16)
  /-- XALLOC (R244): The BPM mailbox allocates the lowest free buffer of an extension pool. -/
  | xalloc (rq : Req) (tag : BitVec 16) (m : Fin 2) (ue : Bool)
  /-- XFREE (R244): The BPM mailbox frees an extension buffer, or reports a double free. -/
  | xfree (rq : Req) (tag : BitVec 16) (m : Fin 2) (ue : Bool)
  /-- CELL_INFO (R244): The BPM mailbox returns the link, owner and reference count of a cell. -/
  | cellInfo (rq : Req) (tag : BitVec 16) (m : Fin 2)
  /-- AUDIT_PASS (R246): Every PERIOD an audit traverse ages every allocated buffer, fills histograms and raises leak alarms. -/
  | auditPass
  /-- HBM_REFRESH (R280): A channel's refresh interval expires and it is refreshed all-bank. -/
  | hbmRefresh (k : Fin 4) (ch : Fin 32)
  /-- HBM_RETRAIN_STEP (R280): Every 40 µs a channel runs one retraining step. -/
  | hbmRetrainStep (k : Fin 4) (ch : Fin 32)
  /-- PARITY_ALERT (R284): A command/address parity alert stops the channel and replays its last 64 commands. -/
  | parityAlert (k : Fin 4) (ch : Fin 32)
  /-- RETIRE_REQ (R289): Writing MEM_RANK.RETIRE_REQ requests retirement of a physical rank. -/
  | retireReq (rq : Req) (k : Fin 4) (r : Fin 128)
  /-- MIGRATION_BLOCK (R290): A rank block copy retires, POINTER advances and, after the last block, the rank maps to the spare. -/
  | migrationBlock (x : BlockCopy)
  /-- BACKING_TRAVERSE (R293): Every 10 s both backing copies are read and single-copy errors are repaired from the other. -/
  | backingTraverse (oneBad : List (Fin 4 × Loc)) (rest : BackingRest)
  /-- CXL_TIMEOUT (R295): A CXL.mem request without a response in 50 µs fails; 16 in a row take the link down. -/
  | cxlTimeout (n : Fin 2)
  /-- CXL_LINK_DOWN (R295): Link loss clears LINK_UP, counts LINK_DOWN and reports the event. -/
  | cxlLinkDown (n : Fin 2)
  /-- CXL_LINK_UP (R295): The CXL link retrains and the port serves requests again. -/
  | cxlLinkUp (n : Fin 2)
  /-- CLK_INC_WRITE (R301): Writing INC_LO applies both increment words, clamped, at the next tick. -/
  | clkIncWrite (rq : Req) (x : Fin 2) (value : BitVec 32)
  /-- CLK_ADJ (R302): Writing DTM_CLK_ADJ starts a phase adjustment spread over ticks at ADJ_PPM. -/
  | clkAdj (rq : Req) (x : Fin 2) (value : BitVec 32)
  /-- CLK_SET (R303): Writing GO sets a clock's SEC and NS at the next tick or at the next PPS_IN edge. -/
  | clkSet (rq : Req) (x : Fin 2) (atPps : Bool)
  /-- SERVE_SWITCH (R304): Writing DTM_SERVE.SRC starts a slew of the served clock toward the new source. -/
  | serveSwitch (rq : Req) (value : BitVec 32)
  /-- SNAP (R305): Writing DTM_SERVE.SNAP steps the served clock to its source at the next tick. -/
  | snap (rq : Req)
  /-- DATUM_LOCK (R325): After EN is written 1 the Datum PLL locks, LOCK is set and the clocks start from 0. -/
  | datumLock
  /-- PPS_IN_EDGE (R317): A PPS_IN rising edge captures clocks A, B and served and applies a pending set at PPS. -/
  | ppsInEdge
  /-- PPS_OUT_PULSE (R318): PPS_OUT rises when its clock passes a whole second plus OFF and falls after PPS_WIDTH. -/
  | ppsOutPulse
  /-- TIME_REF_LOSS (R319): Loss of TIME_REFCLK moves the Datum PLL to REFCLK, sets REF_LOST and reports the loss. -/
  | timeRefLoss
  /-- TIME_REF_RETURN (R319): TIME_REFCLK good for 100 ms moves the Datum PLL back and clears REF_LOST. -/
  | timeRefReturn
  /-- SERVO_MODE (R321): The DTM mailbox sets a clock's servo to free-run, PTP samples or PPS_IN. -/
  | servoMode (rq : Req) (tag : BitVec 16) (m : Fin 2)
  /-- SAMPLE (R320): The DTM mailbox gives the servo an offset sample, which drives its state machine. -/
  | servoSample (rq : Req) (tag : BitVec 16) (m : Fin 2)
  /-- STATUS (R320): The DTM mailbox returns a servo's state, last offset and increment. -/
  | servoStatus (rq : Req) (tag : BitVec 16) (m : Fin 2)
  /-- SERVO_HOLDOVER (R321): No offset for HOLD_S puts the servo in HOLDOVER with INC held at the 60 s average. -/
  | servoHoldover (x : Fin 2)
  /-- FAULT_EVENT (R328): The collector recognises an event on a fault wire pair and logs, journals, quenches and asserts FAULT_N by class. -/
  | faultEvent (evs : List FaultEv)
  /-- STORE_RELOAD_COMPLETE (R343): A store reload finishes and the unserved panel resumes on its own slice, or both slices are marked failed. -/
  | storeReloadComplete (k : Fin 5) (ok : Bool)
  /-- WIRE_FAULT (R328): A fault pair held in an invalid state is recorded once as CLASS 0x16. -/
  | wireFault (unit : Fin 256) (line : Fin 8) (level : Bool)
  /-- WIRE_FAULT_PERSIST (R328): A wire fault on a slice or store source lasting 1 ms is treated as a fault of that unit. -/
  | wireFaultPersist (unit : Fin 256) (line : Fin 8)
  /-- QUENCH_RELEASE (R332): FLT_CTRL.QUENCH_RELEASE ends an engine-wide quench unless a critical event is latched. -/
  | quenchRelease (rq : Req)
  /-- FAULTN_RELEASE (R333): FLT_CTRL.FAULTN_RELEASE releases a held FAULT_N, or is held pending until the minimum ends. -/
  | faultnRelease (rq : Req)
  /-- FAULTN_SET (R333): FLT_CTRL.FAULTN_SET raises a CLASS 0x19 event and asserts FAULT_N. -/
  | faultnSet (rq : Req)
  /-- FAULTN_PULSE_END (R333): The 10 µs minimum of FAULT_N ends and FAULT_N is released unless held. -/
  | faultnPulseEnd
  /-- JOURNAL_WRITE (R352): A record is written into the next MRAM journal slot within the rate limit. -/
  | journalWrite
  /-- READ_JOURNAL (R355): The FLT mailbox returns a journal slot's record. -/
  | readJournal (rq : Req) (tag : BitVec 16)
  /-- GIVEBACK (R340): The FLT mailbox returns a panel from slice 8 to its own repaired slice. -/
  | giveback (rq : Req) (tag : BitVec 16)
  /-- INJECT (R355): The FLT mailbox raises a test event or wire fault at a source's pair. -/
  | inject (rq : Req) (tag : BitVec 16)
  /-- WDT_KICK (R346): Writing FLT_WDT_KICK with the key restarts a control core's watchdog. -/
  | wdtKick (rq : Req) (c : Fin 4) (key : BitVec 16)
  /-- CORE_WATCHDOG_EXPIRY (R346): A core's watchdog expires and the safety core resets and restarts that core, or holds it after 3 restarts. -/
  | coreWatchdogExpiry (c : Fin 4)
  /-- SCRUB_TRAVERSE (R344): A traverse of an on-die SRAM corrects single-bit errors and handles uncorrectable words, retiring cells. -/
  | scrubTraverse (hits : List Hit)
  /-- ENTER (R360): The PWR mailbox starts entry into Moored, Deflated or Stowed, or refuses it. -/
  | enter (rq : Req) (tag : BitVec 16)
  /-- ENTRY_DRAIN_DONE (R360): Queues drain, domains switch off or to retention and the stacks enter self-refresh, completing entry. -/
  | entryDrainDone
  /-- ENTRY_ABORT (R358): A drain timeout or unconfirmed self-refresh aborts the entry and returns to Aloft. -/
  | entryAbort (noSelfRefresh : Option (Fin 4))
  /-- DEFLATE_POWER_OFF (R361): 10 ms after DONE the remaining domains switch off and the PCIe link goes down. -/
  | deflatePowerOff
  /-- EXIT (R362): The PWR mailbox leaves Moored, powering domains, retraining HBM and restoring state to Aloft. -/
  | exitState (rq : Req) (tag : BitVec 16)
  /-- DEFLATED_EXIT (R363): A PERST_N rising edge in Deflated runs the boot phases in their exit form back to Aloft. -/
  | deflatedExit
  /-- RTC_ALARM (R372): The RTC count equals ALARM, setting ALARM_HIT and starting an exit or driving WAKE_OUT by state. -/
  | rtcAlarm
  /-- RTC_COUNT_WRITE (R373): Writing PWR_RTC_LO applies the count with the last HI written. -/
  | rtcCountWrite (rq : Req) (value : BitVec 32)
  /-- SET_LEVEL (R365): The PWR mailbox starts a change of performance level, voltage first when raising. -/
  | setLevel (rq : Req) (tag : BitVec 16)
  /-- LEVEL_SWITCH (R365): The idle PLL locks and the clock switches, followed by the setpoint change, or the level reverts. -/
  | levelSwitch (settled : Bool)
  /-- DOMAIN_OFF (R368): The PWR mailbox drains and switches off a domain, or refuses it. -/
  | domainOff (rq : Req) (tag : BitVec 16)
  /-- DOMAIN_ON (R366): The PWR mailbox queues a soft-start request for a domain. -/
  | domainOn (rq : Req) (tag : BitVec 16)
  /-- DOMAIN_CLEAR (R367): The PWR mailbox returns a failed domain to off once. -/
  | domainClear (rq : Req) (tag : BitVec 16)
  /-- RAMP_START (R366): A queued domain request starts ramping when inrush limits allow. -/
  | rampStart
  /-- RAMP_DONE (R366): A domain finishes its soft start and reads on. -/
  | rampDone (dom : Fin 117)
  /-- SOFTSTART_TRIP (R367): A current-limit trip switches the domain off as failed and reports a power fault. -/
  | softstartTrip (dom : Fin 117)
  /-- DOORBELL (R378): A doorbell write sets the host index of a ring, or is ignored if out of range. -/
  | doorbell (rq : Req) (parcel : Fin 64) (ring : Fin 16) (value : BitVec 32)
  /-- RING_ERROR (R379): A PCIe error on a ring access stops the ring and reports it through AER. -/
  | ringError (parcel : Fin 64) (ring : Fin 16)
  /-- MSIX_INTERRUPT (R379): At the end of a moderation interval the engine sends the ring's MSI-X vector. -/
  | msixInterrupt (parcel : Fin 64) (ring : Fin 16)
  /-- INJECT_FETCH (R387): The host interface fetches an inject entry when the slice's inject queue has room and checks it. -/
  | injectFetch (parcel : Fin 64) (ring : Fin 4) (entry : List Byte)
  /-- PARCEL_CREATE (R392): Writing PAR_CTRL.EN 1 in ABSENT creates the parcel, whose ranges apply at the next flip. -/
  | parcelCreate (rq : Req) (p : Fin 64)
  /-- QUIESCE (R393): The PAR mailbox stops the parcel's fetching, aborts its open slots and flips closed ones. -/
  | quiesce (rq : Req) (tag : BitVec 16)
  /-- RESUME (R392): The PAR mailbox restarts fetching for a quiesced or frozen parcel. -/
  | resume (rq : Req) (tag : BitVec 16)
  /-- FREEZE (R392): The PAR mailbox quiesces the parcel and latches its ring state. -/
  | freeze (rq : Req) (tag : BitVec 16)
  /-- SAVE (R394): The PAR mailbox writes a frozen parcel to a save area in extension memory. -/
  | save (rq : Req) (tag : BitVec 16)
  /-- RESTORE (R395): The PAR mailbox checks a save area and replays it as one committed transaction. -/
  | restore (rq : Req) (tag : BitVec 16)
  /-- PARCEL_RESET (R392): The PAR mailbox disables the parcel's rings and clears its indices, keeping tables. -/
  | parcelReset (rq : Req) (tag : BitVec 16)
  /-- REMOVE (R392): The PAR mailbox deletes the parcel's entries in one committed transaction and makes it ABSENT. -/
  | remove (rq : Req) (tag : BitVec 16)
  /-- VF_PROBE (R391): A VF mailbox probes tables within its own parcel. -/
  | vfProbe (rq : Req) (tag : BitVec 16) (p : Fin 64) (hits : List Hit)
  /-- VF_READ_RECORD (R391): A VF mailbox reads a field-book record of a ring of its own parcel. -/
  | vfReadRecord (rq : Req) (tag : BitVec 16) (p : Fin 64) (bad : List (Fin 5))
  /-- HEARTBEAT (R401): A received Tether HEARTBEAT updates the partner state, adopts a later generation and drives arbitration. -/
  | heartbeat (msg : TetMsg)
  /-- HEARTBEAT_SEND (R398): Every HB_US the Tether unit sends a heartbeat. -/
  | heartbeatSend
  /-- UPDATE (R402): A received UPDATE message is applied in TSEQ order by the standby and acknowledged. -/
  | tetUpdate (msg : TetMsg) (rows : List (List Byte))
  /-- ACK (R402): A received ACK releases held completions up to its TSEQ. -/
  | tetAck (msg : TetMsg)
  /-- TETHER_RETRANSMIT (R402): 50 µs without acknowledgement progress resends everything after the last acknowledged TSEQ. -/
  | tetherRetransmit
  /-- SWAP_REQ (R403): A received SWAP_REQ makes the active engine start a swap. -/
  | tetSwapReq (msg : TetMsg)
  /-- SWAP_GO (R403): A received SWAP_GO makes the standby active with GEN + 1 and starts its forwarding. -/
  | tetSwapGo (msg : TetMsg)
  /-- TETHER_SWAP_DONE (R403): A received Tether SWAP_DONE completes the role exchange. -/
  | tetherSwapDone (msg : TetMsg)
  /-- RESYNC (R402): A received RESYNC chunk is applied, and the last chunk committed makes the engine STANDBY. -/
  | tetResyncChunk (msg : TetMsg) (rows : List (List Byte))
  /-- PARTNER_LOSS (R404): No Tether message for HB_MISS × HB_US declares the partner lost and promotes a standby. -/
  | partnerLoss
  /-- ALONE_TIMEOUT (R401): No partner for ALONE_MS makes an engine in role NONE active. -/
  | aloneTimeout
  /-- TET_SWAP (R403): The TET mailbox starts a swap of the pair's roles. -/
  | tetSwap (rq : Req) (tag : BitVec 16)
  /-- TET_RESYNC (R406): The TET mailbox makes a standby request a full resync. -/
  | tetResync (rq : Req) (tag : BitVec 16)
  /-- SNAPSHOT_GO (R418): Writing PMC_SNAP_CTRL.GO, or a periodic boundary, latches all snapshot counters at one CORE edge. -/
  | snapshotGo (rq : Req) (periodic : Bool)
  /-- SNAPSHOT_COMPLETE (R418): The snapshot copy replaces the previous one whole, BUSY clears and SEQ increments. -/
  | snapshotComplete
  /-- BW_WINDOW (R420): At each window boundary each port's frames and bytes are copied into PMC_BW. -/
  | bwWindow
  /-- LOAD_WINDOW (R408): At the end of each 1 ms window each core's LOAD is measured and saturation entered or left. -/
  | loadWindow (loads : List Nat)
  /-- CHALLENGE (R412): A DBG_AUTH update with CHALLENGE draws a new nonce. -/
  | challenge
  /-- RESPONSE (R412): A DBG_AUTH update with RESPONSE submits a signed unlock for verification. -/
  | response (data : List Byte)
  /-- AUTH_VERDICT (R412): Verification of a response ends in unlock with its scope, or a failure and possible lockout. -/
  | authVerdict
  /-- RELOCK (R411): A DBG_AUTH RELOCK, MGT_DBG_CTRL.RELOCK or GLB_LOCK locks the debug port and resumes halted harts. -/
  | relock
  /-- IDCODE (R410): The JTAG IDCODE instruction returns the identification value. -/
  | idcode
  /-- SAMPLE_PRELOAD (R410): The JTAG SAMPLE/PRELOAD instruction samples or preloads the boundary register. -/
  | samplePreload (sampled shifted : Nat)
  /-- EXTEST (R410): The JTAG EXTEST instruction drives the boundary register and takes the lanes out of service. -/
  | extest
  /-- CLAMP (R410): The JTAG CLAMP instruction holds the boundary outputs. -/
  | clamp
  /-- HIGHZ (R410): The JTAG HIGHZ instruction floats the outputs. -/
  | highz
  /-- BYPASS (R410): The JTAG BYPASS instruction selects the one-bit bypass register. -/
  | bypass
  /-- DEBUG_HALT (R414): The debug module halts a hart within scope, pausing its watchdog. -/
  | debugHalt (hart : Fin 6)
  /-- DEBUG_RESUME (R414): The debug module resumes a halted hart, whose watchdog restarts from zero. -/
  | debugResume (hart : Fin 6)
  /-- DEBUG_STEP (R413): The debug module single-steps a halted hart. -/
  | debugStep (hart : Fin 6)
  /-- ABSTRACT_COMMAND (R413): The debug module performs an Access Register or Access Memory command. -/
  | abstractCommand (hart : Fin 6) (cmd : AbsCmd)
  /-- SYSTEM_BUS_ACCESS (R413): The debug module accesses core memories or the register file as requester debug port. -/
  | systemBusAccess (acc : SbAccess)
  /-- MBUS_WRITE (R422): A management-bus master writes up to 32 bytes to a target. -/
  | mbusWrite (rq : Req) (tag : BitVec 16) (m : Fin 4) (bus : BusEnv)
  /-- MBUS_READ (R422): A management-bus master reads up to 32 bytes from a target. -/
  | mbusRead (rq : Req) (tag : BitVec 16) (m : Fin 4) (bus : BusEnv)
  /-- WRITE_READ (R422): A management-bus master writes, sends a repeated START and reads. -/
  | writeRead (rq : Req) (tag : BitVec 16) (m : Fin 4) (bus : BusEnv)
  /-- RECOVER (R423): A management-bus master runs stuck-SDA recovery. -/
  | recover (rq : Req) (tag : BitVec 16) (m : Fin 4) (bus : BusEnv)
  /-- SPARE_TRAINING_DONE (R117): Training of an assigned spare lane ends, starting its standby stream with message slots, or fails at the 4.0 s limit and arms the 10 s retry. -/
  | spareTrainingDone (panel : Fin 8) (spare : Fin 2) (ok : Bool)
  /-- PERST_N_RELEASE (R84): PCIe PERST_N rises in Aloft, ending the host-interface reset so that the PF answers configuration requests within 100 ms. -/
  | perstNRelease
  /-- DOMAIN_DRAIN_TIMEOUT (R369): DRAIN_MS expires with a fenced queue not empty or a packet SRAM group not idle, so fences are cleared or GROUP_EN restored and the DOMAIN_OFF is aborted with reason 0x04. -/
  | domainDrainTimeout (dom : Fin 117)
  /-- VBAT_LOSS (R44): VBAT falls below 1.8 V while VDD_AON is off, and BKP contents are no longer guaranteed. -/
  | vbatLoss
  /-- ALERT_N_CHANGE (R421): A management-bus ALERT_N line changes level and MBUS_STATUS.ALERT follows it. -/
  | alertNChange (m : Fin 4) (low : Bool)
  deriving DecidableEq, Repr, Inhabited

end Sys2Proof
end

