-- ==== Sys2Proof/Decode.lean ====
section
/-!
DEFINITION. Decoding of table words. The opcode table gives no row any bits: a command is named by its row and its operands, not
by a word (log 28). So no word spells a command.
-/

namespace Sys2Proof

/-- The command that a word of nbits bits spells by the table's bits: none, as no row of the table gives bits. -/
def decodeTableWord (_nbits _w : Nat) : Option Instr := none

end Sys2Proof
end

