-- ==== Sys2Proof/Machine/RegMap.lean ====
section
/-!
DEFINITION. The address of every register of the spec's register tables, by the spec's name, as a function of the
indices the spec gives it: PF BAR0 offsets (R53, R54), and, for the registers that are not at a fixed offset, keys of
the model above the BAR: TM window elements (R275), the VF windows (R54), and the registers held per requester (R275,
R419).  Beside them the bit fields of each register, by the spec's name.
-/

namespace Sys2Proof.Machine.Reg

/-- The base of parcel window p: the HIF block for the manager parcel, a VF BAR0 image for the others (R54). -/
def winBase (p : Nat) : Nat := if p = 0 then 0x60000 else 0x10000000 + 0x10000 * p

/-- GLB_ID (R73). -/
def GLB_ID : Nat := 0

/-- GLB_VARIANT (R73). -/
def GLB_VARIANT : Nat := 4

/-- GLB_UID_LO (R73). -/
def GLB_UID_LO : Nat := 8

/-- GLB_UID_HI (R73). -/
def GLB_UID_HI : Nat := 0xc

/-- GLB_STATUS (R73). -/
def GLB_STATUS : Nat := 0x10

/-- GLB_ERR_ADDR (R73). -/
def GLB_ERR_ADDR : Nat := 0x14

/-- GLB_SCRATCH (R73). -/
def GLB_SCRATCH : Nat := 0x18

/-- GLB_LOCK (R73). -/
def GLB_LOCK : Nat := 0x1c

/-- RST_CAUSE (R80). -/
def RST_CAUSE : Nat := 0x10000

/-- RST_RESTART (R80). -/
def RST_RESTART : Nat := 0x10030

/-- RST_SWRESET (R80). -/
def RST_SWRESET : Nat := 0x10034

/-- RST_BURST_ABORT (R80). -/
def RST_BURST_ABORT : Nat := 0x10038

/-- RST_BLK_CMD (R80). -/
def RST_BLK_CMD : Nat := 0x10040

/-- RST_BLK_ARG (R80). -/
def RST_BLK_ARG : Nat := 0x10044

/-- RST_BLK_RESULT (R80). -/
def RST_BLK_RESULT : Nat := 0x10048

/-- RST_COUNT (R80). -/
def RST_COUNT (n : Nat) : Nat := 0x10010 + 4 * n

/-- BOOT_STATUS (R99). -/
def BOOT_STATUS : Nat := 0x20000

/-- BOOT_SLOT_PREF (R99). -/
def BOOT_SLOT_PREF : Nat := 0x2000c

/-- BOOT_FUSE (R99). -/
def BOOT_FUSE : Nat := 0x20010

/-- BOOT_MBX_CMD (R99). -/
def BOOT_MBX_CMD : Nat := 0x20100

/-- BOOT_MBX_RESULT (R99). -/
def BOOT_MBX_RESULT : Nat := 0x20110

/-- BOOT_SLOT_STATUS (R99). -/
def BOOT_SLOT_STATUS (n : Nat) : Nat := 0x20004 + 4 * n

/-- BOOT_MBX_ARG (R99). -/
def BOOT_MBX_ARG (i : Nat) : Nat := 0x20104 + 4 * i

/-- BOOT_MBX_DATA (R99). -/
def BOOT_MBX_DATA (j : Nat) : Nat := 0x21000 + 4 * j

/-- PWR_STATUS (R373). -/
def PWR_STATUS : Nat := 0x30000

/-- PWR_CFG (R373). -/
def PWR_CFG : Nat := 0x30008

/-- PWR_RTC_LO (R373). -/
def PWR_RTC_LO : Nat := 0x30100

/-- PWR_RTC_HI (R373). -/
def PWR_RTC_HI : Nat := 0x30104

/-- PWR_RTC_ALARM_LO (R373). -/
def PWR_RTC_ALARM_LO : Nat := 0x30108

/-- PWR_RTC_ALARM_HI (R373). -/
def PWR_RTC_ALARM_HI : Nat := 0x3010c

/-- PWR_RTC_CTRL (R373). -/
def PWR_RTC_CTRL : Nat := 0x30110

/-- PWR_TEMP_CFG (R49). -/
def PWR_TEMP_CFG : Nat := 0x30480

/-- PWR_TEMP_HBM_CFG (R49). -/
def PWR_TEMP_HBM_CFG : Nat := 0x30484

/-- PWR_TEMP_STATUS (R49). -/
def PWR_TEMP_STATUS : Nat := 0x30488

/-- PWR_MBX_CMD (R373). -/
def PWR_MBX_CMD : Nat := 0x32400

/-- PWR_MBX_RESULT (R373). -/
def PWR_MBX_RESULT : Nat := 0x32410

/-- PWR_LAST_REFUSE (R373). -/
def PWR_LAST_REFUSE (k : Nat) : Nat := 0x30010 + 4 * k

/-- PWR_CNT (R373). -/
def PWR_CNT (c : Nat) : Nat := 0x30200 + 8 * c

/-- PWR_PANEL_DISCARD (R373). -/
def PWR_PANEL_DISCARD (p k : Nat) : Nat := 0x30300 + 0x10 * p + 8 * k

/-- PWR_DOM (R373). -/
def PWR_DOM (d : Nat) : Nat := 0x30800 + 4 * d

/-- PWR_TEMP (R49). -/
def PWR_TEMP (n : Nat) : Nat := 0x30400 + 4 * n

/-- PWR_MBX_ARG (R373). -/
def PWR_MBX_ARG (i : Nat) : Nat := 0x32404 + 4 * i

/-- FLT_STATUS (R354). -/
def FLT_STATUS : Nat := 0x40000

/-- FLT_CTRL (R354). -/
def FLT_CTRL : Nat := 0x40004

/-- FLT_TKO_CFG (R354). -/
def FLT_TKO_CFG : Nat := 0x40008

/-- FLT_TKO_STATUS (R354). -/
def FLT_TKO_STATUS : Nat := 0x4000c

/-- FLT_WDT_STATUS (R354). -/
def FLT_WDT_STATUS : Nat := 0x40220

/-- FLT_HIST_PTR (R354). -/
def FLT_HIST_PTR : Nat := 0x40300

/-- FLT_JRN_STATUS (R354). -/
def FLT_JRN_STATUS : Nat := 0x40800

/-- FLT_MBX_CMD (R355). -/
def FLT_MBX_CMD : Nat := 0x40d00

/-- FLT_MBX_RESULT (R355). -/
def FLT_MBX_RESULT : Nat := 0x40d10

/-- FLT_SLICE_GEN (R354). -/
def FLT_SLICE_GEN (n : Nat) : Nat := 0x40010 + 4 * n

/-- FLT_CLASS_CFG (R354). -/
def FLT_CLASS_CFG (c : Nat) : Nat := 0x40100 + 4 * c

/-- FLT_WDT (R354). -/
def FLT_WDT (c : Nat) : Nat := 0x40200 + 8 * c

/-- FLT_WDT_KICK (R354). -/
def FLT_WDT_KICK (c : Nat) : Nat := 0x40204 + 8 * c

/-- FLT_FIRST (R354). -/
def FLT_FIRST (w : Nat) : Nat := 0x40320 + 4 * w

/-- FLT_HIST (R354). -/
def FLT_HIST (i w : Nat) : Nat := 0x40400 + 0x20 * i + 4 * w

/-- FLT_CNT (R354). -/
def FLT_CNT (c : Nat) : Nat := 0x40900 + 8 * c

/-- FLT_PANEL_CNT (R354). -/
def FLT_PANEL_CNT (p k : Nat) : Nat := 0x40c00 + 0x10 * p + 8 * k

/-- FLT_MBX_ARG (R355). -/
def FLT_MBX_ARG (i : Nat) : Nat := 0x40d04 + 4 * i

/-- FLT_MBX_DATA (R355). -/
def FLT_MBX_DATA (j : Nat) : Nat := 0x40d20 + 4 * j

/-- DTM_CTRL (R325). -/
def DTM_CTRL : Nat := 0x50000

/-- DTM_STATUS (R325). -/
def DTM_STATUS : Nat := 0x50004

/-- DTM_CFG (R325). -/
def DTM_CFG : Nat := 0x50008

/-- DTM_SERVE (R325). -/
def DTM_SERVE : Nat := 0x5000c

/-- DTM_PPS_OUT_OFF (R325). -/
def DTM_PPS_OUT_OFF : Nat := 0x50010

/-- DTM_SRV_NOW_NS (R325). -/
def DTM_SRV_NOW_NS : Nat := 0x50180

/-- DTM_SRV_NOW_SEC_LO (R325). -/
def DTM_SRV_NOW_SEC_LO : Nat := 0x50184

/-- DTM_SRV_NOW_SEC_HI (R325). -/
def DTM_SRV_NOW_SEC_HI : Nat := 0x50188

/-- DTM_SRV_NOW_FRAC (R325). -/
def DTM_SRV_NOW_FRAC : Nat := 0x5018c

/-- DTM_SRV_OFF_A (R325). -/
def DTM_SRV_OFF_A : Nat := 0x50190

/-- DTM_SRV_OFF_B (R325). -/
def DTM_SRV_OFF_B : Nat := 0x50194

/-- DTM_SRV_PPS_NS (R325). -/
def DTM_SRV_PPS_NS : Nat := 0x50198

/-- DTM_SRV_PPS_SEC_LO (R325). -/
def DTM_SRV_PPS_SEC_LO : Nat := 0x5019c

/-- DTM_SRV_PPS_SEC_HI (R325). -/
def DTM_SRV_PPS_SEC_HI : Nat := 0x501a0

/-- DTM_CNT (R325). -/
def DTM_CNT (c : Nat) : Nat := 0x50200 + 8 * c

/-- DTM_CLK_INC_LO (R325). -/
def DTM_CLK_INC_LO (x : Nat) : Nat := 0x50100 + 0x40 * x

/-- DTM_CLK_INC_HI (R325). -/
def DTM_CLK_INC_HI (x : Nat) : Nat := 0x50104 + 0x40 * x

/-- DTM_CLK_ADJ (R325). -/
def DTM_CLK_ADJ (x : Nat) : Nat := 0x50108 + 0x40 * x

/-- DTM_CLK_ADJ_CFG (R325). -/
def DTM_CLK_ADJ_CFG (x : Nat) : Nat := 0x5010c + 0x40 * x

/-- DTM_CLK_SET_SEC_LO (R325). -/
def DTM_CLK_SET_SEC_LO (x : Nat) : Nat := 0x50110 + 0x40 * x

/-- DTM_CLK_SET_SEC_HI (R325). -/
def DTM_CLK_SET_SEC_HI (x : Nat) : Nat := 0x50114 + 0x40 * x

/-- DTM_CLK_SET_NS (R325). -/
def DTM_CLK_SET_NS (x : Nat) : Nat := 0x50118 + 0x40 * x

/-- DTM_CLK_SET_CMD (R325). -/
def DTM_CLK_SET_CMD (x : Nat) : Nat := 0x5011c + 0x40 * x

/-- DTM_CLK_NOW_NS (R325). -/
def DTM_CLK_NOW_NS (x : Nat) : Nat := 0x50120 + 0x40 * x

/-- DTM_CLK_NOW_SEC_LO (R325). -/
def DTM_CLK_NOW_SEC_LO (x : Nat) : Nat := 0x50124 + 0x40 * x

/-- DTM_CLK_NOW_SEC_HI (R325). -/
def DTM_CLK_NOW_SEC_HI (x : Nat) : Nat := 0x50128 + 0x40 * x

/-- DTM_CLK_NOW_FRAC (R325). -/
def DTM_CLK_NOW_FRAC (x : Nat) : Nat := 0x5012c + 0x40 * x

/-- DTM_CLK_PPS_NS (R325). -/
def DTM_CLK_PPS_NS (x : Nat) : Nat := 0x50130 + 0x40 * x

/-- DTM_CLK_PPS_SEC_LO (R325). -/
def DTM_CLK_PPS_SEC_LO (x : Nat) : Nat := 0x50134 + 0x40 * x

/-- DTM_CLK_PPS_SEC_HI (R325). -/
def DTM_CLK_PPS_SEC_HI (x : Nat) : Nat := 0x50138 + 0x40 * x

/-- DTM_PORT_CFG (R325). -/
def DTM_PORT_CFG (n : Nat) : Nat := 0x51000 + 0x20 * n

/-- DTM_PORT_RX_LAT (R325). -/
def DTM_PORT_RX_LAT (n : Nat) : Nat := 0x51004 + 0x20 * n

/-- DTM_PORT_TX_LAT (R325). -/
def DTM_PORT_TX_LAT (n : Nat) : Nat := 0x51008 + 0x20 * n

/-- DTM_PORT_ASYM (R325). -/
def DTM_PORT_ASYM (n : Nat) : Nat := 0x5100c + 0x20 * n

/-- DTM_PORT_LINK_DLY (R325). -/
def DTM_PORT_LINK_DLY (n : Nat) : Nat := 0x51010 + 0x20 * n

/-- DTM_MBX_CMD (R325). -/
def DTM_MBX_CMD (m : Nat) : Nat := 0x50800 + 0x100 * m

/-- DTM_MBX_RESULT (R325). -/
def DTM_MBX_RESULT (m : Nat) : Nat := 0x50810 + 0x100 * m

/-- DTM_MBX_ARG (R325). -/
def DTM_MBX_ARG (m i : Nat) : Nat := 0x50804 + 0x100 * m + 4 * i

/-- DTM_MBX_DATA (R325). -/
def DTM_MBX_DATA (m j : Nat) : Nat := 0x50820 + 0x100 * m + 4 * j

/-- PAR_MBX_CMD (R397). -/
def PAR_MBX_CMD : Nat := 0x70000

/-- PAR_MBX_RESULT (R397). -/
def PAR_MBX_RESULT : Nat := 0x70020

/-- PAR_MBX_ARG (R397). -/
def PAR_MBX_ARG (i : Nat) : Nat := 0x70004 + 4 * i

/-- PAR_MBX_DATA (R397). -/
def PAR_MBX_DATA (j : Nat) : Nat := 0x70040 + 4 * j

/-- PAR_CTRL (R396). -/
def PAR_CTRL (p : Nat) : Nat := 0x71000 + 0x80 * p

/-- PAR_STATUS (R396). -/
def PAR_STATUS (p : Nat) : Nat := 0x71004 + 0x80 * p

/-- PAR_QUOTA (R396). -/
def PAR_QUOTA (p : Nat) : Nat := 0x71008 + 0x80 * p

/-- PAR_RINGS (R396). -/
def PAR_RINGS (p : Nat) : Nat := 0x7100c + 0x80 * p

/-- PAR_USED (R396). -/
def PAR_USED (p : Nat) : Nat := 0x71010 + 0x80 * p

/-- PAR_RANGE_BASE (R396). -/
def PAR_RANGE_BASE (p k : Nat) : Nat := 0x71040 + 0x80 * p + 8 * k

/-- PAR_RANGE_CNT (R396). -/
def PAR_RANGE_CNT (p k : Nat) : Nat := 0x71044 + 0x80 * p + 8 * k

/-- TET_CTRL (R405). -/
def TET_CTRL : Nat := 0x80000

/-- TET_STATUS (R405). -/
def TET_STATUS : Nat := 0x80004

/-- TET_CFG (R405). -/
def TET_CFG : Nat := 0x80008

/-- TET_CFG2 (R405). -/
def TET_CFG2 : Nat := 0x8000c

/-- TET_MBX_CMD (R406). -/
def TET_MBX_CMD : Nat := 0x80200

/-- TET_MBX_RESULT (R406). -/
def TET_MBX_RESULT : Nat := 0x80210

/-- TET_CNT (R405). -/
def TET_CNT (c : Nat) : Nat := 0x80100 + 8 * c

/-- MGT_CFG (R424). -/
def MGT_CFG : Nat := 0x90000

/-- MGT_DBG_CFG (R424). -/
def MGT_DBG_CFG : Nat := 0x90040

/-- MGT_DBG_CTRL (R424). -/
def MGT_DBG_CTRL : Nat := 0x90044

/-- MGT_DBG_STATUS (R424). -/
def MGT_DBG_STATUS : Nat := 0x90048

/-- MGT_CORE_STATUS (R424). -/
def MGT_CORE_STATUS (c : Nat) : Nat := 0x90010 + 4 * c

/-- MGT_CNT (R424). -/
def MGT_CNT (c : Nat) : Nat := 0x90100 + 8 * c

/-- PMC_CTRL (R425). -/
def PMC_CTRL : Nat := 0xa0000

/-- PMC_SNAP_CTRL (R425). -/
def PMC_SNAP_CTRL : Nat := 0xa0008

/-- PMC_SNAP_STATUS (R425). -/
def PMC_SNAP_STATUS : Nat := 0xa000c

/-- PMC_BW_CFG (R425). -/
def PMC_BW_CFG : Nat := 0xa0014

/-- PMC_BW_STATUS (R425). -/
def PMC_BW_STATUS : Nat := 0xa0018

/-- PMC_CTR_CFG (R425). -/
def PMC_CTR_CFG (i : Nat) : Nat := 0xa0100 + 4 * i

/-- PMC_CTR_THR (R425). -/
def PMC_CTR_THR (i : Nat) : Nat := 0xa0200 + 4 * i

/-- PMC_CTR (R425). -/
def PMC_CTR (i : Nat) : Nat := 0xa0400 + 8 * i

/-- PMC_BW (R425). -/
def PMC_BW (n k : Nat) : Nat := 0xa1000 + 0x20 * n + 8 * k

/-- MBUS_CTRL (R426). -/
def MBUS_CTRL (m : Nat) : Nat := 0xb0000 + 0x100 * m

/-- MBUS_CFG (R426). -/
def MBUS_CFG (m : Nat) : Nat := 0xb0004 + 0x100 * m

/-- MBUS_STATUS (R426). -/
def MBUS_STATUS (m : Nat) : Nat := 0xb0008 + 0x100 * m

/-- MBUS_MBX_CMD (R426). -/
def MBUS_MBX_CMD (m : Nat) : Nat := 0xb0080 + 0x100 * m

/-- MBUS_MBX_RESULT (R426). -/
def MBUS_MBX_RESULT (m : Nat) : Nat := 0xb0090 + 0x100 * m

/-- MBUS_CNT (R426). -/
def MBUS_CNT (m c : Nat) : Nat := 0xb0040 + 0x100 * m + 8 * c

/-- MBUS_MBX_ARG (R426). -/
def MBUS_MBX_ARG (m i : Nat) : Nat := 0xb0084 + 0x100 * m + 4 * i

/-- MBUS_MBX_WDATA (R426). -/
def MBUS_MBX_WDATA (m j : Nat) : Nat := 0xb00c0 + 0x100 * m + 4 * j

/-- MBUS_MBX_DATA (R426). -/
def MBUS_MBX_DATA (m j : Nat) : Nat := 0xb00a0 + 0x100 * m + 4 * j

/-- MEM_CTRL (R298). -/
def MEM_CTRL (k : Nat) : Nat := 0xc0000 + 0x4000 * k

/-- MEM_STATUS (R298). -/
def MEM_STATUS (k : Nat) : Nat := 0xc0004 + 0x4000 * k

/-- MEM_CFG (R298). -/
def MEM_CFG (k : Nat) : Nat := 0xc0008 + 0x4000 * k

/-- MEM_SPILL_CAP (R298). -/
def MEM_SPILL_CAP (k : Nat) : Nat := 0xc000c + 0x4000 * k

/-- MEM_MIG (R298). -/
def MEM_MIG (k : Nat) : Nat := 0xc0010 + 0x4000 * k

/-- MEM_CH_STATUS (R298). -/
def MEM_CH_STATUS (k : Nat) : Nat := 0xc0014 + 0x4000 * k

/-- MEM_WITHDRAWN (R298). -/
def MEM_WITHDRAWN (k : Nat) : Nat := 0xc0018 + 0x4000 * k

/-- MEM_RANK (R298). -/
def MEM_RANK (k r : Nat) : Nat := 0xc0100 + 0x4000 * k + 4 * r

/-- MEM_CNT (R298). -/
def MEM_CNT (k c : Nat) : Nat := 0xc0400 + 0x4000 * k + 8 * c

/-- XM_CTRL (R299). -/
def XM_CTRL (n : Nat) : Nat := 0xd0000 + 0x100 * n

/-- XM_STATUS (R299). -/
def XM_STATUS (n : Nat) : Nat := 0xd0004 + 0x100 * n

/-- XM_CNT (R299). -/
def XM_CNT (n c : Nat) : Nat := 0xd0040 + 0x100 * n + 8 * c

/-- XM_MISS_LO (R299). -/
def XM_MISS_LO : Nat := 0xd0200

/-- XM_MISS_HI (R299). -/
def XM_MISS_HI : Nat := 0xd0204

/-- XM_XLT_CFG (R299). -/
def XM_XLT_CFG (i : Nat) : Nat := 0xd1000 + 0x10 * i

/-- XM_XLT_BASE (R299). -/
def XM_XLT_BASE (i : Nat) : Nat := 0xd1004 + 0x10 * i

/-- XM_XLT_LIMIT (R299). -/
def XM_XLT_LIMIT (i : Nat) : Nat := 0xd1008 + 0x10 * i

/-- XM_XLT_DEV (R299). -/
def XM_XLT_DEV (i : Nat) : Nat := 0xd100c + 0x10 * i

/-- BPM_CTRL (R250). -/
def BPM_CTRL : Nat := 0xe0000

/-- BPM_STATUS (R250). -/
def BPM_STATUS : Nat := 0xe0004

/-- BPM_CELL_CFG (R250). -/
def BPM_CELL_CFG : Nat := 0xe0008

/-- BPM_REFILL_CFG (R250). -/
def BPM_REFILL_CFG : Nat := 0xe000c

/-- BPM_HEAD_CFG (R250). -/
def BPM_HEAD_CFG : Nat := 0xe0010

/-- BPM_CELL_FREE (R250). -/
def BPM_CELL_FREE : Nat := 0xe0020

/-- BPM_SHARED_AVAIL (R250). -/
def BPM_SHARED_AVAIL : Nat := 0xe0024

/-- BPM_REFILL_FREE (R250). -/
def BPM_REFILL_FREE : Nat := 0xe0028

/-- BPM_PAGE_TOTAL (R250). -/
def BPM_PAGE_TOTAL : Nat := 0xe002c

/-- BPM_PAGE_FREE (R250). -/
def BPM_PAGE_FREE : Nat := 0xe0030

/-- BPM_AUDIT_CFG (R250). -/
def BPM_AUDIT_CFG : Nat := 0xe0040

/-- BPM_LEAK_STATUS (R250). -/
def BPM_LEAK_STATUS (i : Nat) : Nat := 0xe0060 + 4 * i

/-- BPM_PORT_RSV (R250). -/
def BPM_PORT_RSV (n : Nat) : Nat := 0xe1000 + 8 * n

/-- BPM_PORT_SHMAX (R250). -/
def BPM_PORT_SHMAX (n : Nat) : Nat := 0xe1004 + 8 * n

/-- BPM_PORT_USE (R250). -/
def BPM_PORT_USE (n : Nat) : Nat := 0xe1800 + 4 * n

/-- BPM_SPILL_PROF (R250). -/
def BPM_SPILL_PROF (k : Nat) : Nat := 0xe3000 + 4 * k

/-- BPM_CNT (R250). -/
def BPM_CNT (c : Nat) : Nat := 0xe4000 + 8 * c

/-- BPM_XP_CFG (R250). -/
def BPM_XP_CFG (k : Nat) : Nat := 0xe6000 + 0x20 * k

/-- BPM_XP_LEAVES (R250). -/
def BPM_XP_LEAVES (k : Nat) : Nat := 0xe6004 + 0x20 * k

/-- BPM_XP_META_LO (R250). -/
def BPM_XP_META_LO (k : Nat) : Nat := 0xe6008 + 0x20 * k

/-- BPM_XP_META_HI (R250). -/
def BPM_XP_META_HI (k : Nat) : Nat := 0xe600c + 0x20 * k

/-- BPM_XP_BUF_LO (R250). -/
def BPM_XP_BUF_LO (k : Nat) : Nat := 0xe6010 + 0x20 * k

/-- BPM_XP_BUF_HI (R250). -/
def BPM_XP_BUF_HI (k : Nat) : Nat := 0xe6014 + 0x20 * k

/-- BPM_XP_FREE (R250). -/
def BPM_XP_FREE (k : Nat) : Nat := 0xe6018 + 0x20 * k

/-- BPM_XP_STATUS (R250). -/
def BPM_XP_STATUS (k : Nat) : Nat := 0xe601c + 0x20 * k

/-- BPM_OWNER_CFG (R250). -/
def BPM_OWNER_CFG (o : Nat) : Nat := 0xe8000 + 0x40 * o

/-- BPM_OWNER_ALARMS (R250). -/
def BPM_OWNER_ALARMS (o : Nat) : Nat := 0xe8030 + 0x40 * o

/-- BPM_OWNER_OLDEST (R250). -/
def BPM_OWNER_OLDEST (o : Nat) : Nat := 0xe8034 + 0x40 * o

/-- BPM_OWNER_OLDIDX (R250). -/
def BPM_OWNER_OLDIDX (o : Nat) : Nat := 0xe8038 + 0x40 * o

/-- BPM_OWNER_OUT (R250). -/
def BPM_OWNER_OUT (o t : Nat) : Nat := 0xe8004 + 0x40 * o + 4 * t

/-- BPM_OWNER_HIST (R250). -/
def BPM_OWNER_HIST (o b : Nat) : Nat := 0xe8010 + 0x40 * o + 4 * b

/-- BPM_MBX_CMD (R250). -/
def BPM_MBX_CMD (m : Nat) : Nat := 0xe7000 + 0x100 * m

/-- BPM_MBX_RESULT (R250). -/
def BPM_MBX_RESULT (m : Nat) : Nat := 0xe7010 + 0x100 * m

/-- BPM_MBX_ARG (R250). -/
def BPM_MBX_ARG (m i : Nat) : Nat := 0xe7004 + 0x100 * m + 4 * i

/-- BPM_MBX_DATA (R250). -/
def BPM_MBX_DATA (m j : Nat) : Nat := 0xe7020 + 0x100 * m + 4 * j

/-- TM_CTRL (R274). -/
def TM_CTRL : Nat := 0xf0000

/-- TM_STATUS (R274). -/
def TM_STATUS : Nat := 0xf0004

/-- TM_RED_CFG (R274). -/
def TM_RED_CFG (k : Nat) : Nat := 0xf0100 + 0x20 * k

/-- TM_RED_MIN (R274). -/
def TM_RED_MIN (k col : Nat) : Nat := 0xf0104 + 0x20 * k + 8 * col

/-- TM_RED_MAX (R274). -/
def TM_RED_MAX (k col : Nat) : Nat := 0xf0108 + 0x20 * k + 8 * col

/-- TM_RED_PMAX (R274). -/
def TM_RED_PMAX (k : Nat) : Nat := 0xf011c + 0x20 * k

/-- TM_SAMP_PROF (R274). -/
def TM_SAMP_PROF (k : Nat) : Nat := 0xf0900 + 4 * k

/-- TM_CNT (R274). -/
def TM_CNT (c : Nat) : Nat := 0xf0a00 + 8 * c

/-- PNL_LANE_CFG (R123). -/
def PNL_LANE_CFG (p k : Nat) : Nat := 0x100100 + 0x20000 * p + 4 * k

/-- PNL_SPARE_CFG (R123). -/
def PNL_SPARE_CFG (p i : Nat) : Nat := 0x100200 + 0x20000 * p + 4 * i

/-- PNL_SPARE_STATUS (R123). -/
def PNL_SPARE_STATUS (p i : Nat) : Nat := 0x100210 + 0x20000 * p + 4 * i

/-- PORT_CTRL (R123). -/
def PORT_CTRL (n : Nat) : Nat := 0x101000 + 0x20000 * (n / 32) + 0x40 * (n % 32)

/-- PORT_CFG (R123). -/
def PORT_CFG (n : Nat) : Nat := 0x101004 + 0x20000 * (n / 32) + 0x40 * (n % 32)

/-- PORT_STATUS (R123). -/
def PORT_STATUS (n : Nat) : Nat := 0x101008 + 0x20000 * (n / 32) + 0x40 * (n % 32)

/-- PORT_ADV (R123). -/
def PORT_ADV (n : Nat) : Nat := 0x10100c + 0x20000 * (n / 32) + 0x40 * (n % 32)

/-- PORT_CNT (R123). -/
def PORT_CNT (n c : Nat) : Nat := 0x104000 + 0x20000 * (n / 32) + 0x100 * (n % 32) + 8 * c

/-- PRS_CTRL (R141). -/
def PRS_CTRL (s : Nat) : Nat := 0x200000 + 0x100000 * s

/-- PRS_STATUS (R141). -/
def PRS_STATUS (s : Nat) : Nat := 0x200004 + 0x100000 * s

/-- PRS_CFG (R141). -/
def PRS_CFG (s : Nat) : Nat := 0x200008 + 0x100000 * s

/-- PRS_ECC_CORR (R141). -/
def PRS_ECC_CORR (s : Nat) : Nat := 0x200018 + 0x100000 * s

/-- PRS_ECC_UNCORR (R141). -/
def PRS_ECC_UNCORR (s : Nat) : Nat := 0x20001c + 0x100000 * s

/-- PRS_RD_ADDR (R141). -/
def PRS_RD_ADDR (s : Nat) : Nat := 0x200020 + 0x100000 * s

/-- PRS_BANK_SEL (R141). -/
def PRS_BANK_SEL (s : Nat) : Nat := 0x20000c + 0x100000 * s

/-- PRS_UCODE_VERSION (R141). -/
def PRS_UCODE_VERSION (s b : Nat) : Nat := 0x200010 + 0x100000 * s + 4 * b

/-- PRS_RD_DATA (R141). -/
def PRS_RD_DATA (s i : Nat) : Nat := 0x200040 + 0x100000 * s + 4 * i

/-- PRS_CNT (R141). -/
def PRS_CNT (s c : Nat) : Nat := 0x200100 + 0x100000 * s + 8 * c

/-- PRS_PORT_CFG (R141). -/
def PRS_PORT_CFG (s n : Nat) : Nat := 0x201000 + 0x100000 * s + 4 * n

/-- FWD_CTRL (R177). -/
def FWD_CTRL (s : Nat) : Nat := 0x240000 + 0x100000 * s

/-- FWD_STATUS (R177). -/
def FWD_STATUS (s : Nat) : Nat := 0x240004 + 0x100000 * s

/-- FWD_HDR_MAP (R177). -/
def FWD_HDR_MAP (s h : Nat) : Nat := 0x240100 + 0x100000 * s + 4 * h

/-- FWD_PROG_STEP (R177). -/
def FWD_PROG_STEP (s n k : Nat) : Nat := 0x240400 + 0x100000 * s + 0x10 * n + 4 * k

/-- FWD_PORT_CFG (R177). -/
def FWD_PORT_CFG (s n : Nat) : Nat := 0x241000 + 0x100000 * s + 0x10 * n

/-- FWD_PORT_LEARN_NHI (R177). -/
def FWD_PORT_LEARN_NHI (s n : Nat) : Nat := 0x241004 + 0x100000 * s + 0x10 * n

/-- FWD_PORT_MISS_NHI (R177). -/
def FWD_PORT_MISS_NHI (s n : Nat) : Nat := 0x241008 + 0x100000 * s + 0x10 * n

/-- FWD_DROP_CNT (R177). -/
def FWD_DROP_CNT (s r : Nat) : Nat := 0x242000 + 0x100000 * s + 8 * r

/-- CLS_CTRL (R202). -/
def CLS_CTRL (s : Nat) : Nat := 0x280000 + 0x100000 * s

/-- CLS_STATUS (R202). -/
def CLS_STATUS (s : Nat) : Nat := 0x280004 + 0x100000 * s

/-- CLS_ECC_CORR (R202). -/
def CLS_ECC_CORR (s : Nat) : Nat := 0x280010 + 0x100000 * s

/-- CLS_ECC_UNCORR (R202). -/
def CLS_ECC_UNCORR (s : Nat) : Nat := 0x280014 + 0x100000 * s

/-- CLS_CFG (R202). -/
def CLS_CFG (s : Nat) : Nat := 0x280008 + 0x100000 * s

/-- CLS_RD_ADDR (R202). -/
def CLS_RD_ADDR (s : Nat) : Nat := 0x280020 + 0x100000 * s

/-- CLS_RD_DATA (R202). -/
def CLS_RD_DATA (s i : Nat) : Nat := 0x280100 + 0x100000 * s + 4 * i

/-- CLS_CNT (R202). -/
def CLS_CNT (s c : Nat) : Nat := 0x280200 + 0x100000 * s + 8 * c

/-- CLS_PROG_KPROF (R202). -/
def CLS_PROG_KPROF (s n : Nat) : Nat := 0x280400 + 0x100000 * s + 4 * n

/-- CLS_KSEL (R202). -/
def CLS_KSEL (s k j : Nat) : Nat := 0x280800 + 0x100000 * s + 0x40 * k + 4 * j

/-- CLS_RANGE_CFG (R202). -/
def CLS_RANGE_CFG (s r : Nat) : Nat := 0x281000 + 0x100000 * s + 8 * r

/-- CLS_RANGE_OFF (R202). -/
def CLS_RANGE_OFF (s r : Nat) : Nat := 0x281004 + 0x100000 * s + 8 * r

/-- CLS_RANGE_BND (R202). -/
def CLS_RANGE_BND (s r : Nat) : Nat := 0x281400 + 0x100000 * s + 4 * r

/-- LB_SEED (R202). -/
def LB_SEED (s : Nat) : Nat := 0x282000 + 0x100000 * s

/-- LB_CFG (R202). -/
def LB_CFG (s : Nat) : Nat := 0x282004 + 0x100000 * s

/-- LB_HDR_MAP (R202). -/
def LB_HDR_MAP (s h : Nat) : Nat := 0x282100 + 0x100000 * s + 4 * h

/-- LB_PROF_CFG (R202). -/
def LB_PROF_CFG (s k : Nat) : Nat := 0x282200 + 0x100000 * s + 4 * k

/-- LB_FIELD (R202). -/
def LB_FIELD (s k i : Nat) : Nat := 0x282400 + 0x100000 * s + 0x20 * k + 4 * i

/-- RWR_CTRL (R225). -/
def RWR_CTRL (s : Nat) : Nat := 0x2c0000 + 0x100000 * s

/-- RWR_STATUS (R225). -/
def RWR_STATUS (s : Nat) : Nat := 0x2c0004 + 0x100000 * s

/-- RWR_ECC_CORR (R225). -/
def RWR_ECC_CORR (s : Nat) : Nat := 0x2c0018 + 0x100000 * s

/-- RWR_ECC_UNCORR (R225). -/
def RWR_ECC_UNCORR (s : Nat) : Nat := 0x2c001c + 0x100000 * s

/-- RWR_CFG (R225). -/
def RWR_CFG (s : Nat) : Nat := 0x2c0008 + 0x100000 * s

/-- RWR_BANK_SEL (R225). -/
def RWR_BANK_SEL (s : Nat) : Nat := 0x2c000c + 0x100000 * s

/-- RWR_UCODE_VERSION (R225). -/
def RWR_UCODE_VERSION (s b : Nat) : Nat := 0x2c0010 + 0x100000 * s + 4 * b

/-- RWR_RD_ADDR (R225). -/
def RWR_RD_ADDR (s : Nat) : Nat := 0x2c0020 + 0x100000 * s

/-- RWR_RD_DATA (R225). -/
def RWR_RD_DATA (s i : Nat) : Nat := 0x2c0040 + 0x100000 * s + 4 * i

/-- RWR_CNT (R225). -/
def RWR_CNT (s c : Nat) : Nat := 0x2c0100 + 0x100000 * s + 8 * c

/-- RWR_SMAC_LO (R225). -/
def RWR_SMAC_LO (s i : Nat) : Nat := 0x2c0400 + 0x100000 * s + 8 * i

/-- RWR_SMAC_HI (R225). -/
def RWR_SMAC_HI (s i : Nat) : Nat := 0x2c0404 + 0x100000 * s + 8 * i

/-- RWR_MTU (R225). -/
def RWR_MTU (s m : Nat) : Nat := 0x2c0c00 + 0x100000 * s + 4 * m

/-- RWR_MIRROR (R225). -/
def RWR_MIRROR (s m : Nat) : Nat := 0x2c0c40 + 0x100000 * s + 4 * m

/-- RWR_RULE_MAP (R225). -/
def RWR_RULE_MAP (s b : Nat) : Nat := 0x2c0c80 + 0x100000 * s + 4 * b

/-- FBK_CTRL (R225). -/
def FBK_CTRL : Nat := 0x2c8000

/-- FBK_STATUS (R225). -/
def FBK_STATUS : Nat := 0x2c8004

/-- FBK_HBM_CFG (R225). -/
def FBK_HBM_CFG : Nat := 0x2c8008

/-- FBK_MBX_CMD (R225). -/
def FBK_MBX_CMD : Nat := 0x2cc000

/-- FBK_MBX_RESULT (R225). -/
def FBK_MBX_RESULT : Nat := 0x2cc010

/-- FBK_CNT (R225). -/
def FBK_CNT (c : Nat) : Nat := 0x2c8100 + 8 * c

/-- FBK_RING_CFG (R225). -/
def FBK_RING_CFG (r : Nat) : Nat := 0x2c9000 + 0x20 * r

/-- FBK_RING_BASE_LO (R225). -/
def FBK_RING_BASE_LO (r : Nat) : Nat := 0x2c9004 + 0x20 * r

/-- FBK_RING_BASE_HI (R225). -/
def FBK_RING_BASE_HI (r : Nat) : Nat := 0x2c9008 + 0x20 * r

/-- FBK_RING_PROD (R225). -/
def FBK_RING_PROD (r : Nat) : Nat := 0x2c900c + 0x20 * r

/-- FBK_RING_CONS (R225). -/
def FBK_RING_CONS (r : Nat) : Nat := 0x2c9010 + 0x20 * r

/-- FBK_RING_CNT (R225). -/
def FBK_RING_CNT (r k : Nat) : Nat := 0x2ca000 + 0x10 * r + 8 * k

/-- FBK_PORT_SAMPLE (R225). -/
def FBK_PORT_SAMPLE (n : Nat) : Nat := 0x2cb000 + 4 * n

/-- FBK_MBX_ARG (R225). -/
def FBK_MBX_ARG (i : Nat) : Nat := 0x2cc004 + 4 * i

/-- FBK_MBX_DATA (R225). -/
def FBK_MBX_DATA (j : Nat) : Nat := 0x2cc040 + 4 * j

/-- TS_CTRL (R178). -/
def TS_CTRL (k : Nat) : Nat := 0xb00000 + 0x10000 * k

/-- TS_STATUS (R178). -/
def TS_STATUS (k : Nat) : Nat := 0xb00004 + 0x10000 * k

/-- TS_ECC_CORR (R178). -/
def TS_ECC_CORR (k : Nat) : Nat := 0xb00010 + 0x10000 * k

/-- TS_ECC_UNCORR (R178). -/
def TS_ECC_UNCORR (k : Nat) : Nat := 0xb00014 + 0x10000 * k

/-- PAT_CTRL (R202). -/
def PAT_CTRL (n : Nat) : Nat := 0xc00000 + 0x100000 * n

/-- PAT_STATUS (R202). -/
def PAT_STATUS (n : Nat) : Nat := 0xc00004 + 0x100000 * n

/-- PAT_REGION_SEL (R202). -/
def PAT_REGION_SEL (n : Nat) : Nat := 0xc00008 + 0x100000 * n

/-- PAT_TRAV_ERR (R202). -/
def PAT_TRAV_ERR (n : Nat) : Nat := 0xc00018 + 0x100000 * n

/-- PAT_MBX_CMD (R202). -/
def PAT_MBX_CMD (n : Nat) : Nat := 0xc01000 + 0x100000 * n

/-- PAT_MBX_RESULT (R202). -/
def PAT_MBX_RESULT (n : Nat) : Nat := 0xc01020 + 0x100000 * n

/-- PAT_VERSION (R202). -/
def PAT_VERSION (n r : Nat) : Nat := 0xc00010 + 0x100000 * n + 4 * r

/-- PAT_CNT (R202). -/
def PAT_CNT (n c : Nat) : Nat := 0xc00100 + 0x100000 * n + 8 * c

/-- PAT_MBX_ARG (R202). -/
def PAT_MBX_ARG (n i : Nat) : Nat := 0xc01004 + 0x100000 * n + 4 * i

/-- PAT_MBX_OUT (R202). -/
def PAT_MBX_OUT (n k : Nat) : Nat := 0xc01040 + 0x100000 * n + 4 * k

/-- PAT_MBX_IN (R202). -/
def PAT_MBX_IN (n j : Nat) : Nat := 0xc01100 + 0x100000 * n + 4 * j

/-- UPD_CTRL (R177). -/
def UPD_CTRL : Nat := 0x1100000

/-- UPD_STATUS (R177). -/
def UPD_STATUS : Nat := 0x1100004

/-- UPD_CFG (R177). -/
def UPD_CFG : Nat := 0x1100008

/-- UPD_EPOCH (R177). -/
def UPD_EPOCH : Nat := 0x110000c

/-- UPD_PART_SPARE (R177). -/
def UPD_PART_SPARE : Nat := 0x1100600

/-- UPD_MBX_CMD (R177). -/
def UPD_MBX_CMD : Nat := 0x1101000

/-- UPD_MBX_RESULT (R177). -/
def UPD_MBX_RESULT : Nat := 0x1101030

/-- UPD_SLOT (R177). -/
def UPD_SLOT (n : Nat) : Nat := 0x1100100 + 4 * n

/-- UPD_PART_MAP (R177). -/
def UPD_PART_MAP (l : Nat) : Nat := 0x1100500 + 4 * l

/-- UPD_SEED (R177). -/
def UPD_SEED (q k : Nat) : Nat := 0x1100800 + 8 * q + 4 * k

/-- UPD_CNT (R177). -/
def UPD_CNT (c : Nat) : Nat := 0x1100c00 + 8 * c

/-- UPD_MBX_ARG (R177). -/
def UPD_MBX_ARG (i : Nat) : Nat := 0x1101004 + 4 * i

/-- UPD_MBX_DATA (R177). -/
def UPD_MBX_DATA (j : Nat) : Nat := 0x1101040 + 4 * j

/-- LRN_CTRL (R177). -/
def LRN_CTRL : Nat := 0x1110000

/-- LRN_STATUS (R177). -/
def LRN_STATUS : Nat := 0x1110004

/-- LRN_CFG (R177). -/
def LRN_CFG : Nat := 0x1110008

/-- LRN_CNT (R177). -/
def LRN_CNT (c : Nat) : Nat := 0x1110100 + 8 * c

/-- TM_Q_CFG0 (R275). -/
def TM_Q_CFG0 (q : Nat) : Nat := 0x20000000 + 0x40 * q

/-- TM_Q_CFG1 (R275). -/
def TM_Q_CFG1 (q : Nat) : Nat := 0x20000004 + 0x40 * q

/-- TM_Q_QMAX (R275). -/
def TM_Q_QMAX (q : Nat) : Nat := 0x20000008 + 0x40 * q

/-- TM_Q_SHARE (R275). -/
def TM_Q_SHARE (q : Nat) : Nat := 0x2000000c + 0x40 * q

/-- TM_Q_RATE (R275). -/
def TM_Q_RATE (q : Nat) : Nat := 0x20000010 + 0x40 * q

/-- TM_Q_BURST (R275). -/
def TM_Q_BURST (q : Nat) : Nat := 0x20000014 + 0x40 * q

/-- TM_Q_POL (R275). -/
def TM_Q_POL (q : Nat) : Nat := 0x20000018 + 0x40 * q

/-- TM_Q_STATUS (R275). -/
def TM_Q_STATUS (q : Nat) : Nat := 0x2000001c + 0x40 * q

/-- TM_Q_SAMPLE_DEPTH (R275). -/
def TM_Q_SAMPLE_DEPTH (q : Nat) : Nat := 0x20000020 + 0x40 * q

/-- TM_Q_SAMPLE_DELAY (R275). -/
def TM_Q_SAMPLE_DELAY (q : Nat) : Nat := 0x20000024 + 0x40 * q

/-- TM_Q_CNT (R275). -/
def TM_Q_CNT (q k : Nat) : Nat := 0x20000028 + 0x40 * q + 8 * k

/-- TM_N_CFG (R275). -/
def TM_N_CFG (e : Nat) : Nat := 0x22000000 + 0x40 * e

/-- TM_N_RATE (R275). -/
def TM_N_RATE (e : Nat) : Nat := 0x22000004 + 0x40 * e

/-- TM_N_BURST (R275). -/
def TM_N_BURST (e : Nat) : Nat := 0x22000008 + 0x40 * e

/-- TM_G_CFG (R275). -/
def TM_G_CFG (e : Nat) : Nat := 0x24000000 + 0x40 * e

/-- TM_G_RATE (R275). -/
def TM_G_RATE (e : Nat) : Nat := 0x24000004 + 0x40 * e

/-- TM_G_BURST (R275). -/
def TM_G_BURST (e : Nat) : Nat := 0x24000008 + 0x40 * e

/-- TM_P_CFG (R275). -/
def TM_P_CFG (n : Nat) : Nat := 0x26000000 + 0x40 * n

/-- TM_P_RATE (R275). -/
def TM_P_RATE (n : Nat) : Nat := 0x26000004 + 0x40 * n

/-- TM_P_BURST (R275). -/
def TM_P_BURST (n : Nat) : Nat := 0x26000008 + 0x40 * n

/-- TM_P_XOFF (R275). -/
def TM_P_XOFF (n : Nat) : Nat := 0x2600000c + 0x40 * n

/-- TM_P_XON (R275). -/
def TM_P_XON (n : Nat) : Nat := 0x26000010 + 0x40 * n

/-- TM_P_QUANTA (R275). -/
def TM_P_QUANTA (n : Nat) : Nat := 0x26000014 + 0x40 * n

/-- TM_P_WD (R275). -/
def TM_P_WD (n : Nat) : Nat := 0x26000018 + 0x40 * n

/-- TM_P_STATUS (R275). -/
def TM_P_STATUS (n : Nat) : Nat := 0x2600001c + 0x40 * n

/-- TM_POL_CFG (R275). -/
def TM_POL_CFG (i : Nat) : Nat := 0x28000000 + 0x40 * i

/-- TM_POL_CIR (R275). -/
def TM_POL_CIR (i : Nat) : Nat := 0x28000004 + 0x40 * i

/-- TM_POL_PIR (R275). -/
def TM_POL_PIR (i : Nat) : Nat := 0x28000008 + 0x40 * i

/-- TM_POL_CBS (R275). -/
def TM_POL_CBS (i : Nat) : Nat := 0x2800000c + 0x40 * i

/-- TM_POL_XBS (R275). -/
def TM_POL_XBS (i : Nat) : Nat := 0x28000010 + 0x40 * i

/-- TM_POL_TC (R275). -/
def TM_POL_TC (i : Nat) : Nat := 0x28000014 + 0x40 * i

/-- TM_POL_TX (R275). -/
def TM_POL_TX (i : Nat) : Nat := 0x28000018 + 0x40 * i

/-- TM_POL_CNT (R275). -/
def TM_POL_CNT (i k : Nat) : Nat := 0x28000020 + 0x40 * i + 8 * k

/-- TM_WIN_SEL (R274). -/
def TM_WIN_SEL (q : Nat) : Nat := 0x30000000 + 0x10 * q

/-- PMC_VIEW (R425). -/
def PMC_VIEW (q : Nat) : Nat := 0x30000004 + 0x10 * q

/-- VF_STATUS of parcel window p (R74). -/
def VF_STATUS (p : Nat) : Nat := winBase p + 0

/-- VF_ERR_ADDR of parcel window p (R74). -/
def VF_ERR_ADDR (p : Nat) : Nat := winBase p + 4

/-- VF_PARCEL of parcel window p (R391). -/
def VF_PARCEL (p : Nat) : Nat := winBase p + 8

/-- VF_TM_SEL of parcel window p (R390). -/
def VF_TM_SEL (p : Nat) : Nat := winBase p + 0x4400

/-- VF_MBX_CMD of parcel window p (R391). -/
def VF_MBX_CMD (p m : Nat) : Nat := winBase p + 0x2000 + 0x400 * m

/-- VF_MBX_ARG of parcel window p (R391). -/
def VF_MBX_ARG (p m i : Nat) : Nat := winBase p + 0x2004 + 0x400 * m + 4 * i

/-- VF_MBX_RESULT of parcel window p (R391). -/
def VF_MBX_RESULT (p m : Nat) : Nat := winBase p + 0x2030 + 0x400 * m

/-- VF_MBX_DATA of parcel window p (R391). -/
def VF_MBX_DATA (p m j : Nat) : Nat := winBase p + 0x2040 + 0x400 * m + 4 * j

/-- VF_DOORBELL of parcel window p (R378). -/
def VF_DOORBELL (p r : Nat) : Nat := winBase p + 0x1000 + 4 * r

/-- RING_CFG of parcel window p (R379). -/
def RING_CFG (p r : Nat) : Nat := winBase p + 0x4000 + 0x40 * r

/-- RING_BASE_LO of parcel window p (R379). -/
def RING_BASE_LO (p r : Nat) : Nat := winBase p + 0x4004 + 0x40 * r

/-- RING_BASE_HI of parcel window p (R379). -/
def RING_BASE_HI (p r : Nat) : Nat := winBase p + 0x4008 + 0x40 * r

/-- RING_HOST of parcel window p (R379). -/
def RING_HOST (p r : Nat) : Nat := winBase p + 0x400c + 0x40 * r

/-- RING_ENG of parcel window p (R379). -/
def RING_ENG (p r : Nat) : Nat := winBase p + 0x4010 + 0x40 * r

/-- RING_SEQ_LO of parcel window p (R379). -/
def RING_SEQ_LO (p r : Nat) : Nat := winBase p + 0x4014 + 0x40 * r

/-- RING_SEQ_HI of parcel window p (R379). -/
def RING_SEQ_HI (p r : Nat) : Nat := winBase p + 0x4018 + 0x40 * r

/-- RING_STATUS of parcel window p (R379). -/
def RING_STATUS (p r : Nat) : Nat := winBase p + 0x401c + 0x40 * r

/-- RING_POL of parcel window p (R379). -/
def RING_POL (p r : Nat) : Nat := winBase p + 0x4020 + 0x40 * r

/-- RING_CNT of parcel window p (R379). -/
def RING_CNT (p r k : Nat) : Nat := winBase p + 0x4028 + 0x40 * r + 8 * k

/-- MSIX_TABLE of parcel window p (R54). -/
def MSIX_TABLE (p v w : Nat) : Nat := winBase p + 0x8000 + 0x10 * v + 4 * w

/-- MSIX_PBA of parcel window p (R54). -/
def MSIX_PBA (p w : Nat) : Nat := winBase p + 0xc000 + 4 * w

end Sys2Proof.Machine.Reg

namespace Sys2Proof.Machine.Fd

def GLB_ID_PART : BF := ⟨16, 16⟩
def GLB_ID_STEP : BF := ⟨8, 8⟩
def GLB_VARIANT_HBM_GIB : BF := ⟨0, 8⟩
def GLB_UID_LO_UID : BF := ⟨0, 32⟩
def GLB_UID_HI_UID : BF := ⟨0, 32⟩
def GLB_STATUS_SHADOW_PENDING : BF := ⟨6, 1⟩
def GLB_STATUS_OFF_ACCESS : BF := ⟨4, 1⟩
def GLB_STATUS_LOCK_WRITE : BF := ⟨3, 1⟩
def GLB_STATUS_BAD_VALUE : BF := ⟨2, 1⟩
def GLB_STATUS_BAD_ACCESS : BF := ⟨1, 1⟩
def GLB_STATUS_CFG_IGNORED : BF := ⟨0, 1⟩
def GLB_ERR_ADDR_REQ : BF := ⟨28, 4⟩
def GLB_ERR_ADDR_KIND : BF := ⟨25, 3⟩
def GLB_ERR_ADDR_ADDR : BF := ⟨0, 25⟩
def GLB_SCRATCH_DATA : BF := ⟨0, 32⟩
def GLB_LOCK_LOCK : BF := ⟨0, 1⟩
def RST_CAUSE_BKP_LOST : BF := ⟨11, 1⟩
def RST_CAUSE_PHASE : BF := ⟨8, 3⟩
def RST_CAUSE_PROFILE : BF := ⟨7, 1⟩
def RST_CAUSE_LAST : BF := ⟨0, 3⟩
def RST_RESTART_BACKOFF : BF := ⟨16, 1⟩
def RST_RESTART_RUN : BF := ⟨0, 16⟩
def RST_SWRESET_KEY : BF := ⟨16, 16⟩
def RST_SWRESET_KIND : BF := ⟨0, 2⟩
def RST_BURST_ABORT_COUNT : BF := ⟨0, 32⟩
def RST_BLK_CMD_TAG : BF := ⟨16, 16⟩
def RST_BLK_CMD_OP : BF := ⟨0, 16⟩
def RST_BLK_ARG_UNIT : BF := ⟨0, 8⟩
def RST_BLK_RESULT_TAG : BF := ⟨16, 16⟩
def RST_BLK_RESULT_STATE : BF := ⟨14, 2⟩
def RST_BLK_RESULT_CODE : BF := ⟨0, 8⟩
def RST_COUNT_COUNT : BF := ⟨0, 16⟩
def BOOT_STATUS_SVN : BF := ⟨24, 8⟩
def BOOT_STATUS_KEY : BF := ⟨20, 2⟩
def BOOT_STATUS_SLOT : BF := ⟨19, 1⟩
def BOOT_STATUS_PHASE : BF := ⟨16, 3⟩
def BOOT_SLOT_PREF_PREF : BF := ⟨0, 1⟩
def BOOT_FUSE_REVOKED : BF := ⟨8, 3⟩
def BOOT_FUSE_SVN_MIN : BF := ⟨0, 7⟩
def BOOT_MBX_CMD_TAG : BF := ⟨16, 16⟩
def BOOT_MBX_CMD_OP : BF := ⟨0, 16⟩
def BOOT_MBX_RESULT_TAG : BF := ⟨16, 16⟩
def BOOT_MBX_RESULT_STATE : BF := ⟨14, 2⟩
def BOOT_MBX_RESULT_CODE : BF := ⟨0, 8⟩
def BOOT_SLOT_STATUS_HDR_SVN : BF := ⟨16, 8⟩
def BOOT_SLOT_STATUS_REASON : BF := ⟨0, 8⟩
def BOOT_MBX_ARG_VALUE : BF := ⟨0, 32⟩
def BOOT_MBX_DATA_VALUE : BF := ⟨0, 32⟩
def PWR_STATUS_TARGET : BF := ⟨6, 2⟩
def PWR_STATUS_LEVEL : BF := ⟨4, 2⟩
def PWR_STATUS_TRANS : BF := ⟨3, 1⟩
def PWR_STATUS_STATE : BF := ⟨0, 3⟩
def PWR_CFG_DRAIN_MS : BF := ⟨16, 16⟩
def PWR_CFG_INRUSH_GAP : BF := ⟨8, 8⟩
def PWR_CFG_INRUSH_MAX : BF := ⟨0, 4⟩
def PWR_RTC_LO_COUNT : BF := ⟨0, 32⟩
def PWR_RTC_HI_COUNT : BF := ⟨0, 16⟩
def PWR_RTC_ALARM_LO_ALARM : BF := ⟨0, 32⟩
def PWR_RTC_ALARM_HI_ALARM : BF := ⟨0, 16⟩
def PWR_RTC_CTRL_ALARM_HIT : BF := ⟨1, 1⟩
def PWR_RTC_CTRL_ALARM_EN : BF := ⟨0, 1⟩
def PWR_TEMP_CFG_TRIP : BF := ⟨16, 12⟩
def PWR_TEMP_CFG_WARN : BF := ⟨0, 12⟩
def PWR_TEMP_HBM_CFG_TRIP : BF := ⟨16, 12⟩
def PWR_TEMP_HBM_CFG_WARN : BF := ⟨0, 12⟩
def PWR_TEMP_STATUS_WARN_HIT : BF := ⟨0, 29⟩
def PWR_MBX_CMD_TAG : BF := ⟨16, 16⟩
def PWR_MBX_CMD_OP : BF := ⟨0, 16⟩
def PWR_MBX_RESULT_TAG : BF := ⟨16, 16⟩
def PWR_MBX_RESULT_STATE : BF := ⟨14, 2⟩
def PWR_MBX_RESULT_CODE : BF := ⟨0, 8⟩
def PWR_LAST_REFUSE_ABORT : BF := ⟨31, 1⟩
def PWR_LAST_REFUSE_UNIT : BF := ⟨16, 8⟩
def PWR_LAST_REFUSE_REASON : BF := ⟨8, 8⟩
def PWR_DOM_TRIPS : BF := ⟨8, 2⟩
def PWR_DOM_FENCED : BF := ⟨3, 1⟩
def PWR_DOM_STATE : BF := ⟨0, 3⟩
def PWR_TEMP_VALID : BF := ⟨31, 1⟩
def PWR_TEMP_TEMP : BF := ⟨0, 12⟩
def PWR_MBX_ARG_VALUE : BF := ⟨0, 32⟩
def FLT_STATUS_QUENCH_PANEL : BF := ⟨16, 8⟩
def FLT_STATUS_FIRST_V : BF := ⟨4, 1⟩
def FLT_STATUS_JRN_BUSY : BF := ⟨3, 1⟩
def FLT_STATUS_FAULTN : BF := ⟨2, 1⟩
def FLT_STATUS_QUENCH : BF := ⟨1, 1⟩
def FLT_CTRL_INJECT_EN : BF := ⟨3, 1⟩
def FLT_CTRL_FAULTN_SET : BF := ⟨2, 1⟩
def FLT_CTRL_FAULTN_RELEASE : BF := ⟨1, 1⟩
def FLT_CTRL_QUENCH_RELEASE : BF := ⟨0, 1⟩
def FLT_TKO_CFG_EN : BF := ⟨31, 1⟩
def FLT_TKO_CFG_PRIO : BF := ⟨0, 16⟩
def FLT_TKO_STATUS_ACTIVE : BF := ⟨31, 1⟩
def FLT_TKO_STATUS_BUSY : BF := ⟨30, 1⟩
def FLT_TKO_STATUS_PANEL : BF := ⟨24, 3⟩
def FLT_TKO_STATUS_UNSERVED : BF := ⟨16, 8⟩
def FLT_TKO_STATUS_FAILED : BF := ⟨0, 9⟩
def FLT_WDT_STATUS_HELD : BF := ⟨0, 4⟩
def FLT_HIST_PTR_COUNT : BF := ⟨8, 6⟩
def FLT_HIST_PTR_NEWEST : BF := ⟨0, 5⟩
def FLT_JRN_STATUS_VALID : BF := ⟨31, 1⟩
def FLT_JRN_STATUS_NEWEST : BF := ⟨0, 12⟩
def FLT_MBX_CMD_TAG : BF := ⟨16, 16⟩
def FLT_MBX_CMD_OP : BF := ⟨0, 16⟩
def FLT_MBX_RESULT_TAG : BF := ⟨16, 16⟩
def FLT_MBX_RESULT_STATE : BF := ⟨14, 2⟩
def FLT_MBX_RESULT_CODE : BF := ⟨0, 8⟩
def FLT_SLICE_GEN_GEN : BF := ⟨0, 16⟩
def FLT_CLASS_CFG_HOLD : BF := ⟨4, 1⟩
def FLT_CLASS_CFG_FAULTN : BF := ⟨3, 1⟩
def FLT_CLASS_CFG_QUENCH : BF := ⟨2, 1⟩
def FLT_CLASS_CFG_JOURNAL : BF := ⟨1, 1⟩
def FLT_CLASS_CFG_LOG : BF := ⟨0, 1⟩
def FLT_WDT_TIMEOUT : BF := ⟨0, 16⟩
def FLT_WDT_KICK_KEY : BF := ⟨16, 16⟩
def FLT_FIRST_DATA : BF := ⟨0, 32⟩
def FLT_HIST_DATA : BF := ⟨0, 32⟩
def FLT_MBX_ARG_VALUE : BF := ⟨0, 32⟩
def FLT_MBX_DATA_DATA : BF := ⟨0, 32⟩
def DTM_CTRL_EN : BF := ⟨0, 1⟩
def DTM_STATUS_REF_LOST : BF := ⟨5, 1⟩
def DTM_STATUS_SLEWING : BF := ⟨4, 1⟩
def DTM_STATUS_SERVED : BF := ⟨3, 1⟩
def DTM_STATUS_LOCK : BF := ⟨2, 1⟩
def DTM_STATUS_IDLE : BF := ⟨0, 1⟩
def DTM_CFG_REFCLK_SEL : BF := ⟨30, 2⟩
def DTM_CFG_DESC_TSFORM : BF := ⟨29, 1⟩
def DTM_CFG_PPS_SRC : BF := ⟨27, 2⟩
def DTM_CFG_PPS_EN : BF := ⟨26, 1⟩
def DTM_CFG_PPS_WIDTH : BF := ⟨0, 10⟩
def DTM_SERVE_SNAP : BF := ⟨31, 1⟩
def DTM_SERVE_SRC : BF := ⟨17, 1⟩
def DTM_SERVE_SLEW_PPB : BF := ⟨0, 17⟩
def DTM_PPS_OUT_OFF_OFF : BF := ⟨0, 32⟩
def DTM_SRV_NOW_NS_NS : BF := ⟨0, 30⟩
def DTM_SRV_NOW_SEC_LO_SEC : BF := ⟨0, 32⟩
def DTM_SRV_NOW_SEC_HI_SEC : BF := ⟨0, 16⟩
def DTM_SRV_NOW_FRAC_FRAC : BF := ⟨0, 32⟩
def DTM_SRV_OFF_A_OFF : BF := ⟨0, 32⟩
def DTM_SRV_OFF_B_OFF : BF := ⟨0, 32⟩
def DTM_SRV_PPS_NS_NS : BF := ⟨0, 30⟩
def DTM_SRV_PPS_SEC_LO_SEC : BF := ⟨0, 32⟩
def DTM_SRV_PPS_SEC_HI_V : BF := ⟨31, 1⟩
def DTM_SRV_PPS_SEC_HI_SEC : BF := ⟨0, 16⟩
def DTM_CLK_INC_LO_FRAC : BF := ⟨0, 32⟩
def DTM_CLK_INC_HI_INT : BF := ⟨0, 8⟩
def DTM_CLK_ADJ_REMAIN : BF := ⟨0, 32⟩
def DTM_CLK_ADJ_CFG_ADJ_PPM : BF := ⟨0, 10⟩
def DTM_CLK_SET_SEC_LO_SEC : BF := ⟨0, 32⟩
def DTM_CLK_SET_SEC_HI_SEC : BF := ⟨0, 16⟩
def DTM_CLK_SET_NS_NS : BF := ⟨0, 30⟩
def DTM_CLK_SET_CMD_AT_PPS : BF := ⟨1, 1⟩
def DTM_CLK_SET_CMD_GO : BF := ⟨0, 1⟩
def DTM_CLK_NOW_NS_NS : BF := ⟨0, 30⟩
def DTM_CLK_NOW_SEC_LO_SEC : BF := ⟨0, 32⟩
def DTM_CLK_NOW_SEC_HI_SEC : BF := ⟨0, 16⟩
def DTM_CLK_NOW_FRAC_FRAC : BF := ⟨0, 32⟩
def DTM_CLK_PPS_NS_NS : BF := ⟨0, 30⟩
def DTM_CLK_PPS_SEC_LO_SEC : BF := ⟨0, 32⟩
def DTM_CLK_PPS_SEC_HI_V : BF := ⟨31, 1⟩
def DTM_CLK_PPS_SEC_HI_SEC : BF := ⟨0, 16⟩
def DTM_PORT_CFG_OVR : BF := ⟨31, 1⟩
def DTM_PORT_CFG_P2P : BF := ⟨30, 1⟩
def DTM_PORT_RX_LAT_LAT : BF := ⟨0, 24⟩
def DTM_PORT_TX_LAT_LAT : BF := ⟨0, 24⟩
def DTM_PORT_ASYM_ASYM : BF := ⟨0, 32⟩
def DTM_PORT_LINK_DLY_DLY : BF := ⟨0, 32⟩
def DTM_MBX_CMD_TAG : BF := ⟨16, 16⟩
def DTM_MBX_CMD_OP : BF := ⟨0, 16⟩
def DTM_MBX_RESULT_TAG : BF := ⟨16, 16⟩
def DTM_MBX_RESULT_STATE : BF := ⟨14, 2⟩
def DTM_MBX_RESULT_CODE : BF := ⟨0, 8⟩
def DTM_MBX_ARG_VALUE : BF := ⟨0, 32⟩
def DTM_MBX_DATA_DATA : BF := ⟨0, 32⟩
def PAR_MBX_CMD_TAG : BF := ⟨16, 16⟩
def PAR_MBX_CMD_OP : BF := ⟨0, 16⟩
def PAR_MBX_RESULT_TAG : BF := ⟨16, 16⟩
def PAR_MBX_RESULT_STATE : BF := ⟨14, 2⟩
def PAR_MBX_RESULT_CODE : BF := ⟨0, 8⟩
def PAR_MBX_ARG_VALUE : BF := ⟨0, 32⟩
def PAR_MBX_DATA_DATA : BF := ⟨0, 32⟩
def PAR_CTRL_EN : BF := ⟨0, 1⟩
def PAR_STATUS_STATE : BF := ⟨0, 3⟩
def PAR_QUOTA_SLOTS : BF := ⟨24, 8⟩
def PAR_QUOTA_KEYED : BF := ⟨0, 24⟩
def PAR_RINGS_PUNT_MAP : BF := ⟨16, 16⟩
def PAR_RINGS_INJ : BF := ⟨8, 3⟩
def PAR_RINGS_PUNT : BF := ⟨4, 2⟩
def PAR_RINGS_UPD : BF := ⟨0, 3⟩
def PAR_USED_KEYED : BF := ⟨0, 24⟩
def PAR_RANGE_BASE_BASE : BF := ⟨0, 20⟩
def PAR_RANGE_CNT_COUNT : BF := ⟨0, 21⟩
def TET_CTRL_EN : BF := ⟨0, 1⟩
def TET_STATUS_GEN : BF := ⟨16, 16⟩
def TET_STATUS_ROLE : BF := ⟨14, 2⟩
def TET_STATUS_PARTNER_ROLE : BF := ⟨12, 2⟩
def TET_STATUS_PARTNER_SLOT : BF := ⟨8, 4⟩
def TET_STATUS_PARTNER : BF := ⟨7, 1⟩
def TET_STATUS_LINK : BF := ⟨6, 1⟩
def TET_STATUS_SWAP_PENDING : BF := ⟨5, 1⟩
def TET_STATUS_HELD : BF := ⟨4, 1⟩
def TET_STATUS_IDLE : BF := ⟨0, 1⟩
def TET_CFG_SYNC : BF := ⟨31, 1⟩
def TET_CFG_HB_MISS : BF := ⟨16, 8⟩
def TET_CFG_HB_US : BF := ⟨0, 16⟩
def TET_CFG2_ALONE_MS : BF := ⟨0, 16⟩
def TET_MBX_CMD_TAG : BF := ⟨16, 16⟩
def TET_MBX_CMD_OP : BF := ⟨0, 16⟩
def TET_MBX_RESULT_TAG : BF := ⟨16, 16⟩
def TET_MBX_RESULT_STATE : BF := ⟨14, 2⟩
def TET_MBX_RESULT_CODE : BF := ⟨0, 8⟩
def MGT_CFG_SAT_PCT : BF := ⟨16, 7⟩
def MGT_CFG_SAT_MS : BF := ⟨0, 16⟩
def MGT_DBG_CFG_BOOT_OPEN : BF := ⟨0, 1⟩
def MGT_DBG_CTRL_RELOCK : BF := ⟨0, 1⟩
def MGT_DBG_STATUS_STATE : BF := ⟨16, 3⟩
def MGT_DBG_STATUS_SCOPE : BF := ⟨8, 8⟩
def MGT_DBG_STATUS_FAILS : BF := ⟨0, 2⟩
def MGT_CORE_STATUS_LOAD : BF := ⟨16, 8⟩
def MGT_CORE_STATUS_SAT : BF := ⟨3, 1⟩
def MGT_CORE_STATUS_HALTED : BF := ⟨2, 1⟩
def MGT_CORE_STATUS_HELD : BF := ⟨1, 1⟩
def MGT_CORE_STATUS_RUN : BF := ⟨0, 1⟩
def PMC_CTRL_EN : BF := ⟨0, 1⟩
def PMC_SNAP_CTRL_GO : BF := ⟨31, 1⟩
def PMC_SNAP_CTRL_PERIOD_MS : BF := ⟨0, 16⟩
def PMC_SNAP_STATUS_SEQ : BF := ⟨16, 16⟩
def PMC_SNAP_STATUS_BUSY : BF := ⟨0, 1⟩
def PMC_BW_CFG_WINDOW_MS : BF := ⟨0, 14⟩
def PMC_BW_STATUS_WINDOW : BF := ⟨0, 32⟩
def PMC_CTR_CFG_EN : BF := ⟨31, 1⟩
def PMC_CTR_CFG_MODE : BF := ⟨29, 2⟩
def PMC_CTR_CFG_UNIT : BF := ⟨8, 8⟩
def PMC_CTR_CFG_EVENT : BF := ⟨0, 8⟩
def PMC_CTR_THR_N : BF := ⟨0, 32⟩
def MBUS_CTRL_EN : BF := ⟨0, 1⟩
def MBUS_CFG_VRM_ADDR : BF := ⟨24, 7⟩
def MBUS_CFG_SPEED : BF := ⟨16, 2⟩
def MBUS_CFG_STRETCH_MS : BF := ⟨8, 8⟩
def MBUS_STATUS_ALERT : BF := ⟨3, 1⟩
def MBUS_STATUS_STUCK : BF := ⟨2, 1⟩
def MBUS_STATUS_RECOVERING : BF := ⟨1, 1⟩
def MBUS_STATUS_IDLE : BF := ⟨0, 1⟩
def MBUS_MBX_CMD_TAG : BF := ⟨16, 16⟩
def MBUS_MBX_CMD_OP : BF := ⟨0, 16⟩
def MBUS_MBX_RESULT_TAG : BF := ⟨16, 16⟩
def MBUS_MBX_RESULT_STATE : BF := ⟨14, 2⟩
def MBUS_MBX_RESULT_CODE : BF := ⟨0, 8⟩
def MBUS_MBX_ARG_VALUE : BF := ⟨0, 32⟩
def MBUS_MBX_WDATA_DATA : BF := ⟨0, 32⟩
def MBUS_MBX_DATA_DATA : BF := ⟨0, 32⟩
def MEM_CTRL_EN : BF := ⟨0, 1⟩
def MEM_STATUS_CH_FAIL : BF := ⟨7, 1⟩
def MEM_STATUS_HOT : BF := ⟨6, 1⟩
def MEM_STATUS_MIG_PENDING : BF := ⟨5, 1⟩
def MEM_STATUS_MIGRATING : BF := ⟨4, 1⟩
def MEM_STATUS_SPARES_LEFT : BF := ⟨2, 2⟩
def MEM_STATUS_TRAINED : BF := ⟨1, 1⟩
def MEM_STATUS_IDLE : BF := ⟨0, 1⟩
def MEM_CFG_UE_LIMIT : BF := ⟨8, 8⟩
def MEM_CFG_AGE_LIMIT : BF := ⟨0, 8⟩
def MEM_SPILL_CAP_RD_GBPS : BF := ⟨16, 16⟩
def MEM_SPILL_CAP_WR_GBPS : BF := ⟨0, 16⟩
def MEM_MIG_POINTER : BF := ⟨16, 16⟩
def MEM_MIG_DST : BF := ⟨8, 7⟩
def MEM_MIG_SRC : BF := ⟨0, 7⟩
def MEM_CH_STATUS_FAILED : BF := ⟨0, 32⟩
def MEM_WITHDRAWN_PAGES : BF := ⟨0, 32⟩
def MEM_RANK_RETIRE_REQ : BF := ⟨31, 1⟩
def MEM_RANK_RETIRED : BF := ⟨30, 1⟩
def MEM_RANK_FENCED : BF := ⟨29, 1⟩
def MEM_RANK_SPARE : BF := ⟨28, 1⟩
def MEM_RANK_MAP : BF := ⟨16, 7⟩
def MEM_RANK_UE : BF := ⟨0, 16⟩
def XM_CTRL_EN : BF := ⟨0, 1⟩
def XM_STATUS_CAP_GIB : BF := ⟨16, 16⟩
def XM_STATUS_LINK_UP : BF := ⟨2, 1⟩
def XM_STATUS_IDLE : BF := ⟨0, 1⟩
def XM_MISS_LO_ADDR : BF := ⟨0, 32⟩
def XM_MISS_HI_PARCEL : BF := ⟨26, 6⟩
def XM_MISS_HI_V : BF := ⟨25, 1⟩
def XM_MISS_HI_ADDR : BF := ⟨0, 20⟩
def XM_XLT_CFG_V : BF := ⟨31, 1⟩
def XM_XLT_CFG_WE : BF := ⟨30, 1⟩
def XM_XLT_CFG_PORT : BF := ⟨29, 1⟩
def XM_XLT_CFG_PARCEL : BF := ⟨0, 6⟩
def XM_XLT_BASE_XA_BASE : BF := ⟨0, 31⟩
def XM_XLT_LIMIT_XA_LIMIT : BF := ⟨0, 31⟩
def XM_XLT_DEV_DEV_BASE : BF := ⟨0, 31⟩
def BPM_CTRL_EN : BF := ⟨0, 1⟩
def BPM_STATUS_GROUP_IDLE : BF := ⟨8, 8⟩
def BPM_STATUS_IDLE : BF := ⟨0, 1⟩
def BPM_CELL_CFG_GROUP_EN : BF := ⟨0, 8⟩
def BPM_REFILL_CFG_CELLS : BF := ⟨0, 19⟩
def BPM_HEAD_CFG_RSV : BF := ⟨0, 16⟩
def BPM_CELL_FREE_FREE : BF := ⟨0, 20⟩
def BPM_SHARED_AVAIL_AVAIL : BF := ⟨0, 20⟩
def BPM_REFILL_FREE_UNCLAIMED : BF := ⟨0, 19⟩
def BPM_PAGE_TOTAL_PAGES : BF := ⟨0, 25⟩
def BPM_PAGE_FREE_PAGES : BF := ⟨0, 25⟩
def BPM_AUDIT_CFG_EN : BF := ⟨31, 1⟩
def BPM_AUDIT_CFG_PERIOD : BF := ⟨0, 16⟩
def BPM_LEAK_STATUS_OWNER : BF := ⟨0, 32⟩
def BPM_PORT_RSV_RSV : BF := ⟨0, 16⟩
def BPM_PORT_SHMAX_SHMAX : BF := ⟨0, 20⟩
def BPM_PORT_USE_CELLS : BF := ⟨0, 20⟩
def BPM_SPILL_PROF_REFILL : BF := ⟨20, 12⟩
def BPM_SPILL_PROF_SPILL_ON : BF := ⟨0, 20⟩
def BPM_XP_CFG_EN : BF := ⟨31, 1⟩
def BPM_XP_CFG_PORT : BF := ⟨28, 1⟩
def BPM_XP_CFG_SIZE : BF := ⟨24, 4⟩
def BPM_XP_CFG_PARCEL : BF := ⟨0, 6⟩
def BPM_XP_LEAVES_LEAVES : BF := ⟨0, 26⟩
def BPM_XP_META_LO_BASE : BF := ⟨6, 26⟩
def BPM_XP_META_HI_BASE : BF := ⟨0, 20⟩
def BPM_XP_BUF_LO_BASE : BF := ⟨12, 20⟩
def BPM_XP_BUF_HI_BASE : BF := ⟨0, 20⟩
def BPM_XP_FREE_FREE : BF := ⟨0, 32⟩
def BPM_XP_STATUS_READY : BF := ⟨0, 1⟩
def BPM_OWNER_CFG_V : BF := ⟨31, 1⟩
def BPM_OWNER_CFG_PANY : BF := ⟨30, 1⟩
def BPM_OWNER_CFG_AGE_LIMIT : BF := ⟨16, 4⟩
def BPM_OWNER_CFG_PARCEL : BF := ⟨8, 6⟩
def BPM_OWNER_CFG_UNIT : BF := ⟨0, 8⟩
def BPM_OWNER_ALARMS_COUNT : BF := ⟨0, 32⟩
def BPM_OWNER_OLDEST_KIND : BF := ⟨30, 2⟩
def BPM_OWNER_OLDEST_AGE : BF := ⟨4, 4⟩
def BPM_OWNER_OLDEST_POOL : BF := ⟨0, 4⟩
def BPM_OWNER_OLDIDX_INDEX : BF := ⟨0, 32⟩
def BPM_OWNER_OUT_COUNT : BF := ⟨0, 32⟩
def BPM_OWNER_HIST_COUNT : BF := ⟨0, 32⟩
def BPM_MBX_CMD_TAG : BF := ⟨16, 16⟩
def BPM_MBX_CMD_OP : BF := ⟨0, 16⟩
def BPM_MBX_RESULT_TAG : BF := ⟨16, 16⟩
def BPM_MBX_RESULT_STATE : BF := ⟨14, 2⟩
def BPM_MBX_RESULT_CODE : BF := ⟨0, 8⟩
def BPM_MBX_ARG_VALUE : BF := ⟨0, 32⟩
def BPM_MBX_DATA_DATA : BF := ⟨0, 32⟩
def TM_CTRL_EN : BF := ⟨0, 1⟩
def TM_STATUS_IDLE : BF := ⟨0, 1⟩
def TM_RED_CFG_ECN : BF := ⟨31, 1⟩
def TM_RED_CFG_W : BF := ⟨0, 4⟩
def TM_RED_MIN_DEPTH : BF := ⟨0, 29⟩
def TM_RED_MAX_DEPTH : BF := ⟨0, 29⟩
def TM_RED_PMAX_PMAX : BF := ⟨0, 24⟩
def TM_SAMP_PROF_PERIOD_US : BF := ⟨0, 20⟩
def PNL_LANE_CFG_TX_PRESET : BF := ⟨9, 3⟩
def PNL_LANE_CFG_RX_INVERT : BF := ⟨8, 1⟩
def PNL_LANE_CFG_TX_INVERT : BF := ⟨7, 1⟩
def PNL_LANE_CFG_RATE : BF := ⟨0, 4⟩
def PNL_SPARE_CFG_EN : BF := ⟨8, 1⟩
def PNL_SPARE_CFG_PORT : BF := ⟨0, 5⟩
def PNL_SPARE_STATUS_RX_LANE : BF := ⟨12, 4⟩
def PNL_SPARE_STATUS_TX_LANE : BF := ⟨8, 4⟩
def PNL_SPARE_STATUS_RX_USED : BF := ⟨7, 1⟩
def PNL_SPARE_STATUS_TX_USED : BF := ⟨6, 1⟩
def PNL_SPARE_STATUS_PARTNER : BF := ⟨5, 1⟩
def PNL_SPARE_STATUS_NAK : BF := ⟨0, 4⟩
def PORT_CTRL_RELEASE : BF := ⟨2, 1⟩
def PORT_CTRL_RESTART : BF := ⟨1, 1⟩
def PORT_CTRL_EN : BF := ⟨0, 1⟩
def PORT_CFG_MAXFRAME : BF := ⟨18, 14⟩
def PORT_CFG_FEC : BF := ⟨16, 2⟩
def PORT_CFG_FALLBACK_EN : BF := ⟨15, 1⟩
def PORT_CFG_SWAP_SER : BF := ⟨8, 4⟩
def PORT_CFG_HOLD : BF := ⟨4, 4⟩
def PORT_CFG_WIDTH : BF := ⟨0, 4⟩
def PORT_STATUS_FALLEN : BF := ⟨26, 2⟩
def PORT_STATUS_SWAP_RX : BF := ⟨24, 2⟩
def PORT_STATUS_SWAP_TX : BF := ⟨22, 2⟩
def PORT_STATUS_FEC_ACT : BF := ⟨20, 2⟩
def PORT_STATUS_TYPE : BF := ⟨11, 5⟩
def PORT_STATUS_STATE : BF := ⟨8, 3⟩
def PORT_STATUS_CFG_ERR : BF := ⟨2, 1⟩
def PORT_STATUS_LINK : BF := ⟨1, 1⟩
def PORT_STATUS_IDLE : BF := ⟨0, 1⟩
def PORT_ADV_TYPES : BF := ⟨0, 17⟩
def PRS_CTRL_EN : BF := ⟨0, 1⟩
def PRS_STATUS_VALID : BF := ⟨6, 2⟩
def PRS_STATUS_REPAIR : BF := ⟨5, 1⟩
def PRS_STATUS_LOADING : BF := ⟨4, 1⟩
def PRS_STATUS_ACTIVE : BF := ⟨1, 1⟩
def PRS_STATUS_IDLE : BF := ⟨0, 1⟩
def PRS_CFG_OVER : BF := ⟨0, 1⟩
def PRS_ECC_CORR_COUNT : BF := ⟨0, 32⟩
def PRS_ECC_UNCORR_COUNT : BF := ⟨0, 32⟩
def PRS_RD_ADDR_BANK : BF := ⟨16, 1⟩
def PRS_RD_ADDR_SPACE : BF := ⟨12, 2⟩
def PRS_RD_ADDR_INDEX : BF := ⟨0, 12⟩
def PRS_BANK_SEL_BANK : BF := ⟨0, 1⟩
def PRS_UCODE_VERSION_VERSION : BF := ⟨0, 32⟩
def PRS_RD_DATA_DATA : BF := ⟨0, 32⟩
def PRS_PORT_CFG_EN : BF := ⟨31, 1⟩
def PRS_PORT_CFG_PARCEL : BF := ⟨16, 6⟩
def PRS_PORT_CFG_START : BF := ⟨0, 12⟩
def FWD_CTRL_EN : BF := ⟨0, 1⟩
def FWD_STATUS_IDLE : BF := ⟨0, 1⟩
def FWD_HDR_MAP_V : BF := ⟨31, 1⟩
def FWD_HDR_MAP_PROG : BF := ⟨16, 6⟩
def FWD_HDR_MAP_PRIO : BF := ⟨0, 4⟩
def FWD_PROG_STEP_V : BF := ⟨31, 1⟩
def FWD_PROG_STEP_TABLE : BF := ⟨28, 3⟩
def FWD_PROG_STEP_ROLE : BF := ⟨26, 2⟩
def FWD_PROG_STEP_KEY_OFF : BF := ⟨19, 7⟩
def FWD_PORT_CFG_LEARN : BF := ⟨24, 1⟩
def FWD_PORT_CFG_PROG : BF := ⟨16, 6⟩
def FWD_PORT_CFG_VRF : BF := ⟨0, 14⟩
def FWD_PORT_LEARN_NHI_NHI : BF := ⟨0, 20⟩
def FWD_PORT_MISS_NHI_NHI : BF := ⟨0, 20⟩
def CLS_CTRL_EN : BF := ⟨0, 1⟩
def CLS_STATUS_REPAIR : BF := ⟨1, 1⟩
def CLS_STATUS_IDLE : BF := ⟨0, 1⟩
def CLS_ECC_CORR_COUNT : BF := ⟨0, 32⟩
def CLS_ECC_UNCORR_COUNT : BF := ⟨0, 32⟩
def CLS_CFG_TRAV_MS : BF := ⟨0, 8⟩
def CLS_RD_ADDR_ROW : BF := ⟨0, 16⟩
def CLS_RD_DATA_DATA : BF := ⟨0, 32⟩
def CLS_PROG_KPROF_KPROF : BF := ⟨0, 4⟩
def CLS_KSEL_SEL : BF := ⟨0, 32⟩
def CLS_RANGE_CFG_V : BF := ⟨9, 1⟩
def CLS_RANGE_CFG_INV : BF := ⟨8, 1⟩
def CLS_RANGE_CFG_SRC : BF := ⟨6, 2⟩
def CLS_RANGE_OFF_OFF : BF := ⟨0, 7⟩
def CLS_RANGE_BND_HI : BF := ⟨16, 16⟩
def CLS_RANGE_BND_LO : BF := ⟨0, 16⟩
def LB_SEED_SEED : BF := ⟨0, 32⟩
def LB_CFG_DEF_PROF : BF := ⟨0, 4⟩
def LB_HDR_MAP_V : BF := ⟨31, 1⟩
def LB_HDR_MAP_HPROF : BF := ⟨8, 4⟩
def LB_HDR_MAP_PRIO : BF := ⟨0, 4⟩
def LB_PROF_CFG_SYM : BF := ⟨1, 1⟩
def LB_PROF_CFG_PORT : BF := ⟨0, 1⟩
def LB_FIELD_V : BF := ⟨31, 1⟩
def LB_FIELD_LEN : BF := ⟨8, 4⟩
def LB_FIELD_KEY_OFF : BF := ⟨0, 7⟩
def RWR_CTRL_EN : BF := ⟨0, 1⟩
def RWR_STATUS_REPL_QDEPTH : BF := ⟨8, 9⟩
def RWR_STATUS_VALID : BF := ⟨6, 2⟩
def RWR_STATUS_REPAIR : BF := ⟨5, 1⟩
def RWR_STATUS_LOADING : BF := ⟨4, 1⟩
def RWR_STATUS_ACTIVE : BF := ⟨1, 1⟩
def RWR_STATUS_IDLE : BF := ⟨0, 1⟩
def RWR_ECC_CORR_COUNT : BF := ⟨0, 32⟩
def RWR_ECC_UNCORR_COUNT : BF := ⟨0, 32⟩
def RWR_CFG_TTL_PUNT : BF := ⟨0, 1⟩
def RWR_BANK_SEL_BANK : BF := ⟨0, 1⟩
def RWR_UCODE_VERSION_VERSION : BF := ⟨0, 32⟩
def RWR_RD_ADDR_BANK : BF := ⟨16, 1⟩
def RWR_RD_ADDR_INDEX : BF := ⟨0, 11⟩
def RWR_RD_DATA_DATA : BF := ⟨0, 32⟩
def RWR_SMAC_LO_MAC : BF := ⟨0, 32⟩
def RWR_SMAC_HI_MAC : BF := ⟨0, 16⟩
def RWR_MTU_PUNT : BF := ⟨31, 1⟩
def RWR_MTU_MTU : BF := ⟨0, 14⟩
def RWR_MIRROR_V : BF := ⟨31, 1⟩
def RWR_MIRROR_TRUNC : BF := ⟨20, 8⟩
def RWR_MIRROR_NHI : BF := ⟨0, 20⟩
def RWR_RULE_MAP_RV : BF := ⟨15, 1⟩
def RWR_RULE_MAP_RING : BF := ⟨8, 6⟩
def RWR_RULE_MAP_MV : BF := ⟨7, 1⟩
def RWR_RULE_MAP_MSESS : BF := ⟨0, 4⟩
def FBK_CTRL_EN : BF := ⟨0, 1⟩
def FBK_STATUS_STAGED : BF := ⟨1, 15⟩
def FBK_STATUS_IDLE : BF := ⟨0, 1⟩
def FBK_HBM_CFG_PAGES : BF := ⟨0, 16⟩
def FBK_MBX_CMD_TAG : BF := ⟨16, 16⟩
def FBK_MBX_CMD_OP : BF := ⟨0, 16⟩
def FBK_MBX_RESULT_TAG : BF := ⟨16, 16⟩
def FBK_MBX_RESULT_STATE : BF := ⟨14, 2⟩
def FBK_MBX_RESULT_CODE : BF := ⟨0, 8⟩
def FBK_RING_CFG_PARCEL : BF := ⟨26, 6⟩
def FBK_RING_CFG_SIZE : BF := ⟨21, 5⟩
def FBK_RING_CFG_TSFORM : BF := ⟨20, 1⟩
def FBK_RING_CFG_MODE : BF := ⟨19, 1⟩
def FBK_RING_CFG_LOC : BF := ⟨18, 1⟩
def FBK_RING_CFG_EN : BF := ⟨0, 1⟩
def FBK_RING_BASE_LO_BASE : BF := ⟨12, 20⟩
def FBK_RING_BASE_HI_BASE : BF := ⟨0, 20⟩
def FBK_RING_PROD_PROD : BF := ⟨0, 32⟩
def FBK_RING_CONS_CONS : BF := ⟨0, 32⟩
def FBK_PORT_SAMPLE_RING : BF := ⟨24, 6⟩
def FBK_PORT_SAMPLE_N : BF := ⟨0, 24⟩
def FBK_MBX_ARG_VALUE : BF := ⟨0, 32⟩
def FBK_MBX_DATA_DATA : BF := ⟨0, 32⟩
def TS_CTRL_EN : BF := ⟨0, 1⟩
def TS_STATUS_FAILED : BF := ⟨3, 1⟩
def TS_STATUS_RELOADING : BF := ⟨2, 1⟩
def TS_STATUS_REPAIR : BF := ⟨1, 1⟩
def TS_STATUS_IDLE : BF := ⟨0, 1⟩
def TS_ECC_CORR_COUNT : BF := ⟨0, 32⟩
def TS_ECC_UNCORR_COUNT : BF := ⟨0, 32⟩
def PAT_CTRL_EN : BF := ⟨0, 1⟩
def PAT_STATUS_QDEPTH : BF := ⟨8, 9⟩
def PAT_STATUS_WIDE : BF := ⟨7, 1⟩
def PAT_STATUS_REPAIR : BF := ⟨6, 1⟩
def PAT_STATUS_LOADING : BF := ⟨5, 1⟩
def PAT_STATUS_ACTIVE : BF := ⟨4, 1⟩
def PAT_STATUS_VALID : BF := ⟨2, 2⟩
def PAT_STATUS_IDLE : BF := ⟨0, 1⟩
def PAT_REGION_SEL_REGION : BF := ⟨0, 1⟩
def PAT_TRAV_ERR_WORD : BF := ⟨0, 21⟩
def PAT_MBX_CMD_TAG : BF := ⟨16, 16⟩
def PAT_MBX_CMD_OP : BF := ⟨0, 16⟩
def PAT_MBX_RESULT_TAG : BF := ⟨16, 16⟩
def PAT_MBX_RESULT_STATE : BF := ⟨14, 2⟩
def PAT_MBX_RESULT_CODE : BF := ⟨0, 8⟩
def PAT_VERSION_VERSION : BF := ⟨0, 32⟩
def PAT_MBX_ARG_VALUE : BF := ⟨0, 32⟩
def PAT_MBX_OUT_DATA : BF := ⟨0, 32⟩
def PAT_MBX_IN_DATA : BF := ⟨0, 32⟩
def UPD_CTRL_EN : BF := ⟨0, 1⟩
def UPD_STATUS_FREE_SW : BF := ⟨8, 8⟩
def UPD_STATUS_REHASH : BF := ⟨2, 1⟩
def UPD_STATUS_HOLD : BF := ⟨1, 1⟩
def UPD_STATUS_IDLE : BF := ⟨0, 1⟩
def UPD_CFG_PROFILE : BF := ⟨0, 1⟩
def UPD_EPOCH_OLDEST : BF := ⟨16, 16⟩
def UPD_EPOCH_CURRENT : BF := ⟨0, 16⟩
def UPD_PART_SPARE_PHYS : BF := ⟨0, 7⟩
def UPD_MBX_CMD_TAG : BF := ⟨16, 16⟩
def UPD_MBX_CMD_OP : BF := ⟨0, 16⟩
def UPD_MBX_RESULT_TAG : BF := ⟨16, 16⟩
def UPD_MBX_RESULT_STATE : BF := ⟨14, 2⟩
def UPD_MBX_RESULT_CODE : BF := ⟨0, 8⟩
def UPD_SLOT_EPOCH : BF := ⟨16, 16⟩
def UPD_SLOT_PARCEL : BF := ⟨8, 6⟩
def UPD_SLOT_STATE : BF := ⟨0, 3⟩
def UPD_PART_MAP_PHYS : BF := ⟨0, 7⟩
def UPD_SEED_SEED : BF := ⟨0, 32⟩
def UPD_MBX_ARG_VALUE : BF := ⟨0, 32⟩
def UPD_MBX_DATA_DATA : BF := ⟨0, 32⟩
def LRN_CTRL_EN : BF := ⟨0, 1⟩
def LRN_STATUS_SLOT : BF := ⟨8, 8⟩
def LRN_STATUS_IDLE : BF := ⟨0, 1⟩
def LRN_CFG_STATIC_EVENT : BF := ⟨31, 1⟩
def LRN_CFG_TICK : BF := ⟨16, 10⟩
def LRN_CFG_AGE : BF := ⟨0, 16⟩
def TM_Q_CFG0_EN : BF := ⟨31, 1⟩
def TM_Q_CFG0_PRIO : BF := ⟨28, 3⟩
def TM_Q_CFG0_WEIGHT : BF := ⟨20, 8⟩
def TM_Q_CFG0_SAMP_PROF : BF := ⟨16, 4⟩
def TM_Q_CFG0_SUB : BF := ⟨0, 15⟩
def TM_Q_CFG1_RED_PROF : BF := ⟨26, 6⟩
def TM_Q_CFG1_RED_EN : BF := ⟨25, 1⟩
def TM_Q_CFG1_SPILL_PROF : BF := ⟨21, 4⟩
def TM_Q_CFG1_PFC_V : BF := ⟨20, 1⟩
def TM_Q_CFG1_PFC_PRI : BF := ⟨17, 3⟩
def TM_Q_CFG1_MAX_SOJOURN : BF := ⟨0, 16⟩
def TM_Q_QMAX_QMAX : BF := ⟨0, 29⟩
def TM_Q_SHARE_CELL_SHARE : BF := ⟨0, 20⟩
def TM_Q_RATE_RATE : BF := ⟨0, 32⟩
def TM_Q_BURST_BURST : BF := ⟨0, 24⟩
def TM_Q_POL_POL_V : BF := ⟨31, 1⟩
def TM_Q_POL_POLICER : BF := ⟨0, 18⟩
def TM_Q_STATUS_SPILL : BF := ⟨31, 1⟩
def TM_Q_STATUS_PAUSED : BF := ⟨30, 1⟩
def TM_Q_STATUS_WD : BF := ⟨29, 1⟩
def TM_Q_STATUS_DEPTH : BF := ⟨0, 29⟩
def TM_Q_SAMPLE_DEPTH_DEPTH : BF := ⟨0, 29⟩
def TM_Q_SAMPLE_DELAY_DELAY : BF := ⟨0, 32⟩
def TM_N_CFG_PRIO : BF := ⟨28, 3⟩
def TM_N_CFG_WEIGHT : BF := ⟨20, 8⟩
def TM_N_CFG_PARENT : BF := ⟨0, 12⟩
def TM_N_RATE_RATE : BF := ⟨0, 32⟩
def TM_N_BURST_BURST : BF := ⟨0, 24⟩
def TM_G_CFG_PRIO : BF := ⟨28, 3⟩
def TM_G_CFG_WEIGHT : BF := ⟨20, 8⟩
def TM_G_CFG_PARENT : BF := ⟨0, 12⟩
def TM_G_RATE_RATE : BF := ⟨0, 32⟩
def TM_G_BURST_BURST : BF := ⟨0, 24⟩
def TM_P_CFG_FC_MODE : BF := ⟨30, 2⟩
def TM_P_CFG_WD_ACTION : BF := ⟨29, 1⟩
def TM_P_CFG_DEF_PRI : BF := ⟨26, 3⟩
def TM_P_CFG_SMAC_IDX : BF := ⟨16, 8⟩
def TM_P_CFG_ADJ : BF := ⟨0, 8⟩
def TM_P_RATE_RATE : BF := ⟨0, 32⟩
def TM_P_BURST_BURST : BF := ⟨0, 24⟩
def TM_P_XOFF_CELLS : BF := ⟨0, 20⟩
def TM_P_XON_CELLS : BF := ⟨0, 20⟩
def TM_P_QUANTA_REFRESH_US : BF := ⟨16, 16⟩
def TM_P_QUANTA_QUANTA : BF := ⟨0, 16⟩
def TM_P_WD_RESTORE : BF := ⟨16, 16⟩
def TM_P_WD_LIMIT : BF := ⟨0, 16⟩
def TM_P_STATUS_WD_ACTIVE : BF := ⟨24, 8⟩
def TM_P_STATUS_XOFF_SENT : BF := ⟨16, 8⟩
def TM_P_STATUS_PAUSED : BF := ⟨8, 8⟩
def TM_POL_CFG_MODE : BF := ⟨31, 1⟩
def TM_POL_CFG_AWARE : BF := ⟨30, 1⟩
def TM_POL_CFG_RED_ACT : BF := ⟨29, 1⟩
def TM_POL_CFG_PANEL : BF := ⟨24, 4⟩
def TM_POL_CFG_ADJ : BF := ⟨0, 8⟩
def TM_POL_CIR_RATE : BF := ⟨0, 32⟩
def TM_POL_PIR_RATE : BF := ⟨0, 32⟩
def TM_POL_CBS_SIZE : BF := ⟨0, 24⟩
def TM_POL_XBS_SIZE : BF := ⟨0, 24⟩
def TM_POL_TC_TOKENS : BF := ⟨0, 32⟩
def TM_POL_TX_TOKENS : BF := ⟨0, 32⟩
def TM_WIN_SEL_KIND : BF := ⟨16, 3⟩
def TM_WIN_SEL_BLOCK : BF := ⟨0, 4⟩
def PMC_VIEW_SNAP : BF := ⟨0, 1⟩
def VF_STATUS_OFF_ACCESS : BF := ⟨4, 1⟩
def VF_STATUS_LOCK_WRITE : BF := ⟨3, 1⟩
def VF_STATUS_BAD_VALUE : BF := ⟨2, 1⟩
def VF_STATUS_BAD_ACCESS : BF := ⟨1, 1⟩
def VF_STATUS_CFG_IGNORED : BF := ⟨0, 1⟩
def VF_ERR_ADDR_KIND : BF := ⟨16, 3⟩
def VF_ERR_ADDR_ADDR : BF := ⟨0, 16⟩
def VF_PARCEL_STATE : BF := ⟨16, 3⟩
def VF_PARCEL_PARCEL : BF := ⟨0, 6⟩
def VF_TM_SEL_KIND : BF := ⟨28, 3⟩
def VF_TM_SEL_INDEX : BF := ⟨0, 18⟩
def VF_MBX_CMD_TAG : BF := ⟨16, 16⟩
def VF_MBX_CMD_OP : BF := ⟨0, 16⟩
def VF_MBX_ARG_VALUE : BF := ⟨0, 32⟩
def VF_MBX_RESULT_TAG : BF := ⟨16, 16⟩
def VF_MBX_RESULT_STATE : BF := ⟨14, 2⟩
def VF_MBX_RESULT_CODE : BF := ⟨0, 8⟩
def VF_MBX_DATA_DATA : BF := ⟨0, 32⟩
def VF_DOORBELL_INDEX : BF := ⟨0, 32⟩
def RING_CFG_SIZE : BF := ⟨28, 4⟩
def RING_CFG_BUF : BF := ⟨26, 2⟩
def RING_CFG_IRQ : BF := ⟨25, 1⟩
def RING_CFG_VEC : BF := ⟨19, 6⟩
def RING_CFG_MOD : BF := ⟨1, 16⟩
def RING_CFG_EN : BF := ⟨0, 1⟩
def RING_BASE_LO_BASE : BF := ⟨12, 20⟩
def RING_BASE_HI_BASE : BF := ⟨0, 32⟩
def RING_HOST_INDEX : BF := ⟨0, 32⟩
def RING_ENG_INDEX : BF := ⟨0, 32⟩
def RING_SEQ_LO_LAST : BF := ⟨0, 32⟩
def RING_SEQ_HI_LAST : BF := ⟨0, 32⟩
def RING_STATUS_ERR : BF := ⟨1, 1⟩
def RING_STATUS_IDLE : BF := ⟨0, 1⟩
def RING_POL_V : BF := ⟨31, 1⟩
def RING_POL_POLICER : BF := ⟨0, 18⟩
def MSIX_TABLE_DATA : BF := ⟨0, 32⟩
def MSIX_PBA_PENDING : BF := ⟨0, 32⟩

end Sys2Proof.Machine.Fd
end

