-- ==== Sys2Proof/Machine/RegTable.lean ====
section
/-!
DEFINITION. The spec's register tables as data: for each register its name, base, index dimensions, width, whether a
write is applied to all nine slices (R141, R176, R202, R225), and its fields with type (R60), class (R67, R68), reset
value, and the values the field's row reserves or clamps (R62).
-/

namespace Sys2Proof.Machine

/-- Register rows of the GLB group. -/
def glbRegs : List RegDesc := [
  ⟨"GLB_ID", 0, [], .w32, .plain, [⟨16, 16, .ro, .none, 0x5120, .any⟩, ⟨8, 8, .ro, .none, 0x41, .any⟩]⟩,
  ⟨"GLB_VARIANT", 4, [], .w32, .plain, [⟨0, 8, .ro, .none, 0, .any⟩]⟩,
  ⟨"GLB_UID_LO", 8, [], .w32, .plain, [⟨0, 32, .ro, .none, 0, .any⟩]⟩,
  ⟨"GLB_UID_HI", 0xc, [], .w32, .plain, [⟨0, 32, .ro, .none, 0, .any⟩]⟩,
  ⟨"GLB_STATUS", 0x10, [], .w32, .plain, [⟨6, 1, .ro, .none, 0, .any⟩, ⟨4, 1, .w1c, .none, 0, .any⟩, ⟨3, 1, .w1c, .none, 0, .any⟩, ⟨2, 1, .w1c, .none, 0, .any⟩, ⟨1, 1, .w1c, .none, 0, .any⟩, ⟨0, 1, .w1c, .none, 0, .any⟩]⟩,
  ⟨"GLB_ERR_ADDR", 0x14, [], .w32, .plain, [⟨28, 4, .ro, .none, 0, .any⟩, ⟨25, 3, .ro, .none, 0, .any⟩, ⟨0, 25, .ro, .none, 0, .any⟩]⟩,
  ⟨"GLB_SCRATCH", 0x18, [], .w32, .plain, [⟨0, 32, .rw, .live, 0, .any⟩]⟩,
  ⟨"GLB_LOCK", 0x1c, [], .w32, .plain, [⟨0, 1, .w1s, .live, 0, .any⟩]⟩]

/-- Register rows of the RST group. -/
def rstRegs : List RegDesc := [
  ⟨"RST_CAUSE", 0x10000, [], .w32, .plain, [⟨11, 1, .w1c, .none, 0, .any⟩, ⟨8, 3, .ros, .none, 7, .any⟩, ⟨7, 1, .ros, .none, 0, .any⟩, ⟨0, 3, .ros, .none, 0, .any⟩]⟩,
  ⟨"RST_RESTART", 0x10030, [], .w32, .plain, [⟨16, 1, .ro, .none, 0, .any⟩, ⟨0, 16, .ros, .none, 0, .any⟩]⟩,
  ⟨"RST_SWRESET", 0x10034, [], .w32, .plain, [⟨16, 16, .wo, .live, 0, .oneOf [0x5A17]⟩, ⟨0, 2, .wo, .live, 0, .oneOf [1,2]⟩]⟩,
  ⟨"RST_BURST_ABORT", 0x10038, [], .w32, .plain, [⟨0, 32, .ro, .none, 0, .any⟩]⟩,
  ⟨"RST_BLK_CMD", 0x10040, [], .w32, .plain, [⟨16, 16, .wo, .live, 0, .any⟩, ⟨0, 16, .wo, .live, 0, .oneOf [1]⟩]⟩,
  ⟨"RST_BLK_ARG", 0x10044, [], .w32, .plain, [⟨0, 8, .rw, .live, 0, .any⟩]⟩,
  ⟨"RST_BLK_RESULT", 0x10048, [], .w32, .plain, [⟨16, 16, .ro, .none, 0, .any⟩, ⟨14, 2, .ro, .none, 0, .any⟩, ⟨0, 8, .ro, .none, 0, .any⟩]⟩,
  ⟨"RST_COUNT", 0x10010, [(7, 4)], .w32, .plain, [⟨0, 16, .rwh, .live, 0, .any⟩]⟩]

/-- Register rows of the BOOT group. -/
def bootRegs : List RegDesc := [
  ⟨"BOOT_STATUS", 0x20000, [], .w32, .plain, [⟨24, 8, .ro, .none, 0, .any⟩, ⟨20, 2, .ro, .none, 0, .any⟩, ⟨19, 1, .ro, .none, 0, .any⟩, ⟨16, 3, .ro, .none, 1, .any⟩]⟩,
  ⟨"BOOT_SLOT_PREF", 0x2000c, [], .w32, .plain, [⟨0, 1, .rw, .live, 0, .any⟩]⟩,
  ⟨"BOOT_FUSE", 0x20010, [], .w32, .plain, [⟨8, 3, .ro, .none, 0, .any⟩, ⟨0, 7, .ro, .none, 0, .any⟩]⟩,
  ⟨"BOOT_MBX_CMD", 0x20100, [], .w32, .plain, [⟨16, 16, .wo, .live, 0, .any⟩, ⟨0, 16, .wo, .live, 0, .any⟩]⟩,
  ⟨"BOOT_MBX_RESULT", 0x20110, [], .w32, .plain, [⟨16, 16, .ro, .none, 0, .any⟩, ⟨14, 2, .ro, .none, 0, .any⟩, ⟨0, 8, .ro, .none, 0, .any⟩]⟩,
  ⟨"BOOT_SLOT_STATUS", 0x20004, [(2, 4)], .w32, .plain, [⟨16, 8, .ro, .none, 0xff, .any⟩, ⟨0, 8, .ro, .none, 0xff, .any⟩]⟩,
  ⟨"BOOT_MBX_ARG", 0x20104, [(3, 4)], .w32, .plain, [⟨0, 32, .rw, .live, 0, .any⟩]⟩,
  ⟨"BOOT_MBX_DATA", 0x21000, [(1024, 4)], .w32, .plain, [⟨0, 32, .rw, .live, 0, .any⟩]⟩]

/-- Register rows of the PWR group. -/
def pwrRegs : List RegDesc := [
  ⟨"PWR_STATUS", 0x30000, [], .w32, .plain, [⟨6, 2, .ro, .none, 0, .any⟩, ⟨4, 2, .ro, .none, 0, .any⟩, ⟨3, 1, .ro, .none, 0, .any⟩, ⟨0, 3, .ro, .none, 0, .any⟩]⟩,
  ⟨"PWR_CFG", 0x30008, [], .w32, .plain, [⟨16, 16, .rwl, .live, 0x64, .clamp 1 65535⟩, ⟨8, 8, .rwl, .live, 0x14, .clamp 5 255⟩, ⟨0, 4, .rwl, .live, 4, .clamp 1 8⟩]⟩,
  ⟨"PWR_RTC_LO", 0x30100, [], .w32, .plain, [⟨0, 32, .rw, .live, 0, .any⟩]⟩,
  ⟨"PWR_RTC_HI", 0x30104, [], .w32, .plain, [⟨0, 16, .rw, .live, 0, .any⟩]⟩,
  ⟨"PWR_RTC_ALARM_LO", 0x30108, [], .w32, .plain, [⟨0, 32, .rw, .live, 0, .any⟩]⟩,
  ⟨"PWR_RTC_ALARM_HI", 0x3010c, [], .w32, .plain, [⟨0, 16, .rw, .live, 0, .any⟩]⟩,
  ⟨"PWR_RTC_CTRL", 0x30110, [], .w32, .plain, [⟨1, 1, .w1c, .none, 0, .any⟩, ⟨0, 1, .rw, .live, 0, .any⟩]⟩,
  ⟨"PWR_TEMP_CFG", 0x30480, [], .w32, .plain, [⟨16, 12, .rwl, .live, 0x3e8, .sclamp 0x370 0x3E8⟩, ⟨0, 12, .rw, .live, 0x320, .any⟩]⟩,
  ⟨"PWR_TEMP_HBM_CFG", 0x30484, [], .w32, .plain, [⟨16, 12, .rwl, .live, 0x320, .sclamp 0x2F8 0x320⟩, ⟨0, 12, .rw, .live, 0x2a8, .any⟩]⟩,
  ⟨"PWR_TEMP_STATUS", 0x30488, [], .w32, .plain, [⟨0, 29, .w1c, .none, 0, .any⟩]⟩,
  ⟨"PWR_MBX_CMD", 0x32400, [], .w32, .plain, [⟨16, 16, .wo, .live, 0, .any⟩, ⟨0, 16, .wo, .live, 0, .any⟩]⟩,
  ⟨"PWR_MBX_RESULT", 0x32410, [], .w32, .plain, [⟨16, 16, .ro, .none, 0, .any⟩, ⟨14, 2, .ro, .none, 0, .any⟩, ⟨0, 8, .ro, .none, 0, .any⟩]⟩,
  ⟨"PWR_LAST_REFUSE", 0x30010, [(4, 4)], .w32, .plain, [⟨31, 1, .ro, .none, 0, .any⟩, ⟨16, 8, .ro, .none, 0, .any⟩, ⟨8, 8, .ro, .none, 0, .any⟩]⟩,
  ⟨"PWR_CNT", 0x30200, [(16, 8)], .ctr64, .plain, []⟩,
  ⟨"PWR_PANEL_DISCARD", 0x30300, [(8, 0x10), (2, 8)], .ctr64, .plain, []⟩,
  ⟨"PWR_DOM", 0x30800, [(117, 4)], .w32, .plain, [⟨8, 2, .ro, .none, 0, .any⟩, ⟨3, 1, .ro, .none, 0, .any⟩, ⟨0, 3, .ro, .none, 0, .any⟩]⟩,
  ⟨"PWR_TEMP", 0x30400, [(32, 4)], .w32, .plain, [⟨31, 1, .ro, .none, 0, .any⟩, ⟨0, 12, .ro, .none, 0, .any⟩]⟩,
  ⟨"PWR_MBX_ARG", 0x32404, [(2, 4)], .w32, .plain, [⟨0, 32, .rw, .live, 0, .any⟩]⟩]

/-- Register rows of the FLT group. -/
def fltRegs : List RegDesc := [
  ⟨"FLT_STATUS", 0x40000, [], .w32, .plain, [⟨16, 8, .ro, .none, 0, .any⟩, ⟨4, 1, .w1c, .none, 0, .any⟩, ⟨3, 1, .ro, .none, 0, .any⟩, ⟨2, 1, .ro, .none, 0, .any⟩, ⟨1, 1, .ro, .none, 0, .any⟩]⟩,
  ⟨"FLT_CTRL", 0x40004, [], .w32, .plain, [⟨3, 1, .rwl, .live, 0, .any⟩, ⟨2, 1, .w1s, .live, 0, .any⟩, ⟨1, 1, .w1s, .live, 0, .any⟩, ⟨0, 1, .w1s, .live, 0, .any⟩]⟩,
  ⟨"FLT_TKO_CFG", 0x40008, [], .w32, .plain, [⟨31, 1, .rwl, .live, 1, .any⟩, ⟨0, 16, .rwl, .live, 0, .any⟩]⟩,
  ⟨"FLT_TKO_STATUS", 0x4000c, [], .w32, .plain, [⟨31, 1, .ro, .none, 0, .any⟩, ⟨30, 1, .ro, .none, 0, .any⟩, ⟨24, 3, .ro, .none, 0, .any⟩, ⟨16, 8, .ro, .none, 0, .any⟩, ⟨0, 9, .ro, .none, 0, .any⟩]⟩,
  ⟨"FLT_WDT_STATUS", 0x40220, [], .w32, .plain, [⟨0, 4, .ro, .none, 0, .any⟩]⟩,
  ⟨"FLT_HIST_PTR", 0x40300, [], .w32, .plain, [⟨8, 6, .ro, .none, 0, .any⟩, ⟨0, 5, .ro, .none, 0, .any⟩]⟩,
  ⟨"FLT_JRN_STATUS", 0x40800, [], .w32, .plain, [⟨31, 1, .ro, .none, 0, .any⟩, ⟨0, 12, .ro, .none, 0, .any⟩]⟩,
  ⟨"FLT_MBX_CMD", 0x40d00, [], .w32, .plain, [⟨16, 16, .wo, .live, 0, .any⟩, ⟨0, 16, .wo, .live, 0, .any⟩]⟩,
  ⟨"FLT_MBX_RESULT", 0x40d10, [], .w32, .plain, [⟨16, 16, .ro, .none, 0, .any⟩, ⟨14, 2, .ro, .none, 0, .any⟩, ⟨0, 8, .ro, .none, 0, .any⟩]⟩,
  ⟨"FLT_SLICE_GEN", 0x40010, [(9, 4)], .w32, .plain, [⟨0, 16, .ro, .none, 0, .any⟩]⟩,
  ⟨"FLT_CLASS_CFG", 0x40100, [(32, 4)], .w32, .plain, [⟨4, 1, .rwl, .live, 0, .any⟩, ⟨3, 1, .rwl, .live, 0, .any⟩, ⟨2, 1, .rwl, .live, 0, .any⟩, ⟨1, 1, .rwl, .live, 0, .any⟩, ⟨0, 1, .rw, .live, 0, .any⟩]⟩,
  ⟨"FLT_WDT", 0x40200, [(4, 8)], .w32, .plain, [⟨0, 16, .rwl, .live, 0x64, .any⟩]⟩,
  ⟨"FLT_WDT_KICK", 0x40204, [(4, 8)], .w32, .plain, [⟨16, 16, .wo, .live, 0, .oneOf [0x6B1C]⟩]⟩,
  ⟨"FLT_FIRST", 0x40320, [(8, 4)], .w32, .plain, [⟨0, 32, .ro, .none, 0, .any⟩]⟩,
  ⟨"FLT_HIST", 0x40400, [(32, 0x20), (8, 4)], .w32, .plain, [⟨0, 32, .ro, .none, 0, .any⟩]⟩,
  ⟨"FLT_CNT", 0x40900, [(48, 8)], .ctr64, .plain, []⟩,
  ⟨"FLT_PANEL_CNT", 0x40c00, [(8, 0x10), (2, 8)], .ctr64, .plain, []⟩,
  ⟨"FLT_MBX_ARG", 0x40d04, [(2, 4)], .w32, .plain, [⟨0, 32, .rw, .live, 0, .any⟩]⟩,
  ⟨"FLT_MBX_DATA", 0x40d20, [(8, 4)], .w32, .plain, [⟨0, 32, .ro, .none, 0, .any⟩]⟩]

/-- Register rows of the DTM group. -/
def dtmRegs1 : List RegDesc := [
  ⟨"DTM_CTRL", 0x50000, [], .w32, .plain, [⟨0, 1, .rw, .live, 0, .any⟩]⟩,
  ⟨"DTM_STATUS", 0x50004, [], .w32, .plain, [⟨5, 1, .ro, .none, 0, .any⟩, ⟨4, 1, .ro, .none, 0, .any⟩, ⟨3, 1, .ro, .none, 0, .any⟩, ⟨2, 1, .ro, .none, 0, .any⟩, ⟨0, 1, .ro, .none, 1, .any⟩]⟩,
  ⟨"DTM_CFG", 0x50008, [], .w32, .plain, [⟨30, 2, .rw, .static, 2, .upto 2⟩, ⟨29, 1, .rw, .live, 1, .any⟩, ⟨27, 2, .rw, .live, 0, .upto 2⟩, ⟨26, 1, .rw, .live, 0, .any⟩, ⟨0, 10, .rw, .live, 0x64, .clamp 1 999⟩]⟩,
  ⟨"DTM_SERVE", 0x5000c, [], .w32, .plain, [⟨31, 1, .w1s, .live, 0, .any⟩, ⟨17, 1, .rw, .live, 0, .any⟩, ⟨0, 17, .rw, .live, 0x3e8, .clamp 10 100000⟩]⟩,
  ⟨"DTM_PPS_OUT_OFF", 0x50010, [], .w32, .plain, [⟨0, 32, .rw, .live, 0, .any⟩]⟩,
  ⟨"DTM_SRV_NOW_NS", 0x50180, [], .w32, .plain, [⟨0, 30, .ro, .none, 0, .any⟩]⟩,
  ⟨"DTM_SRV_NOW_SEC_LO", 0x50184, [], .w32, .plain, [⟨0, 32, .ro, .none, 0, .any⟩]⟩,
  ⟨"DTM_SRV_NOW_SEC_HI", 0x50188, [], .w32, .plain, [⟨0, 16, .ro, .none, 0, .any⟩]⟩,
  ⟨"DTM_SRV_NOW_FRAC", 0x5018c, [], .w32, .plain, [⟨0, 32, .ro, .none, 0, .any⟩]⟩,
  ⟨"DTM_SRV_OFF_A", 0x50190, [], .w32, .plain, [⟨0, 32, .ro, .none, 0, .any⟩]⟩,
  ⟨"DTM_SRV_OFF_B", 0x50194, [], .w32, .plain, [⟨0, 32, .ro, .none, 0, .any⟩]⟩,
  ⟨"DTM_SRV_PPS_NS", 0x50198, [], .w32, .plain, [⟨0, 30, .ro, .none, 0, .any⟩]⟩,
  ⟨"DTM_SRV_PPS_SEC_LO", 0x5019c, [], .w32, .plain, [⟨0, 32, .ro, .none, 0, .any⟩]⟩,
  ⟨"DTM_SRV_PPS_SEC_HI", 0x501a0, [], .w32, .plain, [⟨31, 1, .w1c, .none, 0, .any⟩, ⟨0, 16, .ro, .none, 0, .any⟩]⟩,
  ⟨"DTM_CNT", 0x50200, [(8, 8)], .ctr64, .plain, []⟩,
  ⟨"DTM_CLK_INC_LO", 0x50100, [(2, 0x40)], .w32, .plain, [⟨0, 32, .rw, .live, 0x40000000, .any⟩]⟩,
  ⟨"DTM_CLK_INC_HI", 0x50104, [(2, 0x40)], .w32, .plain, [⟨0, 8, .rw, .live, 1, .any⟩]⟩,
  ⟨"DTM_CLK_ADJ", 0x50108, [(2, 0x40)], .w32, .plain, [⟨0, 32, .rwh, .live, 0, .any⟩]⟩,
  ⟨"DTM_CLK_ADJ_CFG", 0x5010c, [(2, 0x40)], .w32, .plain, [⟨0, 10, .rw, .live, 0x64, .clamp 1 1000⟩]⟩,
  ⟨"DTM_CLK_SET_SEC_LO", 0x50110, [(2, 0x40)], .w32, .plain, [⟨0, 32, .rw, .live, 0, .any⟩]⟩]

/-- Register rows of the DTM group. -/
def dtmRegs2 : List RegDesc := [
  ⟨"DTM_CLK_SET_SEC_HI", 0x50114, [(2, 0x40)], .w32, .plain, [⟨0, 16, .rw, .live, 0, .any⟩]⟩,
  ⟨"DTM_CLK_SET_NS", 0x50118, [(2, 0x40)], .w32, .plain, [⟨0, 30, .rw, .live, 0, .upto 999999999⟩]⟩,
  ⟨"DTM_CLK_SET_CMD", 0x5011c, [(2, 0x40)], .w32, .plain, [⟨1, 1, .rw, .live, 0, .any⟩, ⟨0, 1, .w1s, .live, 0, .any⟩]⟩,
  ⟨"DTM_CLK_NOW_NS", 0x50120, [(2, 0x40)], .w32, .plain, [⟨0, 30, .ro, .none, 0, .any⟩]⟩,
  ⟨"DTM_CLK_NOW_SEC_LO", 0x50124, [(2, 0x40)], .w32, .plain, [⟨0, 32, .ro, .none, 0, .any⟩]⟩,
  ⟨"DTM_CLK_NOW_SEC_HI", 0x50128, [(2, 0x40)], .w32, .plain, [⟨0, 16, .ro, .none, 0, .any⟩]⟩,
  ⟨"DTM_CLK_NOW_FRAC", 0x5012c, [(2, 0x40)], .w32, .plain, [⟨0, 32, .ro, .none, 0, .any⟩]⟩,
  ⟨"DTM_CLK_PPS_NS", 0x50130, [(2, 0x40)], .w32, .plain, [⟨0, 30, .ro, .none, 0, .any⟩]⟩,
  ⟨"DTM_CLK_PPS_SEC_LO", 0x50134, [(2, 0x40)], .w32, .plain, [⟨0, 32, .ro, .none, 0, .any⟩]⟩,
  ⟨"DTM_CLK_PPS_SEC_HI", 0x50138, [(2, 0x40)], .w32, .plain, [⟨31, 1, .w1c, .none, 0, .any⟩, ⟨0, 16, .ro, .none, 0, .any⟩]⟩,
  ⟨"DTM_PORT_CFG", 0x51000, [(256, 0x20)], .w32, .plain, [⟨31, 1, .rw, .live, 0, .any⟩, ⟨30, 1, .rw, .live, 0, .any⟩]⟩,
  ⟨"DTM_PORT_RX_LAT", 0x51004, [(256, 0x20)], .w32, .plain, [⟨0, 24, .rwh, .live, 0, .any⟩]⟩,
  ⟨"DTM_PORT_TX_LAT", 0x51008, [(256, 0x20)], .w32, .plain, [⟨0, 24, .rwh, .live, 0, .any⟩]⟩,
  ⟨"DTM_PORT_ASYM", 0x5100c, [(256, 0x20)], .w32, .plain, [⟨0, 32, .rw, .live, 0, .any⟩]⟩,
  ⟨"DTM_PORT_LINK_DLY", 0x51010, [(256, 0x20)], .w32, .plain, [⟨0, 32, .rw, .live, 0, .any⟩]⟩,
  ⟨"DTM_MBX_CMD", 0x50800, [(2, 0x100)], .w32, .plain, [⟨16, 16, .wo, .live, 0, .any⟩, ⟨0, 16, .wo, .live, 0, .any⟩]⟩,
  ⟨"DTM_MBX_RESULT", 0x50810, [(2, 0x100)], .w32, .plain, [⟨16, 16, .ro, .none, 0, .any⟩, ⟨14, 2, .ro, .none, 0, .any⟩, ⟨0, 8, .ro, .none, 0, .any⟩]⟩,
  ⟨"DTM_MBX_ARG", 0x50804, [(2, 0x100), (3, 4)], .w32, .plain, [⟨0, 32, .rw, .live, 0, .any⟩]⟩,
  ⟨"DTM_MBX_DATA", 0x50820, [(2, 0x100), (4, 4)], .w32, .plain, [⟨0, 32, .ro, .none, 0, .any⟩]⟩]

/-- All rows of the DTM group. -/
def dtmRegs : List RegDesc := dtmRegs1 ++ dtmRegs2

/-- Register rows of the PAR group. -/
def parRegs : List RegDesc := [
  ⟨"PAR_MBX_CMD", 0x70000, [], .w32, .plain, [⟨16, 16, .wo, .live, 0, .any⟩, ⟨0, 16, .wo, .live, 0, .any⟩]⟩,
  ⟨"PAR_MBX_RESULT", 0x70020, [], .w32, .plain, [⟨16, 16, .ro, .none, 0, .any⟩, ⟨14, 2, .ro, .none, 0, .any⟩, ⟨0, 8, .ro, .none, 0, .any⟩]⟩,
  ⟨"PAR_MBX_ARG", 0x70004, [(4, 4)], .w32, .plain, [⟨0, 32, .rw, .live, 0, .any⟩]⟩,
  ⟨"PAR_MBX_DATA", 0x70040, [(2, 4)], .w32, .plain, [⟨0, 32, .ro, .none, 0, .any⟩]⟩,
  ⟨"PAR_CTRL", 0x71000, [(64, 0x80)], .w32, .plain, [⟨0, 1, .rwh, .live, 0, .any⟩]⟩,
  ⟨"PAR_STATUS", 0x71004, [(64, 0x80)], .w32, .plain, [⟨0, 3, .ro, .none, 0, .any⟩]⟩,
  ⟨"PAR_QUOTA", 0x71008, [(64, 0x80)], .w32, .plain, [⟨24, 8, .rw, .epoch, 0, .clamp 0 252⟩, ⟨0, 24, .rw, .epoch, 0, .any⟩]⟩,
  ⟨"PAR_RINGS", 0x7100c, [(64, 0x80)], .w32, .plain, [⟨16, 16, .rw, .epoch, 0, .any⟩, ⟨8, 3, .rw, .epoch, 0, .upto 4⟩, ⟨4, 2, .rw, .epoch, 0, .any⟩, ⟨0, 3, .rw, .epoch, 0, .upto 4⟩]⟩,
  ⟨"PAR_USED", 0x71010, [(64, 0x80)], .w32, .plain, [⟨0, 24, .ro, .none, 0, .any⟩]⟩,
  ⟨"PAR_RANGE_BASE", 0x71040, [(64, 0x80), (8, 8)], .w32, .plain, [⟨0, 20, .rw, .epoch, 0, .any⟩]⟩,
  ⟨"PAR_RANGE_CNT", 0x71044, [(64, 0x80), (8, 8)], .w32, .plain, [⟨0, 21, .rw, .epoch, 0, .any⟩]⟩]

/-- Register rows of the TET group. -/
def tetRegs : List RegDesc := [
  ⟨"TET_CTRL", 0x80000, [], .w32, .plain, [⟨0, 1, .rw, .live, 0, .any⟩]⟩,
  ⟨"TET_STATUS", 0x80004, [], .w32, .plain, [⟨16, 16, .ro, .none, 0, .any⟩, ⟨14, 2, .ro, .none, 0, .any⟩, ⟨12, 2, .ro, .none, 0, .any⟩, ⟨8, 4, .ro, .none, 0, .any⟩, ⟨7, 1, .ro, .none, 0, .any⟩, ⟨6, 1, .ro, .none, 0, .any⟩, ⟨5, 1, .ro, .none, 0, .any⟩, ⟨4, 1, .ro, .none, 0, .any⟩, ⟨0, 1, .ro, .none, 1, .any⟩]⟩,
  ⟨"TET_CFG", 0x80008, [], .w32, .plain, [⟨31, 1, .rw, .live, 1, .any⟩, ⟨16, 8, .rw, .live, 4, .clamp 2 255⟩, ⟨0, 16, .rw, .live, 0x32, .clamp 10 10000⟩]⟩,
  ⟨"TET_CFG2", 0x8000c, [], .w32, .plain, [⟨0, 16, .rw, .live, 0x3e8, .clamp 1 65535⟩]⟩,
  ⟨"TET_MBX_CMD", 0x80200, [], .w32, .plain, [⟨16, 16, .wo, .live, 0, .any⟩, ⟨0, 16, .wo, .live, 0, .any⟩]⟩,
  ⟨"TET_MBX_RESULT", 0x80210, [], .w32, .plain, [⟨16, 16, .ro, .none, 0, .any⟩, ⟨14, 2, .ro, .none, 0, .any⟩, ⟨0, 8, .ro, .none, 0, .any⟩]⟩,
  ⟨"TET_CNT", 0x80100, [(8, 8)], .ctr64, .plain, []⟩]

/-- Register rows of the MGT group. -/
def mgtRegs : List RegDesc := [
  ⟨"MGT_CFG", 0x90000, [], .w32, .plain, [⟨16, 7, .rw, .live, 0x5a, .clamp 50 100⟩, ⟨0, 16, .rw, .live, 0xa, .clamp 1 65535⟩]⟩,
  ⟨"MGT_DBG_CFG", 0x90040, [], .w32, .plain, [⟨0, 1, .rwl, .live, 1, .any⟩]⟩,
  ⟨"MGT_DBG_CTRL", 0x90044, [], .w32, .plain, [⟨0, 1, .w1s, .live, 0, .any⟩]⟩,
  ⟨"MGT_DBG_STATUS", 0x90048, [], .w32, .plain, [⟨16, 3, .ro, .none, 0, .any⟩, ⟨8, 8, .ro, .none, 0, .any⟩, ⟨0, 2, .ro, .none, 0, .any⟩]⟩,
  ⟨"MGT_CORE_STATUS", 0x90010, [(6, 4)], .w32, .plain, [⟨16, 8, .ro, .none, 0, .any⟩, ⟨3, 1, .ro, .none, 0, .any⟩, ⟨2, 1, .ro, .none, 0, .any⟩, ⟨1, 1, .ro, .none, 0, .any⟩, ⟨0, 1, .ro, .none, 0, .any⟩]⟩,
  ⟨"MGT_CNT", 0x90100, [(4, 8)], .ctr64, .plain, []⟩]

/-- Register rows of the PMC group. -/
def pmcRegs : List RegDesc := [
  ⟨"PMC_CTRL", 0xa0000, [], .w32, .plain, [⟨0, 1, .rw, .live, 0, .any⟩]⟩,
  ⟨"PMC_SNAP_CTRL", 0xa0008, [], .w32, .plain, [⟨31, 1, .w1s, .live, 0, .any⟩, ⟨0, 16, .rw, .live, 0, .any⟩]⟩,
  ⟨"PMC_SNAP_STATUS", 0xa000c, [], .w32, .plain, [⟨16, 16, .ro, .none, 0, .any⟩, ⟨0, 1, .ro, .none, 0, .any⟩]⟩,
  ⟨"PMC_BW_CFG", 0xa0014, [], .w32, .plain, [⟨0, 14, .rw, .live, 0x3e8, .clamp 1 10000⟩]⟩,
  ⟨"PMC_BW_STATUS", 0xa0018, [], .w32, .plain, [⟨0, 32, .ro, .none, 0, .any⟩]⟩,
  ⟨"PMC_CTR_CFG", 0xa0100, [(64, 4)], .w32, .plain, [⟨31, 1, .rw, .live, 0, .any⟩, ⟨29, 2, .rw, .live, 0, .upto 1⟩, ⟨8, 8, .rw, .live, 0, .any⟩, ⟨0, 8, .rw, .live, 0, .any⟩]⟩,
  ⟨"PMC_CTR_THR", 0xa0200, [(64, 4)], .w32, .plain, [⟨0, 32, .rw, .live, 0, .any⟩]⟩,
  ⟨"PMC_CTR", 0xa0400, [(64, 8)], .rw64, .plain, []⟩,
  ⟨"PMC_BW", 0xa1000, [(256, 0x20), (4, 8)], .ctr64, .plain, []⟩]

/-- Register rows of the MBUS group. -/
def mbusRegs : List RegDesc := [
  ⟨"MBUS_CTRL", 0xb0000, [(4, 0x100)], .w32, .plain, [⟨0, 1, .rw, .live, 0, .any⟩]⟩,
  ⟨"MBUS_CFG", 0xb0004, [(4, 0x100)], .w32, .plain, [⟨24, 7, .rw, .static, 0, .any⟩, ⟨16, 2, .rw, .static, 0, .upto 2⟩, ⟨8, 8, .rw, .live, 0x19, .clamp 1 255⟩]⟩,
  ⟨"MBUS_STATUS", 0xb0008, [(4, 0x100)], .w32, .plain, [⟨3, 1, .ro, .none, 0, .any⟩, ⟨2, 1, .ro, .none, 0, .any⟩, ⟨1, 1, .ro, .none, 0, .any⟩, ⟨0, 1, .ro, .none, 1, .any⟩]⟩,
  ⟨"MBUS_MBX_CMD", 0xb0080, [(4, 0x100)], .w32, .plain, [⟨16, 16, .wo, .live, 0, .any⟩, ⟨0, 16, .wo, .live, 0, .any⟩]⟩,
  ⟨"MBUS_MBX_RESULT", 0xb0090, [(4, 0x100)], .w32, .plain, [⟨16, 16, .ro, .none, 0, .any⟩, ⟨14, 2, .ro, .none, 0, .any⟩, ⟨0, 8, .ro, .none, 0, .any⟩]⟩,
  ⟨"MBUS_CNT", 0xb0040, [(4, 0x100), (6, 8)], .ctr64, .plain, []⟩,
  ⟨"MBUS_MBX_ARG", 0xb0084, [(4, 0x100), (2, 4)], .w32, .plain, [⟨0, 32, .rw, .live, 0, .any⟩]⟩,
  ⟨"MBUS_MBX_WDATA", 0xb00c0, [(4, 0x100), (8, 4)], .w32, .plain, [⟨0, 32, .rw, .live, 0, .any⟩]⟩,
  ⟨"MBUS_MBX_DATA", 0xb00a0, [(4, 0x100), (8, 4)], .w32, .plain, [⟨0, 32, .ro, .none, 0, .any⟩]⟩]

/-- Register rows of the MEM group. -/
def memRegs : List RegDesc := [
  ⟨"MEM_CTRL", 0xc0000, [(4, 0x4000)], .w32, .plain, [⟨0, 1, .rw, .live, 0, .any⟩]⟩,
  ⟨"MEM_STATUS", 0xc0004, [(4, 0x4000)], .w32, .plain, [⟨7, 1, .ro, .none, 0, .any⟩, ⟨6, 1, .ro, .none, 0, .any⟩, ⟨5, 1, .ro, .none, 0, .any⟩, ⟨4, 1, .ro, .none, 0, .any⟩, ⟨2, 2, .ro, .none, 2, .any⟩, ⟨1, 1, .ro, .none, 0, .any⟩, ⟨0, 1, .ro, .none, 1, .any⟩]⟩,
  ⟨"MEM_CFG", 0xc0008, [(4, 0x4000)], .w32, .plain, [⟨8, 8, .rw, .live, 3, .any⟩, ⟨0, 8, .rw, .live, 0x14, .clamp 1 255⟩]⟩,
  ⟨"MEM_SPILL_CAP", 0xc000c, [(4, 0x4000)], .w32, .plain, [⟨16, 16, .rw, .live, 0x2ee, .clamp 0 2048⟩, ⟨0, 16, .rw, .live, 0x2ee, .clamp 0 2048⟩]⟩,
  ⟨"MEM_MIG", 0xc0010, [(4, 0x4000)], .w32, .plain, [⟨16, 16, .ro, .none, 0, .any⟩, ⟨8, 7, .ro, .none, 0, .any⟩, ⟨0, 7, .ro, .none, 0, .any⟩]⟩,
  ⟨"MEM_CH_STATUS", 0xc0014, [(4, 0x4000)], .w32, .plain, [⟨0, 32, .ro, .none, 0, .any⟩]⟩,
  ⟨"MEM_WITHDRAWN", 0xc0018, [(4, 0x4000)], .w32, .plain, [⟨0, 32, .ro, .none, 0, .any⟩]⟩,
  ⟨"MEM_RANK", 0xc0100, [(4, 0x4000), (128, 4)], .w32, .plain, [⟨31, 1, .w1s, .live, 0, .any⟩, ⟨30, 1, .ro, .none, 0, .any⟩, ⟨29, 1, .ro, .none, 0, .any⟩, ⟨28, 1, .ro, .none, 1, .any⟩, ⟨16, 7, .ro, .none, 0, .any⟩, ⟨0, 16, .rwh, .live, 0, .any⟩]⟩,
  ⟨"MEM_CNT", 0xc0400, [(4, 0x4000), (16, 8)], .ctr64, .plain, []⟩]

/-- Register rows of the XM group. -/
def xmRegs : List RegDesc := [
  ⟨"XM_CTRL", 0xd0000, [(2, 0x100)], .w32, .plain, [⟨0, 1, .rw, .live, 0, .any⟩]⟩,
  ⟨"XM_STATUS", 0xd0004, [(2, 0x100)], .w32, .plain, [⟨16, 16, .ro, .none, 0, .any⟩, ⟨2, 1, .ro, .none, 0, .any⟩, ⟨0, 1, .ro, .none, 1, .any⟩]⟩,
  ⟨"XM_CNT", 0xd0040, [(2, 0x100), (6, 8)], .ctr64, .plain, []⟩,
  ⟨"XM_MISS_LO", 0xd0200, [], .w32, .plain, [⟨0, 32, .ro, .none, 0, .any⟩]⟩,
  ⟨"XM_MISS_HI", 0xd0204, [], .w32, .plain, [⟨26, 6, .ro, .none, 0, .any⟩, ⟨25, 1, .w1c, .none, 0, .any⟩, ⟨0, 20, .ro, .none, 0, .any⟩]⟩,
  ⟨"XM_XLT_CFG", 0xd1000, [(1024, 0x10)], .w32, .plain, [⟨31, 1, .rw, .epoch, 0, .any⟩, ⟨30, 1, .rw, .epoch, 0, .any⟩, ⟨29, 1, .rw, .epoch, 0, .any⟩, ⟨0, 6, .rw, .epoch, 0, .any⟩]⟩,
  ⟨"XM_XLT_BASE", 0xd1004, [(1024, 0x10)], .w32, .plain, [⟨0, 31, .rw, .epoch, 0, .any⟩]⟩,
  ⟨"XM_XLT_LIMIT", 0xd1008, [(1024, 0x10)], .w32, .plain, [⟨0, 31, .rw, .epoch, 0, .any⟩]⟩,
  ⟨"XM_XLT_DEV", 0xd100c, [(1024, 0x10)], .w32, .plain, [⟨0, 31, .rw, .epoch, 0, .any⟩]⟩]

/-- Register rows of the BPM group. -/
def bpmRegs1 : List RegDesc := [
  ⟨"BPM_CTRL", 0xe0000, [], .w32, .plain, [⟨0, 1, .rw, .live, 0, .any⟩]⟩,
  ⟨"BPM_STATUS", 0xe0004, [], .w32, .plain, [⟨8, 8, .ro, .none, 0xff, .any⟩, ⟨0, 1, .ro, .none, 1, .any⟩]⟩,
  ⟨"BPM_CELL_CFG", 0xe0008, [], .w32, .plain, [⟨0, 8, .rw, .live, 0xff, .any⟩]⟩,
  ⟨"BPM_REFILL_CFG", 0xe000c, [], .w32, .plain, [⟨0, 19, .rw, .static, 0x10000, .any⟩]⟩,
  ⟨"BPM_HEAD_CFG", 0xe0010, [], .w32, .plain, [⟨0, 16, .rw, .static, 0x1000, .any⟩]⟩,
  ⟨"BPM_CELL_FREE", 0xe0020, [], .w32, .plain, [⟨0, 20, .ro, .none, 0x80000, .any⟩]⟩,
  ⟨"BPM_SHARED_AVAIL", 0xe0024, [], .w32, .plain, [⟨0, 20, .ro, .none, 0, .any⟩]⟩,
  ⟨"BPM_REFILL_FREE", 0xe0028, [], .w32, .plain, [⟨0, 19, .ro, .none, 0, .any⟩]⟩,
  ⟨"BPM_PAGE_TOTAL", 0xe002c, [], .w32, .plain, [⟨0, 25, .ro, .none, 0, .any⟩]⟩,
  ⟨"BPM_PAGE_FREE", 0xe0030, [], .w32, .plain, [⟨0, 25, .ro, .none, 0, .any⟩]⟩,
  ⟨"BPM_AUDIT_CFG", 0xe0040, [], .w32, .plain, [⟨31, 1, .rw, .live, 0, .any⟩, ⟨0, 16, .rw, .live, 0x3e8, .clamp 10 65535⟩]⟩,
  ⟨"BPM_LEAK_STATUS", 0xe0060, [(8, 4)], .w32, .plain, [⟨0, 32, .w1c, .none, 0, .any⟩]⟩,
  ⟨"BPM_PORT_RSV", 0xe1000, [(256, 8)], .w32, .plain, [⟨0, 16, .rw, .static, 0x40, .any⟩]⟩,
  ⟨"BPM_PORT_SHMAX", 0xe1004, [(256, 8)], .w32, .plain, [⟨0, 20, .rw, .live, 0x80000, .any⟩]⟩,
  ⟨"BPM_PORT_USE", 0xe1800, [(256, 4)], .w32, .plain, [⟨0, 20, .ro, .none, 0, .any⟩]⟩,
  ⟨"BPM_SPILL_PROF", 0xe3000, [(16, 4)], .w32, .plain, [⟨20, 12, .rw, .live, 0x80, .clamp 68 4095⟩, ⟨0, 20, .rw, .live, 0, .any⟩]⟩,
  ⟨"BPM_CNT", 0xe4000, [(16, 8)], .ctr64, .plain, []⟩,
  ⟨"BPM_XP_CFG", 0xe6000, [(16, 0x20)], .w32, .plain, [⟨31, 1, .rw, .live, 0, .any⟩, ⟨28, 1, .rw, .static, 0, .any⟩, ⟨24, 4, .rw, .static, 0, .upto 9⟩, ⟨0, 6, .rw, .static, 0, .any⟩]⟩,
  ⟨"BPM_XP_LEAVES", 0xe6004, [(16, 0x20)], .w32, .plain, [⟨0, 26, .rw, .static, 0, .any⟩]⟩,
  ⟨"BPM_XP_META_LO", 0xe6008, [(16, 0x20)], .w32, .plain, [⟨6, 26, .rw, .static, 0, .any⟩]⟩]

/-- Register rows of the BPM group. -/
def bpmRegs2 : List RegDesc := [
  ⟨"BPM_XP_META_HI", 0xe600c, [(16, 0x20)], .w32, .plain, [⟨0, 20, .rw, .static, 0, .any⟩]⟩,
  ⟨"BPM_XP_BUF_LO", 0xe6010, [(16, 0x20)], .w32, .plain, [⟨12, 20, .rw, .static, 0, .any⟩]⟩,
  ⟨"BPM_XP_BUF_HI", 0xe6014, [(16, 0x20)], .w32, .plain, [⟨0, 20, .rw, .static, 0, .any⟩]⟩,
  ⟨"BPM_XP_FREE", 0xe6018, [(16, 0x20)], .w32, .plain, [⟨0, 32, .ro, .none, 0, .any⟩]⟩,
  ⟨"BPM_XP_STATUS", 0xe601c, [(16, 0x20)], .w32, .plain, [⟨0, 1, .ro, .none, 0, .any⟩]⟩,
  ⟨"BPM_OWNER_CFG", 0xe8000, [(256, 0x40)], .w32, .plain, [⟨31, 1, .rw, .live, 0, .any⟩, ⟨30, 1, .rw, .live, 0, .any⟩, ⟨16, 4, .rw, .live, 0, .any⟩, ⟨8, 6, .rw, .live, 0, .any⟩, ⟨0, 8, .rw, .live, 0, .any⟩]⟩,
  ⟨"BPM_OWNER_ALARMS", 0xe8030, [(256, 0x40)], .w32, .plain, [⟨0, 32, .ro, .none, 0, .any⟩]⟩,
  ⟨"BPM_OWNER_OLDEST", 0xe8034, [(256, 0x40)], .w32, .plain, [⟨30, 2, .ro, .none, 0, .any⟩, ⟨4, 4, .ro, .none, 0, .any⟩, ⟨0, 4, .ro, .none, 0, .any⟩]⟩,
  ⟨"BPM_OWNER_OLDIDX", 0xe8038, [(256, 0x40)], .w32, .plain, [⟨0, 32, .ro, .none, 0, .any⟩]⟩,
  ⟨"BPM_OWNER_OUT", 0xe8004, [(256, 0x40), (3, 4)], .w32, .plain, [⟨0, 32, .ro, .none, 0, .any⟩]⟩,
  ⟨"BPM_OWNER_HIST", 0xe8010, [(256, 0x40), (8, 4)], .w32, .plain, [⟨0, 32, .ro, .none, 0, .any⟩]⟩,
  ⟨"BPM_MBX_CMD", 0xe7000, [(2, 0x100)], .w32, .plain, [⟨16, 16, .wo, .live, 0, .any⟩, ⟨0, 16, .wo, .live, 0, .any⟩]⟩,
  ⟨"BPM_MBX_RESULT", 0xe7010, [(2, 0x100)], .w32, .plain, [⟨16, 16, .ro, .none, 0, .any⟩, ⟨14, 2, .ro, .none, 0, .any⟩, ⟨0, 8, .ro, .none, 0, .any⟩]⟩,
  ⟨"BPM_MBX_ARG", 0xe7004, [(2, 0x100), (2, 4)], .w32, .plain, [⟨0, 32, .rw, .live, 0, .any⟩]⟩,
  ⟨"BPM_MBX_DATA", 0xe7020, [(2, 0x100), (3, 4)], .w32, .plain, [⟨0, 32, .ro, .none, 0, .any⟩]⟩]

/-- All rows of the BPM group. -/
def bpmRegs : List RegDesc := bpmRegs1 ++ bpmRegs2

/-- Register rows of the TMG group. -/
def tmgRegs : List RegDesc := [
  ⟨"TM_CTRL", 0xf0000, [], .w32, .plain, [⟨0, 1, .rw, .live, 0, .any⟩]⟩,
  ⟨"TM_STATUS", 0xf0004, [], .w32, .plain, [⟨0, 1, .ro, .none, 1, .any⟩]⟩,
  ⟨"TM_RED_CFG", 0xf0100, [(64, 0x20)], .w32, .plain, [⟨31, 1, .rw, .live, 0, .any⟩, ⟨0, 4, .rw, .live, 9, .any⟩]⟩,
  ⟨"TM_RED_MIN", 0xf0104, [(64, 0x20), (3, 8)], .w32, .plain, [⟨0, 29, .rw, .live, 0x1fffffff, .any⟩]⟩,
  ⟨"TM_RED_MAX", 0xf0108, [(64, 0x20), (3, 8)], .w32, .plain, [⟨0, 29, .rw, .live, 0x1fffffff, .any⟩]⟩,
  ⟨"TM_RED_PMAX", 0xf011c, [(64, 0x20)], .w32, .plain, [⟨0, 24, .rw, .live, 0, .any⟩]⟩,
  ⟨"TM_SAMP_PROF", 0xf0900, [(16, 4)], .w32, .plain, [⟨0, 20, .rw, .live, 0, .clamp 0 1000000⟩]⟩,
  ⟨"TM_CNT", 0xf0a00, [(8, 8)], .ctr64, .plain, []⟩]

/-- Register rows of the PNL group. -/
def pnlRegs : List RegDesc := [
  ⟨"PNL_LANE_CFG", 0x100100, [(8, 0x20000), (34, 4)], .w32, .plain, [⟨9, 3, .rw, .static, 0, .any⟩, ⟨8, 1, .rw, .static, 0, .any⟩, ⟨7, 1, .rw, .static, 0, .any⟩, ⟨0, 4, .rw, .static, 0, .any⟩]⟩,
  ⟨"PNL_SPARE_CFG", 0x100200, [(8, 0x20000), (2, 4)], .w32, .plain, [⟨8, 1, .rw, .static, 0, .any⟩, ⟨0, 5, .rw, .static, 0, .any⟩]⟩,
  ⟨"PNL_SPARE_STATUS", 0x100210, [(8, 0x20000), (2, 4)], .w32, .plain, [⟨12, 4, .ro, .none, 0, .any⟩, ⟨8, 4, .ro, .none, 0, .any⟩, ⟨7, 1, .ro, .none, 0, .any⟩, ⟨6, 1, .ro, .none, 0, .any⟩, ⟨5, 1, .ro, .none, 0, .any⟩, ⟨0, 4, .ro, .none, 0, .any⟩]⟩,
  ⟨"PORT_CTRL", 0x101000, [(8, 0x20000), (32, 0x40)], .w32, .plain, [⟨2, 1, .w1s, .live, 0, .any⟩, ⟨1, 1, .w1s, .live, 0, .any⟩, ⟨0, 1, .rw, .live, 0, .any⟩]⟩,
  ⟨"PORT_CFG", 0x101004, [(8, 0x20000), (32, 0x40)], .w32, .plain, [⟨18, 14, .rw, .live, 0x2580, .clamp 1518 16383⟩, ⟨16, 2, .rw, .static, 0, .any⟩, ⟨15, 1, .rw, .static, 1, .any⟩, ⟨8, 4, .rw, .live, 5, .oneOf [0,3,4,5,6,7,8,9]⟩, ⟨4, 4, .rw, .live, 0, .upto 13⟩, ⟨0, 4, .rw, .static, 1, .oneOf [1,2,4,8]⟩]⟩,
  ⟨"PORT_STATUS", 0x101008, [(8, 0x20000), (32, 0x40)], .w32, .plain, [⟨26, 2, .ro, .none, 0, .any⟩, ⟨24, 2, .ro, .none, 0, .any⟩, ⟨22, 2, .ro, .none, 0, .any⟩, ⟨20, 2, .ro, .none, 0, .any⟩, ⟨11, 5, .ro, .none, 0x1f, .any⟩, ⟨8, 3, .ro, .none, 0, .any⟩, ⟨2, 1, .ro, .none, 0, .any⟩, ⟨1, 1, .ro, .none, 0, .any⟩, ⟨0, 1, .ro, .none, 1, .any⟩]⟩,
  ⟨"PORT_ADV", 0x10100c, [(8, 0x20000), (32, 0x40)], .w32, .plain, [⟨0, 17, .rw, .static, 0x1ffff, .any⟩]⟩,
  ⟨"PORT_CNT", 0x104000, [(8, 0x20000), (32, 0x100), (32, 8)], .ctr64, .plain, []⟩]

/-- Register rows of the PRS group. -/
def prsRegs : List RegDesc := [
  ⟨"PRS_CTRL", 0x200000, [(9, 0x100000)], .w32, .plain, [⟨0, 1, .rw, .live, 0, .any⟩]⟩,
  ⟨"PRS_STATUS", 0x200004, [(9, 0x100000)], .w32, .plain, [⟨6, 2, .ro, .none, 0, .any⟩, ⟨5, 1, .ro, .none, 0, .any⟩, ⟨4, 1, .ro, .none, 0, .any⟩, ⟨1, 1, .ro, .none, 0, .any⟩, ⟨0, 1, .ro, .none, 1, .any⟩]⟩,
  ⟨"PRS_CFG", 0x200008, [(9, 0x100000)], .w32, .plain, [⟨0, 1, .rw, .live, 0, .any⟩]⟩,
  ⟨"PRS_ECC_CORR", 0x200018, [(9, 0x100000)], .w32, .plain, [⟨0, 32, .ro, .none, 0, .any⟩]⟩,
  ⟨"PRS_ECC_UNCORR", 0x20001c, [(9, 0x100000)], .w32, .plain, [⟨0, 32, .ro, .none, 0, .any⟩]⟩,
  ⟨"PRS_RD_ADDR", 0x200020, [(9, 0x100000)], .w32, .plain, [⟨16, 1, .rw, .live, 0, .any⟩, ⟨12, 2, .rw, .live, 0, .upto 2⟩, ⟨0, 12, .rw, .live, 0, .any⟩]⟩,
  ⟨"PRS_BANK_SEL", 0x20000c, [(9, 0x100000)], .w32, .bcast, [⟨0, 1, .rw, .epoch, 0, .any⟩]⟩,
  ⟨"PRS_UCODE_VERSION", 0x200010, [(9, 0x100000), (2, 4)], .w32, .plain, [⟨0, 32, .ro, .none, 0, .any⟩]⟩,
  ⟨"PRS_RD_DATA", 0x200040, [(9, 0x100000), (8, 4)], .w32, .plain, [⟨0, 32, .ro, .none, 0, .any⟩]⟩,
  ⟨"PRS_CNT", 0x200100, [(9, 0x100000), (4, 8)], .ctr64, .plain, []⟩,
  ⟨"PRS_PORT_CFG", 0x201000, [(9, 0x100000), (256, 4)], .w32, .bcast, [⟨31, 1, .rw, .epoch, 0, .any⟩, ⟨16, 6, .rw, .epoch, 0, .any⟩, ⟨0, 12, .rw, .epoch, 0, .any⟩]⟩]

/-- Register rows of the FWD group. -/
def fwdRegs : List RegDesc := [
  ⟨"FWD_CTRL", 0x240000, [(9, 0x100000)], .w32, .plain, [⟨0, 1, .rw, .live, 0, .any⟩]⟩,
  ⟨"FWD_STATUS", 0x240004, [(9, 0x100000)], .w32, .plain, [⟨0, 1, .ro, .none, 1, .any⟩]⟩,
  ⟨"FWD_HDR_MAP", 0x240100, [(9, 0x100000), (64, 4)], .w32, .bcast, [⟨31, 1, .rw, .epoch, 0, .any⟩, ⟨16, 6, .rw, .epoch, 0, .any⟩, ⟨0, 4, .rw, .epoch, 0, .any⟩]⟩,
  ⟨"FWD_PROG_STEP", 0x240400, [(9, 0x100000), (64, 0x10), (4, 4)], .w32, .bcast, [⟨31, 1, .rw, .epoch, 0, .any⟩, ⟨28, 3, .rw, .epoch, 0, .upto 5⟩, ⟨26, 2, .rw, .epoch, 0, .upto 1⟩, ⟨19, 7, .rw, .epoch, 0, .any⟩]⟩,
  ⟨"FWD_PORT_CFG", 0x241000, [(9, 0x100000), (256, 0x10)], .w32, .bcast, [⟨24, 1, .rw, .epoch, 0, .any⟩, ⟨16, 6, .rw, .epoch, 0, .any⟩, ⟨0, 14, .rw, .epoch, 0, .any⟩]⟩,
  ⟨"FWD_PORT_LEARN_NHI", 0x241004, [(9, 0x100000), (256, 0x10)], .w32, .bcast, [⟨0, 20, .rw, .epoch, 0, .any⟩]⟩,
  ⟨"FWD_PORT_MISS_NHI", 0x241008, [(9, 0x100000), (256, 0x10)], .w32, .bcast, [⟨0, 20, .rw, .epoch, 0, .any⟩]⟩,
  ⟨"FWD_DROP_CNT", 0x242000, [(9, 0x100000), (256, 8)], .ctr64, .plain, []⟩]

/-- Register rows of the CLS group. -/
def clsRegs : List RegDesc := [
  ⟨"CLS_CTRL", 0x280000, [(9, 0x100000)], .w32, .plain, [⟨0, 1, .rw, .live, 0, .any⟩]⟩,
  ⟨"CLS_STATUS", 0x280004, [(9, 0x100000)], .w32, .plain, [⟨1, 1, .ro, .none, 0, .any⟩, ⟨0, 1, .ro, .none, 1, .any⟩]⟩,
  ⟨"CLS_ECC_CORR", 0x280010, [(9, 0x100000)], .w32, .plain, [⟨0, 32, .ro, .none, 0, .any⟩]⟩,
  ⟨"CLS_ECC_UNCORR", 0x280014, [(9, 0x100000)], .w32, .plain, [⟨0, 32, .ro, .none, 0, .any⟩]⟩,
  ⟨"CLS_CFG", 0x280008, [(9, 0x100000)], .w32, .bcast, [⟨0, 8, .rw, .live, 8, .clamp 1 255⟩]⟩,
  ⟨"CLS_RD_ADDR", 0x280020, [(9, 0x100000)], .w32, .bcast, [⟨0, 16, .rw, .live, 0, .any⟩]⟩,
  ⟨"CLS_RD_DATA", 0x280100, [(9, 0x100000), (34, 4)], .w32, .plain, [⟨0, 32, .ro, .none, 0, .any⟩]⟩,
  ⟨"CLS_CNT", 0x280200, [(9, 0x100000), (8, 8)], .ctr64, .plain, []⟩,
  ⟨"CLS_PROG_KPROF", 0x280400, [(9, 0x100000), (64, 4)], .w32, .bcast, [⟨0, 4, .rw, .epoch, 0, .any⟩]⟩,
  ⟨"CLS_KSEL", 0x280800, [(9, 0x100000), (16, 0x40), (10, 4)], .w32, .bcast, [⟨0, 32, .rw, .epoch, 0, .any⟩]⟩,
  ⟨"CLS_RANGE_CFG", 0x281000, [(9, 0x100000), (128, 8)], .w32, .bcast, [⟨9, 1, .rw, .epoch, 0, .any⟩, ⟨8, 1, .rw, .epoch, 0, .any⟩, ⟨6, 2, .rw, .epoch, 0, .upto 2⟩]⟩,
  ⟨"CLS_RANGE_OFF", 0x281004, [(9, 0x100000), (128, 8)], .w32, .bcast, [⟨0, 7, .rw, .epoch, 0, .upto 94⟩]⟩,
  ⟨"CLS_RANGE_BND", 0x281400, [(9, 0x100000), (128, 4)], .w32, .bcast, [⟨16, 16, .rw, .epoch, 0, .any⟩, ⟨0, 16, .rw, .epoch, 0, .any⟩]⟩,
  ⟨"LB_SEED", 0x282000, [(9, 0x100000)], .w32, .bcast, [⟨0, 32, .rw, .epoch, 0x6c627364, .any⟩]⟩,
  ⟨"LB_CFG", 0x282004, [(9, 0x100000)], .w32, .bcast, [⟨0, 4, .rw, .epoch, 0, .any⟩]⟩,
  ⟨"LB_HDR_MAP", 0x282100, [(9, 0x100000), (64, 4)], .w32, .bcast, [⟨31, 1, .rw, .epoch, 0, .any⟩, ⟨8, 4, .rw, .epoch, 0, .any⟩, ⟨0, 4, .rw, .epoch, 0, .any⟩]⟩,
  ⟨"LB_PROF_CFG", 0x282200, [(9, 0x100000), (16, 4)], .w32, .bcast, [⟨1, 1, .rw, .epoch, 0, .any⟩, ⟨0, 1, .rw, .epoch, 0, .any⟩]⟩,
  ⟨"LB_FIELD", 0x282400, [(9, 0x100000), (16, 0x20), (8, 4)], .w32, .bcast, [⟨31, 1, .rw, .epoch, 0, .any⟩, ⟨8, 4, .rw, .epoch, 0, .any⟩, ⟨0, 7, .rw, .epoch, 0, .any⟩]⟩]

/-- Register rows of the RWR group. -/
def rwrRegs : List RegDesc := [
  ⟨"RWR_CTRL", 0x2c0000, [(9, 0x100000)], .w32, .plain, [⟨0, 1, .rw, .live, 0, .any⟩]⟩,
  ⟨"RWR_STATUS", 0x2c0004, [(9, 0x100000)], .w32, .plain, [⟨8, 9, .ro, .none, 0, .any⟩, ⟨6, 2, .ro, .none, 0, .any⟩, ⟨5, 1, .ro, .none, 0, .any⟩, ⟨4, 1, .ro, .none, 0, .any⟩, ⟨1, 1, .ro, .none, 0, .any⟩, ⟨0, 1, .ro, .none, 1, .any⟩]⟩,
  ⟨"RWR_ECC_CORR", 0x2c0018, [(9, 0x100000)], .w32, .plain, [⟨0, 32, .ro, .none, 0, .any⟩]⟩,
  ⟨"RWR_ECC_UNCORR", 0x2c001c, [(9, 0x100000)], .w32, .plain, [⟨0, 32, .ro, .none, 0, .any⟩]⟩,
  ⟨"RWR_CFG", 0x2c0008, [(9, 0x100000)], .w32, .bcast, [⟨0, 1, .rw, .epoch, 0, .any⟩]⟩,
  ⟨"RWR_BANK_SEL", 0x2c000c, [(9, 0x100000)], .w32, .bcast, [⟨0, 1, .rw, .epoch, 0, .any⟩]⟩,
  ⟨"RWR_UCODE_VERSION", 0x2c0010, [(9, 0x100000), (2, 4)], .w32, .plain, [⟨0, 32, .ro, .none, 0, .any⟩]⟩,
  ⟨"RWR_RD_ADDR", 0x2c0020, [(9, 0x100000)], .w32, .bcast, [⟨16, 1, .rw, .live, 0, .any⟩, ⟨0, 11, .rw, .live, 0, .any⟩]⟩,
  ⟨"RWR_RD_DATA", 0x2c0040, [(9, 0x100000), (8, 4)], .w32, .plain, [⟨0, 32, .ro, .none, 0, .any⟩]⟩,
  ⟨"RWR_CNT", 0x2c0100, [(9, 0x100000), (16, 8)], .ctr64, .plain, []⟩,
  ⟨"RWR_SMAC_LO", 0x2c0400, [(9, 0x100000), (256, 8)], .w32, .bcast, [⟨0, 32, .rw, .epoch, 0, .any⟩]⟩,
  ⟨"RWR_SMAC_HI", 0x2c0404, [(9, 0x100000), (256, 8)], .w32, .bcast, [⟨0, 16, .rw, .epoch, 0, .any⟩]⟩,
  ⟨"RWR_MTU", 0x2c0c00, [(9, 0x100000), (16, 4)], .w32, .bcast, [⟨31, 1, .rw, .epoch, 0, .any⟩, ⟨0, 14, .rw, .epoch, 0x2580, .clamp 64 16383⟩]⟩,
  ⟨"RWR_MIRROR", 0x2c0c40, [(9, 0x100000), (16, 4)], .w32, .bcast, [⟨31, 1, .rw, .epoch, 0, .any⟩, ⟨20, 8, .rw, .epoch, 0, .any⟩, ⟨0, 20, .rw, .epoch, 0, .any⟩]⟩,
  ⟨"RWR_RULE_MAP", 0x2c0c80, [(9, 0x100000), (64, 4)], .w32, .bcast, [⟨15, 1, .rw, .epoch, 0, .any⟩, ⟨8, 6, .rw, .epoch, 0, .any⟩, ⟨7, 1, .rw, .epoch, 0, .any⟩, ⟨0, 4, .rw, .epoch, 0, .any⟩]⟩]

/-- Register rows of the FBK group. -/
def fbkRegs : List RegDesc := [
  ⟨"FBK_CTRL", 0x2c8000, [], .w32, .plain, [⟨0, 1, .rw, .live, 0, .any⟩]⟩,
  ⟨"FBK_STATUS", 0x2c8004, [], .w32, .plain, [⟨1, 15, .ro, .none, 0, .any⟩, ⟨0, 1, .ro, .none, 1, .any⟩]⟩,
  ⟨"FBK_HBM_CFG", 0x2c8008, [], .w32, .plain, [⟨0, 16, .rw, .static, 0, .any⟩]⟩,
  ⟨"FBK_MBX_CMD", 0x2cc000, [], .w32, .plain, [⟨16, 16, .wo, .live, 0, .any⟩, ⟨0, 16, .wo, .live, 0, .any⟩]⟩,
  ⟨"FBK_MBX_RESULT", 0x2cc010, [], .w32, .plain, [⟨16, 16, .ro, .none, 0, .any⟩, ⟨14, 2, .ro, .none, 0, .any⟩, ⟨0, 8, .ro, .none, 0, .any⟩]⟩,
  ⟨"FBK_CNT", 0x2c8100, [(4, 8)], .ctr64, .plain, []⟩,
  ⟨"FBK_RING_CFG", 0x2c9000, [(64, 0x20)], .w32, .plain, [⟨26, 6, .rw, .static, 0, .any⟩, ⟨21, 5, .rw, .static, 4, .range 4 24⟩, ⟨20, 1, .rw, .static, 0, .any⟩, ⟨19, 1, .rw, .static, 0, .any⟩, ⟨18, 1, .rw, .static, 0, .any⟩, ⟨0, 1, .rw, .live, 0, .any⟩]⟩,
  ⟨"FBK_RING_BASE_LO", 0x2c9004, [(64, 0x20)], .w32, .plain, [⟨12, 20, .rw, .static, 0, .any⟩]⟩,
  ⟨"FBK_RING_BASE_HI", 0x2c9008, [(64, 0x20)], .w32, .plain, [⟨0, 20, .rw, .static, 0, .any⟩]⟩,
  ⟨"FBK_RING_PROD", 0x2c900c, [(64, 0x20)], .w32, .plain, [⟨0, 32, .ro, .none, 0, .any⟩]⟩,
  ⟨"FBK_RING_CONS", 0x2c9010, [(64, 0x20)], .w32, .plain, [⟨0, 32, .rw, .live, 0, .any⟩]⟩,
  ⟨"FBK_RING_CNT", 0x2ca000, [(64, 0x10), (2, 8)], .ctr64, .plain, []⟩,
  ⟨"FBK_PORT_SAMPLE", 0x2cb000, [(256, 4)], .w32, .plain, [⟨24, 6, .rw, .live, 0, .any⟩, ⟨0, 24, .rw, .live, 0, .any⟩]⟩,
  ⟨"FBK_MBX_ARG", 0x2cc004, [(2, 4)], .w32, .plain, [⟨0, 32, .rw, .live, 0, .any⟩]⟩,
  ⟨"FBK_MBX_DATA", 0x2cc040, [(40, 4)], .w32, .plain, [⟨0, 32, .ro, .none, 0, .any⟩]⟩]

/-- Register rows of the TS group. -/
def tsRegs : List RegDesc := [
  ⟨"TS_CTRL", 0xb00000, [(5, 0x10000)], .w32, .plain, [⟨0, 1, .rw, .live, 0, .any⟩]⟩,
  ⟨"TS_STATUS", 0xb00004, [(5, 0x10000)], .w32, .plain, [⟨3, 1, .ro, .none, 0, .any⟩, ⟨2, 1, .ro, .none, 0, .any⟩, ⟨1, 1, .ro, .none, 0, .any⟩, ⟨0, 1, .ro, .none, 1, .any⟩]⟩,
  ⟨"TS_ECC_CORR", 0xb00010, [(5, 0x10000)], .w32, .plain, [⟨0, 32, .ro, .none, 0, .any⟩]⟩,
  ⟨"TS_ECC_UNCORR", 0xb00014, [(5, 0x10000)], .w32, .plain, [⟨0, 32, .ro, .none, 0, .any⟩]⟩]

/-- Register rows of the PAT group. -/
def patRegs : List RegDesc := [
  ⟨"PAT_CTRL", 0xc00000, [(4, 0x100000)], .w32, .plain, [⟨0, 1, .rw, .live, 0, .any⟩]⟩,
  ⟨"PAT_STATUS", 0xc00004, [(4, 0x100000)], .w32, .plain, [⟨8, 9, .ro, .none, 0, .any⟩, ⟨7, 1, .ro, .none, 0, .any⟩, ⟨6, 1, .ro, .none, 0, .any⟩, ⟨5, 1, .ro, .none, 0, .any⟩, ⟨4, 1, .ro, .none, 0, .any⟩, ⟨2, 2, .ro, .none, 0, .any⟩, ⟨0, 1, .ro, .none, 1, .any⟩]⟩,
  ⟨"PAT_REGION_SEL", 0xc00008, [(4, 0x100000)], .w32, .plain, [⟨0, 1, .rw, .epoch, 0, .any⟩]⟩,
  ⟨"PAT_TRAV_ERR", 0xc00018, [(4, 0x100000)], .w32, .plain, [⟨0, 21, .ro, .none, 0, .any⟩]⟩,
  ⟨"PAT_MBX_CMD", 0xc01000, [(4, 0x100000)], .w32, .plain, [⟨16, 16, .wo, .live, 0, .any⟩, ⟨0, 16, .wo, .live, 0, .any⟩]⟩,
  ⟨"PAT_MBX_RESULT", 0xc01020, [(4, 0x100000)], .w32, .plain, [⟨16, 16, .ro, .none, 0, .any⟩, ⟨14, 2, .ro, .none, 0, .any⟩, ⟨0, 8, .ro, .none, 0, .any⟩]⟩,
  ⟨"PAT_VERSION", 0xc00010, [(4, 0x100000), (2, 4)], .w32, .plain, [⟨0, 32, .ro, .none, 0, .any⟩]⟩,
  ⟨"PAT_CNT", 0xc00100, [(4, 0x100000), (8, 8)], .ctr64, .plain, []⟩,
  ⟨"PAT_MBX_ARG", 0xc01004, [(4, 0x100000), (4, 4)], .w32, .plain, [⟨0, 32, .rw, .live, 0, .any⟩]⟩,
  ⟨"PAT_MBX_OUT", 0xc01040, [(4, 0x100000), (4, 4)], .w32, .plain, [⟨0, 32, .ro, .none, 0, .any⟩]⟩,
  ⟨"PAT_MBX_IN", 0xc01100, [(4, 0x100000), (64, 4)], .w32, .plain, [⟨0, 32, .rw, .live, 0, .any⟩]⟩]

/-- Register rows of the UPD group. -/
def updRegs : List RegDesc := [
  ⟨"UPD_CTRL", 0x1100000, [], .w32, .plain, [⟨0, 1, .rw, .live, 0, .any⟩]⟩,
  ⟨"UPD_STATUS", 0x1100004, [], .w32, .plain, [⟨8, 8, .ro, .none, 0xfc, .any⟩, ⟨2, 1, .ro, .none, 0, .any⟩, ⟨1, 1, .ro, .none, 0, .any⟩, ⟨0, 1, .ro, .none, 1, .any⟩]⟩,
  ⟨"UPD_CFG", 0x1100008, [], .w32, .plain, [⟨0, 1, .rw, .static, 0, .any⟩]⟩,
  ⟨"UPD_EPOCH", 0x110000c, [], .w32, .plain, [⟨16, 16, .ro, .none, 0, .any⟩, ⟨0, 16, .ro, .none, 0, .any⟩]⟩,
  ⟨"UPD_PART_SPARE", 0x1100600, [], .w32, .plain, [⟨0, 7, .ro, .none, 0x40, .any⟩]⟩,
  ⟨"UPD_MBX_CMD", 0x1101000, [], .w32, .plain, [⟨16, 16, .wo, .live, 0, .any⟩, ⟨0, 16, .wo, .live, 0, .any⟩]⟩,
  ⟨"UPD_MBX_RESULT", 0x1101030, [], .w32, .plain, [⟨16, 16, .ro, .none, 0, .any⟩, ⟨14, 2, .ro, .none, 0, .any⟩, ⟨0, 8, .ro, .none, 0, .any⟩]⟩,
  ⟨"UPD_SLOT", 0x1100100, [(256, 4)], .w32, .plain, [⟨16, 16, .ro, .none, 0, .any⟩, ⟨8, 6, .ro, .none, 0, .any⟩, ⟨0, 3, .ro, .none, 0, .any⟩]⟩,
  ⟨"UPD_PART_MAP", 0x1100500, [(64, 4)], .w32, .plain, [⟨0, 7, .ro, .none, 0, .any⟩]⟩,
  ⟨"UPD_SEED", 0x1100800, [(65, 8), (2, 4)], .w32, .plain, [⟨0, 32, .ro, .none, 0, .any⟩]⟩,
  ⟨"UPD_CNT", 0x1100c00, [(8, 8)], .ctr64, .plain, []⟩,
  ⟨"UPD_MBX_ARG", 0x1101004, [(10, 4)], .w32, .plain, [⟨0, 32, .rw, .live, 0, .any⟩]⟩,
  ⟨"UPD_MBX_DATA", 0x1101040, [(16, 4)], .w32, .plain, [⟨0, 32, .ro, .none, 0, .any⟩]⟩]

/-- Register rows of the LRN group. -/
def lrnRegs : List RegDesc := [
  ⟨"LRN_CTRL", 0x1110000, [], .w32, .plain, [⟨0, 1, .rw, .live, 0, .any⟩]⟩,
  ⟨"LRN_STATUS", 0x1110004, [], .w32, .plain, [⟨8, 8, .ro, .none, 0xfc, .any⟩, ⟨0, 1, .ro, .none, 1, .any⟩]⟩,
  ⟨"LRN_CFG", 0x1110008, [], .w32, .plain, [⟨31, 1, .rw, .live, 0, .any⟩, ⟨16, 10, .rw, .live, 0x64, .clamp 5 1000⟩, ⟨0, 16, .rw, .live, 0x12c, .any⟩]⟩,
  ⟨"LRN_CNT", 0x1110100, [(8, 8)], .ctr64, .plain, []⟩]

/-- Register rows of the TMQ group. -/
def tmqRegs : List RegDesc := [
  ⟨"TM_Q_CFG0", 0x20000000, [(131072, 0x40)], .w32, .plain, [⟨31, 1, .rw, .live, 0, .any⟩, ⟨28, 3, .rw, .live, 0, .any⟩, ⟨20, 8, .rw, .live, 1, .range 1 255⟩, ⟨16, 4, .rw, .live, 0, .any⟩, ⟨0, 15, .rw, .epoch, 0, .any⟩]⟩,
  ⟨"TM_Q_CFG1", 0x20000004, [(131072, 0x40)], .w32, .plain, [⟨26, 6, .rw, .live, 0, .any⟩, ⟨25, 1, .rw, .live, 0, .any⟩, ⟨21, 4, .rw, .live, 0, .any⟩, ⟨20, 1, .rw, .epoch, 0, .any⟩, ⟨17, 3, .rw, .epoch, 0, .any⟩, ⟨0, 16, .rw, .live, 0, .any⟩]⟩,
  ⟨"TM_Q_QMAX", 0x20000008, [(131072, 0x40)], .w32, .plain, [⟨0, 29, .rw, .live, 0x4000, .any⟩]⟩,
  ⟨"TM_Q_SHARE", 0x2000000c, [(131072, 0x40)], .w32, .plain, [⟨0, 20, .rw, .live, 0x80000, .any⟩]⟩,
  ⟨"TM_Q_RATE", 0x20000010, [(131072, 0x40)], .w32, .plain, [⟨0, 32, .rw, .live, 0, .any⟩]⟩,
  ⟨"TM_Q_BURST", 0x20000014, [(131072, 0x40)], .w32, .plain, [⟨0, 24, .rw, .live, 0x4000, .clamp 2048 0xFFFFFF⟩]⟩,
  ⟨"TM_Q_POL", 0x20000018, [(131072, 0x40)], .w32, .plain, [⟨31, 1, .rw, .epoch, 0, .any⟩, ⟨0, 18, .rw, .epoch, 0, .any⟩]⟩,
  ⟨"TM_Q_STATUS", 0x2000001c, [(131072, 0x40)], .w32, .plain, [⟨31, 1, .ro, .none, 0, .any⟩, ⟨30, 1, .ro, .none, 0, .any⟩, ⟨29, 1, .ro, .none, 0, .any⟩, ⟨0, 29, .ro, .none, 0, .any⟩]⟩,
  ⟨"TM_Q_SAMPLE_DEPTH", 0x20000020, [(131072, 0x40)], .w32, .plain, [⟨0, 29, .ro, .none, 0, .any⟩]⟩,
  ⟨"TM_Q_SAMPLE_DELAY", 0x20000024, [(131072, 0x40)], .w32, .plain, [⟨0, 32, .ro, .none, 0, .any⟩]⟩,
  ⟨"TM_Q_CNT", 0x20000028, [(131072, 0x40), (3, 8)], .ctr64, .plain, []⟩]

/-- Register rows of the TMN group. -/
def tmnRegs : List RegDesc := [
  ⟨"TM_N_CFG", 0x22000000, [(32768, 0x40)], .w32, .plain, [⟨28, 3, .rw, .live, 0, .any⟩, ⟨20, 8, .rw, .live, 1, .range 1 255⟩, ⟨0, 12, .rw, .epoch, 0, .any⟩]⟩,
  ⟨"TM_N_RATE", 0x22000004, [(32768, 0x40)], .w32, .plain, [⟨0, 32, .rw, .live, 0, .any⟩]⟩,
  ⟨"TM_N_BURST", 0x22000008, [(32768, 0x40)], .w32, .plain, [⟨0, 24, .rw, .live, 0x4000, .clamp 2048 0xFFFFFF⟩]⟩,
  ⟨"TM_G_CFG", 0x24000000, [(4096, 0x40)], .w32, .plain, [⟨28, 3, .rw, .live, 0, .any⟩, ⟨20, 8, .rw, .live, 1, .range 1 255⟩, ⟨0, 12, .rw, .epoch, 0, .upto 255⟩]⟩,
  ⟨"TM_G_RATE", 0x24000004, [(4096, 0x40)], .w32, .plain, [⟨0, 32, .rw, .live, 0, .any⟩]⟩,
  ⟨"TM_G_BURST", 0x24000008, [(4096, 0x40)], .w32, .plain, [⟨0, 24, .rw, .live, 0x4000, .clamp 2048 0xFFFFFF⟩]⟩]

/-- Register rows of the TMP group. -/
def tmpRegs : List RegDesc := [
  ⟨"TM_P_CFG", 0x26000000, [(256, 0x40)], .w32, .plain, [⟨30, 2, .rw, .live, 0, .upto 2⟩, ⟨29, 1, .rw, .live, 0, .any⟩, ⟨26, 3, .rw, .live, 0, .any⟩, ⟨16, 8, .rw, .live, 0, .any⟩, ⟨0, 8, .rw, .live, 0x14, .any⟩]⟩,
  ⟨"TM_P_RATE", 0x26000004, [(256, 0x40)], .w32, .plain, [⟨0, 32, .rw, .live, 0, .any⟩]⟩,
  ⟨"TM_P_BURST", 0x26000008, [(256, 0x40)], .w32, .plain, [⟨0, 24, .rw, .live, 0x4000, .clamp 2048 0xFFFFFF⟩]⟩,
  ⟨"TM_P_XOFF", 0x2600000c, [(256, 0x40)], .w32, .plain, [⟨0, 20, .rw, .live, 0x400, .any⟩]⟩,
  ⟨"TM_P_XON", 0x26000010, [(256, 0x40)], .w32, .plain, [⟨0, 20, .rw, .live, 0x200, .any⟩]⟩,
  ⟨"TM_P_QUANTA", 0x26000014, [(256, 0x40)], .w32, .plain, [⟨16, 16, .rw, .live, 0x64, .clamp 1 65535⟩, ⟨0, 16, .rw, .live, 0xffff, .any⟩]⟩,
  ⟨"TM_P_WD", 0x26000018, [(256, 0x40)], .w32, .plain, [⟨16, 16, .rw, .live, 0x64, .any⟩, ⟨0, 16, .rw, .live, 0x64, .any⟩]⟩,
  ⟨"TM_P_STATUS", 0x2600001c, [(256, 0x40)], .w32, .plain, [⟨24, 8, .ro, .none, 0, .any⟩, ⟨16, 8, .ro, .none, 0, .any⟩, ⟨8, 8, .ro, .none, 0, .any⟩]⟩]

/-- Register rows of the TML group. -/
def tmlRegs : List RegDesc := [
  ⟨"TM_POL_CFG", 0x28000000, [(262144, 0x40)], .w32, .plain, [⟨31, 1, .rw, .live, 0, .any⟩, ⟨30, 1, .rw, .live, 0, .any⟩, ⟨29, 1, .rw, .live, 0, .any⟩, ⟨24, 4, .rw, .live, 0xf, .oneOf [0,1,2,3,4,5,6,7,15]⟩, ⟨0, 8, .rw, .live, 0, .any⟩]⟩,
  ⟨"TM_POL_CIR", 0x28000004, [(262144, 0x40)], .w32, .plain, [⟨0, 32, .rw, .live, 0, .any⟩]⟩,
  ⟨"TM_POL_PIR", 0x28000008, [(262144, 0x40)], .w32, .plain, [⟨0, 32, .rw, .live, 0, .any⟩]⟩,
  ⟨"TM_POL_CBS", 0x2800000c, [(262144, 0x40)], .w32, .plain, [⟨0, 24, .rw, .live, 0, .any⟩]⟩,
  ⟨"TM_POL_XBS", 0x28000010, [(262144, 0x40)], .w32, .plain, [⟨0, 24, .rw, .live, 0, .any⟩]⟩,
  ⟨"TM_POL_TC", 0x28000014, [(262144, 0x40)], .w32, .plain, [⟨0, 32, .ro, .none, 0, .any⟩]⟩,
  ⟨"TM_POL_TX", 0x28000018, [(262144, 0x40)], .w32, .plain, [⟨0, 32, .ro, .none, 0, .any⟩]⟩,
  ⟨"TM_POL_CNT", 0x28000020, [(262144, 0x40), (3, 8)], .ctr64, .plain, []⟩]

/-- Register rows of the VF group. -/
def vfRegs1 : List RegDesc := [
  ⟨"VF_STATUS", 0x60000, [], .w32, .plain, [⟨4, 1, .w1c, .none, 0, .any⟩, ⟨3, 1, .w1c, .none, 0, .any⟩, ⟨2, 1, .w1c, .none, 0, .any⟩, ⟨1, 1, .w1c, .none, 0, .any⟩, ⟨0, 1, .w1c, .none, 0, .any⟩]⟩,
  ⟨"VF_STATUS", 0x10010000, [(63, 0x10000)], .w32, .plain, [⟨4, 1, .w1c, .none, 0, .any⟩, ⟨3, 1, .w1c, .none, 0, .any⟩, ⟨2, 1, .w1c, .none, 0, .any⟩, ⟨1, 1, .w1c, .none, 0, .any⟩, ⟨0, 1, .w1c, .none, 0, .any⟩]⟩,
  ⟨"VF_ERR_ADDR", 0x60004, [], .w32, .plain, [⟨16, 3, .ro, .none, 0, .any⟩, ⟨0, 16, .ro, .none, 0, .any⟩]⟩,
  ⟨"VF_ERR_ADDR", 0x10010004, [(63, 0x10000)], .w32, .plain, [⟨16, 3, .ro, .none, 0, .any⟩, ⟨0, 16, .ro, .none, 0, .any⟩]⟩,
  ⟨"VF_PARCEL", 0x60008, [], .w32, .plain, [⟨16, 3, .ro, .none, 0, .any⟩, ⟨0, 6, .ro, .none, 0, .any⟩]⟩,
  ⟨"VF_PARCEL", 0x10010008, [(63, 0x10000)], .w32, .plain, [⟨16, 3, .ro, .none, 0, .any⟩, ⟨0, 6, .ro, .none, 0, .any⟩]⟩,
  ⟨"VF_TM_SEL", 0x64400, [], .w32, .plain, [⟨28, 3, .rw, .live, 0, .oneOf [0,4]⟩, ⟨0, 18, .rw, .live, 0, .any⟩]⟩,
  ⟨"VF_TM_SEL", 0x10014400, [(63, 0x10000)], .w32, .plain, [⟨28, 3, .rw, .live, 0, .oneOf [0,4]⟩, ⟨0, 18, .rw, .live, 0, .any⟩]⟩,
  ⟨"VF_MBX_CMD", 0x62000, [(2, 0x400)], .w32, .plain, [⟨16, 16, .wo, .live, 0, .any⟩, ⟨0, 16, .wo, .live, 0, .any⟩]⟩,
  ⟨"VF_MBX_CMD", 0x10012000, [(63, 0x10000), (2, 0x400)], .w32, .plain, [⟨16, 16, .wo, .live, 0, .any⟩, ⟨0, 16, .wo, .live, 0, .any⟩]⟩,
  ⟨"VF_MBX_ARG", 0x62004, [(2, 0x400), (10, 4)], .w32, .plain, [⟨0, 32, .rw, .live, 0, .any⟩]⟩,
  ⟨"VF_MBX_ARG", 0x10012004, [(63, 0x10000), (2, 0x400), (10, 4)], .w32, .plain, [⟨0, 32, .rw, .live, 0, .any⟩]⟩,
  ⟨"VF_MBX_RESULT", 0x62030, [(2, 0x400)], .w32, .plain, [⟨16, 16, .ro, .none, 0, .any⟩, ⟨14, 2, .ro, .none, 0, .any⟩, ⟨0, 8, .ro, .none, 0, .any⟩]⟩,
  ⟨"VF_MBX_RESULT", 0x10012030, [(63, 0x10000), (2, 0x400)], .w32, .plain, [⟨16, 16, .ro, .none, 0, .any⟩, ⟨14, 2, .ro, .none, 0, .any⟩, ⟨0, 8, .ro, .none, 0, .any⟩]⟩,
  ⟨"VF_MBX_DATA", 0x62040, [(2, 0x400), (40, 4)], .w32, .plain, [⟨0, 32, .ro, .none, 0, .any⟩]⟩,
  ⟨"VF_MBX_DATA", 0x10012040, [(63, 0x10000), (2, 0x400), (40, 4)], .w32, .plain, [⟨0, 32, .ro, .none, 0, .any⟩]⟩,
  ⟨"VF_DOORBELL", 0x61000, [(16, 4)], .w32, .plain, [⟨0, 32, .wo, .live, 0, .any⟩]⟩,
  ⟨"VF_DOORBELL", 0x10011000, [(63, 0x10000), (16, 4)], .w32, .plain, [⟨0, 32, .wo, .live, 0, .any⟩]⟩,
  ⟨"RING_CFG", 0x64000, [(16, 0x40)], .w32, .plain, [⟨28, 4, .rw, .static, 4, .range 4 15⟩, ⟨26, 2, .rw, .static, 0, .any⟩, ⟨25, 1, .rw, .live, 0, .any⟩, ⟨19, 6, .rw, .live, 0, .any⟩, ⟨1, 16, .rw, .live, 0, .any⟩, ⟨0, 1, .rw, .live, 0, .any⟩]⟩,
  ⟨"RING_CFG", 0x10014000, [(63, 0x10000), (16, 0x40)], .w32, .plain, [⟨28, 4, .rw, .static, 4, .range 4 15⟩, ⟨26, 2, .rw, .static, 0, .any⟩, ⟨25, 1, .rw, .live, 0, .any⟩, ⟨19, 6, .rw, .live, 0, .any⟩, ⟨1, 16, .rw, .live, 0, .any⟩, ⟨0, 1, .rw, .live, 0, .any⟩]⟩]

/-- Register rows of the VF group. -/
def vfRegs2 : List RegDesc := [
  ⟨"RING_BASE_LO", 0x64004, [(16, 0x40)], .w32, .plain, [⟨12, 20, .rw, .static, 0, .any⟩]⟩,
  ⟨"RING_BASE_LO", 0x10014004, [(63, 0x10000), (16, 0x40)], .w32, .plain, [⟨12, 20, .rw, .static, 0, .any⟩]⟩,
  ⟨"RING_BASE_HI", 0x64008, [(16, 0x40)], .w32, .plain, [⟨0, 32, .rw, .static, 0, .any⟩]⟩,
  ⟨"RING_BASE_HI", 0x10014008, [(63, 0x10000), (16, 0x40)], .w32, .plain, [⟨0, 32, .rw, .static, 0, .any⟩]⟩,
  ⟨"RING_HOST", 0x6400c, [(16, 0x40)], .w32, .plain, [⟨0, 32, .ro, .none, 0, .any⟩]⟩,
  ⟨"RING_HOST", 0x1001400c, [(63, 0x10000), (16, 0x40)], .w32, .plain, [⟨0, 32, .ro, .none, 0, .any⟩]⟩,
  ⟨"RING_ENG", 0x64010, [(16, 0x40)], .w32, .plain, [⟨0, 32, .ro, .none, 0, .any⟩]⟩,
  ⟨"RING_ENG", 0x10014010, [(63, 0x10000), (16, 0x40)], .w32, .plain, [⟨0, 32, .ro, .none, 0, .any⟩]⟩,
  ⟨"RING_SEQ_LO", 0x64014, [(16, 0x40)], .w32, .plain, [⟨0, 32, .rw, .static, 0, .any⟩]⟩,
  ⟨"RING_SEQ_LO", 0x10014014, [(63, 0x10000), (16, 0x40)], .w32, .plain, [⟨0, 32, .rw, .static, 0, .any⟩]⟩,
  ⟨"RING_SEQ_HI", 0x64018, [(16, 0x40)], .w32, .plain, [⟨0, 32, .rw, .static, 0, .any⟩]⟩,
  ⟨"RING_SEQ_HI", 0x10014018, [(63, 0x10000), (16, 0x40)], .w32, .plain, [⟨0, 32, .rw, .static, 0, .any⟩]⟩,
  ⟨"RING_STATUS", 0x6401c, [(16, 0x40)], .w32, .plain, [⟨1, 1, .w1c, .none, 0, .any⟩, ⟨0, 1, .ro, .none, 1, .any⟩]⟩,
  ⟨"RING_STATUS", 0x1001401c, [(63, 0x10000), (16, 0x40)], .w32, .plain, [⟨1, 1, .w1c, .none, 0, .any⟩, ⟨0, 1, .ro, .none, 1, .any⟩]⟩,
  ⟨"RING_POL", 0x64020, [(16, 0x40)], .w32, .plain, [⟨31, 1, .rw, .live, 0, .any⟩, ⟨0, 18, .rw, .live, 0, .any⟩]⟩,
  ⟨"RING_POL", 0x10014020, [(63, 0x10000), (16, 0x40)], .w32, .plain, [⟨31, 1, .rw, .live, 0, .any⟩, ⟨0, 18, .rw, .live, 0, .any⟩]⟩,
  ⟨"RING_CNT", 0x64028, [(16, 0x40), (3, 8)], .ctr64, .plain, []⟩,
  ⟨"RING_CNT", 0x10014028, [(63, 0x10000), (16, 0x40), (3, 8)], .ctr64, .plain, []⟩,
  ⟨"MSIX_TABLE", 0x68000, [(64, 0x10), (4, 4)], .w32, .plain, [⟨0, 32, .rw, .live, 0, .any⟩]⟩,
  ⟨"MSIX_TABLE", 0x10018000, [(63, 0x10000), (64, 0x10), (4, 4)], .w32, .plain, [⟨0, 32, .rw, .live, 0, .any⟩]⟩]

/-- Register rows of the VF group. -/
def vfRegs3 : List RegDesc := [
  ⟨"MSIX_PBA", 0x6c000, [(2, 4)], .w32, .plain, [⟨0, 32, .ro, .none, 0, .any⟩]⟩,
  ⟨"MSIX_PBA", 0x1001c000, [(63, 0x10000), (2, 4)], .w32, .plain, [⟨0, 32, .ro, .none, 0, .any⟩]⟩]

/-- All rows of the VF group. -/
def vfRegs : List RegDesc := vfRegs1 ++ vfRegs2 ++ vfRegs3

/-- Register rows of the REQ group. -/
def reqRegs : List RegDesc := [
  ⟨"TM_WIN_SEL", 0x30000000, [(71, 0x10)], .w32, .plain, [⟨16, 3, .rw, .live, 0, .upto 4⟩, ⟨0, 4, .rw, .live, 0, .any⟩]⟩,
  ⟨"PMC_VIEW", 0x30000004, [(71, 0x10)], .w32, .plain, [⟨0, 1, .rw, .live, 0, .any⟩]⟩]

/-- Every register row of the model. -/
def regTable : List RegDesc :=
  glbRegs ++ rstRegs ++ bootRegs ++ pwrRegs ++ fltRegs ++ dtmRegs ++ parRegs ++ tetRegs ++ mgtRegs ++ pmcRegs ++ mbusRegs ++ memRegs ++ xmRegs ++ bpmRegs ++ tmgRegs ++ pnlRegs ++ prsRegs ++ fwdRegs ++ clsRegs ++ rwrRegs ++ fbkRegs ++ tsRegs ++ patRegs ++ updRegs ++ lrnRegs ++ tmqRegs ++ tmnRegs ++ tmpRegs ++ tmlRegs ++ vfRegs ++ reqRegs

end Sys2Proof.Machine
end

