-- ==== Sys2Proof/Config.lean ====
section
/-!
DEFINITION. What a part fixes and what the spec leaves open: uninterpreted constants. Nothing in the model or in a proof can
see their values.
-/

namespace Sys2Proof.Config

/-- A free value: the n-th value the spec leaves open, n being the model's counter State.freeCtr (log 5). -/
opaque freeWord : Nat → BitVec 64

/-- GLB_UID as fused (R73, log 12). -/
opaque uid : BitVec 64

/-- Whether the part is an AZ5120A-H96, whose stacks hold 24 GiB, or an H48 (R73, log 12). -/
opaque isH96 : Bool

/-- The fused key hash k, k = 0 to 2 (R97, log 12). -/
opaque keyHash : Nat → BitVec 384

/-- The fused voltage offset in steps of 5 mV, of which R40 allows 0 to 6 (log 12). -/
opaque voltOffset : Fin 7

/-- SHA-384 of a byte string (R92, R412, log 14). -/
opaque sha384 : List Byte → BitVec 384

/-- ECDSA P-384 verification: public key, signature, digest (R92, R412, log 14). -/
opaque ecdsaOk : List Byte → List Byte → BitVec 384 → Bool

/-- The rewrite action that a rewrite control-store word stands for, as a code of Rewrite.lean, and its two parameters: the
encoding belongs to the builder (R206, log 15). -/
opaque rwrDecode : BitVec 256 → Nat × Nat × Nat

/-- The last byte positions (counted from the window's first byte) at which pattern a of an automaton image matches a window:
the encoding of automata belongs to the builder (R193, log 15). -/
opaque patMatch : List Byte → Nat → List Byte → List Nat

/-- The automaton words a scan of a window reads (R201, log 15). -/
opaque patReads : List Byte → List Byte → List Nat

/-- STEP_NS, LOCK_NS and HOLD_S of the servo of clock x, set by boot-image keys in C3's firmware (R321, log 20). -/
opaque servoStepNs : Nat → Nat
opaque servoLockNs : Nat → Nat
opaque servoHoldS : Nat → Nat

/-- The mode in which the servo of clock x starts, from the same keys: 0 free-run, 1 PTP samples, 2 PPS_IN (R321, log 20). -/
opaque servoMode : Nat → Fin 3

/-- The performance level and the domains to switch off that the keys power.level and power.domain of an image ask for, from the
bytes of its configuration sections: the keys name no register (R374, log 15). -/
opaque imageLevel : List Byte → Fin 4
opaque imageDomOff : List Byte → List Nat

/-- Bytes that the register save area needs for an entry into state t (R359 to R361 bound it by 64 MiB, log 23). -/
opaque saveAreaPages : Nat → Fin 16385

/-- The KIND code that a cell of each kind reads as (kinds of the model: 0 free, 1 frame, 2 head, 3 refill, 4 retired); R226 gives
the field's width and not its codes (log 38). -/
opaque cellKindCode : Nat → BitVec 2

/-- The index word that a prefix lookup (family, VRF, address) reads, and whether one of its buckets holds a slot, after a number of table
writes: the engine places prefixes under pivots that it chooses (R169, log 133). -/
opaque lpmIndex : Bool → Nat → Nat → Nat → Nat
opaque lpmBucket : Bool → Nat → Nat → Nat → Nat → Bool

/-- Where block j of packet page p in stack k lies: a choice of its pseudo-channel and of its stack ID, R277 stating the striping and
not the map (log 39). -/
opaque pagePch : Nat → Nat → Nat → Nat
opaque pageSid : Nat → Nat → Nat → Nat

/-- The logical rank that holds the backing copy, on stack k, of a location (space, unit, index): R292 gives offsets and no map of them
onto ranks (log 131). -/
opaque backRank : Nat → Nat → Nat → Nat → Nat

/-- The local served time, in 2^-16 ns, of a panel, or of the CORE domain (8), at a time before two sync edges have come since the clocks
started: R306 forms it from two edges (log 142). -/
opaque earlyTime : Nat → Nat → Nat

/-- What word w, counted in 32 bytes from the rank's start, of logical rank r in stack k holds: a packet page, or a number beyond the pool
for other contents, and the byte offset in it (log 139). -/
opaque wordPage : Nat → Nat → Nat → Nat
opaque wordOffset : Nat → Nat → Nat → Nat

/-- How many requests of a bank queue the bank serves in the DATUM tick that ends at a time: no rule bounds it (log 139). -/
opaque bankDone : Nat → Nat → Nat

/-- What a hart's firmware does in a stretch that ends at a time, under a value of State.freeCtr: how often each event of R417 occurs
(1 to 5), the instructions it retires (0), and the cycles that a stepped instruction takes (6) (log 145). -/
opaque coreEvents : Nat → Nat → Nat → Nat → Nat

/-- What a hart's firmware writes in that stretch to a counter register of R417, or, as register 0, to the overflow interrupts that it
enables (log 145). -/
opaque coreWrites : Nat → Nat → Nat → Nat → Option (BitVec 64)

/-- How many instructions a hart still retires before it takes an overflow interrupt that a time brings: at most 6 (R417, log 145). -/
opaque coreSkid : Nat → Nat → Fin 7

/-- How many waiting backing writes controller k completes in the DATUM tick that ends at a time: no rule bounds it (log 131). -/
opaque backDone : Nat → Nat → Nat

end Sys2Proof.Config
end

