-- ==== Sys2Proof/Machine/Maps.lean ====
section
/-!
DEFINITION. Sparse maps in one canonical form, bit fields, and the byte and word helpers every family uses.
-/

namespace Sys2Proof.Machine

/-- The value listed at key k: the first entry of that key. -/
def mfind {α : Type} : NMap α → Nat → Option α
  | [], _ => none
  | (j, v) :: m, k => if j = k then some v else mfind m k

/-- The value at key k; an unlisted key reads as d k. -/
def mget {α : Type} (d : Nat → α) (m : NMap α) (k : Nat) : α := (mfind m k).getD (d k)

/-- Insert or replace, keeping the keys rising. -/
def mput {α : Type} : NMap α → Nat → α → NMap α
  | [], k, v => [(k, v)]
  | (j, w) :: m, k, v => if k < j then (k, v) :: (j, w) :: m else if j = k then (k, v) :: m else (j, w) :: mput m k v

/-- Remove key k. -/
def mdel {α : Type} : NMap α → Nat → NMap α
  | [], _ => []
  | (j, w) :: m, k => if j = k then mdel m k else (j, w) :: mdel m k

/-- Write v at key k, keeping the canonical form: writing what an unlisted key reads as removes the entry. -/
def mset {α : Type} [DecidableEq α] (d : Nat → α) (m : NMap α) (k : Nat) (v : α) : NMap α :=
  if v = d k then mdel m k else mput m k v

/-- The keys rise strictly from a lower bound and no value equals what an unlisted key reads as. -/
def mwfFrom {α : Type} [DecidableEq α] (d : Nat → α) : Nat → NMap α → Bool
  | _, [] => true
  | b, (j, v) :: m => decide (b ≤ j) && !decide (v = d j) && mwfFrom d (j + 1) m

/-- The canonical form. -/
def mwf {α : Type} [DecidableEq α] (d : Nat → α) (m : NMap α) : Bool := mwfFrom d 0 m

/-- The field f of a register value. -/
def bfGet (f : BF) (w : Word) : Nat := w.toNat / 2 ^ f.lo % 2 ^ f.width

/-- A register value with field f set to v, cut to the field's width. -/
def bfSet (f : BF) (w : Word) (v : Nat) : Word :=
  BitVec.ofNat 32 (w.toNat % 2 ^ f.lo + (v % 2 ^ f.width) * 2 ^ f.lo + w.toNat / 2 ^ (f.lo + f.width) * 2 ^ (f.lo + f.width))

/-- Bits hi to lo of a natural number. -/
def bitsOf (n hi lo : Nat) : Nat := n / 2 ^ lo % 2 ^ (hi + 1 - lo)

/-- Bit i of a natural number. -/
def bitOf (n i : Nat) : Bool := n / 2 ^ i % 2 = 1

/-- A Bool as a field value. -/
def b2n (b : Bool) : Nat := if b then 1 else 0

/-- n with bit i made b. -/
def setBit (n i : Nat) (b : Bool) : Nat :=
  if bitOf n i = b then n else if b then n + 2 ^ i else n - 2 ^ i

/-- n little-endian bytes of a number. -/
def leBytes : Nat → Nat → List Byte
  | 0, _ => []
  | n + 1, v => BitVec.ofNat 8 v :: leBytes n (v / 256)

/-- The number that little-endian bytes spell. -/
def leNat : List Byte → Nat
  | [] => 0
  | b :: l => b.toNat + 256 * leNat l

/-- n big-endian bytes of a number. -/
def beBytes (n v : Nat) : List Byte := (leBytes n v).reverse

/-- The number that big-endian bytes spell. -/
def beNat (l : List Byte) : Nat := leNat l.reverse

/-- Byte i of a list, 0 beyond its end. -/
def byteAt (l : List Byte) (i : Nat) : Nat := match l[i]? with | some b => b.toNat | none => 0

/-- n bytes from offset o, 0 beyond the end. -/
def slice (l : List Byte) (o n : Nat) : List Byte := (List.range n).map (fun i => BitVec.ofNat 8 (byteAt l (o + i)))

/-- Replace the bytes from offset o by b, as far as the list reaches. -/
def patchAt (l : List Byte) (o : Nat) (b : List Byte) : List Byte :=
  l.take o ++ (b.take (l.length - o)) ++ l.drop (o + b.length)

/-- The signed value of an n-bit two's complement field. -/
def signedOf (n v : Nat) : Int := if v < 2 ^ (n - 1) then (v : Int) else (v : Int) - 2 ^ n

/-- An integer as an n-bit two's complement field. -/
def wrapTo (n : Nat) (v : Int) : Nat := (v % (2 ^ n : Int)).toNat

/-- Ceiling division. -/
def ceilDiv (a b : Nat) : Nat := (a + b - 1) / b

/-- Signed 16-bit difference of epochs (R144). -/
def epochDiff (a b : Nat) : Int := signedOf 16 ((a + 65536 - b) % 65536)

/-- Signed 32-bit difference of wrapping times (R316). -/
def timeDiff (a b : Nat) : Int := signedOf 32 ((a + 2 ^ 32 - b) % 2 ^ 32)

/-- One byte into a CRC-32C, most significant bit first, no reflection (R164). -/
def crcBits : Nat → Nat → Nat
  | 0, c => c
  | n + 1, c => crcBits n (if c / 2 ^ 31 % 2 = 1 then (c * 2 % 2 ^ 32) ^^^ 0x1EDC6F41 else c * 2 % 2 ^ 32)

/-- CRC-32C of bytes with an initial value (R164). -/
def crc32c (init : Nat) (l : List Byte) : Nat := l.foldl (fun c b => crcBits 8 (c ^^^ (b.toNat * 2 ^ 24))) init

/-- CRC-8 of the spare-lane messages, polynomial 0x07 (R118). -/
def crc8Bits : Nat → Nat → Nat
  | 0, c => c
  | n + 1, c => crc8Bits n (if c / 128 % 2 = 1 then (c * 2 % 256) ^^^ 7 else c * 2 % 256)

/-- CRC-8 over D1 then D2 (R118). -/
def crc8 (d1 d2 : Byte) : Nat := crc8Bits 8 (crc8Bits 8 d1.toNat ^^^ d2.toNat)

/-- Ones'-complement addition of 16-bit words (R211). -/
def ocAdd (a b : Nat) : Nat := (a + b) % 65536 + (a + b) / 65536

/-- Ones'-complement sum of the 16-bit little-endian words of a byte list (R349). -/
def ocSum : List Byte → Nat
  | a :: b :: l => ocAdd (a.toNat + 256 * b.toNat) (ocSum l)
  | [a] => a.toNat
  | [] => 0

/-- Ones'-complement sum of the 16-bit big-endian words: the Internet checksum's sum (R128, R206). -/
def ocSumBe : List Byte → Nat
  | a :: b :: l => ocAdd (a.toNat * 256 + b.toNat) (ocSumBe l)
  | [a] => a.toNat * 256
  | [] => 0

/-- Update the element at index i of a list. -/
def listMod {α : Type} (l : List α) (i : Nat) (f : α → α) : List α := l.mapIdx (fun j x => if j = i then f x else x)

end Sys2Proof.Machine
end

