-- ==== Sys2Proof/Machine/State.lean ====
section
/-!
DEFINITION. The state of the engine as plain data: the queue of waiting commands, the chip, and the byte memories. Every
register is in Chip.regs (counters in Chip.ctrs); the rest is what the spec names beside registers.
-/

namespace Sys2Proof.Machine

/-- What leaves the engine (the model's own trace, log 4). -/
inductive Output where
  /-- a register read answered, R55 -/
  | readData (rq : Req) (addr : Nat) (value : Nat)
  /-- bytes written to host memory at a ring entry, R379, R382, R385, R386 -/
  | hostWrite (parcel ring index : Nat) (bytes : List Byte)
  /-- an MSI-X message, R379 -/
  | msix (parcel vector : Nat)
  /-- a frame on a port's transmit lanes; bad: sent with the FCS inverted, R115, R248 -/
  | frame (port : Nat) (bytes : List Byte) (bad : Bool)
  /-- a transmission ended by an error control block, R331 -/
  | cut (port : Nat)
  /-- a pause or PFC frame without its FCS, R271 -/
  | pause (port : Nat) (bytes : List Byte)
  /-- a spare-lane message, a Clause 49 control block: block type, D1, D2, D3, O code and remainder from bit 0 up, R118 -/
  | spare (panel lane : Nat) (block : BitVec 64)
  /-- a Tether message after its EtherType, R398, R399 -/
  | tether (kind : Nat) (gen : Nat) (role : Nat) (slotId : Nat) (tseq : Nat) (body : List Byte)
  /-- bytes written on a management bus, R422 -/
  | mbus (master addr : Nat) (bytes : List Byte)
  /-- the Clause 73 base page of a port: types, pause bits C0 and C1, FEC bits F0 to F3, R104, R105, R269 -/
  | autoneg (port : Nat) (types pause fec : Nat)
  /-- a null message page in answer to a next page, R104 -/
  | nullPage (port : Nat)
  /-- an answer of the debug port or of JTAG, R410, R412, R413 -/
  | debug (kind : Nat) (value : Nat)
  /-- VOUT_COMMAND sent on management master 3 to the VDD_CORE regulator: its address and the setpoint in mV, R40 -/
  | vout (addr mv : Nat)
  /-- a PPS_OUT edge, R318 -/
  | pps (high : Bool)
  /-- an AER report on a ring access, R379 -/
  | aer (parcel ring : Nat)
  deriving DecidableEq, Repr, Inhabited

/-- A latch of a requester: the words a latching read held (R66, R324, R351, R420, R268). -/
structure Latch where
  rq : Req
  kind : Nat
  vals : List (Nat × Nat)
  deriving DecidableEq, Repr, Inhabited

/-- An operation running in a mailbox (R71): ready holds its code and its data words once it has come to its end; begun is false
while the core that serves the mailbox does not run (R409). -/
structure MbxOp where
  mbx : Mbx
  tag : Nat
  op : Nat
  args : List Nat
  ready : Option (Nat × List Nat)
  begun : Bool
  deriving DecidableEq, Repr, Inhabited

/-- The pins whose level is state (R33 to R44, R91, R318). -/
structure Pins where
  /-- RESET_N as its filter takes it (R34) -/
  resetN : Bool
  supplyGood : Bool
  vddAon : Bool
  vbat : Bool
  wakeOut : Bool
  thermtrip : Bool
  perstN : Bool
  cxlPerst0 : Bool
  cxlPerst1 : Bool
  /-- XSPI_RESET_N, and XSPI_CS_N[0] and [1] outside an access of the loader (R33, R37) -/
  xspiReset : Bool
  xspiCs0 : Bool
  xspiCs1 : Bool
  /-- a device answers on XSPI_CS_N[1] (R91) -/
  cs1 : Bool
  /-- TDO is driven; outside a shift it is high impedance (R33) -/
  tdoDriven : Bool
  /-- the straps' levels, and TESTMODE and SLOT_ID as sampled at the last start of B1 (R35, R36) -/
  straps : Straps
  testmode : Bool
  slotId : Nat
  refclk : Bool
  timeRef : Bool
  ppsOut : Bool
  deriving DecidableEq, Repr, Inhabited

/-- A reset source that became active: its AON cycle and code, and what the reset found that decides about further sources of the
same cycle (R77): phase and its start, slot, profile, test mode, AON trim, level of WAKE_OUT and starts of B1. -/
structure LastReset where
  cycle : Nat
  code : Nat
  phase : Nat
  phaseStart : Nat
  slot : Nat
  plain : Bool
  test : Bool
  trimmed : Bool
  wake : Bool
  run : Nat
  deriving DecidableEq, Repr, Inhabited

/-- The boot loader and reset controller beside their registers (R75 to R100, R363). -/
structure Boot where
  /-- 0 to 5: phase running; 6: restart wait; 7: B5 complete -/
  phase : Nat
  trimmed : Bool
  /-- codes of the resets that B0 records, oldest first (R81) -/
  causes : List Nat
  /-- phase when that reset arrived (R80) -/
  arrived : Nat
  bkpLost : Bool
  phaseStart : Nat
  waitEnd : Nat
  /-- the 100 ms wait before this start of B1 has been made (R86) -/
  waited : Bool
  /-- this start of B1 follows a B2 refusal of that slot (R96) -/
  failedSlot : Option Nat
  /-- held by the Plain profile (R76) -/
  plainHold : Bool
  /-- the exit form of the phases is running (R363) -/
  exitForm : Bool
  /-- PL level to enter, and level at the entry into a state (R362, R363) -/
  level : Nat
  /-- domains to switch off at B5 -/
  offDoms : List Nat
  fwDigests : List (Nat × BitVec 384)
  /-- firmware of control core i (i = 0 to 3) and of the safety core (i = 4) as loaded (R94) -/
  firmware : List (Nat × BitVec 384)
  /-- the last reset, with the source that won (R77) -/
  lastReset : Option LastReset
  /-- parts of the flash whose change is not complete: area, offset and length (R96) -/
  torn : List (Nat × Nat × Nat)
  deriving DecidableEq, Repr, Inhabited

/-- A fault record waiting for the journal (R352). -/
structure JrnRec where
  bytes : List Byte
  deriving DecidableEq, Repr, Inhabited

/-- A pair held in an invalid state (R328). -/
structure WireFault where
  unit : Nat
  line : Nat
  since : Nat
  level : Bool
  /-- its lasting 1 ms has been treated as a fault of the unit -/
  acted : Bool
  deriving DecidableEq, Repr, Inhabited

/-- A Datum clock: seconds, nanoseconds and 32 bits of fraction (R300). -/
structure Clk where
  sec : Nat
  ns : Nat
  frac : Nat
  deriving DecidableEq, Repr, Inhabited

/-- A takeover between its steps 1 and 2 and its steps 3 to 8, which wait while the safety core is halted (R335, R414): the faulted
slice and line, the panel it served, whether its store's failure is the cause (R343), whether its syndrome was lost, and the served
time of recognition. -/
structure TkoWait where
  slice : Nat
  panel : Nat
  line : Nat
  store : Bool
  lost : Bool
  clk : Clk
  deriving DecidableEq, Repr, Inhabited

/-- The fault collector beside its registers (R328 to R352). -/
structure Flt where
  /-- fault queues of the six dies, oldest first (R9, R328) -/
  dieQ : List FaultEv
  /-- AON cycle of the last event that started a quench (R332), and of the last that asserted FAULT_N (R333) -/
  quenchAt : Option Nat
  faultnAt : Option Nat
  /-- a FAULTN_RELEASE: its AON cycle, and held and relPending before it (R333) -/
  released : Option (Nat × Bool × Bool)
  /-- AON cycle and record, with FIRST set, of the last event that is not masked (R350) -/
  unmasked : Option (Nat × List Byte)
  jrnQ : List JrnRec
  journal : NMap (BitVec 256)
  jrnSeq : Nat
  jrnNext : Nat
  jrnCredit : Nat
  jrnAt : Nat
  faultnEnd : Nat
  held : Bool
  relPending : Bool
  critical : Bool
  wires : List WireFault
  waits : List TkoWait
  /-- corrupting faults, the last first: slice, its generation then, and the served time (R337) -/
  corrupt : List (Nat × Nat × Nat)
  /-- when the last give-back began (R340) -/
  giveAt : Nat
  /-- per store, when uncorrectable errors were met (R343) -/
  storeErr : List (Nat × Nat)
  /-- stores being reloaded, with the panel left unserved by the failure (R343) -/
  reloads : List (Nat × Option Nat)
  /-- last kick of each core's watchdog (R346) -/
  kicks : NMap Nat
  /-- core restarts: core and time (R346) -/
  restarts : List (Nat × Nat)
  deriving DecidableEq, Repr, Inhabited

/-- A queued domain request (R366). waited: counted in INRUSH_WAITS. -/
structure DomReq where
  dom : Nat
  waited : Bool
  deriving DecidableEq, Repr, Inhabited

/-- An entry into a state that is running (R360): target 1 Moored, 2 Deflated, 3 Stowed. -/
structure Entry where
  target : Nat
  discard : Bool
  start : Nat
  fromMoored : Bool
  /-- the RTC alarm fired during the entry (R358) -/
  alarm : Bool
  deriving DecidableEq, Repr, Inhabited

/-- A running drain of a domain (R369, R370). -/
structure Drain where
  dom : Nat
  /-- DISCARD; for a packet SRAM group, on which it has no effect (R370): whether the group allocated before -/
  discard : Bool
  start : Nat
  /-- the request came from the PWR mailbox -/
  host : Bool
  deriving DecidableEq, Repr, Inhabited

/-- A level change that is running (R365). -/
structure LevelChange where
  old : Nat
  new : Nat
  start : Nat
  deriving DecidableEq, Repr, Inhabited

/-- Registers and counters in the register save area (R360, R361), and the pages it takes. -/
structure SaveArea where
  regs : NMap Word
  ctrs : NMap (BitVec 64)
  pages : List Nat
  deriving DecidableEq, Repr, Inhabited

/-- The power sequencer beside its registers (R356 to R374). -/
structure Pwr where
  queue : List DomReq
  lastStart : Nat
  entry : Option Entry
  change : Option LevelChange
  drains : List Drain
  /-- per domain, time of its last trip, and whether that trip came within 1 s of one before (R367) -/
  tripAt : NMap Nat
  stuck : List Nat
  save : Option SaveArea
  /-- when DONE of an entry into Deflated or Stowed was posted (R361) -/
  offAt : Option Nat
  /-- domains that the entry switched off (R360, R362) -/
  entryOff : List Nat
  /-- domains of the exit not yet on (R362) -/
  exitWait : List Nat
  exiting : Bool
  /-- SUPPLY_GOOD has been taken low in Stowed-ready: the engine is in Stowed until the next power-on (R358) -/
  stowed : Bool
  /-- PWR_RTC_HI as written, held until LO is written (R373) -/
  rtcHi : Nat
  /-- sensors that reached WARN and have not fallen 2 °C below it (R50) -/
  warned : List Nat
  deriving DecidableEq, Repr, Inhabited

/-- An attempt at a spare-lane swap (R120). -/
structure SwapTry where
  port : Nat
  lane : Nat
  degrade : Bool
  start : Nat
  acked : Bool
  /-- the other spare has been tried -/
  second : Bool
  deriving DecidableEq, Repr, Inhabited

/-- A spare lane beside its status register (R117 to R122). -/
structure Spare where
  trained : Bool
  /-- when a failed training is retried -/
  retryAt : Option Nat
  /-- when the last valid message came -/
  heard : Option Nat
  /-- SEQ of the engine's last request -/
  seq : Nat
  /-- the partner's last request and the answer given: SEQ, OP, answer D1 and D2 -/
  lastReq : Option (Nat × Nat × Nat × Nat)
  attempt : Option SwapTry
  /-- the message placed in every slot: D1 and D2 -/
  msg : Nat × Nat
  deriving DecidableEq, Repr, Inhabited

/-- A spare before training. -/
def Spare.idle : Spare := ⟨false, none, none, 0, none, none, (0, 0)⟩

/-- A port beside its registers (R105 to R114, R120, R123). -/
structure PortX where
  /-- when the present state of bring-up began -/
  since : Nat
  /-- when the present fault began (R114) -/
  faultAt : Nat
  /-- block or alignment lock is lost in the present fault -/
  lockLost : Bool
  /-- the hold timer is suspended for a swap, after this much of it (R114) -/
  hold : Option Nat
  /-- FEC that the link will use, coded as PORT_STATUS.FEC_ACT (R110) -/
  fec : Nat
  /-- half-width type of a fallen port (R123) -/
  half : Option Nat
  /-- degraded lanes whose swap failed, and when (R120) -/
  retry : List (Nat × Nat)
  /-- lanes that have degraded or failed and are not known to have been below the degrade threshold for 10 ms since (R122) -/
  bad : List Nat
  deriving DecidableEq, Repr, Inhabited

/-- A port before its first enable. -/
def PortX.idle : PortX := ⟨0, 0, false, none, 0, none, [], []⟩

/-- The metadata record (R135); rule, PAT and REPL are none where their valid bit is 0. -/
structure Meta where
  epoch : Nat
  parcel : Nat
  port : Nat
  slice : Nat
  vrf : Nat
  hash : Nat
  ts : Nat
  nhi : Nat
  queue : Nat
  cls : Nat
  colour : Nat
  rule : Option Nat
  pat : Option (Nat × Nat)
  repl : Option Nat
  punt : Bool
  mirror : Bool
  sample : Bool
  drop : Bool
  tsEvent : Bool
  poisoned : Bool
  reason : Nat
  len : Nat
  hdrCnt : Nat
  l3 : Nat
  l4 : Nat
  inner : Nat
  deriving DecidableEq, Repr, Inhabited

/-- A frame that a panel has delivered and that waits for an ingress slot (R25, R113): bytes without FCS, ingress time. -/
structure BFrame where
  port : Nat
  bytes : List Byte
  ts : Nat
  frac : Nat
  deriving DecidableEq, Repr, Inhabited

/-- What an inject descriptor says beside its frame (R387). -/
structure InjDesc where
  start : Nat
  parcel : Nat
  onestep : Bool
  clock : Nat
  deriving DecidableEq, Repr, Inhabited

/-- A head in a head slot or inject queue of a slice (R12, R124): frame without FCS, its chain's first cell. -/
structure Head where
  slice : Nat
  port : Nat
  bytes : List Byte
  ts : Nat
  frac : Nat
  chain : Nat
  inj : Option InjDesc
  deriving DecidableEq, Repr, Inhabited

/-- A packet inside a slice, after its parse: record, key vector, header index, the lookup program chosen, whether a DST step
hit, the fraction of its ingress time, when it was stamped, the rewrite bank of its stamp, and its slice's generation. -/
structure Pkt where
  head : Head
  md : Meta
  key : List Byte
  hdrs : List (Nat × Nat)
  prog : Nat
  dstHit : Bool
  stampAt : Nat
  bank : Nat
  gen : Nat
  /-- the pattern or rule that sampled it, and port sampling (R219) -/
  capRule : Bool
  capPort : Bool
  /-- QUEUE set by an action, applied after final resolution (R186) -/
  setq : Option Nat
  deriving DecidableEq, Repr, Inhabited

/-- A packet queued at a pattern engine (R188), with the window's groups, bounds and modes of the rule that selected it; engine 4:
its classification is over, and it waits for an earlier packet of its port that is still at an engine (R17). -/
structure PatReq where
  engine : Nat
  pkt : Pkt
  groups : Nat
  first : Nat
  last : Nat
  pmode : Bool
  pfull : Bool
  /-- common action of the rule, which the pattern's overrides (R191) -/
  act : Nat
  deriving DecidableEq, Repr, Inhabited

/-- A packet in a slice's replication queue: next copy, number of copies, and whether a mirror copy follows (R213, R215). -/
structure ReplReq where
  pkt : Pkt
  cursor : Nat
  size : Nat
  mirror : Bool
  deriving DecidableEq, Repr, Inhabited

/-- A learn or move request (R157). -/
structure LearnReq where
  slice : Nat
  gen : Nat
  mac : Nat
  vlan : Nat
  port : Nat
  nhi : Nat
  /-- the port of a move request's old entry -/
  old : Option Nat
  parcel : Nat
  deriving DecidableEq, Repr, Inhabited

/-- A cell's entry in the link table (R226); kind 0 free, 1 frame, 2 head, 3 refill, 4 retired (R345). -/
structure Cell where
  next : Nat
  last : Bool
  kind : Nat
  owner : Nat
  age : Nat
  deriving DecidableEq, Repr, Inhabited

/-- A free cell. -/
def Cell.free : Cell := ⟨0, false, 0, 0, 0⟩

/-- A frame chain: cells, contents, reference count, port charged, whether the charge is to the reserve, and the frame's
priority (R227, R230, R234, R271). -/
structure Chain where
  cells : List Nat
  bytes : List Byte
  refs : Nat
  port : Nat
  rsv : Bool
  pri : Nat
  deriving DecidableEq, Repr, Inhabited

/-- No chain. -/
def Chain.none : Chain := ⟨[], [], 0, 0, false, 0⟩

/-- Where a queued copy's bytes are: in cells, marked for HBM, in an HBM record, or in refill cells (R237 to R239). -/
inductive Place where
  | cells | marked | hbm | refill
  deriving DecidableEq, Repr, Inhabited

/-- A copy in the traffic manager (R228): its queue, egress port, rewritten head, chain and first shared byte, L′, what it
carries of the metadata, its time-dependent writes (R210), where it is, and when it was enqueued. -/
structure Copy where
  queue : Nat
  port : Nat
  head : List Byte
  headCells : List Nat
  chain : Nat
  bodyOff : Nat
  bodyLen : Nat
  len : Nat
  place : Place
  refill : List Nat
  enqAt : Nat
  inPort : Nat
  slice : Nat
  gen : Nat
  ts : Nat
  frac : Nat
  parcel : Nat
  colour : Nat
  inj : Bool
  clock : Nat
  mode : Nat
  cfOff : Nat
  tsOff : Nat
  trOff : Nat
  udpOff : Nat
  poisoned : Bool
  ecn : Bool
  deriving DecidableEq, Repr, Inhabited

/-- A queue's state beside its registers: spilling, claim, average depth of R261 (16 fractional bits), pages (R237, R241). -/
structure QSt where
  spill : Bool
  claim : Nat
  avg : Nat
  pages : List Nat
  tail : Nat
  sojourn : Nat
  deriving DecidableEq, Repr, Inhabited

/-- A queue at reset. -/
def QSt.idle : QSt := ⟨false, 0, 0, [], 0, 0⟩

/-- A page header (R241). -/
structure Page where
  /-- 0 free, 1 in use, 2 withdrawn (R291) -/
  kind : Nat
  owner : Nat
  age : Nat
  queue : Nat
  deriving DecidableEq, Repr, Inhabited

/-- No page. -/
def Page.free : Page := ⟨0, 0, 0, 0⟩

/-- A version of an LPM prefix (R143, R169, R381). -/
structure Pfx where
  tag : Nat
  vrf : Nat
  addr : Nat
  len : Nat
  nhi : Nat
  deriving DecidableEq, Repr, Inhabited

/-- A completion of update ring ring of a parcel (R382): SEQ, OP, CODE, SLOT and RESULT. -/
structure Compl where
  parcel : Nat
  ring : Nat
  seq : Nat
  op : Nat
  code : Nat
  slot : Nat
  result : Nat
  /-- TSEQ of the UPDATE that carried the descriptor to the partner; 0: none (R402) -/
  tseq : Nat
  /-- the descriptor came from the partner: it is remembered, and no entry is written (R402) -/
  silent : Bool
  deriving DecidableEq, Repr, Inhabited

/-- An update descriptor waiting for the end of its effect: a CLOSE or an ABORT (R148, R153). -/
structure SlotWait where
  slot : Nat
  compl : Compl
  deriving DecidableEq, Repr, Inhabited

/-- A flip: its epoch and time, the banks and the pattern regions it made active (R139, R156, R194, R218). -/
structure FlipRec where
  epoch : Nat
  at_ : Nat
  prsBank : Nat
  rwrBank : Nat
  regions : List Nat
  deriving DecidableEq, Repr, Inhabited

/-- A rehash (R168): logical partition, new physical partition, copy finished. -/
structure Rehash where
  part : Nat
  phys : Nat
  done : Bool
  deriving DecidableEq, Repr, Inhabited

/-- A load of a patch into idle banks or a region (R139, R194, R218): what it sets at its end, and the waiting completion. -/
structure Load where
  prs : Option Nat
  rwr : Option Nat
  pat : List (Nat × Nat × Nat)
  prsVersion : Nat
  rwrVersion : Nat
  compl : Option Compl
  deriving DecidableEq, Repr, Inhabited

/-- A parcel that quiesces (R393): the state it then takes (2 QUIESCED, 3 FROZEN), whether its VF was reset, so that RESET
follows (R392), and whether the PAR mailbox waits for it. -/
structure ParWait where
  parcel : Nat
  next : Nat
  flr : Bool
  host : Bool
  deriving DecidableEq, Repr, Inhabited

/-- A REMOVE or a RESTORE of a parcel (R392, R395): its transaction, once it has one, and for a RESTORE the ring records and
the MSI-X table to bring back. -/
structure ParTx where
  parcel : Nat
  slot : Option Nat
  restore : Bool
  rings : List Byte
  msix : List Byte
  deriving DecidableEq, Repr, Inhabited

/-- What FREEZE latches: the epoch and 16 ring records (R392, R394). -/
structure Frozen where
  epoch : Nat
  rings : List Byte
  deriving DecidableEq, Repr, Inhabited

/-- No latched state. -/
def Frozen.none : Frozen := ⟨0, []⟩

/-- A shaper (R266): credit in bytes, what refills carry below one byte, and the time-base value of the last refill. -/
structure Shaper where
  credit : Int
  frac : Nat
  at_ : Nat
  deriving DecidableEq, Repr, Inhabited

/-- Where the deficit round robin of a parent stands at one priority (R265): the child under the pointer, and whether this visit
has given its quantum. -/
structure DrrPos where
  child : Nat
  given : Bool
  deriving DecidableEq, Repr, Inhabited

/-- A received pause of one priority of a port (R270, R272), in time-base values: its end, the start of the continuous pause, and
the last frame with non-zero quanta. -/
structure Pause where
  ends : Nat
  start : Nat
  last : Nat
  deriving DecidableEq, Repr, Inhabited

/-- No pause. -/
def Pause.none : Pause := ⟨0, 0, 0⟩

/-- A capture in field-book staging (R223): its ring and its record but for SEQ (R220). -/
structure Capture where
  ring : Nat
  bytes : List Byte
  deriving DecidableEq, Repr, Inhabited

/-- A channel's command-parity alerts (R284, R285): when its last replay began, how many replays of the window in the retry buffer
were met by a new alert, and when it was last retrained. -/
structure Chan where
  replayAt : Option Nat
  met : Nat
  retrainAt : Option Nat
  deriving DecidableEq, Repr, Inhabited

/-- A channel without alerts. -/
def Chan.quiet : Chan := ⟨none, 0, none⟩

/-- A point of a servo's history of (clock − served) (R320): the served time in ns, and the difference from then on in 2^-32 ns. -/
structure HistPt where
  served : Nat
  diff : Int
  deriving DecidableEq, Repr, Inhabited

/-- A servo on C3 (R320, R321): mode (0 free-run, 1 PTP samples, 2 PPS_IN), state (0 FREE_RUN, 1 ACQUIRING, 2 LOCKED, 3 HOLDOVER),
last offset in 2^-32 ns, consecutive offsets at or below LOCK_NS and above STEP_NS, time of the last offset, history of
(clock − served), and the increments with the times from which they held, newest first. -/
structure Servo where
  mode : Nat
  state : Nat
  last : Int
  good : Nat
  bad : Nat
  lastAt : Nat
  hist : List HistPt
  incs : List (Nat × Nat)
  deriving DecidableEq, Repr, Inhabited

/-- A servo in free-run. -/
def Servo.free : Servo := ⟨0, 0, 0, 0, 0, 0, [], []⟩

/-- A response to a challenge (R412): the shifted bytes and the nonce that was outstanding, if one was. -/
structure AuthResp where
  data : List Byte
  nonce : Option (BitVec 384)
  deriving DecidableEq, Repr, Inhabited

/-- Clocks beside Datum. -/
structure Time where
  /-- fraction of a CORE cycle carried between ticks, in 1/16 of a cycle (log 3) -/
  coreAcc : Nat
  /-- CORE cycles since power-on (log 3) -/
  coreCyc : Nat
  /-- half a MGMT cycle carried between ticks (R22, R417) -/
  mgmtAcc : Nat
  /-- fraction of an RTC tick carried between ticks (log 3) -/
  rtcAcc : Nat
  /-- traffic-manager time base: 64 bits of ns and 32 fractional bits (R251, log 56) -/
  tmBase : BitVec 96
  /-- RTC count, 48 bits (R372) -/
  rtc : Nat
  deriving DecidableEq, Repr, Inhabited

/-- Time at reset. -/
def Time.reset : Time where
  coreAcc := 0
  coreCyc := 0
  mgmtAcc := 0
  rtcAcc := 0
  tmBase := 0
  rtc := 0

/-- The panels beside their registers. -/
structure Pnl where
  /-- spare lanes, key 2 * panel + spare (R117) -/
  spares : NMap Spare
  /-- ports (R105) -/
  ports : NMap PortX
  /-- when the frame in transmission on each port ends (R331) -/
  txEnd : NMap Nat
  deriving DecidableEq, Repr, Inhabited

/-- Pnl at reset. -/
def Pnl.reset : Pnl where
  spares := []
  ports := []
  txEnd := []

/-- The panel receive queues and the queues of the slices. -/
structure Pipe where
  /-- panel receive queues: frames waiting for an ingress slot (R25) -/
  bridle : List BFrame
  /-- slice head slots (R12) -/
  heads : List Head
  /-- per slice, number of the next head slot within the 384 of 64 CORE clocks, of which one is reserved (R12) -/
  slotNo : NMap Nat
  /-- recirculation queues (R12, R25, R124) -/
  recircQ : List Head
  /-- inject queues (R387) -/
  injQ : List Head
  /-- pattern-engine input queues (R188) -/
  patQ : List PatReq
  /-- replication queues (R213) -/
  replQ : List ReplReq
  /-- learn-request queues (R157) -/
  learnQ : List LearnReq
  /-- head-cell cache of each slice (R231) -/
  headCache : NMap (List Nat)
  deriving DecidableEq, Repr, Inhabited

/-- Pipe at reset. -/
def Pipe.reset : Pipe where
  bridle := []
  heads := []
  slotNo := []
  recircQ := []
  injQ := []
  patQ := []
  replQ := []
  learnQ := []
  headCache := []

/-- The buffer pool manager and the traffic manager's queues. -/
structure Bpm where
  /-- cell link table; an unlisted cell is free, kind 4 is retired (R226, R345) -/
  cells : NMap Cell
  /-- reference table and contents of frame chains (R227, R234) -/
  chains : NMap Chain
  /-- allocated cells to be retired when freed (R345) -/
  badCells : List Nat
  /-- next cell allocator in round-robin order (R232) -/
  allocPtr : Nat
  /-- packet pages in use (R241) -/
  pages : NMap Page
  /-- queue states (R237, R261) -/
  qst : NMap QSt
  /-- copies in the traffic manager, oldest first (R254) -/
  copies : List Copy
  /-- panel transmit queues (R264) -/
  txq : List Copy
  /-- leaf words whose summary bit is 0: pool and word (R242) -/
  xfull : List (Nat × Nat)
  /-- time of the last audit pass (R246) -/
  auditAt : Nat
  deriving DecidableEq, Repr, Inhabited

/-- Bpm at reset. -/
def Bpm.reset : Bpm where
  cells := []
  chains := []
  badCells := []
  allocPtr := 0
  pages := []
  qst := []
  copies := []
  txq := []
  xfull := []
  auditAt := 0

/-- A sync edge (R306): its served time and clocks A and B minus served, in 2^-16 ns, and when it came, in CORE cycles and in picoseconds. -/
structure SyncEdge where
  t : Nat
  dA : Int
  dB : Int
  core : Nat
  at_ : Nat
  deriving DecidableEq, Repr, Inhabited

/-- Datum. -/
structure Dtm where
  /-- the last two sync edges, the later one first (R306) -/
  edges : List SyncEdge
  /-- clock A (R300) -/
  clkA : Clk
  /-- clock B (R300) -/
  clkB : Clk
  /-- served clock (R300) -/
  clkS : Clk
  /-- last DTM_CLK_INC_HI written to each clock (R301) -/
  incHi : NMap Nat
  /-- remaining phase adjustment of each clock in 2^-32 ns (R302) -/
  adj : NMap Int
  /-- PPS_OUT's clock has passed a whole second plus OFF (R318) -/
  ppsDue : Bool
  /-- when PPS_OUT falls (R318) -/
  ppsEnd : Nat
  /-- servos of clocks A and B (R321) -/
  servos : NMap Servo
  deriving DecidableEq, Repr, Inhabited

/-- Dtm at reset. -/
def Dtm.reset : Dtm where
  edges := []
  clkA := ⟨0, 0, 0⟩
  clkB := ⟨0, 0, 0⟩
  clkS := ⟨0, 0, 0⟩
  incHi := []
  adj := []
  ppsDue := false
  ppsEnd := 0
  servos := []

/-- The host interface beside its registers. -/
structure Hif where
  /-- time of each ring's last MSI-X message, key 16 * parcel + ring (R379) -/
  irqLast : NMap Nat
  /-- rings whose message waits for the interval's end (R379) -/
  irqPend : List Nat
  /-- parcels that quiesce (R393) -/
  quiesce : List ParWait
  /-- REMOVE or RESTORE that runs (R392, R395) -/
  parTx : Option ParTx
  /-- latched ring state of each frozen parcel (R392) -/
  frozen : NMap Frozen
  deriving DecidableEq, Repr, Inhabited

/-- Hif at reset. -/
def Hif.reset : Hif where
  irqLast := []
  irqPend := []
  quiesce := []
  parTx := none
  frozen := []

/-- Debug port and control cores. -/
structure Dbg where
  /-- harts that the debug module halted: C0 to C3, boot core 4, safety core 5 (R413, R414) -/
  halted : List Nat
  /-- NONCE of the challenge that is outstanding (R412) -/
  nonce : Option (BitVec 384)
  /-- NONCE as DBG_AUTH captures it (R412) -/
  shown : BitVec 384
  /-- response being verified (R412) -/
  resp : Option AuthResp
  /-- registers of halted harts that debug knows, key 8192 * hart + regno (R413, log 11) -/
  regs : NMap (BitVec 64)
  /-- double words of halted harts' memories that debug knows, key 2^61 * hart + address / 8 (R413, log 11) -/
  mem : NMap (BitVec 64)
  /-- mcycle, minstret, mhpmcounter3 to 6 and mhpmevent3 to 6 of the boot core and C0 to C3, key 8192 * hart + regno (R417) -/
  pmu : NMap (BitVec 64)
  /-- per hart, the counters whose overflow interrupt is enabled: bit i for mcycle, minstret and mhpmcounter3 to 6 in turn (R417, log 145) -/
  pmuIrq : NMap (BitVec 64)
  /-- overflow interrupt that a hart has not taken: the instructions that it may still retire, and those of its skid (R417) -/
  pmuWait : NMap (Nat × Fin 7)
  /-- instructions between the one that caused a hart's last overflow interrupt and the mepc that it sampled (R417) -/
  mepcSkid : NMap (Fin 7)
  /-- boundary register as preloaded (R410) -/
  boundary : Nat
  /-- EXTEST, CLAMP or HIGHZ has taken the lanes out of service (R412) -/
  lanesOut : Bool
  /-- per core, consecutive windows on the other side of SAT_PCT (R408) -/
  satRun : NMap Nat
  /-- last 1 ms window measured (R408) -/
  loadAt : Nat
  deriving DecidableEq, Repr, Inhabited

/-- Dbg at reset. -/
def Dbg.reset : Dbg where
  halted := []
  nonce := none
  shown := 0
  resp := none
  regs := []
  mem := []
  pmu := []
  pmuIrq := []
  pmuWait := []
  mepcSkid := []
  boundary := 0
  lanesOut := false
  satRun := []
  loadAt := 0

/-- The traffic manager beside its registers and queues. -/
structure Tm where
  /-- per policer, when its buckets were last refilled (R256) -/
  polAt : NMap Nat
  /-- per policer, what refills carry below one byte (R256) -/
  polFrac : NMap (Nat × Nat)
  /-- LFSR of each slice, when it has left its seed (R262) -/
  lfsr : NMap Nat
  /-- shapers by the base of their element's entry; one that has never been used is full (R266) -/
  shapers : NMap Shaper
  /-- deficit of each child by the base of its entry (R265) -/
  drrDc : NMap Nat
  /-- pointer of each parent, key 8 * base of its entry + priority (R265) -/
  drrPos : NMap DrrPos
  /-- received pauses, key 8 * port + priority (R270) -/
  pauses : NMap Pause
  /-- time-base value at which each port last sent XOFF (R271) -/
  fcAt : NMap Nat
  /-- microsecond of the time base at which each queue was last sampled, or was given its sampling profile (R268) -/
  sampAt : NMap Nat
  /-- microsecond of the time base at which each sampling profile got its period (R268) -/
  sampFrom : NMap Nat
  /-- last millisecond tick at which the watchdog looked (R272) -/
  wdAt : Nat
  deriving DecidableEq, Repr, Inhabited

/-- Tm at reset. -/
def Tm.reset : Tm where
  polAt := []
  polFrac := []
  lfsr := []
  shapers := []
  drrDc := []
  drrPos := []
  pauses := []
  fcAt := []
  sampAt := []
  sampFrom := []
  wdAt := 0

/-- The logical table image, its protection, and the microcode and pattern memories. -/
structure Tbl where
  /-- parser control store, key 4096 * bank + address; none is an EMPTY word (R128, R139) -/
  prsCs : NMap (Option (BitVec 256))
  /-- dispatch table, key 256 * bank + entry (R130) -/
  prsDisp : NMap (BitVec 64)
  /-- type map, key 64 * bank + entry (R130) -/
  prsTmap : NMap (BitVec 32)
  /-- rewrite control store, key 2048 * bank + address (R217) -/
  rwrCs : NMap (Option (BitVec 256))
  /-- exact-match ways, key (8192 * physical partition + bucket) * 4 + way (R161, R163) -/
  em : NMap (BitVec 128)
  /-- hit bit of each exact-match location (R160) -/
  emHit : NMap Bool
  /-- IPv4 prefix versions by location (R169) -/
  lpm4 : NMap (Option Pfx)
  /-- IPv6 prefix versions by location (R169) -/
  lpm6 : NMap (Option Pfx)
  /-- index tables and their shadows, key 2^22 * table + 2^21 * shadow + index; table 0 next hop, 1 member, 2 group, 3 rewrite (R170) -/
  idx : NMap (Option (BitVec 272))
  /-- rule rows, key 2 * address + version row: action word, MASK, VALUE from the top down (R183, R186) -/
  rules : NMap (Option (BitVec 1088))
  /-- pattern rules, key 16384 * (2 * engine + region) + address; a wide set is under region 0 (R191, R193) -/
  patRules : NMap (BitVec 128)
  /-- automaton bytes, key 2 * engine + region (R193) -/
  patAut : NMap (List Byte)
  /-- what a store that missed writes still holds: exact-match ways, key 2^40 * store + location (R178) -/
  staleEm : NMap (Option (BitVec 128))
  /-- the same for IPv4 prefixes (R178) -/
  staleLpm4 : NMap (Option (Option Pfx))
  /-- the same for IPv6 prefixes (R178) -/
  staleLpm6 : NMap (Option (Option Pfx))
  /-- the same for index tables (R178) -/
  staleIdx : NMap (Option (Option (BitVec 272)))
  /-- flipped bits of protected words (R140, R200, R201, R248, R344) -/
  upsets : List Hit
  /-- locations under repair (R341) -/
  repairs : List Loc
  /-- locations with REPAIR_FAIL (R342) -/
  repairFail : List Loc
  deriving DecidableEq, Repr, Inhabited

/-- Tbl at reset. -/
def Tbl.reset : Tbl where
  prsCs := []
  prsDisp := []
  prsTmap := []
  rwrCs := []
  em := []
  emHit := []
  lpm4 := []
  lpm6 := []
  idx := []
  rules := []
  patRules := []
  patAut := []
  staleEm := []
  staleLpm4 := []
  staleLpm6 := []
  staleIdx := []
  upsets := []
  repairs := []
  repairFail := []

/-- The update and learn engines beside their registers. -/
structure Upd where
  /-- COMMITs waiting for a flip (R149) -/
  commits : List Compl
  /-- a learn tick or a rehash has requested a flip (R149) -/
  flipReq : Bool
  /-- flip requests counted in HOLD_FLIPS during the present hold (R154) -/
  waitSeen : Nat
  /-- flips, newest first (R149, R156) -/
  flips : List FlipRec
  /-- time at which each committed slot was committed (R155) -/
  slotAt : NMap Nat
  /-- CLOSEs not yet complete (R148) -/
  closing : List SlotWait
  /-- ABORTs not yet complete, among them those that wait for a CLOSE (R153) -/
  aborts : List SlotWait
  /-- rehash running (R168) -/
  rehash : Option Rehash
  /-- old physical partition of a rehash and the time of its flip (R168) -/
  cleanup : Option (Nat × Nat)
  /-- last 16 completions of each update ring, key 4 * parcel + ring (R383) -/
  hist : NMap (List Compl)
  /-- loads of patches (R139, R194, R218) -/
  loads : List Load
  /-- learn filter: MAC, VLAN, port (R158) -/
  lrnFilter : List (Nat × Nat × Nat)
  /-- changes in the current learn transaction (R159) -/
  lrnChanges : Nat
  /-- time of the last learn tick (R159) -/
  lrnTickAt : Nat
  /-- period in force until the next tick, us (R159, R177) -/
  lrnPeriod : Nat
  /-- time of the last aging pass (R160) -/
  lrnAgeAt : Nat
  deriving DecidableEq, Repr, Inhabited

/-- Upd at reset. -/
def Upd.reset : Upd where
  commits := []
  flipReq := false
  waitSeen := 0
  flips := []
  slotAt := []
  closing := []
  aborts := []
  rehash := none
  cleanup := none
  hist := []
  loads := []
  lrnFilter := []
  lrnChanges := 0
  lrnTickAt := 0
  lrnPeriod := 100
  lrnAgeAt := 0

/-- The Tether unit beside its registers. -/
structure Tet where
  /-- last TSEQ sent (R402) -/
  sent : Nat
  /-- last TSEQ acknowledged (R402) -/
  acked : Nat
  /-- last TSEQ received in order (R402) -/
  recv : Nat
  /-- UPDATE and RESYNC messages not acknowledged: TSEQ, kind, body (R402) -/
  unacked : List (Nat × Nat × List Byte)
  /-- time of the last acknowledgement progress (R402) -/
  progressAt : Nat
  /-- completions that wait for an acknowledgement (R402) -/
  held : List Compl
  /-- time of the last message from the partner (R404) -/
  heard : Option Nat
  /-- time of the last heartbeat (R398) -/
  hbAt : Nat
  /-- this engine's tables agree with the active's (R399) -/
  synced : Bool
  /-- from the partner's last heartbeat (R399) -/
  partnerSynced : Bool
  /-- GLB_UID of the partner (R399, R401) -/
  partnerUid : Nat
  /-- since when no partner has been heard in role NONE (R401) -/
  aloneAt : Nat
  /-- start of a swap that is running (R403) -/
  swap : Option Nat
  /-- this engine's SWAP command waits (R403) -/
  ownSwap : Bool
  /-- the partner has asked for the swap too (R403) -/
  peerSwap : Bool
  /-- the partner was lost while SYNCING: nothing is forwarded until reset (R401) -/
  dead : Bool
  /-- a resync is running since (R402) -/
  resync : Option Nat
  /-- transaction in which resync records are applied (R402) -/
  resyncSlot : Option Nat
  deriving DecidableEq, Repr, Inhabited

/-- Tet at reset. -/
def Tet.reset : Tet where
  sent := 0
  acked := 0
  recv := 0
  unacked := []
  progressAt := 0
  held := []
  heard := none
  hbAt := 0
  synced := false
  partnerSynced := false
  partnerUid := 0
  aloneAt := 0
  swap := none
  ownSwap := false
  peerSwap := false
  dead := false
  resync := none
  resyncSlot := none

/-- The field book beside its registers. -/
structure Fbk where
  /-- staging queue (R223) -/
  staged : List Capture
  /-- heads counted by port sampling, per port (R219) -/
  samples : NMap Nat
  deriving DecidableEq, Repr, Inhabited

/-- Fbk at reset. -/
def Fbk.reset : Fbk where
  staged := []
  samples := []

/-- A request in an HBM bank queue (R281, R282): service class, direction, row, when it entered, whether it entered behind one of the same
row and the other direction, and whether it is the one that the running command waits for. -/
structure BankReq where
  cls : Nat
  write : Bool
  row : Nat
  at_ : Nat
  hazard : Bool
  own : Bool
  deriving DecidableEq, Repr, Inhabited

/-- A bank: the row that the last request left open, and its queue in the order of arrival. -/
structure Bank where
  openRow : Option Nat
  queue : List BankReq
  deriving DecidableEq, Repr, Inhabited

/-- A bank with no row open and no request. -/
def Bank.idle : Bank := ⟨none, []⟩

/-- The HBM controllers and extension ports beside their registers. -/
structure Hbm where
  /-- last refresh of each channel, key 32 * controller + channel (R280) -/
  refAt : NMap Nat
  /-- last retraining step of each channel (R280) -/
  stepAt : NMap Nat
  /-- parity alerts of each channel (R284, R285) -/
  chans : NMap Chan
  /-- retirements that wait: controller and rank (R289) -/
  due : List (Nat × Nat)
  /-- per controller, when the last rank block was copied (R290) -/
  migAt : NMap Nat
  /-- banks, key (64 * controller + pseudo-channel) * 1024 + bank (R281) -/
  banks : NMap Bank
  /-- words that a migration marked uncorrectable: controller, physical rank and word, counted in 32 bytes (R290) -/
  badWords : List (Nat × Nat × Nat)
  /-- consecutive timeouts of each extension port (R295) -/
  timeouts : NMap Nat
  /-- requests of each extension port that have timed out and whose users have not met the failure yet (R295) -/
  timedOut : NMap Nat
  /-- per controller, the backing writes that wait, oldest first; those beyond 65,536 wait in the update engine (R292) -/
  backQ : NMap (List Loc)
  /-- stacks whose backing copies have been written and not lost (R83, R88, R292) -/
  backed : List Nat
  /-- last backing traverse (R293) -/
  backAt : Nat
  /-- per controller, from when the spill cap admits the next spill write (R278) -/
  spillAt : NMap Nat
  /-- per controller, from when the spill cap admits the next read-back (R278) -/
  fillAt : NMap Nat
  deriving DecidableEq, Repr, Inhabited

/-- Hbm at reset. -/
def Hbm.reset : Hbm where
  refAt := []
  stepAt := []
  chans := []
  due := []
  migAt := []
  banks := []
  badWords := []
  timeouts := []
  timedOut := []
  backQ := []
  backed := []
  backAt := 0
  spillAt := []
  fillAt := []

/-- Performance counters beside their registers. -/
structure Pmc where
  /-- snapshot being made (R418) -/
  copy : Option (NMap (BitVec 64))
  /-- last periodic boundary taken (R418) -/
  snapAt : Nat
  /-- counters at the start of the bandwidth window (R420) -/
  bwBase : NMap (BitVec 64)
  /-- time-base ms of the last window boundary (R420) -/
  bwAt : Nat
  /-- length of the running window, ms (R420) -/
  bwMs : Nat
  deriving DecidableEq, Repr, Inhabited

/-- Pmc at reset. -/
def Pmc.reset : Pmc where
  copy := none
  snapAt := 0
  bwBase := []
  bwAt := 0
  bwMs := 1000

/-- The chip: everything but the queue of commands and the byte memories. -/
structure Chip where
  /-- trace of what leaves the engine, newest first (the model's own, log 4) -/
  out : List Output
  /-- index of the next free value (the model's own, log 5) -/
  freeCtr : Nat
  /-- picoseconds since power-on (the model's own clock, log 3) -/
  now : Nat
  /-- Clocks beside Datum. -/
  time : Time
  /-- registers by key; an epoch-class register holds its shadow (R69) -/
  regs : NMap Word
  /-- active copies of the epoch-class registers (R69) -/
  active : NMap Word
  /-- copies of the epoch before (R151) -/
  prev : NMap Word
  /-- 64-bit counters by the key of their low word (R63) -/
  ctrs : NMap (BitVec 64)
  /-- counter snapshot copy (R418) -/
  snapC : NMap (BitVec 64)
  /-- read latches (R66) -/
  latches : List Latch
  /-- operations running in mailboxes (R71) -/
  mbx : List MbxOp
  /-- BKP domain's copy of the BKP-held registers (R80) -/
  bkp : NMap Word
  /-- writes on their way to BKP (R81) -/
  bkpPend : List (Nat × Word)
  /-- pins (R33) -/
  pins : Pins
  /-- boot loader (R83) -/
  boot : Boot
  /-- fault collector (R328) -/
  flt : Flt
  /-- power sequencer (R356) -/
  pwr : Pwr
  /-- The panels beside their registers. -/
  pnl : Pnl
  /-- The panel receive queues and the queues of the slices. -/
  pipe : Pipe
  /-- The buffer pool manager and the traffic manager's queues. -/
  bpm : Bpm
  /-- Datum. -/
  dtm : Dtm
  /-- The host interface beside its registers. -/
  hif : Hif
  /-- Debug port and control cores. -/
  dbg : Dbg
  /-- The traffic manager beside its registers and queues. -/
  tm : Tm
  /-- The logical table image, its protection, and the microcode and pattern memories. -/
  tbl : Tbl
  /-- The update and learn engines beside their registers. -/
  upd : Upd
  /-- The Tether unit beside its registers. -/
  tet : Tet
  /-- The field book beside its registers. -/
  fbk : Fbk
  /-- The HBM controllers and extension ports beside their registers. -/
  hbm : Hbm
  /-- Performance counters beside their registers. -/
  pmc : Pmc
  deriving DecidableEq, Repr, Inhabited

/-- The byte memories: the flash slots (slot * 2^28 + offset), and the field-book HBM region with the two extension devices
(HBM address; 2^60 * (n + 1) + device address). Each a canonical list of address and byte. -/
structure Store where
  flash : NMap Byte
  mem : NMap Byte
  deriving DecidableEq, Repr, Inhabited

/-- The machine. -/
structure State where
  /-- commands that wait, first in first out -/
  pending : List Instr
  chip : Chip
  store : Store
  deriving DecidableEq, Repr, Inhabited

/-- Why the machine could stop. No command of this engine stops it (log 1). -/
inductive Fault where
  /-- raised by nothing: the spec gives every command an effect -/
  | noneRaised
  deriving DecidableEq, Repr, Inhabited

/-- Why a command could have no meaning. -/
inductive Refusal where
  /-- raised by a dispatch arm whose command has no meaning yet; safe: the machine stops -/
  | notModelled (mnemonic : String)
  deriving DecidableEq, Repr, Inhabited

/-- What a flash byte that nothing has written reads as: erased flash (log 7). -/
def flashByte (_ : Nat) : Byte := 0xFF

/-- What a memory byte that nothing has written reads as (log 8). -/
def memByte (_ : Nat) : Byte := 0

/-- The canonical form of the byte memories. -/
def Store.wf (m : Store) : Bool := mwf flashByte m.flash && mwf memByte m.mem

/-- The chip right after VDD_AON comes into range for the first time; the spec does not give the levels of the board's inputs then, which
stand as log 115 says (DESIGN CHOICE). -/
def Chip.reset : Chip where
  out := []
  freeCtr := 0
  now := 0
  time := Time.reset
  regs := []
  active := []
  prev := []
  ctrs := []
  snapC := []
  latches := []
  mbx := []
  bkp := []
  bkpPend := []
  pins := ⟨true, false, true, true, false, false, true, false, false, false, true, true, true, false, ⟨false, false, 0⟩, false, 0, true, false, false⟩
  boot := ⟨0, false, [0], 7, false, 0, 0, false, none, false, false, 0, [], [], [], none, []⟩
  flt := ⟨[], none, none, none, none, [], [], 0, 0, 64 * 250000000, 0, 0, false, false, false, [], [], [], 0, [], [], [], []⟩
  pwr := ⟨[], 0, none, none, [], [], [], none, none, [], [], false, false, 0, []⟩
  pnl := Pnl.reset
  pipe := Pipe.reset
  bpm := Bpm.reset
  dtm := Dtm.reset
  hif := Hif.reset
  dbg := Dbg.reset
  tm := Tm.reset
  tbl := Tbl.reset
  upd := Upd.reset
  tet := Tet.reset
  fbk := Fbk.reset
  hbm := Hbm.reset
  pmc := Pmc.reset

/-- The machine right after reset: every register at its reset value (its map lists nothing), nothing waiting. -/
def State.reset : State where
  pending := []
  chip := Chip.reset
  store := ⟨[], []⟩

end Sys2Proof.Machine
end

