-- ==== Sys2Proof/Machine/Ops.lean ====
section
/-!
DEFINITION. The named operations over the chip: reading and writing registers, fields and counters, what a register holds at
reset, access errors (R73, R74), power domains (R57), mailboxes (R71, R72), free values, and the byte memories.
-/

namespace Sys2Proof.Machine

/-! Time, in picoseconds. -/

def nsPs : Nat := 1000
def usPs : Nat := 1000000
def msPs : Nat := 1000000000
def sPs : Nat := 1000000000000

/-! What a register holds at reset. -/

/-- The indices at which a table row with these dimensions reaches byte offset o. -/
def dimIdx : List (Nat × Nat) → Nat → Option (List Nat)
  | [], o => if o = 0 then some [] else none
  | (n, st) :: ds, o =>
    if o / st < n then
      match dimIdx ds (o - o / st * st) with
      | some l => some (o / st :: l)
      | none => none
    else none

end Sys2Proof.Machine

namespace Sys2Proof

open Machine

/-- The indices at which a register row holds key k. -/
def RegDesc.idx (d : RegDesc) (k : Nat) : Option (List Nat) :=
  if k < d.base then none
  else
    match d.width with
    | .w32 => dimIdx d.dims (k - d.base)
    | _ => dimIdx d.dims (k / 8 * 8 - d.base / 8 * 8)

end Sys2Proof

namespace Sys2Proof.Machine

/-- The first row of a table that holds key k. -/
def findDesc : List RegDesc → Nat → Option (RegDesc × List Nat)
  | [], _ => none
  | d :: ds, k =>
    match d.idx k with
    | some l => some (d, l)
    | none => findDesc ds k

/-- The row of the spec's tables that holds key k. -/
def descOf (k : Nat) : Option (RegDesc × List Nat) := findDesc regTable k

/-- The reset value that the fields of a row spell. -/
def fieldsReset : List FieldDesc → Nat
  | [] => 0
  | f :: l => f.reset % 2 ^ f.width * 2 ^ f.lo + fieldsReset l

/-- Reset values of FLT_CLASS_CFG: LOG bit 0, JOURNAL 1, QUENCH 2, FAULTN 3, HOLD 4 (R327). -/
def classCfgReset (cls : Nat) : Nat :=
  match cls with
  | 0x02 | 0x03 | 0x04 | 0x05 | 0x06 => 0x03
  | 0x07 => 0x1B
  | 0x09 | 0x0B => 0x03
  | 0x0A | 0x0D | 0x0E | 0x0F | 0x10 | 0x16 => 0x0B
  | 0x0C | 0x19 => 0x01
  | 0x11 | 0x14 | 0x15 => 0x1F
  | 0x12 | 0x13 | 0x17 | 0x18 => 0x03
  | _ => 0

/-- Reset values that depend on the index (R73, R164, R168, R250, R298, R327, R389 and the PCIe mask bit of R54). -/
def indexedReset (name : String) (k : Nat) (idx : List Nat) : Option Nat :=
  if name = "GLB_VARIANT" then some (if Config.isH96 then 0x18 else 0x0C)
  else if name = "GLB_UID_LO" then some (Config.uid.toNat % 2 ^ 32)
  else if name = "GLB_UID_HI" then some (Config.uid.toNat / 2 ^ 32)
  else if name = "FLT_CLASS_CFG" then some (classCfgReset (idx.headD 0))
  else if name = "UPD_PART_MAP" then some (idx.headD 0)
  else if name = "UPD_PART_SPARE" then some 64
  else if name = "UPD_SEED" then
    some (if idx.getD 1 0 = 0 then 0x5EED0000 + idx.headD 0 else 0xA5A50000 + idx.headD 0)
  else if name = "BPM_OWNER_CFG" then some (if idx.headD 0 = 255 then 2 ^ 31 else 0)
  else if name = "MEM_RANK" then some (if 126 ≤ idx.getD 1 0 then 2 ^ 28 else 0)
  else if name = "VF_PARCEL" then some (if k < 0x10000000 then 0 else k / 0x10000 % 64)
  else if name = "MSIX_TABLE" then some (if k % 0x10 = 12 then 1 else 0)
  else none

/-- What a register that nothing has written holds: its reset value. -/
def regDefault (k : Nat) : Word :=
  match descOf k with
  | none => 0
  | some (d, l) =>
    match indexedReset d.name k l with
    | some v => BitVec.ofNat 32 v
    | none => BitVec.ofNat 32 (fieldsReset d.fields)

/-- What a counter that nothing has counted holds. -/
def ctrDefault (_ : Nat) : BitVec 64 := 0

/-- What a counter at offset o of ring r counts for the host interface: entries written, or dropped, policed and bad ones. -/
def pmcOfRing (r o : Nat) : Option (Nat × Nat) :=
  if o = 0x28 ∧ 4 ≤ r ∧ r < 12 then some (6, 1)
  else if o = 0x30 ∨ (o = 0x38 ∧ 9 ≤ r) then some (6, 2)
  else none

/-- The unit and event of R415 that a counter counts: 1 items handled, 2 items discarded or refused (log 44). -/
def pmcOfCounter (k : Nat) : Option (Nat × Nat) :=
  if k < 0x30300 then none
  else if k < 0x30380 then some (0x18 + (k - 0x30300) / 16, 2)
  else if k < 0x64000 then none
  else if k < 0x64400 then pmcOfRing ((k - 0x64000) / 0x40) (k % 0x40)
  else if k < 0xC0400 then none
  else if k < 0xD0000 then
    let c := (k % 0x4000 - 0x400) / 8
    if k % 0x4000 < 0x400 then none
    else if c < 2 then some (0x0C + (k - 0xC0000) / 0x4000, 1)
    else if c = 12 ∨ c = 13 then some (0x0C + (k - 0xC0000) / 0x4000, 2) else none
  else if k = 0xE4008 ∨ k = 0xE4010 ∨ k = 0xE4028 then some (0x12, 2)
  else if k = 0xF0A08 then some (0x13, 1)
  else if k < 0x100000 then none
  else if k < 0x200000 then
    let c := k % 0x100 / 8
    if (2 ≤ c ∧ c ≤ 7) ∨ c = 11 then some (0x18 + (k - 0x100000) / 0x20000, 2) else none
  else if k = 0x2C8108 ∨ k = 0x2C8110 then some (0x3C, 2)
  else if 0x2CA000 ≤ k ∧ k < 0x2CA400 then some (0x3C, if k % 16 = 0 then 1 else 2)
  else if k < 0xB00000 then
    if 0x42000 ≤ k % 0x100000 ∧ k % 0x100000 < 0x42800 then some (0x20 + (k - 0x200000) / 0x100000, 2) else none
  else if k < 0xC00000 then none
  else if k < 0x1000000 then
    let c := (k % 0x100000 - 0x100) / 8
    if c = 0 then some (0x38 + (k - 0xC00000) / 0x100000, 1)
    else if c = 2 ∨ c = 3 then some (0x38 + (k - 0xC00000) / 0x100000, 2) else none
  else if k = 0x1100C08 then some (0x3E, 1)
  else if 0x1100C18 ≤ k ∧ k ≤ 0x1100C28 then some (0x3E, 2)
  else if k = 0x1110128 ∨ k = 0x1110138 then some (0x3D, 2)
  else if k < 0x10000000 then none
  else if k < 0x20000000 then
    if k % 0x10000 < 0x4000 then none else pmcOfRing ((k % 0x10000 - 0x4000) / 0x40) (k % 0x40)
  else if k < 0x28000000 then if k % 0x40 = 0x38 then some (0x13, 2) else none
  else none

namespace Chip

/-! Registers, fields and counters. -/

/-- A register's value. -/
def reg (c : Chip) (k : Nat) : Word := mget regDefault c.regs k

/-- A register's value as a number. -/
def rd (c : Chip) (k : Nat) : Nat := (c.reg k).toNat

/-- A field. -/
def fld (c : Chip) (k : Nat) (f : BF) : Nat := bfGet f (c.reg k)

/-- A one-bit field. -/
def on (c : Chip) (k : Nat) (f : BF) : Bool := c.fld k f == 1

/-- A field of the active copy of an epoch-class register (R69). -/
def act (c : Chip) (k : Nat) (f : BF) : Nat := bfGet f (mget regDefault c.active k)

/-- A field of the copy that the epoch before used (R151). -/
def prv (c : Chip) (k : Nat) (f : BF) : Nat := bfGet f (mget regDefault c.prev k)

/-- Store a register. -/
def wr (c : Chip) (k : Nat) (v : Word) : Chip := { c with regs := mset regDefault c.regs k v }

/-- Store a number in a register. -/
def wrN (c : Chip) (k v : Nat) : Chip := c.wr k (BitVec.ofNat 32 v)

/-- Store a field, leaving the register's other bits. -/
def setF (c : Chip) (k : Nat) (f : BF) (v : Nat) : Chip := c.wr k (bfSet f (c.reg k) v)

/-- A 64-bit counter. -/
def cnt (c : Chip) (k : Nat) : BitVec 64 := mget ctrDefault c.ctrs k

/-- Store a 64-bit counter. -/
def setCnt (c : Chip) (k : Nat) (v : BitVec 64) : Chip := { c with ctrs := mset ctrDefault c.ctrs k v }

/-- Programmable counter i counts event ev of unit u (R415). -/
def pmcTakes (c : Chip) (u ev i : Nat) : Bool :=
  let k := Reg.PMC_CTR_CFG i
  c.on k Fd.PMC_CTR_CFG_EN && c.fld k Fd.PMC_CTR_CFG_MODE == 0 && c.fld k Fd.PMC_CTR_CFG_UNIT == u
    && c.fld k Fd.PMC_CTR_CFG_EVENT == ev

/-- A programmable counter rises by n. -/
def pmcUp (n : Nat) (c : Chip) (i : Nat) : Chip := c.setCnt (Reg.PMC_CTR i) (c.cnt (Reg.PMC_CTR i) + BitVec.ofNat 64 n)

/-- Event ev of unit u occurs n times: every programmable counter set to it counts them (R415). -/
def pmcEvent (c : Chip) (u ev n : Nat) : Chip :=
  if c.on Reg.PMC_CTRL Fd.PMC_CTRL_EN then ((List.range 64).filter (fun i => c.pmcTakes u ev i)).foldl (pmcUp n) c else c

/-- A 64-bit counter rises by n and wraps (R63); what it counts may be an event of its unit (R415). -/
def bump (c : Chip) (k : Nat) (n : Nat) : Chip :=
  let c1 := c.setCnt k (c.cnt k + BitVec.ofNat 64 n)
  match pmcOfCounter k with
  | some (u, ev) => c1.pmcEvent u ev n
  | none => c1

/-- A counter field rises by n and stops at its greatest value (R63). -/
def satF (c : Chip) (k : Nat) (f : BF) (n : Nat) : Chip := c.setF k f (min (c.fld k f + n) (2 ^ f.width - 1))

/-- A 32-bit counter rises by n and stops at 0xFFFF_FFFF (R63). -/
def sat (c : Chip) (k n : Nat) : Chip := c.satF k ⟨0, 32⟩ n

/-- Something leaves the engine. -/
def emit (c : Chip) (o : Output) : Chip := { c with out := o :: c.out }

/-- Several things leave the engine, the first of the list first. -/
def emits (c : Chip) (l : List Output) : Chip := l.foldl emit c

/-- The next free value (log 5). -/
def free (c : Chip) : BitVec 64 := Config.freeWord c.freeCtr

/-- The free value has been used. -/
def tick (c : Chip) : Chip := { c with freeCtr := c.freeCtr + 1 }

end Chip

/-! Requesters and access errors. -/

end Sys2Proof.Machine

namespace Sys2Proof

open Machine

/-- Requester codes of GLB_ERR_ADDR.REQ (R73). -/
def Req.code : Req → Nat
  | .pf => 0
  | .core c => 1 + c.val
  | .boot => 5
  | .safety => 6
  | .debug => 7
  | .vf n => 7 + n.val

/-- The parcel a VF requester acts for. -/
def Req.vf? : Req → Option Nat
  | .vf n => some n.val
  | _ => none

/-- Whether the requester is not a VF. -/
def Req.priv : Req → Bool
  | .vf _ => false
  | _ => true

end Sys2Proof

namespace Sys2Proof.Machine

def errCfgIgnored : Nat := 0
def errBadAccess : Nat := 1
def errBadValue : Nat := 2
def errLockWrite : Nat := 3
def errOffAccess : Nat := 4

/-- Set an error flag, capturing the address of the first error: a VF's in its own registers, others' in GLB (R73, R74,
log 22). -/
def Chip.err (c : Chip) (rq : Req) (bit addr : Nat) : Chip :=
  match rq with
  | .vf n =>
    let st := Reg.VF_STATUS n.val
    let c1 := if c.rd st % 32 = 0 then c.wrN (Reg.VF_ERR_ADDR n.val) (bit * 2 ^ 16 + addr % 2 ^ 16) else c
    c1.setF st ⟨bit, 1⟩ 1
  | _ =>
    let c1 := if c.rd Reg.GLB_STATUS % 32 = 0 then
        c.wrN Reg.GLB_ERR_ADDR (rq.code * 2 ^ 28 + bit * 2 ^ 25 + addr % 2 ^ 25) else c
    c1.setF Reg.GLB_STATUS ⟨bit, 1⟩ 1

/-! Power domains (R7, R57). -/

/-- The domain that an address needs; the blocks of AON, and those of MGMT and CORE without a domain of their own, give none (log 24). -/
def domOfAddr (a : Nat) : Option Nat :=
  if a < 0x50000 then none
  else if a < 0x60000 then some 116
  else if a < 0x70000 then some 114
  else if a < 0x90000 then none
  else if a < 0xA0000 then some 115
  else if a < 0xC0000 then none
  else if a < 0xD0000 then some (104 + (a - 0xC0000) / 0x4000)
  else if a < 0xD0200 then some (112 + (a - 0xD0000) / 0x100)
  else if a < 0xF0000 then none
  else if a < 0x100000 then some 102
  else if a < 0x200000 then some (72 + (a - 0x100000) / 0x20000)
  else if a < 0xB00000 ∧ 0xC8000 ≤ (a - 0x200000) % 0x100000 ∧ (a - 0x200000) % 0x100000 < 0xD0000 then none
  else if a < 0xB00000 then some (80 + (a - 0x200000) / 0x100000)
  else if a < 0xB50000 then some (89 + (a - 0xB00000) / 0x10000)
  else if a < 0xC00000 then none
  else if a < 0x1000000 then some (108 + (a - 0xC00000) / 0x100000)
  else if a < 0x1100000 then some 102
  else if a < 0x10000000 then none
  else if a < 0x20000000 then some 114
  else if a < 0x30000000 then some 102
  else none

/-- The unit whose registers lie at an address, as far as it can be reset alone (R53, R88). -/
def unitOfAddr (a : Nat) : Nat :=
  if a < 0x50000 then 0
  else if a < 0x60000 then 0x05
  else if a < 0x80000 then 0
  else if a < 0x90000 then 0x08
  else if a < 0xB0000 then 0
  else if a < 0xC0000 then 0x0B
  else if a < 0xD0000 then 0x0C + (a - 0xC0000) / 0x4000
  else if a < 0xD0200 then 0x10 + (a - 0xD0000) / 0x100
  else if a < 0x100000 then 0
  else if a < 0x200000 then 0x18 + (a - 0x100000) / 0x20000
  else if 0x2C8000 ≤ a ∧ a < 0x2D0000 then 0x3C
  else if a < 0xB00000 then 0x20 + (a - 0x200000) / 0x100000
  else if a < 0xB50000 then 0x30 + (a - 0xB00000) / 0x10000
  else if a < 0xC00000 then 0
  else if a < 0x1000000 then 0x38 + (a - 0xC00000) / 0x100000
  else if a < 0x1100000 then 0
  else if a < 0x1110000 then 0x3E
  else if a < 0x1120000 then 0x3D
  else 0

namespace Chip

/-- PWR_DOM[d].STATE (R373). -/
def domState (c : Chip) (d : Nat) : Nat := c.fld (Reg.PWR_DOM d) Fd.PWR_DOM_STATE

/-- A domain is powered: on or draining (R373); retention and self-refresh count as off (log 116). -/
def domOn (c : Chip) (d : Nat) : Bool := c.domState d == 3 || c.domState d == 4

/-- DONE of an entry into Deflated or Stowed has been posted, and no exit has begun: only AON counts as powered (R356, R361). -/
def aonOnly (c : Chip) : Bool :=
  c.pwr.offAt.isSome || (decide (2 ≤ c.fld Reg.PWR_STATUS Fd.PWR_STATUS_STATE) && !c.pwr.exiting)

/-- A mailbox's running operation. -/
def mbxFind (c : Chip) (m : Mbx) : Option MbxOp := c.mbx.find? (fun o => decide (o.mbx = m))

/-- A block reset of the unit at this address is running (R87). -/
def resetting (c : Chip) (a : Nat) : Bool :=
  match c.mbxFind .rstBlk with
  | some o => (o.ready == some (0, []) || o.ready == some (4, [])) && unitOfAddr a != 0 && o.args.headD 0 == unitOfAddr a
  | none => false

/-- An access to this address reaches a powered-off block, or a unit that is being reset (R57, R87); after DONE of an entry into
Deflated or Stowed, and in those states, every block outside AON counts as off (R356, R361). -/
def addrOff (c : Chip) (a : Nat) : Bool :=
  c.resetting a ||
    match domOfAddr a with
    | none => decide (0x50000 ≤ a) && c.aonOnly
    | some d => !c.domOn d || c.pwr.offAt.isSome

end Chip

/-! Mailboxes (R71, R72). -/

end Sys2Proof.Machine

namespace Sys2Proof

open Machine

/-- The command register of a mailbox. -/
def Mbx.cmd : Mbx → Nat
  | .rstBlk => Reg.RST_BLK_CMD
  | .boot => Reg.BOOT_MBX_CMD
  | .pwr => Reg.PWR_MBX_CMD
  | .flt => Reg.FLT_MBX_CMD
  | .dtm m => Reg.DTM_MBX_CMD m.val
  | .par => Reg.PAR_MBX_CMD
  | .tet => Reg.TET_MBX_CMD
  | .mbus m => Reg.MBUS_MBX_CMD m.val
  | .bpm m => Reg.BPM_MBX_CMD m.val
  | .fbk => Reg.FBK_MBX_CMD
  | .pat e => Reg.PAT_MBX_CMD e.val
  | .upd => Reg.UPD_MBX_CMD
  | .vf p m => Reg.VF_MBX_CMD p.val m.val

/-- The result register. -/
def Mbx.result : Mbx → Nat
  | .rstBlk => Reg.RST_BLK_RESULT
  | .boot => Reg.BOOT_MBX_RESULT
  | .pwr => Reg.PWR_MBX_RESULT
  | .flt => Reg.FLT_MBX_RESULT
  | .dtm m => Reg.DTM_MBX_RESULT m.val
  | .par => Reg.PAR_MBX_RESULT
  | .tet => Reg.TET_MBX_RESULT
  | .mbus m => Reg.MBUS_MBX_RESULT m.val
  | .bpm m => Reg.BPM_MBX_RESULT m.val
  | .fbk => Reg.FBK_MBX_RESULT
  | .pat e => Reg.PAT_MBX_RESULT e.val
  | .upd => Reg.UPD_MBX_RESULT
  | .vf p m => Reg.VF_MBX_RESULT p.val m.val

/-- Argument register i. -/
def Mbx.arg (m : Mbx) (i : Nat) : Nat :=
  match m with
  | .rstBlk => Reg.RST_BLK_ARG
  | .boot => Reg.BOOT_MBX_ARG i
  | .pwr => Reg.PWR_MBX_ARG i
  | .flt => Reg.FLT_MBX_ARG i
  | .dtm m => Reg.DTM_MBX_ARG m.val i
  | .par => Reg.PAR_MBX_ARG i
  | .tet => 0
  | .mbus m => Reg.MBUS_MBX_ARG m.val i
  | .bpm m => Reg.BPM_MBX_ARG m.val i
  | .fbk => Reg.FBK_MBX_ARG i
  | .pat e => Reg.PAT_MBX_ARG e.val i
  | .upd => Reg.UPD_MBX_ARG i
  | .vf p m => Reg.VF_MBX_ARG p.val m.val i

/-- How many argument registers a mailbox has. -/
def Mbx.nargs : Mbx → Nat
  | .rstBlk => 1
  | .boot => 3
  | .pwr => 2
  | .flt => 2
  | .dtm _ => 3
  | .par => 4
  | .tet => 0
  | .mbus _ => 2
  | .bpm _ => 2
  | .fbk => 2
  | .pat _ => 4
  | .upd => 10
  | .vf _ _ => 10

/-- Result data register j. -/
def Mbx.data (m : Mbx) (j : Nat) : Nat :=
  match m with
  | .boot => Reg.BOOT_MBX_DATA j
  | .flt => Reg.FLT_MBX_DATA j
  | .dtm m => Reg.DTM_MBX_DATA m.val j
  | .par => Reg.PAR_MBX_DATA j
  | .mbus m => Reg.MBUS_MBX_DATA m.val j
  | .bpm m => Reg.BPM_MBX_DATA m.val j
  | .fbk => Reg.FBK_MBX_DATA j
  | .pat e => Reg.PAT_MBX_OUT e.val j
  | .upd => Reg.UPD_MBX_DATA j
  | .vf p m => Reg.VF_MBX_DATA p.val m.val j
  | _ => 0

/-- Who may write a mailbox's command: VFs reach only their own window (R54), the PWR mailbox belongs to the PF (R374). -/
def Mbx.allows (m : Mbx) (rq : Req) : Bool :=
  match m, rq with
  | .vf p _, .vf n => p == n
  | .vf p _, .pf => p.val == 0
  | _, .vf _ => false
  | .pwr, r => decide (r = .pf)
  | _, _ => true

end Sys2Proof

namespace Sys2Proof.Machine

namespace Chip

/-! Control cores (R407). -/

/-- Core n runs its firmware: released, not held in reset, and not halted by debug (R346, R409, R414, R424). -/
def coreServes (c : Chip) (n : Nat) : Bool :=
  c.on (Reg.MGT_CORE_STATUS n) Fd.MGT_CORE_STATUS_RUN && !c.on (Reg.MGT_CORE_STATUS n) Fd.MGT_CORE_STATUS_HELD
    && !c.dbg.halted.contains n

/-- The cores that serve an operation of a mailbox (R407): C0 to C3 as 0 to 3, the boot core 4; none where hardware does. -/
def mbxCores (m : Mbx) (op : Nat) : List Nat :=
  match m with
  | .par => [0]
  | .upd => if op = 0x10 then [1] else []
  | .bpm m => if m.val = 1 then [2] else []
  | .flt => [2]
  | .dtm m => if m.val = 1 then [2, 3] else [3]
  | .tet => [3]
  | .boot => if op ≤ 4 then [4] else []
  | _ => []

/-- They run. -/
def mbxServed (c : Chip) (m : Mbx) (op : Nat) : Bool := (mbxCores m op).all c.coreServes

/-- The argument registers of a mailbox. -/
def mbxArgs (c : Chip) (m : Mbx) : List Nat := (List.range m.nargs).map (fun i => c.rd (m.arg i))

/-- Write a mailbox command: refused with BAD_ACCESS to who may not, or while PENDING, with OFF_ACCESS in a powered-off block;
else RESULT.STATE becomes PENDING and act performs the operation, answering the chip and, if it has come to its end, the
code and data words that MAILBOX_COMPLETE will publish (R71). While a core that serves the mailbox does not run, it waits. -/
def mbxRun (c : Chip) (rq : Req) (tag : BitVec 16) (m : Mbx) (op : Nat)
    (act : Chip → List Nat → Chip × Option (Nat × List Nat)) : Chip :=
  if !m.allows rq then c.err rq errBadAccess m.cmd
  else if c.addrOff m.cmd then c.err rq errOffAccess m.cmd
  else if (c.mbxFind m).isSome then c.err rq errBadAccess m.cmd
  else
    let args := c.mbxArgs m
    let c1 := c.setF m.result ⟨14, 2⟩ 1
    if c.mbxServed m op then
      let r := act c1 args
      { r.1 with mbx := r.1.mbx ++ [⟨m, tag.toNat, op, args, r.2, true⟩] }
    else { c1 with mbx := c1.mbx ++ [⟨m, tag.toNat, op, args, none, false⟩] }

/-- A running operation comes to its end with a code and data. -/
def mbxEnd (c : Chip) (m : Mbx) (code : Nat) (data : List Nat) : Chip :=
  { c with mbx := c.mbx.map (fun o => if o.mbx = m ∧ o.ready = none then { o with ready := some (code, data) } else o) }

/-- Store words in consecutive registers given by a key function. -/
def wrList (c : Chip) (key : Nat → Nat) (i : Nat) : List Nat → Chip
  | [] => c
  | v :: l => (c.wrN (key i) v).wrList key (i + 1) l

/-- Publish a finished operation: RESULT becomes DONE with TAG and CODE (R71, R72). -/
def mbxPublish (c : Chip) (m : Mbx) : Chip :=
  match c.mbxFind m with
  | some ⟨_, tag, _, _, some (code, data), _⟩ =>
    let c1 := c.wrList m.data 0 data
    let c2 := c1.wrN m.result (tag * 2 ^ 16 + 2 * 2 ^ 14 + code)
    { c2 with mbx := c2.mbx.filter (fun o => !decide (o.mbx = m)) }
  | _ => c

/-- The data plane forwards: not held by the Plain profile (R76), and no scan instruction has taken the lanes (R412). -/
def forwards (c : Chip) : Bool := !c.boot.plainHold && !c.dbg.lanesOut

/-! Who serves a panel (R10, R338). -/

/-- The slice that serves panel p; none while the panel is unserved. -/
def serving (c : Chip) (p : Nat) : Option Nat :=
  if bitOf (c.fld Reg.FLT_TKO_STATUS Fd.FLT_TKO_STATUS_UNSERVED) p then none
  else if c.on Reg.FLT_TKO_STATUS Fd.FLT_TKO_STATUS_BUSY && c.fld Reg.FLT_TKO_STATUS Fd.FLT_TKO_STATUS_PANEL == p then some 8
  else some p

/-- The panel that slice s serves. -/
def panelOf (c : Chip) (s : Nat) : Option Nat := (List.range 8).find? (fun p => c.serving p == some s)

/-- The generation of slice s (R339). -/
def gen (c : Chip) (s : Nat) : Nat := c.fld (Reg.FLT_SLICE_GEN s) Fd.FLT_SLICE_GEN_GEN

/-- The generation of slice s advances (R339). -/
def genUp (c : Chip) (s : Nat) : Chip := c.setF (Reg.FLT_SLICE_GEN s) Fd.FLT_SLICE_GEN_GEN ((c.gen s + 1) % 65536)

/-- The current epoch (R144). -/
def epoch (c : Chip) : Nat := c.fld Reg.UPD_EPOCH ⟨0, 16⟩

end Chip

/-! The byte memories. -/

/-- Read n bytes. -/
def memRead (m : NMap Byte) (d : Nat → Byte) (a n : Nat) : List Byte := (List.range n).map (fun i => mget d m (a + i))

/-- Write bytes at consecutive addresses. -/
def memWrite (d : Nat → Byte) : NMap Byte → Nat → List Byte → NMap Byte
  | m, _, [] => m
  | m, a, b :: l => memWrite d (mset d m a b) (a + 1) l

/-- Write one byte n times from an address. -/
def memFill (d : Nat → Byte) (m : NMap Byte) (a : Nat) (b : Byte) : Nat → NMap Byte
  | 0 => m
  | n + 1 => memFill d (mset d m a b) (a + 1) b n

namespace Store

/-- Bytes of the field-book HBM region or of an extension device. -/
def rd (m : Store) (a n : Nat) : List Byte := memRead m.mem memByte a n

/-- Write bytes there. -/
def wr (m : Store) (a : Nat) (l : List Byte) : Store := { m with mem := memWrite memByte m.mem a l }

/-- Bytes of a flash slot. -/
def flashRd (m : Store) (slot off n : Nat) : List Byte := memRead m.flash flashByte (slot * 2 ^ 28 + off) n

/-- Write bytes in a flash slot. -/
def flashWr (m : Store) (slot off : Nat) (l : List Byte) : Store :=
  { m with flash := memWrite flashByte m.flash (slot * 2 ^ 28 + off) l }

/-- Erase n bytes of a flash slot: what nothing lists reads as erased (log 7). -/
def flashErase (m : Store) (slot off n : Nat) : Store :=
  { m with flash := m.flash.filter (fun x => !(decide (slot * 2 ^ 28 + off ≤ x.1) && decide (x.1 < slot * 2 ^ 28 + off + n))) }

end Store

/-! How a meaning is made of an operation. -/

/-- A command that changes the chip alone. -/
def runChip (s : State) (f : Chip → Chip) : Host.Outcome State Fault Refusal := .next { s with chip := f s.chip }

/-- A command that changes the chip and reads the byte memories. -/
def runRead (s : State) (f : Store → Chip → Chip) : Host.Outcome State Fault Refusal :=
  .next { s with chip := f s.store s.chip }

/-- A command that changes the chip and the byte memories. -/
def runBoth (s : State) (f : Store → Chip → Store × Chip) : Host.Outcome State Fault Refusal :=
  .next { s with chip := (f s.store s.chip).2, store := (f s.store s.chip).1 }

end Sys2Proof.Machine
end

