-- ==== Sys2Proof/Machine/Events.lean ====
section
/-!
DEFINITION. Time stamps handed to software (R315), engine to host ring entries with their interrupts (R378, R379), and event
entries (R385).
-/

namespace Sys2Proof.Machine

namespace Chip

/-- The served clock as a number of nanoseconds. -/
def servedNs (c : Chip) : Nat := c.dtm.clkS.sec * 1000000000 + c.dtm.clkS.ns

/-- The 32-bit form of the served time (R315). -/
def served32 (c : Chip) : Nat := c.servedNs % 2 ^ 32

/-- The ten TIME bytes of an entry: the 80-bit form, or six zero bytes and the 32-bit form (R315, R385). -/
def timeBytes (c : Chip) (form80 : Bool) : List Byte :=
  if form80 then leBytes 6 c.dtm.clkS.sec ++ leBytes 4 c.dtm.clkS.ns else leBytes 6 0 ++ leBytes 4 c.served32

/-- The form that event and punt entries take (R315). -/
def form80 (c : Chip) : Bool := c.on Reg.DTM_CFG Fd.DTM_CFG_DESC_TSFORM

/-! Rings. -/

/-- Entries of a ring: 2^SIZE. -/
def ringLen (c : Chip) (p r : Nat) : Nat := 2 ^ c.fld (Reg.RING_CFG p r) Fd.RING_CFG_SIZE

/-- A ring is in use. -/
def ringOn (c : Chip) (p r : Nat) : Bool := c.on (Reg.RING_CFG p r) Fd.RING_CFG_EN

/-- An engine to host ring has no free entry (R378). -/
def ringFull (c : Chip) (p r : Nat) : Bool :=
  decide (c.ringLen p r ≤ (c.rd (Reg.RING_ENG p r) + 2 ^ 32 - c.rd (Reg.RING_HOST p r)) % 2 ^ 32)

/-- Host address of entry k of a ring whose entries have n bytes (R378). -/
def ringAddr (c : Chip) (p r n k : Nat) : Nat :=
  c.rd (Reg.RING_BASE_LO p r) + c.rd (Reg.RING_BASE_HI p r) * 2 ^ 32 + n * (k % c.ringLen p r)

/-- PHASE of entry k (R378). -/
def ringPhase (c : Chip) (p r k : Nat) : Nat := 1 - k / c.ringLen p r % 2

/-- Send an MSI-X message, or mark it pending while its vector is masked. -/
def sendMsix (c : Chip) (p v : Nat) : Chip :=
  if c.rd (Reg.MSIX_TABLE p v 3) % 2 = 1 then
    c.wrN (Reg.MSIX_PBA p (v / 32)) (setBit (c.rd (Reg.MSIX_PBA p (v / 32))) (v % 32) true)
  else c.emit (.msix p v)

/-- A ring asks for an interrupt: at once, or at the end of the running interval (R379). -/
def ringIrq (c : Chip) (p r : Nat) : Chip :=
  if c.on (Reg.RING_CFG p r) Fd.RING_CFG_IRQ then
    let k := 16 * p + r
    let last := mget (fun _ => 0) c.hif.irqLast k
    if last = 0 ∨ last + c.fld (Reg.RING_CFG p r) Fd.RING_CFG_MOD * usPs ≤ c.now + 1 then
      let c1 := c.sendMsix p (c.fld (Reg.RING_CFG p r) Fd.RING_CFG_VEC)
      { c1 with hif.irqLast := mset (fun _ => 0) c1.hif.irqLast k (c.now + 1) }
    else if c.hif.irqPend.contains k then c
    else { c with hif.irqPend := c.hif.irqPend ++ [k] }
  else c

/-- A parcel's rings are served: parcel 0 always, another while ACTIVE and not quiescing (R392, R393). -/
def parcelActive (c : Chip) (p : Nat) : Bool :=
  p == 0 || (c.fld (Reg.PAR_STATUS p) Fd.PAR_STATUS_STATE == 1 && !c.hif.quiesce.any (fun w => w.parcel == p))

/-- Write an entry of n bytes to an engine to host ring; mk makes it from its PHASE. It is dropped and counted when the ring is
not in use or full, or for an event or punt ring when its parcel takes none (R378, R393). -/
def ringPut (c : Chip) (p r n : Nat) (mk : Nat → List Byte) : Chip :=
  if !c.domOn 114 || !c.ringOn p r || (decide (8 ≤ r) && !c.parcelActive p) || c.ringFull p r then c.bump (Reg.RING_CNT p r 1) 1
  else
    let k := c.rd (Reg.RING_ENG p r)
    let c1 := c.emit (.hostWrite p r (c.ringAddr p r n k) (mk (c.ringPhase p r k)))
    ((c1.wrN (Reg.RING_ENG p r) ((k + 1) % 2 ^ 32)).bump (Reg.RING_CNT p r 0) 1).ringIrq p r

/-- Post an event entry to a parcel's event ring; gen names a slice with the generation the event was made under, and an old one
discards the entry (R339, R385). -/
def event (c : Chip) (typ p unit : Nat) (gen : Option (Nat × Nat)) (data : List Byte) : Chip :=
  if (match gen with | some (s, g) => c.gen s != g | none => false) then c.bump (Reg.FLT_CNT 39) 1
  else
    c.ringPut p 8 32 (fun ph =>
      [BitVec.ofNat 8 typ, BitVec.ofNat 8 (ph * 128 + b2n c.form80 * 64), BitVec.ofNat 8 unit, 0]
        ++ leBytes 2 c.epoch ++ c.timeBytes c.form80 ++ slice data 0 16)

end Chip

end Sys2Proof.Machine
end

