-- ==== Sys2Proof/Machine/Faults.lean ====
section
/-!
DEFINITION. The fault collector: what one recognised event does (R328 to R333, R349 to R352).
-/

namespace Sys2Proof.Machine

/-! Outcomes (R326, R349). -/

def outMasked : Nat := 0
def outDegraded : Nat := 1
def outReported : Nat := 2
def outCritical : Nat := 3

/-- Classes whose J, Q, F and H are fixed (R327). -/
def fixedClass (cls : Nat) : Bool := cls == 0x11 || cls == 0x14 || cls == 0x15

/-- Close a record with its CHECK (R349). -/
def recordCheck (l : List Byte) : List Byte := l ++ leBytes 2 (65535 - ocSum l)

/-- A record is valid when its 16 words sum to 0xFFFF (R349). -/
def recordValid (l : List Byte) : Bool := ocSum l == 65535

/-- Credit of one journal record in picoseconds: 4,000 a second (R352). -/
def jrnCost : Nat := 250000000

/-! The dies (R9). -/

/-- A unit code of R6 that the engine may report. -/
def unitListed (u : Nat) : Bool :=
  decide (u ≤ 0x14) || (decide (0x18 ≤ u) && decide (u ≤ 0x28)) || (decide (0x30 ≤ u) && decide (u ≤ 0x34))
    || (decide (0x38 ≤ u) && decide (u ≤ 0x3E))

/-- The die whose fault queue an event enters through: I/O dies 0 to 3, then core dies 0 and 1 as 4 and 5 (R9). -/
def dieOf (ev : FaultEv) : Nat :=
  let u := ev.unit
  if u = 0x05 then 3
  else if u = 0x08 ∨ u = 0x10 then 1
  else if u = 0x0B ∨ u = 0x11 then 2
  else if u = 0x09 ∨ u = 0x0E ∨ u = 0x0F then 5
  else if u ≤ 0x07 then 0
  else if u = 0x14 then if ev.group < 4 then 4 else 5
  else if u < 0x18 then 4
  else if u < 0x20 then (u - 0x18) / 2
  else if u < 0x29 then if u < 0x24 then 4 else 5
  else if u < 0x35 then if u < 0x32 then 4 else 5
  else if u < 0x3C then if u < 0x3A then 4 else 5
  else 4

namespace Chip

/-- FLT_CLASS_CFG of a class, with the fixed bits of R327. -/
def classCfg (c : Chip) (cls : Nat) : Nat :=
  if fixedClass cls then c.fld (Reg.FLT_CLASS_CFG cls) Fd.FLT_CLASS_CFG_LOG + 0x1E else c.rd (Reg.FLT_CLASS_CFG cls)

/-- The 32 bytes of a fault record of an event recognised at served time clk (R349). -/
def faultRecord (c : Chip) (clk : Clk) (ev : FaultEv) (seq : Nat) (first quench faultn : Bool) : List Byte :=
  recordCheck (leBytes 4 seq ++ leBytes 6 clk.sec ++ leBytes 4 clk.ns
    ++ [BitVec.ofNat 8 ev.unit, BitVec.ofNat 8 (ev.cls * 8 + ev.line % 8),
        BitVec.ofNat 8 (ev.outcome * 64 + b2n first * 32 + b2n quench * 16 + b2n faultn * 8 + c.boot.phase % 8), 0]
    ++ leBytes 2 c.epoch ++ leBytes 8 ev.syn.toNat ++ [0, 0])

/-- Store a record in a register block of eight words. -/
def wrRecord (c : Chip) (key : Nat → Nat) (l : List Byte) : Chip :=
  c.wrList key 0 ((List.range 8).map (fun w => leNat (slice l (4 * w) 4)))

/-- Number of the AON cycle: 100 MHz (R22). -/
def aonCycle (c : Chip) : Nat := c.now / 10000

/-- held and relPending as an event of this cycle finds them: a release in the same cycle is overridden (R333). -/
def relSeen (c : Chip) : Bool × Bool :=
  match c.flt.released with
  | some (t, held, pend) => if t = c.aonCycle then (held, pend) else (c.flt.held, c.flt.relPending)
  | none => (c.flt.held, c.flt.relPending)

/-- Assert FAULT_N for at least 10 µs; an event with HOLD cancels a pending release, and a release in the same cycle is overridden
(R333). -/
def assertFaultn (c : Chip) (hold : Bool) : Chip :=
  let c1 := c.setF Reg.FLT_STATUS Fd.FLT_STATUS_FAULTN 1
  { c1 with flt.faultnEnd := c.now + 10 * usPs, flt.held := c.relSeen.1 || hold,
            flt.relPending := c.relSeen.2 && !hold, flt.faultnAt := some c.aonCycle, flt.released := none }

/-- Frames in transmission on some ports are ended at once with an error control block (R331). -/
def cutFrames (c : Chip) (p : Nat → Bool) : Chip :=
  let l := (c.pnl.txEnd.filter (fun x => p x.1 && decide (c.now < x.2))).map (·.1)
  { c with out := (l.map Output.cut).reverse ++ c.out, pnl.txEnd := c.pnl.txEnd.filter (fun x => !p x.1) }

/-- Start an engine-wide quench (R331). -/
def startQuench (c : Chip) : Chip :=
  { (c.cutFrames (fun _ => true)).setF Reg.FLT_STATUS Fd.FLT_STATUS_QUENCH 1 with flt.quenchAt := some c.aonCycle }

/-- Add an entry to the history queue, over the oldest (R351). -/
def history (c : Chip) (l : List Byte) : Chip :=
  let n := c.fld Reg.FLT_HIST_PTR Fd.FLT_HIST_PTR_COUNT
  let i := if n = 0 then 0 else (c.fld Reg.FLT_HIST_PTR Fd.FLT_HIST_PTR_NEWEST + 1) % 32
  let c1 := c.wrRecord (Reg.FLT_HIST i) l
  (c1.setF Reg.FLT_HIST_PTR Fd.FLT_HIST_PTR_NEWEST i).setF Reg.FLT_HIST_PTR Fd.FLT_HIST_PTR_COUNT (min (n + 1) 32)

/-- The journal's rate limit now: a burst of 64, refilled at 4,000 records a second (R352). -/
def jrnCreditNow (c : Chip) : Nat := min (c.flt.jrnCredit + (c.now - c.flt.jrnAt)) (64 * jrnCost)

/-- Whether the journal takes a record: FIRST and critical records bypass the limit (R352). -/
def jrnTakes (c : Chip) (bypass : Bool) : Bool := bypass || decide (jrnCost ≤ c.jrnCreditNow)

/-- Queue a record for the journal. -/
def jrnPush (c : Chip) (bypass : Bool) (l : List Byte) : Chip :=
  let credit := if bypass then c.jrnCreditNow else c.jrnCreditNow - jrnCost
  let c1 := c.setF Reg.FLT_STATUS Fd.FLT_STATUS_JRN_BUSY 1
  { c1 with flt.jrnQ := c.flt.jrnQ ++ [⟨l⟩], flt.jrnSeq := (c.flt.jrnSeq + 1) % 2 ^ 32,
            flt.jrnCredit := credit, flt.jrnAt := c.now }

/-- Events of this pair are not seen: it has a wire fault (R328). -/
def unseen (c : Chip) (ev : FaultEv) : Bool :=
  ev.cls != 0x16 && c.flt.wires.any (fun w => w.unit == ev.unit && w.line == ev.line)

/-- Recognition of an event: it is counted, a critical one is latched, and it quenches and asserts FAULT_N by its class (R328 to
R333). force: FAULTN_SET asserts FAULT_N without HOLD. -/
def recognise (c : Chip) (ev : FaultEv) (force : Bool) : Chip :=
  let c := c.bump (Reg.FLT_CNT ev.cls) 1
  let c := if ev.lost then c.bump (Reg.FLT_CNT 35) 1 else c
  let cfg := c.classCfg ev.cls
  let f := bitOf cfg 3 || force
  let c := if fixedClass ev.cls then { c with flt.critical := true } else c
  let c := if bitOf cfg 2 then c.startQuench else c
  let low := f || c.on Reg.FLT_STATUS Fd.FLT_STATUS_FAULTN
  let hold := bitOf cfg 4 && !force && low
  if f then c.assertFaultn hold
  else if hold then { c with flt.held := true, flt.relPending := false } else c

/-- RST_CAUSE.PROFILE: the Plain profile was sampled at the last B1 (R80). -/
def plain (c : Chip) : Bool := c.on Reg.RST_CAUSE Fd.RST_CAUSE_PROFILE

/-- The event as its record gives it: a lost syndrome reads as all ones (R328), and under the Plain profile an event of class 0x15 is
recorded with unit code 0x01 (R76). -/
def asRecorded (c : Chip) (ev : FaultEv) : FaultEv :=
  { ev with syn := if ev.lost then BitVec.allOnes 64 else ev.syn, unit := if c.plain && ev.cls == 0x15 then 0x01 else ev.unit }

/-- The record of an event recognised at served time clk goes to the first-error record, the history and the journal (R349 to
R352). -/
def writeRecord (c : Chip) (clk : Clk) (ev0 : FaultEv) (force : Bool) : Chip :=
  let ev := c.asRecorded ev0
  let cfg := c.classCfg ev.cls
  let q := bitOf cfg 2
  let f := bitOf cfg 3 || force
  let first := ev.outcome != outMasked && !c.on Reg.FLT_STATUS Fd.FLT_STATUS_FIRST_V
  let bypass := first || ev.outcome == outCritical
  let jrn := bitOf cfg 1
  let takes := jrn && c.jrnTakes bypass
  let seq := if takes then (c.flt.jrnSeq + 1) % 2 ^ 32 else 0
  let rec32 := c.faultRecord clk ev seq first q f
  let c := if first then (c.wrRecord Reg.FLT_FIRST rec32).setF Reg.FLT_STATUS Fd.FLT_STATUS_FIRST_V 1 else c
  let c := if ev.outcome != outMasked then { c with flt.unmasked := some (c.aonCycle, c.faultRecord clk ev seq true q f) } else c
  let c := if bitOf cfg 0 then c.history rec32 else c
  if takes then c.jrnPush bypass rec32 else if jrn then c.bump (Reg.FLT_CNT 33) 1 else c

/-- What the collector does with one event (R328 to R333, R350 to R352). -/
def collectWith (c : Chip) (ev : FaultEv) (force : Bool) : Chip :=
  if c.unseen ev then c else (c.recognise ev force).writeRecord c.dtm.clkS ev force

/-- An event reaches the collector. -/
def collect (c : Chip) (unit line cls outcome : Nat) (syn : Nat) : Chip :=
  c.collectWith ⟨unit, line, cls, outcome, BitVec.ofNat 64 syn, 0, false⟩ false

/-- An event whose syndrome R349 does not lay out: a free value (log 29). -/
def report (c : Chip) (unit line cls outcome : Nat) : Chip := c.tick.collectWith ⟨unit, line, cls, outcome, c.free, 0, false⟩ false

/-- FIRST_V has been cleared by W1C in the cycle of a new event that qualifies: it stays set, and holds that event (R350, R64). -/
def keepFirst (c : Chip) : Chip :=
  match c.flt.unmasked with
  | some (t, l) =>
    if t = c.aonCycle then (c.wrRecord Reg.FLT_FIRST l).setF Reg.FLT_STATUS Fd.FLT_STATUS_FIRST_V 1 else c
  | none => c

end Chip

end Sys2Proof.Machine
end

