-- ==== Sys2Proof/Machine/Cells.lean ====
section
/-!
DEFINITION. Cells, reserves, reference counts and owners of the buffer pool manager (R226 to R235, R245).
-/

namespace Sys2Proof.Machine

/-- What a cell that nothing lists is: free. -/
def cellFree (_ : Nat) : Cell := Cell.free

/-- No chain starts at a cell that nothing lists. -/
def chainNone (_ : Nat) : Chain := Chain.none

/-- A queue that nothing lists. -/
def qIdle (_ : Nat) : QSt := QSt.idle

/-- The first index from i on that a list of rising keys does not hold. -/
def gapFrom {α : Type} : NMap α → Nat → Nat
  | [], i => i
  | (k, _) :: m, i => if k < i then gapFrom m i else if k = i then gapFrom m (i + 1) else i

namespace Chip

/-- A cell's entry. -/
def cell (c : Chip) (i : Nat) : Cell := mget cellFree c.bpm.cells i

/-- A chain by its first cell. -/
def chain (c : Chip) (k : Nat) : Chain := mget chainNone c.bpm.chains k

/-- A queue's state. -/
def q (c : Chip) (i : Nat) : QSt := mget qIdle c.bpm.qst i

/-- Store a cell's entry. -/
def setCell (c : Chip) (i : Nat) (x : Cell) : Chip := { c with bpm.cells := mset cellFree c.bpm.cells i x }

/-- Store a chain. -/
def setChain (c : Chip) (k : Nat) (x : Chain) : Chip := { c with bpm.chains := mset chainNone c.bpm.chains k x }

/-- Store a queue's state. -/
def setQ (c : Chip) (i : Nat) (x : QSt) : Chip := { c with bpm.qst := mset qIdle c.bpm.qst i x }

/-- Group g allocates (R233). -/
def groupEn (c : Chip) (g : Nat) : Bool := bitOf (c.fld Reg.BPM_CELL_CFG Fd.BPM_CELL_CFG_GROUP_EN) g

/-- Cells of group g that are not free. -/
def groupUsed (c : Chip) (g : Nat) : Nat := (c.bpm.cells.filter (fun x => x.1 / 65536 == g)).length

/-- Every cell of group g is free (R233); retired cells hold nothing. -/
def groupIdle (c : Chip) (g : Nat) : Bool := !c.bpm.cells.any (fun x => x.1 / 65536 == g && x.2.kind != 4)

/-- Free cells in enabled groups (R250). -/
def cellsFree (c : Chip) : Nat :=
  (List.range 8).foldl (fun n g => if c.groupEn g then n + (65536 - c.groupUsed g) else n) 0

/-- Cells of a kind in use. -/
def kindUsed (c : Chip) (k : Nat) : Nat := (c.bpm.cells.filter (fun x => x.2.kind == k)).length

/-- Frame cells charged to port n, to its reserve or to the shared part (R230). -/
def portUsed (c : Chip) (n : Nat) (rsv : Bool) : Nat :=
  c.bpm.chains.foldl (fun t x => if x.2.port == n && x.2.rsv == rsv then t + x.2.cells.length else t) 0

/-- The shared cells available (R229). -/
def sharedAvail (c : Chip) : Int :=
  (c.cellsFree : Int)
    - (List.range 256).foldl (fun t n =>
        if c.on (Reg.PORT_CTRL n) Fd.PORT_CTRL_EN then
          t + (c.fld (Reg.BPM_PORT_RSV n) Fd.BPM_PORT_RSV_RSV - c.portUsed n true : Nat) else t) 0
    - (c.fld Reg.BPM_HEAD_CFG Fd.BPM_HEAD_CFG_RSV - c.kindUsed 2 : Nat)
    - ((c.fld Reg.BPM_REFILL_CFG Fd.BPM_REFILL_CFG_CELLS : Int) - c.kindUsed 3)

/-- The owner index of a (unit, parcel) pair (R245). -/
def ownerOf (c : Chip) (unit parcel : Nat) : Nat :=
  ((List.range 255).find? (fun o =>
    c.on (Reg.BPM_OWNER_CFG o) Fd.BPM_OWNER_CFG_V
      && c.fld (Reg.BPM_OWNER_CFG o) Fd.BPM_OWNER_CFG_UNIT == unit
      && (c.on (Reg.BPM_OWNER_CFG o) Fd.BPM_OWNER_CFG_PANY
          || c.fld (Reg.BPM_OWNER_CFG o) Fd.BPM_OWNER_CFG_PARCEL == parcel))).getD 255

/-- An owner's count of buffers of kind t rises (R245). -/
def ownUp (c : Chip) (o t n : Nat) : Chip :=
  c.wrN (Reg.BPM_OWNER_OUT o t) ((c.rd (Reg.BPM_OWNER_OUT o t) + n) % 2 ^ 32)

/-- An owner's count of buffers of kind t falls (R245). -/
def ownDown (c : Chip) (o t n : Nat) : Chip :=
  c.wrN (Reg.BPM_OWNER_OUT o t) ((c.rd (Reg.BPM_OWNER_OUT o t) + 2 ^ 32 - n) % 2 ^ 32)

/-- Up to 8 free cells of allocator a from one 64-bit bitmap word, ascending (R232). -/
def allocWord (c : Chip) (a n : Nat) : List Nat :=
  let f := gapFrom c.bpm.cells (32768 * a)
  if 32768 * (a + 1) ≤ f then []
  else
    (((List.range (64 - f % 64)).map (fun i => f + i)).filter (fun i => (mfind c.bpm.cells i).isNone)).take (min 8 n)

/-- Take cells of a kind for an owner from the allocators in round-robin order (R232). -/
def allocLoop : Nat → Chip → Nat → Nat → Nat → List Nat → Chip × List Nat
  | 0, c, _, _, _, got => (c, got)
  | fuel + 1, c, n, kind, owner, got =>
    if n ≤ got.length then (c, got)
    else
      let a := c.bpm.allocPtr
      let c1 := { c with bpm.allocPtr := (a + 1) % 16 }
      if c.groupEn (a / 2) then
        let w := c.allocWord a (n - got.length)
        allocLoop fuel (w.foldl (fun c i => c.setCell i ⟨0, false, kind, owner, 0⟩) c1) n kind owner (got ++ w)
      else allocLoop fuel c1 n kind owner got

/-- Link cells in order by NEXT, with LAST set in the final one (R226). -/
def linkCells (c : Chip) : List Nat → Chip
  | [] => c
  | [i] => c.setCell i { c.cell i with last := true }
  | i :: j :: l => (c.setCell i { c.cell i with next := j }).linkCells (j :: l)

/-- Cells are written: the flipped bits of what they held are gone (log 130). -/
def writeCells (c : Chip) (l : List Nat) : Chip :=
  { c with tbl.upsets := c.tbl.upsets.filter (fun u => !(u.loc.space == 7 && l.contains u.loc.index)) }

/-- Take n linked cells. -/
def allocCells (c : Chip) (n kind owner : Nat) : Chip × List Nat :=
  let r := allocLoop (16 * (n + 1)) c n kind owner []
  ((((r.1.writeCells r.2).linkCells r.2).ownUp owner 0 r.2.length).pmcEvent 0x12 1 r.2.length, r.2)

/-- Free a cell: retired if it was found bad (R345); a cell already free is reported (R232). -/
def freeCell (c : Chip) (i : Nat) : Chip :=
  let x := c.cell i
  if x.kind = 0 ∨ x.kind = 4 then (c.bump (Reg.BPM_CNT 10) 1).report 0x12 0 0x18 outReported
  else
    let c1 := c.ownDown x.owner 0 1
    if c.bpm.badCells.contains i then
      let c2 := (c1.setCell i { Cell.free with kind := 4 }).bump (Reg.FLT_CNT 43) 1
      { c2 with bpm.badCells := c2.bpm.badCells.erase i, tbl.upsets := c2.tbl.upsets.filter (fun u => !decide (u.loc = ⟨7, 0, i⟩)) }
    else c1.setCell i Cell.free

/-- Free cells. -/
def freeCells (c : Chip) (l : List Nat) : Chip := l.foldl freeCell c

/-- A holder adds its reference to a chain (R234). -/
def addRef (c : Chip) (k : Nat) : Chip := c.setChain k { c.chain k with refs := (c.chain k).refs + 1 }

/-- A holder removes its reference: at 0 the whole chain is freed; below 0 is reported (R235). -/
def dropRef (c : Chip) (k : Nat) : Chip :=
  let x := c.chain k
  if x.refs = 0 then (c.bump (Reg.BPM_CNT 10) 1).report 0x12 0 0x18 outReported
  else if x.refs = 1 then ((c.setChain k Chain.none).freeCells x.cells).bump (Reg.BPM_CNT 8) 1
  else c.setChain k { x with refs := x.refs - 1 }

/-- A copy leaves: its head and refill cells are freed and its chain reference is removed (R234). A copy whose record lies in
HBM, or that was read back, holds no chain. -/
def dropCopy (c : Chip) (x : Copy) : Chip :=
  let c1 := (c.freeCells x.headCells).freeCells x.refill
  match x.place with
  | .cells => c1.dropRef x.chain
  | .marked => c1.dropRef x.chain
  | _ => c1

end Chip

end Sys2Proof.Machine
end

