-- ==== Sys2Proof/Machine/Words.lean ====
section
/-!
DEFINITION. Protected words: the bits that have flipped in them, how they are read, and their writing anew (R140, R200, R201, R248,
R292, R341).
-/

namespace Sys2Proof.Machine

/-- The location of table entry i of a table code in store k; an exact-match way is under code 2 whatever its type, a shadow
entry of an index table 2^21 above. -/
def tableLoc (code k i : Nat) : Loc := ⟨6, code * 8 + k, i⟩

/-- Bits that flip in a word: those of both lists that the other does not hold. -/
def flipBits (a b : List Nat) : List Nat := a.filter (fun x => !b.contains x) ++ b.filter (fun x => !a.contains x)

/-- The flipped bits after more bits of a word have flipped. -/
def flipIn (h : Hit) : List Hit → List Hit
  | [] => [h]
  | u :: l =>
    if u.loc = h.loc ∧ u.seg = h.seg then
      if (flipBits u.bits h.bits).isEmpty then l else { u with bits := flipBits u.bits h.bits } :: l
    else u :: flipIn h l

/-- A word's flipped bits are found and cannot be corrected: two or more under SECDED (log 130), an odd number in a byte under parity
(R201). -/
def hitBad (h : Hit) : Bool := if h.loc.space = 5 then h.bits.length % 2 == 1 else decide (2 ≤ h.bits.length)

/-- Width of a protected word of a space. -/
def wordWidth (space : Nat) : Nat :=
  match space with
  | 0 => 256
  | 2 => 32
  | 3 => 256
  | 5 => 8
  | 7 => 128
  | _ => 64

/-- The data bits of a location that words' flips turn over. -/
def flipMask (l : List Hit) : Nat :=
  l.foldl (fun n h =>
    h.bits.foldl (fun n b =>
      if b < wordWidth h.loc.space then n ^^^ 2 ^ (wordWidth h.loc.space * h.seg + b) else n) n) 0

/-- Two locations belong to the same repair bit. -/
def sameUnit (a b : Loc) : Bool :=
  if a.space < 3 then decide (b.space < 3) && a.unit == b.unit
  else if a.space = 6 then b.space == 6 && a.unit % 8 == b.unit % 8
  else a.space == b.space && a.unit == b.unit

namespace Chip

/-- Bits flip in a word; those of a location under repair are overwritten by the repair (R140). -/
def strike1 (c : Chip) (h : Hit) : Chip :=
  if c.tbl.repairs.contains h.loc then c else { c with tbl.upsets := flipIn h c.tbl.upsets }

/-- Bit errors strike. -/
def strike (c : Chip) (hits : List Hit) : Chip := hits.foldl strike1 c

/-- The flipped bits at a location. -/
def hitsAt (c : Chip) (l : Loc) : List Hit := c.tbl.upsets.filter (fun u => decide (u.loc = l))

/-- A word is written back as it was. -/
def clearHit (c : Chip) (u : Hit) : Chip := { c with tbl.upsets := c.tbl.upsets.erase u }

/-- A location is rewritten whole. -/
def clearLoc (c : Chip) (l : Loc) : Chip := { c with tbl.upsets := c.tbl.upsets.filter (fun u => !decide (u.loc = l)) }

/-- A location's value as it is stored. -/
def stored (c : Chip) (l : Loc) (v : Nat) : Nat := v ^^^ flipMask (c.hitsAt l)

/-- A location's value as a read returns it: single errors corrected, uncorrectable words as stored. -/
def readAs (c : Chip) (l : Loc) (v : Nat) : Nat := v ^^^ flipMask ((c.hitsAt l).filter hitBad)

/-- The unit code that reports a location. -/
def locUnit (l : Loc) : Nat :=
  match l.space with
  | 5 => 0x38 + l.unit
  | 6 => 0x30 + l.unit % 8
  | 7 => 0x14
  | 8 => l.unit
  | _ => 0x20 + l.unit

/-- The line of its report: line 4 for the banks and rule rows (R334), else 0 (log 29). -/
def locLine (l : Loc) : Nat := if l.space < 5 then 4 else 0

/-- Syndrome of a record of line 4 (R349). -/
def locSyn (l : Loc) : Nat :=
  if l.space = 4 then l.index + 2 ^ 19 else l.index % 4096 + l.space * 2 ^ 16 + l.index / 4096 * 2 ^ 18

/-- Report an event of a location. -/
def locReport (c : Chip) (l : Loc) (cls outcome : Nat) : Chip :=
  if l.space < 5 then c.collect (locUnit l) 4 cls outcome (locSyn l) else c.report (locUnit l) 0 cls outcome

/-- A corrected error is counted and reported as class 0x01. -/
def countCorr (c : Chip) (l : Loc) : Chip :=
  let c1 :=
    match l.space with
    | 0 | 1 | 2 => c.sat (Reg.PRS_ECC_CORR l.unit) 1
    | 3 => c.sat (Reg.RWR_ECC_CORR l.unit) 1
    | 4 => c.sat (Reg.CLS_ECC_CORR l.unit) 1
    | 6 => c.sat (Reg.TS_ECC_CORR (l.unit % 8)) 1
    | _ => c
  c1.locReport l 0x01 outMasked

/-- The REPAIR bit of the unit that holds a location. -/
def setRepairBit (c : Chip) (l : Loc) (b : Nat) : Chip :=
  match l.space with
  | 0 | 1 | 2 => c.setF (Reg.PRS_STATUS l.unit) Fd.PRS_STATUS_REPAIR b
  | 3 => c.setF (Reg.RWR_STATUS l.unit) Fd.RWR_STATUS_REPAIR b
  | 4 => c.setF (Reg.CLS_STATUS l.unit) Fd.CLS_STATUS_REPAIR b
  | 5 => c.setF (Reg.PAT_STATUS l.unit) Fd.PAT_STATUS_REPAIR b
  | 6 => c.setF (Reg.TS_STATUS (l.unit % 8)) Fd.TS_STATUS_REPAIR b
  | _ => c

/-- The repair of a location starts, if it does not run. -/
def startRepair (c : Chip) (l : Loc) : Chip :=
  (if c.tbl.repairs.contains l then c else { c with tbl.repairs := c.tbl.repairs ++ [l] }).setRepairBit l 1

/-- The repair of a location has ended. -/
def endRepair (c : Chip) (l : Loc) : Chip := if c.tbl.repairs.any (sameUnit l) then c else c.setRepairBit l 0

/-- A repair is counted as done. -/
def countRepair (c : Chip) (l : Loc) : Chip :=
  match l.space with
  | 4 => c.bump (Reg.CLS_CNT l.unit 4) 1
  | 5 => c.bump (Reg.PAT_CNT l.unit 6) 1
  | _ => c

/-- Locations are written anew: their flipped bits are gone, their repairs end, counted as done where the update engine wrote them
(R341). -/
def renewLocs (c : Chip) (done : Bool) (p : Loc → Bool) : Chip :=
  let gone := c.tbl.repairs.filter p
  let c1 := { c with tbl.upsets := c.tbl.upsets.filter (fun u => !p u.loc), tbl.repairs := c.tbl.repairs.filter (fun l => !p l),
                     tbl.repairFail := c.tbl.repairFail.filter (fun l => !p l) }
  gone.foldl (fun c l => (if done then c.countRepair l else c).endRepair l) c1

/-- Store k is reloaded whole from a backing copy: it holds what the tables hold, free of errors (R88, R343). -/
def renewStore (c : Chip) (k : Nat) : Chip :=
  { c.renewLocs false (fun l => l.space == 6 && l.unit % 8 == k) with
    tbl.staleEm := c.tbl.staleEm.filter (fun x => x.1 / 2 ^ 40 != k), tbl.staleLpm4 := c.tbl.staleLpm4.filter (fun x => x.1 / 2 ^ 40 != k),
    tbl.staleLpm6 := c.tbl.staleLpm6.filter (fun x => x.1 / 2 ^ 40 != k),
    tbl.staleIdx := c.tbl.staleIdx.filter (fun x => x.1 / 2 ^ 40 != k) }

/-! Backing copies (R292). -/

/-- The stacks that hold the backing copies of a location (R292), in the order in which a repair reads them. -/
def backStacks (l : Loc) : List Nat :=
  match l.space with
  | 4 => [0, 2]
  | 5 => [1, 3]
  | 6 => [0, 2]
  | _ => [0, 1, 2, 3]

/-- Controller k serves requests. -/
def memUp (c : Chip) (k : Nat) : Bool := c.domOn (104 + k) && c.on (Reg.MEM_CTRL k) Fd.MEM_CTRL_EN

def noWrites (_ : Nat) : List Loc := []

/-- The backing writes that wait for controller k, oldest first. -/
def backQ (c : Chip) (k : Nat) : List Loc := mget noWrites c.hbm.backQ k

/-- A write of a copied object goes to each of its copies whose controller serves requests, the writes queued together. -/
def backWrite (c : Chip) (l : Loc) : Chip :=
  { c with hbm.backQ := ((backStacks l).filter c.memUp).foldl (fun m k => mset noWrites m k (mget noWrites m k ++ [l])) c.hbm.backQ }

/-- A backing write queue is full, so that the update engine waits (R292). -/
def backFull (c : Chip) : Bool := (List.range 4).any (fun k => decide (65536 < (c.backQ k).length))

/-- A backing write of a location waits. -/
def backWaits (c : Chip) (l : Loc) : Bool := (List.range 4).any (fun k => (c.backQ k).contains l)

/-- A location as the backing copies know it: the same in every store and slice. -/
def objLoc (l : Loc) : Loc := ⟨l.space, if l.space = 5 then l.unit else if l.space = 6 then l.unit / 8 * 8 else 0, l.index⟩

end Chip

end Sys2Proof.Machine
end

