-- ==== Sys2Proof/Machine/Ranks.lean ====
section
/-!
DEFINITION. HBM ranks (R276, R286, R289 to R291), and the scheduling of requests in the bank queues (R281 to R283).
-/

namespace Sys2Proof.Machine

namespace Chip

/-- An event of the memory system (R385): 0 start, 1 done, 2 fence, 3 channel failed. -/
def memEvent (c : Chip) (k x what : Nat) : Chip :=
  c.event 0x0A 0 (0x0C + k) none [BitVec.ofNat 8 k, BitVec.ofNat 8 x, BitVec.ofNat 8 what]

/-- Spare ranks of controller k that serve no rank and are not fenced, lowest first (R276, R290). -/
def freeSpares (c : Chip) (k : Nat) : List Nat :=
  [126, 127].filter (fun d =>
    !c.on (Reg.MEM_RANK k d) Fd.MEM_RANK_FENCED
      && !(List.range 126).any (fun r => c.on (Reg.MEM_RANK k r) Fd.MEM_RANK_RETIRED && c.fld (Reg.MEM_RANK k r) Fd.MEM_RANK_MAP == d)
      && !(c.on (Reg.MEM_STATUS k) Fd.MEM_STATUS_MIGRATING && c.fld (Reg.MEM_MIG k) Fd.MEM_MIG_DST == d))

/-- SPARES_LEFT shows the free spares; a spare that a running migration fills counts until the migration ends (R290). -/
def countSpares (c : Chip) (k : Nat) : Chip :=
  c.setF (Reg.MEM_STATUS k) Fd.MEM_STATUS_SPARES_LEFT
    ((c.freeSpares k).length + b2n (c.on (Reg.MEM_STATUS k) Fd.MEM_STATUS_MIGRATING))

/-- Rank r is fenced (R291). -/
def fenceRank (c : Chip) (k r : Nat) : Chip :=
  let c1 := (c.setF (Reg.MEM_RANK k r) Fd.MEM_RANK_FENCED 1).setF (Reg.MEM_RANK k r) Fd.MEM_RANK_RETIRE_REQ 0
  ((c1.countSpares k).report (0x0C + k) 0 0x09 outDegraded).memEvent k r 2

/-- Rank r of controller k may be retired: not retired, fenced or a spare (R289). -/
def retirable (c : Chip) (k r : Nat) : Bool :=
  !c.on (Reg.MEM_RANK k r) Fd.MEM_RANK_RETIRED && !c.on (Reg.MEM_RANK k r) Fd.MEM_RANK_FENCED
    && !c.on (Reg.MEM_RANK k r) Fd.MEM_RANK_SPARE

/-- The retirement of rank r starts: a migration to the lowest free spare, or a fence when none is left (R290, R291). -/
def startRetire (c : Chip) (k r : Nat) : Chip :=
  match c.freeSpares k with
  | [] => c.fenceRank k r
  | d :: _ =>
    let c1 := (c.setF (Reg.MEM_STATUS k) Fd.MEM_STATUS_MIGRATING 1).wrN (Reg.MEM_MIG k) (d * 2 ^ 8 + r)
    let c2 := c1.setF (Reg.MEM_RANK k r) Fd.MEM_RANK_RETIRE_REQ 0
    let c3 := { c2 with hbm.migAt := mset (fun _ => 0) c2.hbm.migAt k c.now }
    (c3.report (0x0C + k) 0 0x09 outMasked).memEvent k r 0

/-- Rank r is due for retirement: at once, or after the migration that runs (R289). -/
def retire (c : Chip) (k r : Nat) : Chip :=
  if !c.retirable k r then c
  else if c.on (Reg.MEM_STATUS k) Fd.MEM_STATUS_MIGRATING then
    if c.fld (Reg.MEM_MIG k) Fd.MEM_MIG_SRC == r || c.hbm.due.contains (k, r) then c
    else { c.setF (Reg.MEM_STATUS k) Fd.MEM_STATUS_MIG_PENDING 1 with hbm.due := c.hbm.due ++ [(k, r)] }
  else c.startRetire k r

/-- An uncorrectable error that rank r returned (R286, R289). -/
def rankUe (c : Chip) (k r : Nat) : Chip :=
  let c1 := (c.bump (Reg.MEM_CNT k 3) 1).satF (Reg.MEM_RANK k r) Fd.MEM_RANK_UE 1
  let lim := c1.fld (Reg.MEM_CFG k) Fd.MEM_CFG_UE_LIMIT
  if lim ≠ 0 ∧ lim ≤ c1.fld (Reg.MEM_RANK k r) Fd.MEM_RANK_UE then c1.retire k r else c1

/-- Retirements that wait on controller k start, lowest rank first, until one migrates (R289). -/
def nextRetire : Nat → Chip → Nat → Chip
  | 0, c, _ => c
  | n + 1, c, k =>
    let mine := (c.hbm.due.filter (fun x => x.1 == k)).map (·.2)
    match mine with
    | [] => c.setF (Reg.MEM_STATUS k) Fd.MEM_STATUS_MIG_PENDING 0
    | x :: l =>
      if c.on (Reg.MEM_STATUS k) Fd.MEM_STATUS_MIGRATING then c
      else
        let r := l.foldl min x
        let c1 := { c with hbm.due := c.hbm.due.erase (k, r) }
        nextRetire n (if c1.retirable k r then c1.startRetire k r else c1) k

/-! Which physical rank serves which logical rank. -/

/-- The logical rank that physical rank r serves (R276, R290). -/
def logicalOf (c : Chip) (k r : Nat) : Option Nat :=
  if 126 ≤ r then (List.range 126).find? (fun s =>
    c.on (Reg.MEM_RANK k s) Fd.MEM_RANK_RETIRED && c.fld (Reg.MEM_RANK k s) Fd.MEM_RANK_MAP == r)
  else if c.on (Reg.MEM_RANK k r) Fd.MEM_RANK_RETIRED then none
  else some r

/-- The physical rank that serves logical rank l (R276, R290). -/
def physOf (c : Chip) (k l : Nat) : Nat :=
  if c.on (Reg.MEM_RANK k l) Fd.MEM_RANK_RETIRED then c.fld (Reg.MEM_RANK k l) Fd.MEM_RANK_MAP else l

/-! Where packet pages lie. -/

/-- Pages of the packet page pool (R241). -/
def pageTotal (c : Chip) : Nat :=
  (if Config.isH96 then 24510464 else 12124160) - c.fld Reg.FBK_HBM_CFG Fd.FBK_HBM_CFG_PAGES

/-- The logical ranks that the four blocks of packet page p in stack k touch: the blocks lie on four different of the 64 pseudo-channels,
two to a channel, and rank 4 * channel + SID is below 126 (R276, R277). -/
def pageRanksFrom (p k : Nat) : Nat → List Nat → List Nat
  | 0, _ => []
  | j + 1, free =>
    let x := free.getD (Config.pagePch p k j % free.length) 0
    (4 * (x / 2) + Config.pageSid p k j % (if x / 2 = 31 then 2 else 4)) :: pageRanksFrom p k j (free.erase x)

def pageRanks (p k : Nat) : List Nat := pageRanksFrom p k 4 (List.range 64)

/-! Requests. -/

/-- Controller k has read (w 0) or written (w 1); R298 does not say what one READ or WRITE is, so the count rises by a free value
(log 40). -/
def memUsed (w : Nat) (c : Chip) (k : Nat) : Chip := (c.bump (Reg.MEM_CNT k w) c.free.toNat).tick

/-- All four controllers have: a page is striped over the four stacks (R277). -/
def memTouched (c : Chip) (w : Nat) : Chip := (List.range 4).foldl (memUsed w) c

/-- A bank that nothing lists. -/
def noBank (_ : Nat) : Bank := Bank.idle

/-- Key of a bank. -/
def bankKey (k pch bank : Nat) : Nat := (64 * k + pch) * 1024 + bank

/-- Request tags in use on a pseudo-channel (R283). -/
def tagsUsed (c : Chip) (kp : Nat) : Nat :=
  c.hbm.banks.foldl (fun t x => if x.1 / 1024 == kp then t + x.2.queue.length else t) 0

/-- A request enters its bank queue: it counts where it finds no free tag (R283), and where it puts the bank in in-order mode (R282). -/
def enterReq (key : Nat) (c : Chip) (r : BankReq) : Chip :=
  let k := key / 65536
  let b := mget noBank c.hbm.banks key
  let hz := b.queue.any (fun x => x.row == r.row && x.write != r.write)
  let c1 := if 64 ≤ c.tagsUsed (key / 1024) then c.bump (Reg.MEM_CNT k 15) 1 else c
  let c2 := if hz && !b.queue.any (·.hazard) then c1.bump (Reg.MEM_CNT k 6) 1 else c1
  { c2 with hbm.banks := mset noBank c2.hbm.banks key { b with queue := b.queue ++ [{ r with hazard := hz }] } }

end Chip

/-- The request that a bank serves next, and whether it is picked for its age (R281). The bank is in in-order mode while a request that
entered behind one of its row and the other direction is queued (R282). -/
def bankPick (b : Bank) (old : BankReq → Bool) : Option (BankReq × Bool) :=
  match b.queue with
  | [] => none
  | x :: l =>
    if b.queue.any (·.hazard) then some (x, false)
    else
      match b.queue.find? old with
      | some y => some (y, true)
      | none =>
        let top := l.foldl (fun t y => min t y.cls) x.cls
        let ys := b.queue.filter (fun y => y.cls == top)
        some ((ys.find? (fun y => decide (b.openRow = some y.row))).getD (ys.headD x), false)

namespace Chip

/-- A request is older than MEM_CFG.AGE_LIMIT (R281). -/
def reqOld (c : Chip) (k : Nat) (r : BankReq) : Bool :=
  decide (r.at_ + c.fld (Reg.MEM_CFG k) Fd.MEM_CFG_AGE_LIMIT * 100 * nsPs < c.now)

/-- The bank serves one request: true for the one that the running command waits for. -/
def serveReq (c : Chip) (key : Nat) : Chip × Bool :=
  let b := mget noBank c.hbm.banks key
  match bankPick b (c.reqOld (key / 65536)) with
  | none => (c, true)
  | some (r, aged) =>
    let c1 := if aged then c.bump (Reg.MEM_CNT (key / 65536) 7) 1 else c
    ({ c1 with hbm.banks := mset noBank c1.hbm.banks key ⟨some r.row, b.queue.erase r⟩ }, r.own)

/-- The bank serves requests until the one that the running command waits for has been served. -/
def serveOwn : Nat → Chip → Nat → Chip
  | 0, c, _ => c
  | n + 1, c, key =>
    let r := c.serveReq key
    if r.2 then r.1 else serveOwn n r.1 key

/-- The bank serves n requests. -/
def serveSome : Nat → Chip → Nat → Chip
  | 0, c, _ => c
  | n + 1, c, key => serveSome n (c.serveReq key).1 key

/-- A request of another user. -/
def otherReq (c : Chip) (r : MemReq) : BankReq := ⟨r.cls.val, r.write, r.row, c.now - r.since, false, false⟩

/-- One request of a command, in a service class: it enters its bank queue among the requests of others, and the bank serves requests
until it has been served; errors that the access corrects are counted (R281 to R283, R286). -/
def memAcc (cls : Nat) (write : Bool) (c : Chip) (a : MemAcc) : Chip :=
  if !c.memUp a.k then c
  else
    let key := bankKey a.k a.pch a.bank
    let c1 := (a.before.map c.otherReq).foldl (enterReq key) c
    let c2 := enterReq key c1 ⟨cls, write, a.row, c.now - a.since, false, true⟩
    let c3 := (a.after.map c.otherReq).foldl (enterReq key) c2
    (serveOwn (mget noBank c3.hbm.banks key).queue.length c3 key).bump (Reg.MEM_CNT a.k 2) a.corr

/-- The requests of a command. -/
def memAccs (c : Chip) (cls : Nat) (write : Bool) (l : List MemAcc) : Chip := l.foldl (memAcc cls write) c

/-- The rows of channel i (32 * controller + channel) are closed: a refresh, or the precharge before a replay (R280, R284). -/
def closeRows (c : Chip) (i : Nat) : Chip :=
  { c with hbm.banks := c.hbm.banks.foldl (fun m x =>
      if x.1 / 2048 == i then mset noBank m x.1 { x.2 with openRow := none } else m) c.hbm.banks }

/-- Controller k has no request in flight. -/
def memIdle (c : Chip) (k : Nat) : Bool :=
  (c.backQ k).isEmpty && c.hbm.banks.all (fun x => x.1 / 65536 != k || x.2.queue.isEmpty)

/-- The banks and the marked words of controller k are gone. -/
def dropBanks (c : Chip) (k : Nat) : Chip :=
  { c with hbm.banks := c.hbm.banks.filter (fun x => x.1 / 65536 != k), hbm.badWords := c.hbm.badWords.filter (fun x => x.1 != k) }

/-- Uncorrectable accesses that ranks returned (R286). -/
def ranksUe (c : Chip) (l : List (Fin 4 × Fin 128)) : Chip := l.foldl (fun c x => c.rankUe x.1 x.2) c

end Chip

end Sys2Proof.Machine
end

