-- ==== Sys2Proof/Machine/FlowCtl.lean ====
section
/-!
DEFINITION. Flow control that the engine generates from the cells charged to a port (R271), and what keeps a transmitter from sending it
(R331).
-/

namespace Sys2Proof.Machine

namespace Chip

/-- The traffic manager's time base now (R251). -/
def tb (c : Chip) : Nat := c.time.tmBase.toNat

/-- Transmitters of panel p send only idle (R331, R335). -/
def quenched (c : Chip) (p : Nat) : Bool :=
  c.on Reg.FLT_STATUS Fd.FLT_STATUS_QUENCH || bitOf (c.fld Reg.FLT_STATUS Fd.FLT_STATUS_QUENCH_PANEL) p

/-- PORT_STATUS.LINK. -/
def linkOn (c : Chip) (n : Nat) : Bool := c.on (Reg.PORT_STATUS n) Fd.PORT_STATUS_LINK

/-! Flow control generated from the cells charged to a port (R271). -/

/-- Cells charged to a port, of one priority or of all. -/
def portPriCells (c : Chip) (n : Nat) (pri : Option Nat) : Nat :=
  c.bpm.chains.foldl (fun t x =>
    if x.2.port == n && (match pri with | some p => x.2.pri == p | none => true) then t + x.2.cells.length else t) 0

/-- RWR_SMAC[i] as packets of panel p use it (R225); every slice holds the same. -/
def smac (c : Chip) (p i : Nat) : List Byte :=
  let s := (c.serving p).getD 0
  beBytes 6 (c.act (Reg.RWR_SMAC_HI s i) Fd.RWR_SMAC_HI_MAC * 2 ^ 32 + c.act (Reg.RWR_SMAC_LO s i) Fd.RWR_SMAC_LO_MAC)

/-- The bytes of a flow-control frame, without FCS: destination 01-80-C2-00-00-01, source, EtherType 0x8808, opcode 0x0101 with the
enable vector and eight quanta for PFC, or 0x0001 with one for pause, and padding (R271). -/
def pauseBytes (c : Chip) (n enable : Nat) (quanta : List Nat) : List Byte :=
  let pfc := c.fld (Reg.TM_P_CFG n) Fd.TM_P_CFG_FC_MODE == 2
  let b := beBytes 6 0x0180C2000001 ++ c.smac (n / 32) (c.fld (Reg.TM_P_CFG n) Fd.TM_P_CFG_SMAC_IDX) ++ beBytes 2 0x8808
    ++ (if pfc then beBytes 2 0x0101 ++ beBytes 2 enable ++ quanta.flatMap (beBytes 2) else beBytes 2 0x0001 ++ beBytes 2 (quanta.headD 0))
  b ++ List.replicate (60 - b.length) 0

/-- A flow-control frame leaves, unless the port sends only idle (R331); it is placed ahead of the port's copies. -/
def sendPause (c : Chip) (n enable : Nat) (quanta : List Nat) : Chip :=
  if c.linkOn n && !c.quenched (n / 32) then (c.emit (.pause n (c.pauseBytes n enable quanta))).bump (Reg.TM_CNT 5) 1 else c

/-- The XOFF bits of a port that its counts now give: over XOFF, or over it before and not yet at XON. -/
def xoffBits (c : Chip) (n : Nat) : Nat :=
  let off := c.fld (Reg.TM_P_XOFF n) Fd.TM_P_XOFF_CELLS
  let on := c.fld (Reg.TM_P_XON n) Fd.TM_P_XON_CELLS
  let old := c.fld (Reg.TM_P_STATUS n) Fd.TM_P_STATUS_XOFF_SENT
  let bit := fun (p cnt : Nat) => decide (off ≤ cnt) || (bitOf old p && decide (on < cnt))
  match c.fld (Reg.TM_P_CFG n) Fd.TM_P_CFG_FC_MODE with
  | 1 => if bit 0 (c.portPriCells n none) then 255 else 0
  | 2 => (List.range 8).foldl (fun v p => if bit p (c.portPriCells n (some p)) then v + 2 ^ p else v) 0
  | _ => 0

/-- Quanta of the eight priorities. -/
def quantaList (bits q : Nat) : List Nat := (List.range 8).map (fun p => if bitOf bits p then q else 0)

/-- Send XOFF for every priority over it. -/
def sendXoff (c : Chip) (n : Nat) : Chip :=
  let bits := c.fld (Reg.TM_P_STATUS n) Fd.TM_P_STATUS_XOFF_SENT
  let c1 := c.sendPause n bits (quantaList bits (c.fld (Reg.TM_P_QUANTA n) Fd.TM_P_QUANTA_QUANTA))
  { c1 with tm.fcAt := mset (fun _ => 0) c1.tm.fcAt n c.tb }

/-- The counts of a port have changed: a frame for priorities that reached XOFF, and one with quanta 0 for those that fell to
XON. -/
def fcCheck (c : Chip) (n : Nat) : Chip :=
  let old := c.fld (Reg.TM_P_STATUS n) Fd.TM_P_STATUS_XOFF_SENT
  let new := c.xoffBits n
  let up := (List.range 8).any (fun p => bitOf new p && !bitOf old p)
  let down := (List.range 8).foldl (fun v p => if bitOf old p && !bitOf new p then v + 2 ^ p else v) 0
  let c1 := c.setF (Reg.TM_P_STATUS n) Fd.TM_P_STATUS_XOFF_SENT new
  let c2 := if up then c1.sendXoff n else c1
  if down = 0 then c2 else c2.sendPause n down (quantaList 0 0)

/-- A chain reference goes, with the flow control that the freed cells bring. -/
def releaseRef (c : Chip) (k : Nat) : Chip :=
  let n := (c.chain k).port
  (c.dropRef k).fcCheck n

end Chip

end Sys2Proof.Machine
end

