-- ==== Sys2Proof/Machine/Takeover.lean ====
section
/-!
DEFINITION. Slice faults, takeover by slice 8, give-back, and table store failure (R334 to R340, R343).
-/

namespace Sys2Proof.Machine

/-- The table store that serves slice s (R13). -/
def storeOf (s : Nat) : Nat := if s = 8 then 4 else s / 2

namespace Chip

/-- Set or clear a bit of a field. -/
def setFBit (c : Chip) (k : Nat) (f : BF) (i : Nat) (b : Bool) : Chip := c.setF k f (setBit (c.fld k f) i b)

/-- A panel is unserved, or served again (R338). -/
def setUnserved (c : Chip) (p : Nat) (b : Bool) : Chip := c.setFBit Reg.FLT_TKO_STATUS Fd.FLT_TKO_STATUS_UNSERVED p b

/-- A slice is marked failed, or no longer (R335, R340). -/
def setFailed (c : Chip) (s : Nat) (b : Bool) : Chip := c.setFBit Reg.FLT_TKO_STATUS Fd.FLT_TKO_STATUS_FAILED s b

/-- A panel's transmitters are quenched for a takeover, or released (R335). -/
def setPanelQuench (c : Chip) (p : Nat) (b : Bool) : Chip := c.setFBit Reg.FLT_STATUS Fd.FLT_STATUS_QUENCH_PANEL p b

/-- Slice s is marked failed. -/
def sliceFailed (c : Chip) (s : Nat) : Bool := bitOf (c.fld Reg.FLT_TKO_STATUS Fd.FLT_TKO_STATUS_FAILED) s

/-- FLT_TKO_CFG.PRIO of panel p. -/
def tkoPrio (c : Chip) (p : Nat) : Nat := c.fld Reg.FLT_TKO_CFG Fd.FLT_TKO_CFG_PRIO / 4 ^ p % 4

/-- Registers of an address range return to their reset values, but for the keys that keep names. -/
def resetRegs (c : Chip) (lo hi : Nat) (keep : Nat → Bool) : Chip :=
  let f := fun (m : NMap Word) => m.filter (fun x => !(decide (lo ≤ x.1) && decide (x.1 < hi)) || keep x.1)
  { c with regs := f c.regs, active := f c.active, prev := f c.prev }

/-- Whether a key belongs to the field book, which lies inside the RWR block but is central (R225). -/
def isFbk (k : Nat) : Bool := decide (0x2C8000 ≤ k) && decide (k < 0x2D0000)

/-- Slice s loses power: domain 80 + s goes off and its registers are lost (R335 step 8, R347). -/
def slicePowerOff (c : Chip) (s : Nat) : Chip :=
  ((c.resetRegs (0x200000 + 0x100000 * s) (0x300000 + 0x100000 * s) isFbk).setF
    (Reg.PWR_DOM (80 + s)) Fd.PWR_DOM_STATE 0).setFailed s true

/-- Every packet that slice s holds is lost: its references go, and its queues empty. A scan already queued stays with its
engine, whose result the slice's new generation discards (R336, R339). -/
def flushSlice (c : Chip) (s : Nat) : Chip :=
  let hs := c.pipe.heads.filter (fun h => h.slice == s)
  let is := c.pipe.injQ.filter (fun h => h.slice == s)
  let ps := c.pipe.patQ.filter (fun r => r.pkt.head.slice == s)
  let rs := c.pipe.replQ.filter (fun r => r.pkt.head.slice == s)
  let us := c.pipe.recircQ.filter (fun h => h.slice == s)
  let chains := hs.map (·.chain) ++ us.map (·.chain) ++ is.map (·.chain) ++ ps.map (·.pkt.head.chain) ++ rs.map (·.pkt.head.chain)
  let c1 := chains.foldl releaseRef c
  { c1 with pipe.heads := c1.pipe.heads.filter (fun h => h.slice != s),
            pipe.injQ := c1.pipe.injQ.filter (fun h => h.slice != s),
            pipe.patQ := c1.pipe.patQ.filter (fun r => r.engine != 4 || r.pkt.head.slice != s),
            pipe.recircQ := c1.pipe.recircQ.filter (fun h => h.slice != s),
            pipe.replQ := c1.pipe.replQ.filter (fun r => r.pkt.head.slice != s) }

/-- Frames that the Bridle handed to slice s and that the slice has not handed on: the in-flight count of R336. -/
def inflight (c : Chip) (s : Nat) : Nat :=
  (c.pipe.heads.filter (fun h => h.slice == s && h.inj.isNone)).length
    + (c.pipe.patQ.filter (fun r => r.pkt.head.slice == s && r.pkt.head.inj.isNone)).length

/-- The Bridle discards the frames that wait for panel p (R336). -/
def discardPanel (c : Chip) (p : Nat) : Chip :=
  let n := (c.pipe.bridle.filter (fun f => f.port / 32 == p)).length
  let c1 := c.bump (Reg.FLT_PANEL_CNT p 0) n
  { c1 with pipe.bridle := c1.pipe.bridle.filter (fun f => f.port / 32 != p) }

/-- Lines 1 and 3 are corrupting (R334). -/
def corruptLine (line : Nat) : Bool := line == 1 || line == 3

/-- Steps 1 and 2 of R335 for slice s serving panel p. -/
def tkoSteps12 (c : Chip) (s p line : Nat) : Chip :=
  let c1 := ((c.discardPanel p).bump (Reg.FLT_PANEL_CNT p 1) (c.inflight s)).flushSlice s
  if corruptLine line then
    let c2 := (c1.cutFrames (fun n => n / 32 == p)).setPanelQuench p true
    { c2 with flt.corrupt := (s, c.gen s, c.served32) :: c2.flt.corrupt.filter (fun x => !(x.1 == s && x.2.1 == c.gen s)) }
  else c1

/-- Slice 8 can take a panel over (R11, R338, R343). -/
def tkoAvailable (c : Chip) : Bool :=
  c.on Reg.FLT_TKO_CFG Fd.FLT_TKO_CFG_EN && !c.on Reg.FLT_TKO_STATUS Fd.FLT_TKO_STATUS_BUSY && !c.sliceFailed 8
    && c.domOn 88 && c.domOn 93 && !c.on (Reg.TS_STATUS 4) Fd.TS_STATUS_FAILED
    && !c.on (Reg.TS_STATUS 4) Fd.TS_STATUS_RELOADING

/-- Every policer of panel p is set full, in both buckets (R258). -/
def fillPolicers (c : Chip) (p : Nat) : Chip :=
  c.regs.foldl (fun c x =>
    if 0x28000000 ≤ x.1 ∧ x.1 < 0x30000000 ∧ x.1 % 0x40 = 0 ∧ bfGet Fd.TM_POL_CFG_PANEL x.2 = p then
      let i := (x.1 - 0x28000000) / 0x40
      let c1 := (c.wrN (Reg.TM_POL_TC i) (c.fld (Reg.TM_POL_CBS i) Fd.TM_POL_CBS_SIZE)).wrN (Reg.TM_POL_TX i)
        (c.fld (Reg.TM_POL_XBS i) Fd.TM_POL_XBS_SIZE)
      { c1 with tm.polFrac := mdel c1.tm.polFrac i }
    else c) c

/-- The syndrome of a CLASS 0x0D record (R349). -/
def sliceSyn (c : Chip) (s p serving : Nat) (corrupt : Bool) : Nat :=
  s + p * 2 ^ 8 + serving * 2 ^ 16 + c.gen s * 2 ^ 24 + b2n corrupt * 2 ^ 40

/-- The record and, for a panel, the event of a slice fault: kind 0 takeover, 1 give-back, 2 unserved (R335, R385). -/
def tkoEvent (c : Chip) (s p kind : Nat) : Chip :=
  c.event 0x0B 0 0x04 none (leBytes 1 s ++ leBytes 1 p ++ leBytes 1 kind ++ [0] ++ leBytes 2 (c.gen s))

/-- The record of the slice fault w. -/
def tkoRecord (c : Chip) (w : TkoWait) (serving outcome : Nat) : FaultEv :=
  ⟨0x20 + w.slice, w.line, 0x0D, outcome, BitVec.ofNat 64 (c.sliceSyn w.slice w.panel serving (corruptLine w.line)), 0, w.lost⟩

/-- Take a panel over (R335 steps 3 to 8), with its record; after a store failure the slice is only gated (R343). -/
def takeOver (c : Chip) (w : TkoWait) : Chip × FaultEv :=
  let c := ((c.setF Reg.FLT_TKO_STATUS Fd.FLT_TKO_STATUS_BUSY 1).setF Reg.FLT_TKO_STATUS Fd.FLT_TKO_STATUS_PANEL w.panel).setUnserved
    w.panel false
  let c := (((c.bump (Reg.FLT_CNT 41) 1).genUp w.slice).fillPolicers w.panel).setPanelQuench w.panel false
  let c1 := c.tkoEvent w.slice w.panel 0
  (if w.store then c1 else c1.slicePowerOff w.slice, c.tkoRecord w 8 outDegraded)

/-- A panel stays unserved, with its record (R338); a store failure advances the slice's generation, leaves the slice powered, and
its panel waits for the reload (R343). -/
def unserve (c : Chip) (w : TkoWait) : Chip × FaultEv :=
  let c := (if w.store then { c.genUp w.slice with flt.reloads := c.flt.reloads ++ [(storeOf w.slice, some w.panel)] } else c).setUnserved
    w.panel true
  let c1 := (c.tkoEvent w.slice w.panel 2).setPanelQuench w.panel false
  (if w.store then c1 else c1.slicePowerOff w.slice, c.tkoRecord w 0xFF outReported)

/-- Decide one candidate: taken over if slice 8 is free, else unserved. -/
def tkoDecide (c : Chip) (w : TkoWait) : Chip × FaultEv :=
  if w.slice != 8 && c.tkoAvailable then c.takeOver w else c.unserve w

/-- The safety core is halted, so that steps 3 to 8 wait (R414). -/
def safetyHalted (c : Chip) : Bool := c.dbg.halted.contains 5

/-- Insert a candidate by descending priority, then ascending panel (R338). -/
def insertByPrio (c : Chip) (x : TkoWait) : List TkoWait → List TkoWait
  | [] => [x]
  | y :: l => if c.tkoPrio y.panel < c.tkoPrio x.panel ∨ (c.tkoPrio y.panel = c.tkoPrio x.panel ∧ x.panel < y.panel) then x :: y :: l
    else y :: insertByPrio c x l

/-- Decide the candidates in order; their records, with the times of their recognition. -/
def decideAll (c : Chip) (ws : List TkoWait) : Chip × List (Clk × FaultEv) :=
  ws.foldl (fun r w => ((r.1.tkoDecide w).1, r.2 ++ [(w.clk, (r.1.tkoDecide w).2)])) (c, [])

/-- Insert an event by ascending unit, line and class (R329). -/
def insertEv (x : FaultEv) : List FaultEv → List FaultEv
  | [] => [x]
  | y :: l =>
    if x.unit < y.unit ∨ (x.unit = y.unit ∧ (x.line < y.line ∨ (x.line = y.line ∧ x.cls ≤ y.cls))) then x :: y :: l
    else y :: insertEv x l

/-- A slice fault: slice, line, whether the failure of the slice's store is its cause (R343), and whether its syndrome was lost. -/
structure SliceFault where
  slice : Nat
  line : Nat
  store : Bool
  lost : Bool
  deriving DecidableEq, Repr

/-- Steps 1 and 2 of one slice fault: it becomes a candidate for takeover. A slice that serves no panel is recorded and powered off;
one already failed is only recorded. -/
def faultStep (r : Chip × List TkoWait × List FaultEv) (x : SliceFault) : Chip × List TkoWait × List FaultEv :=
  let c := r.1
  let w : TkoWait := ⟨x.slice, 0, x.line, x.store, x.lost, c.dtm.clkS⟩
  if c.sliceFailed x.slice || !c.domOn (80 + x.slice) then (c, r.2.1, r.2.2 ++ [c.tkoRecord w 0xFF outReported])
  else
    match c.panelOf x.slice with
    | none => (if x.store then c else c.slicePowerOff x.slice, r.2.1, r.2.2 ++ [c.tkoRecord w 0xFF outReported])
    | some p =>
      let c1 := c.tkoSteps12 x.slice p x.line
      let c2 := if x.slice = 8 then (c1.setF Reg.FLT_TKO_STATUS Fd.FLT_TKO_STATUS_BUSY 0).setUnserved p true else c1
      (c2, insertByPrio c2 { w with panel := p } r.2.1, r.2.2)

/-- Steps 1 and 2 of every slice fault, then the decisions in order of priority: the records. While the safety core is halted the
decisions wait (R414). -/
def sliceActs (c : Chip) (l : List SliceFault) : Chip × List FaultEv :=
  let r := l.foldl faultStep (c, [], [])
  if r.1.safetyHalted then
    let c1 := r.1.setF Reg.FLT_TKO_STATUS Fd.FLT_TKO_STATUS_ACTIVE (if r.2.1.isEmpty then
      r.1.fld Reg.FLT_TKO_STATUS Fd.FLT_TKO_STATUS_ACTIVE else 1)
    ({ c1 with flt.waits := c1.flt.waits ++ r.2.1 }, r.2.2)
  else
    let d := r.1.decideAll r.2.1
    (d.1, r.2.2 ++ d.2.map (·.2))

/-- A slice fault as an event of the collector. -/
def faultEv (x : SliceFault) : FaultEv := ⟨0x20 + x.slice, x.line, 0x0D, outDegraded, 0, 0, x.lost⟩

/-- Write the records of events of one cycle, in the collector's order (R329). -/
def recordAll (c : Chip) (l : List FaultEv) : Chip := (l.foldr insertEv []).foldl (fun c ev => c.writeRecord c.dtm.clkS ev false) c

/-- Slice faults that the engine itself finds in one cycle (R335). -/
def sliceFaults (c : Chip) (l : List SliceFault) : Chip :=
  let r := (l.foldl (fun c x => c.recognise (faultEv x) false) c).sliceActs l
  r.1.recordAll r.2

/-- A fault on a line of slice s, unless the pair has a wire fault (R328, R335). -/
def sliceEvent (c : Chip) (s line : Nat) : Chip :=
  if c.unseen (faultEv ⟨s, line, false, false⟩) then c else c.sliceFaults [⟨s, line, false, false⟩]

/-- The safety core runs again: waiting steps 3 to 8 are made (R414). -/
def resumeTakeovers (c : Chip) : Chip :=
  let ws := c.flt.waits
  let d := { c.setF Reg.FLT_TKO_STATUS Fd.FLT_TKO_STATUS_ACTIVE 0 with flt.waits := [] }.decideAll ws
  d.2.foldl (fun c x => c.writeRecord x.1 x.2 false) d.1

/-- When slice 8 becomes free, the unserved panel of highest priority is taken over, steps 1 and 2 being in effect (R338). -/
def nextUnserved (c : Chip) : Chip :=
  if c.tkoAvailable then
    let l := (List.range 8).filter (fun p => bitOf (c.fld Reg.FLT_TKO_STATUS Fd.FLT_TKO_STATUS_UNSERVED) p)
    match l.foldl (fun l p => insertByPrio c ⟨p, p, 0, c.flt.reloads.any (fun r => r.2 == some p), false, c.dtm.clkS⟩ l) [] with
    | [] => c
    | w :: _ =>
      let d := c.takeOver w
      (d.1.recognise d.2 false).writeRecord c.dtm.clkS d.2 false
  else c

/-- The slices that store Tk serves (R13). -/
def storeSlices (k : Nat) : List Nat := if k = 4 then [8] else [2 * k, 2 * k + 1]

/-- Table store Tk fails: it is disabled and is being reloaded (R343). -/
def storeDown (c : Chip) (k : Nat) : Chip :=
  let c1 := (((c.setF (Reg.TS_CTRL k) Fd.TS_CTRL_EN 0).setF (Reg.TS_STATUS k) Fd.TS_STATUS_FAILED 1).setF
    (Reg.TS_STATUS k) Fd.TS_STATUS_RELOADING 1)
  { c1 with flt.reloads := c1.flt.reloads ++ [(k, none)], flt.storeErr := c1.flt.storeErr.filter (fun e => e.1 != k) }

/-- A reload of store Tk runs. -/
def reloading (c : Chip) (k : Nat) : Bool := c.flt.reloads.any (fun r => r.1 == k)

/-- The slices of store Tk that serve a panel count as faulted on line 3 (R343). -/
def storeFaults (c : Chip) (k : Nat) : List SliceFault :=
  ((storeSlices k).filter (fun s => (c.panelOf s).isSome)).map (fun s => ⟨s, 3, true, false⟩)

/-- Table store Tk fails (R343). -/
def storeFail (c : Chip) (k : Nat) : Chip := if c.reloading k then c else (c.storeDown k).sliceFaults (c.storeFaults k)

/-- An uncorrectable error of store Tk: 16 within 1 s fail the store (R343). -/
def storeError (c : Chip) (k : Nat) : Chip :=
  let l := (k, c.now) :: c.flt.storeErr.filter (fun e => decide (c.now < e.2 + sPs))
  let c1 := { c with flt.storeErr := l }
  if 16 ≤ (l.filter (fun e => e.1 == k)).length then
    (c1.report (0x30 + k) 0 0x0E outDegraded).storeFail k
  else c1

/-- Lines 0 to 3 of a slice with CLASS 0x0D start a takeover (R334). -/
def isSliceFault (ev : FaultEv) : Bool :=
  decide (0x20 ≤ ev.unit) && decide (ev.unit ≤ 0x28) && decide (ev.line < 4) && ev.cls == 0x0D

/-- A store's own failure event (R343). -/
def isStoreFault (ev : FaultEv) : Bool := decide (0x30 ≤ ev.unit) && decide (ev.unit ≤ 0x34) && ev.cls == 0x0E

/-- Events of one AON cycle, in the collector's order: recognised; then stores that fail and the slice faults, the stores' among
them, take steps 1 and 2 and are decided; then the records are written in the same order (R329, R335, R343). -/
def faultEvents (c : Chip) (l : List FaultEv) : Chip :=
  let c1 := l.foldl (fun c ev => c.recognise ev false) c
  let ks := ((l.filter isStoreFault).map (fun ev => ev.unit - 0x30)).filter (fun k => !c1.reloading k)
  let own := (l.filter isSliceFault).map (fun ev => (⟨ev.unit - 0x20, ev.line, false, ev.lost⟩ : SliceFault))
  let more := (ks.flatMap c1.storeFaults).filter (fun x => !own.any (fun y => y.slice == x.slice))
  let c2 := more.foldl (fun c x => c.recognise (faultEv x) false) (ks.foldl storeDown c1)
  let r := c2.sliceActs (own ++ more)
  r.1.recordAll (l.filter (fun ev => !isSliceFault ev) ++ r.2)

/-! The fault queues (R9, R328, R329). -/

/-- An event at its pair: its syndrome enters the fault queue of its die, 64 entries deep, or is lost. No unit without a code reports
(R6), and a pair with a wire fault shows no event (R328). -/
def arrive (c : Chip) (ev : FaultEv) : Chip :=
  if !unitListed ev.unit || c.unseen ev then c
  else
    let full := decide (64 ≤ (c.flt.dieQ.filter (fun x => dieOf x == dieOf ev && !x.lost)).length)
    { c with flt.dieQ := c.flt.dieQ ++ [{ ev with lost := full }] }

/-- One AON cycle: the collector takes the oldest event of each die that has one, in its order (R329). -/
def takeDies (c : Chip) : Chip × List FaultEv :=
  let got := (List.range 6).filterMap (fun d => c.flt.dieQ.find? (fun x => dieOf x == d))
  ({ c with flt.dieQ := got.foldl (fun l x => l.erase x) c.flt.dieQ }, got.foldr insertEv [])

end Chip

end Sys2Proof.Machine
end

