-- ==== Sys2Proof/Machine/FaultCmds.lean ====
section
/-!
DEFINITION. The fault family: events and wire faults, quench and FAULT_N, the journal, give-back, injection, and store reload
(chapter 14).
-/

namespace Sys2Proof.Machine

namespace Chip

/-- A write of a register that only PF-side requesters can address: a VF's access is unmapped (R54, R56), a powered-off block
refuses it (R57), else act is its effect. -/
def regCmd (c : Chip) (rq : Req) (addr : Nat) (act : Chip → Chip) : Chip :=
  if !rq.priv then c.err rq errBadAccess addr
  else if c.addrOff addr then c.err rq errOffAccess addr
  else act c

/-- A panel whose reload of store k waited is served again: by the standby slice for store 4 (R343). -/
def reloaded (k : Nat) (c : Chip) : Option Nat → Chip
  | none => c
  | some p =>
    if k = 4 then
      ((((c.setF Reg.FLT_TKO_STATUS Fd.FLT_TKO_STATUS_BUSY 1).setF Reg.FLT_TKO_STATUS Fd.FLT_TKO_STATUS_PANEL p).setUnserved p
        false).genUp 8)
    else (c.setUnserved p false).genUp p

/-- STORE_RELOAD_COMPLETE (R343). -/
def opStoreReloadComplete (k : Nat) (ok : Bool) (c : Chip) : Chip :=
  let mine := c.flt.reloads.filter (fun r => r.1 == k)
  if mine.isEmpty then c
  else
    let c1 := { c.setF (Reg.TS_STATUS k) Fd.TS_STATUS_RELOADING 0 with flt.reloads := c.flt.reloads.filter (fun r => r.1 != k) }
    if ok then
      let c2 := (c1.setF (Reg.TS_STATUS k) Fd.TS_STATUS_FAILED 0).setF (Reg.TS_CTRL k) Fd.TS_CTRL_EN 1
      let c3 := c2.renewStore k
      let c4 := mine.foldl (fun c r => reloaded k c r.2) c3
      c4.nextUnserved
    else (storeSlices k).foldl slicePowerOff c1

/-- WIRE_FAULT (R328): bit 0 of the syndrome is the stuck level, the rest is free (log 29). -/
def opWireFault (unit line : Nat) (level : Bool) (c : Chip) : Chip :=
  if !unitListed unit || c.flt.wires.any (fun w => w.unit == unit && w.line == line) then c
  else
    let c1 := { c with flt.wires := c.flt.wires ++ [(⟨unit, line, c.now, level, false⟩ : WireFault)] }
    c1.tick.collect unit line 0x16 outReported (setBit c1.free.toNat 0 level)

/-- WIRE_FAULT_PERSIST (R328). -/
def opWireFaultPersist (unit line : Nat) (c : Chip) : Chip :=
  match c.flt.wires.find? (fun w => w.unit == unit && w.line == line) with
  | none => c
  | some w =>
    if w.acted ∨ c.now < w.since + msPs then c
    else
      let c1 := { c with flt.wires := c.flt.wires.map (fun v => if v.unit = unit ∧ v.line = line then { v with acted := true } else v) }
      if 0x20 ≤ unit ∧ unit ≤ 0x28 then c1.sliceFaults [⟨unit - 0x20, line, false, false⟩]
      else if 0x30 ≤ unit ∧ unit ≤ 0x34 then c1.storeFail (unit - 0x30)
      else c1

/-- End the engine-wide quench, unless a critical event is latched or an event quenches in the same cycle (R332), or the Plain profile holds the engine (R76). -/
def releaseQuench (c : Chip) : Chip :=
  if c.flt.critical || c.boot.plainHold || c.flt.quenchAt == some c.aonCycle then c else c.setF Reg.FLT_STATUS Fd.FLT_STATUS_QUENCH 0

/-- QUENCH_RELEASE (R332). -/
def opQuenchRelease (rq : Req) (c : Chip) : Chip := c.regCmd rq Reg.FLT_CTRL releaseQuench

/-- FAULT_N is released. -/
def dropFaultn (c : Chip) : Chip :=
  { c.setF Reg.FLT_STATUS Fd.FLT_STATUS_FAULTN 0 with flt.held := false, flt.relPending := false }

/-- Release FAULT_N, or hold the release pending until the minimum ends; a FAULTN event in the same cycle overrides it (R333). -/
def releaseFaultn (c : Chip) : Chip :=
  if !c.on Reg.FLT_STATUS Fd.FLT_STATUS_FAULTN || c.flt.faultnAt == some c.aonCycle then c
  else
    let c1 := { c with flt.released := some (c.aonCycle, c.flt.held, c.flt.relPending) }
    if c.now < c.flt.faultnEnd then { c1 with flt.relPending := true } else c1.dropFaultn

/-- FAULTN_RELEASE (R333). -/
def opFaultnRelease (rq : Req) (c : Chip) : Chip := c.regCmd rq Reg.FLT_CTRL releaseFaultn

/-- Raise the event of FAULTN_SET (R333). -/
def setFaultn (rq : Req) (c : Chip) : Chip := c.collectWith ⟨0, 0, 0x19, outReported, BitVec.ofNat 64 rq.code, 0, false⟩ true

/-- FAULTN_SET (R333). -/
def opFaultnSet (rq : Req) (c : Chip) : Chip := c.regCmd rq Reg.FLT_CTRL (setFaultn rq)

/-- FAULTN_PULSE_END (R333). -/
def opFaultnPulseEnd (c : Chip) : Chip :=
  if !c.on Reg.FLT_STATUS Fd.FLT_STATUS_FAULTN || decide (c.now < c.flt.faultnEnd) then c
  else if c.flt.held && !c.flt.relPending then c
  else c.dropFaultn

/-- What an unwritten journal slot holds (log 10). -/
def jrnSlotDefault (_ : Nat) : BitVec 256 := 0

/-- The 32 bytes of a journal slot. -/
def jrnSlot (c : Chip) (i : Nat) : List Byte := leBytes 32 (mget jrnSlotDefault c.flt.journal i).toNat

/-- JOURNAL_WRITE (R352). -/
def opJournalWrite (c : Chip) : Chip :=
  match c.flt.jrnQ with
  | [] => c
  | r :: l =>
    let i := c.flt.jrnNext
    let c1 := { c with flt.journal := mset jrnSlotDefault c.flt.journal i (BitVec.ofNat 256 (leNat r.bytes)),
                       flt.jrnNext := (i + 1) % 4096, flt.jrnQ := l }
    let c2 := ((c1.setF Reg.FLT_JRN_STATUS Fd.FLT_JRN_STATUS_VALID 1).setF Reg.FLT_JRN_STATUS Fd.FLT_JRN_STATUS_NEWEST i).bump (Reg.FLT_CNT 32) 1
    if l.isEmpty then c2.setF Reg.FLT_STATUS Fd.FLT_STATUS_JRN_BUSY 0 else c2

/-- Eight data words of 32 bytes. -/
def words8 (l : List Byte) : List Nat := (List.range 8).map (fun w => leNat (slice l (4 * w) 4))

/-- The READ_JOURNAL operation (R355). -/
def actReadJournal (c : Chip) (args : List Nat) : Chip × Option (Nat × List Nat) :=
  let i := args.getD 0 0
  if 4096 ≤ i then (c, some (1, []))
  else if recordValid (c.jrnSlot i) then (c, some (0, words8 (c.jrnSlot i)))
  else (c, some (2, []))

/-- READ_JOURNAL (R355). -/
def opReadJournal (rq : Req) (tag : BitVec 16) (c : Chip) : Chip := c.mbxRun rq tag .flt 1 actReadJournal

/-- Slice s holds no packet. -/
def sliceEmpty (c : Chip) (s : Nat) : Bool :=
  !(c.pipe.heads.any (·.slice == s) || c.pipe.injQ.any (·.slice == s) || c.pipe.recircQ.any (·.slice == s)
    || c.pipe.patQ.any (·.pkt.head.slice == s)
    || c.pipe.replQ.any (·.pkt.head.slice == s))

/-- The GIVEBACK operation starts: the Bridle discards the panel's frames until slice 8 is empty (R340, R355). -/
def actGiveback (c : Chip) (args : List Nat) : Chip × Option (Nat × List Nat) :=
  let p := args.getD 0 0
  if 8 ≤ p then (c, some (1, []))
  else if c.on Reg.FLT_TKO_STATUS Fd.FLT_TKO_STATUS_ACTIVE then (c, some (5, []))
  else if c.serving p != some 8 || c.sliceFailed p || !c.domOn (80 + p) then (c, some (3, []))
  else ({ (c.discardPanel p).setF Reg.FLT_TKO_STATUS Fd.FLT_TKO_STATUS_ACTIVE 1 with flt.giveAt := c.now }, none)

/-- GIVEBACK (R340, R355). -/
def opGiveback (rq : Req) (tag : BitVec 16) (c : Chip) : Chip := c.mbxRun rq tag .flt 2 actGiveback

/-- The end of a give-back once slice 8 is empty, after 4 us: the panel returns to its own slice (R340). -/
def finishGiveback (c : Chip) : Chip :=
  match c.mbxFind .flt with
  | some ⟨_, _, 2, args, none, true⟩ =>
    let p := args.getD 0 0
    if c.sliceEmpty 8 && decide (c.flt.giveAt + 4 * usPs ≤ c.now) then
      let c1 := if c.serving p = some 8 then
          (((c.setF Reg.FLT_TKO_STATUS Fd.FLT_TKO_STATUS_BUSY 0).genUp 8).bump (Reg.FLT_CNT 42) 1).tkoEvent 8 p 1
        else c
      (((c1.setF Reg.FLT_TKO_STATUS Fd.FLT_TKO_STATUS_ACTIVE 0).nextUnserved).mbxEnd .flt 0 [])
    else c
  | _ => c

/-- The outcome that the class table gives first (R327). -/
def classOutcome (cls : Nat) : Nat :=
  match cls with
  | 0x01 | 0x08 | 0x09 | 0x0B => outMasked
  | 0x07 | 0x0C | 0x13 | 0x16 | 0x17 | 0x18 | 0x19 => outReported
  | 0x11 | 0x14 | 0x15 => outCritical
  | _ => outDegraded

/-- The INJECT operation (R355). The syndrome of a test event is left open: a free value (log 5). -/
def actInject (c : Chip) (args : List Nat) : Chip × Option (Nat × List Nat) :=
  let a := args.getD 0 0
  let unit := bitsOf a 7 0
  let line := bitsOf a 10 8
  let cls := bitsOf a 15 11
  if !c.on Reg.FLT_CTRL Fd.FLT_CTRL_INJECT_EN then (c, some (4, []))
  else if 65536 ≤ a ∨ 2 ≤ args.getD 1 0 ∨ unitListed unit = false ∨ cls = 0 ∨ 0x1A ≤ cls then (c, some (1, []))
  else if args.getD 1 0 = 1 then (c.opWireFault unit line (c.free.toNat % 2 == 1) |>.tick, some (0, []))
  else
    let ev : FaultEv := ⟨unit, line, cls, classOutcome cls, c.free, 0, false⟩
    (if c.unseen ev then c else c.tick.faultEvents [ev], some (0, []))

/-- Kick the watchdog of core n (R346). -/
def kick (c : Chip) (n : Nat) : Chip := { c with flt.kicks := mput c.flt.kicks n c.now }

/-- WDT_KICK (R346, R354). -/
def opWdtKick (rq : Req) (n : Nat) (key : BitVec 16) (c : Chip) : Chip :=
  c.regCmd rq (Reg.FLT_WDT_KICK n) (fun c =>
    if key = 0x6B1C then c.kick n else c.err rq errBadValue (Reg.FLT_WDT_KICK n))

end Chip

/-- STORE_RELOAD_COMPLETE. -/
def execStoreReloadComplete (k : Fin 5) (ok : Bool) (s : State) : Host.Outcome State Fault Refusal :=
  runChip s (Chip.opStoreReloadComplete k.val ok)

/-- WIRE_FAULT. -/
def execWireFault (unit : Fin 256) (line : Fin 8) (level : Bool) (s : State) : Host.Outcome State Fault Refusal :=
  runChip s (Chip.opWireFault unit.val line.val level)

/-- WIRE_FAULT_PERSIST. -/
def execWireFaultPersist (unit : Fin 256) (line : Fin 8) (s : State) : Host.Outcome State Fault Refusal :=
  runChip s (Chip.opWireFaultPersist unit.val line.val)

/-- QUENCH_RELEASE. -/
def execQuenchRelease (rq : Req) (s : State) : Host.Outcome State Fault Refusal := runChip s (Chip.opQuenchRelease rq)

/-- FAULTN_RELEASE. -/
def execFaultnRelease (rq : Req) (s : State) : Host.Outcome State Fault Refusal := runChip s (Chip.opFaultnRelease rq)

/-- FAULTN_SET. -/
def execFaultnSet (rq : Req) (s : State) : Host.Outcome State Fault Refusal := runChip s (Chip.opFaultnSet rq)

/-- FAULTN_PULSE_END. -/
def execFaultnPulseEnd (s : State) : Host.Outcome State Fault Refusal := runChip s Chip.opFaultnPulseEnd

/-- JOURNAL_WRITE. -/
def execJournalWrite (s : State) : Host.Outcome State Fault Refusal := runChip s Chip.opJournalWrite

/-- READ_JOURNAL. -/
def execReadJournal (rq : Req) (tag : BitVec 16) (s : State) : Host.Outcome State Fault Refusal :=
  runChip s (Chip.opReadJournal rq tag)

/-- GIVEBACK. -/
def execGiveback (rq : Req) (tag : BitVec 16) (s : State) : Host.Outcome State Fault Refusal :=
  runChip s (Chip.opGiveback rq tag)

/-- WDT_KICK. -/
def execWdtKick (rq : Req) (c : Fin 4) (key : BitVec 16) (s : State) : Host.Outcome State Fault Refusal :=
  runChip s (Chip.opWdtKick rq c.val key)

end Sys2Proof.Machine
end

