-- ==== Sys2Proof/Machine/Ports.lean ====
section
/-!
DEFINITION. Ports: bring-up, receive, faults and width fallback (R101 to R116, R123).
-/

namespace Sys2Proof.Machine

/-- Width of each port type (R103). -/
def typeWidth (t : Nat) : Nat := [1, 4, 1, 4, 1, 4, 1, 2, 4, 1, 2, 4, 8, 1, 2, 4, 8].getD t 0

/-- Lane code of each port type (R103). -/
def typeCode (t : Nat) : Nat := [1, 2, 3, 3, 4, 4, 5, 5, 5, 6, 6, 6, 6, 7, 7, 7, 7].getD t 0

/-- FEC modes of each port type, its default first: 1 none, 2 BASE-R, 3 RS (R103, R110). -/
def typeFec (t : Nat) : List Nat :=
  if t < 2 then [1] else if t < 4 then [1, 2] else if t = 4 then [3, 2, 1] else [3]

/-- The type of a width and lane code (R101). -/
def typeOf (w code : Nat) : Option Nat := (List.range 17).find? (fun t => typeWidth t == w && typeCode t == code)

/-- The Clause 73 priority order of the types: the higher rate first, then the fewer lanes (R105, log 27). -/
def typePrio : List Nat := [16, 15, 12, 14, 11, 13, 10, 8, 9, 7, 5, 6, 3, 4, 2, 1, 0]

/-- RX_LAT and TX_LAT of a lane code and FEC in ps (R307). -/
def latTable (code fec : Nat) : Nat × Nat :=
  match code, fec with
  | 1, _ => (92000, 64000)
  | 2, _ => (118400, 70400)
  | 3, 1 => (38750, 24250)
  | 3, _ => (59375, 31500)
  | 4, 1 => (22500, 14250)
  | 4, 2 => (38500, 19750)
  | 4, _ => (61250, 27500)
  | 5, _ => (74500, 35250)
  | 6, _ => (56750, 30000)
  | _, _ => (48500, 41750)

/-- Picoseconds as units of 2^-16 ns, rounded to the nearest (R307). -/
def latUnits (ps : Nat) : Nat := (ps * 65536 + 500) / 1000

/-- STATE of a port (R123). -/
def pDisabled : Nat := 0
def pAn : Nat := 1
def pTrain : Nat := 2
def pLock : Nat := 3
def pUp : Nat := 4
def pFault : Nat := 5
def pCfgErr : Nat := 6

namespace Chip

/-- A port beside its registers. -/
def port (c : Chip) (n : Nat) : PortX := mget (fun _ => PortX.idle) c.pnl.ports n

/-- Store it. -/
def setPort (c : Chip) (n : Nat) (x : PortX) : Chip :=
  { c with pnl.ports := mset (fun _ => PortX.idle) c.pnl.ports n x }

/-- A spare lane. -/
def spare (c : Chip) (p i : Nat) : Spare := mget (fun _ => Spare.idle) c.pnl.spares (2 * p + i)

/-- Store it. -/
def setSpare (c : Chip) (p i : Nat) (x : Spare) : Chip :=
  { c with pnl.spares := mset (fun _ => Spare.idle) c.pnl.spares (2 * p + i) x }

/-- PORT_STATUS.STATE. -/
def pState (c : Chip) (n : Nat) : Nat := c.fld (Reg.PORT_STATUS n) Fd.PORT_STATUS_STATE

/-- PORT_STATUS.TYPE. -/
def pType (c : Chip) (n : Nat) : Nat := c.fld (Reg.PORT_STATUS n) Fd.PORT_STATUS_TYPE

/-- PORT_CFG.WIDTH. -/
def pWidth (c : Chip) (n : Nat) : Nat := c.fld (Reg.PORT_CFG n) Fd.PORT_CFG_WIDTH

/-- RATE of a port's first lane; 0 means auto-negotiation (R105). -/
def pRate (c : Chip) (n : Nat) : Nat := c.fld (Reg.PNL_LANE_CFG (n / 32) (n % 32)) Fd.PNL_LANE_CFG_RATE

/-- Move a port to a state of bring-up. -/
def toState (c : Chip) (n st : Nat) : Chip :=
  (c.setF (Reg.PORT_STATUS n) Fd.PORT_STATUS_STATE st).setPort n { c.port n with since := c.now }

/-- An enabled port: EN is 1 and the enable was not refused. -/
def pEnabled (c : Chip) (n : Nat) : Bool :=
  c.on (Reg.PORT_CTRL n) Fd.PORT_CTRL_EN && c.pState n != pCfgErr && c.pState n != pDisabled

/-- Disabled and drained (R123). -/
def portIdle (c : Chip) (n : Nat) : Bool :=
  !c.on (Reg.PORT_CTRL n) Fd.PORT_CTRL_EN && !c.pipe.bridle.any (·.port == n) && !c.bpm.txq.any (·.port == n)

/-- The FEC that a resolved type will use: the forced mode, else the resolution if the type has it, else its default (R110);
none if the forced mode is not listed. -/
def pFec (c : Chip) (n t res : Nat) : Option Nat :=
  let f := c.fld (Reg.PORT_CFG n) Fd.PORT_CFG_FEC
  if f = 0 then some (if (typeFec t).contains res then res else (typeFec t).headD 1)
  else if (typeFec t).contains f then some f else none

/-- Why an enable is refused (R101). -/
def enableRefused (c : Chip) (n : Nat) : Bool :=
  let p := n / 32
  let j := n % 32
  let w := c.pWidth n
  let lanes := (List.range w).map (· + j)
  let rate := c.pRate n
  decide (31 < j + w - 1)
    || (List.range 32).any (fun k => k != j && c.pEnabled (32 * p + k)
        && lanes.any (fun l => decide (k ≤ l) && decide (l < k + c.pWidth (32 * p + k))))
    || lanes.any (fun l => c.fld (Reg.PNL_LANE_CFG p l) Fd.PNL_LANE_CFG_RATE != rate)
    || (rate != 0 && (match typeOf w rate with
        | none => true
        | some t => (c.pFec n t 0).isNone))
    || lanes.any (fun l => !c.domOn (9 * p + l / 4))

/-- The types a port advertises: PORT_ADV and WIDTH, or only the half-width type after a fallback (R105, R123). -/
def advTypes (c : Chip) (n : Nat) (half : Option Nat) : Nat :=
  match half with
  | some t => 2 ^ t
  | none => ((List.range 17).filter (fun t => bitOf (c.fld (Reg.PORT_ADV n) Fd.PORT_ADV_TYPES) t
      && decide (typeWidth t ≤ c.pWidth n))).foldl (fun a t => a + 2 ^ t) 0

/-- The FEC bits F0 to F3 that a port's base page carries (R104): BASE-R ability for 10 Gb/s lanes, and requests for it and, at 25 Gb/s,
for RS-FEC and BASE-R, as PORT_CFG.FEC asks; with 0 it requests RS-FEC at 25 Gb/s, the type's default (log 125). -/
def anFec (c : Chip) (n : Nat) : Nat :=
  match c.fld (Reg.PORT_CFG n) Fd.PORT_CFG_FEC with
  | 0 => 0b0101
  | 2 => 0b1011
  | 3 => 0b0101
  | _ => 0b0001

/-- The pause bits C0 and C1: C0 is 1 in pause mode alone (R104, R269). -/
def anPause (c : Chip) (n : Nat) : Nat := b2n (c.fld (Reg.TM_P_CFG n) Fd.TM_P_CFG_FC_MODE == 1)

/-- Auto-negotiation starts, advertising types; a quenched transmitter sends only idle (R331). -/
def startAn (c : Chip) (n types : Nat) : Chip :=
  let c1 := (c.setF (Reg.PORT_STATUS n) Fd.PORT_STATUS_TYPE 0x1F).toState n pAn
  if c.quenched (n / 32) then c1 else c1.emit (.autoneg n types (c.anPause n) (c.anFec n))

/-- The half-width type of a fallen port. -/
def fallenType (c : Chip) (n : Nat) : Option Nat :=
  if c.fld (Reg.PORT_STATUS n) Fd.PORT_STATUS_FALLEN = 0 then none else (c.port n).half

/-- Bring-up starts at full width or, after a fallback, at half width (R105, R107, R123). -/
def bringUp (c : Chip) (n : Nat) : Chip :=
  let rate := c.pRate n
  if rate = 0 then c.startAn n (c.advTypes n (c.fallenType n))
  else
    let t := match c.fallenType n with
      | some t => t
      | none => (typeOf (c.pWidth n) rate).getD 0x1F
    let c1 := (c.setF (Reg.PORT_STATUS n) Fd.PORT_STATUS_TYPE t).toState n pLock
    c1.setPort n { c1.port n with fec := (c.pFec n t 0).getD 0 }

/-- Syndrome of a link or swap record (R349). -/
def linkSyn (c : Chip) (n : Nat) (swap fb : Bool) : Nat :=
  n % 32 + c.pType n * 2 ^ 8 + c.pState n * 2 ^ 16 + b2n (c.linkOn n) * 2 ^ 19 + b2n swap * 2 ^ 20 + b2n fb * 2 ^ 21

/-- A swap is in place on the port. -/
def swapIn (c : Chip) (n : Nat) : Bool := c.fld (Reg.PORT_STATUS n) Fd.PORT_STATUS_SWAP_RX != 0

/-- A fallback is in place on the port. -/
def fallen (c : Chip) (n : Nat) : Bool := c.fld (Reg.PORT_STATUS n) Fd.PORT_STATUS_FALLEN != 0

/-- The event and the record of a change of LINK or of a swap (R109, R385). -/
def linkEvent (c : Chip) (n : Nat) (swap fb : Bool) (cls outcome : Nat) : Chip :=
  let c1 := c.event 0x06 0 (0x18 + n / 32) none
    [BitVec.ofNat 8 n, BitVec.ofNat 8 (b2n (c.linkOn n) + 2 * b2n swap + 4 * b2n fb), BitVec.ofNat 8 (c.pType n),
      BitVec.ofNat 8 (c.pState n)]
  c1.collect (0x18 + n / 32) 0 cls outcome (c1.linkSyn n swap fb)

/-- The spares of port n are not trained any more: training starts again once the link is up (R117). -/
def untrain (c : Chip) (n : Nat) : Chip :=
  let p := n / 32
  [0, 1].foldl (fun c i =>
    if c.on (Reg.PNL_SPARE_CFG p i) Fd.PNL_SPARE_CFG_EN && c.fld (Reg.PNL_SPARE_CFG p i) Fd.PNL_SPARE_CFG_PORT == n % 32 then
      c.setSpare p i { c.spare p i with trained := false, retryAt := none }
    else c) c

/-- LINK goes to 0, if it was 1: counted, raised and recorded, with the fallback that is in place (R109, R349). -/
def linkDown (c : Chip) (n : Nat) (cls outcome : Nat) : Chip :=
  if c.linkOn n then
    let c1 := ((c.setF (Reg.PORT_STATUS n) Fd.PORT_STATUS_LINK 0).setF (Reg.PORT_STATUS n) Fd.PORT_STATUS_FEC_ACT 0).bump
      (Reg.PORT_CNT n 14) 1
    (c1.untrain n).linkEvent n (c.swapIn n) (c.fallen n) cls outcome
  else c

/-- End the swaps, the bridges and the attempts of a port's spares; disabled spares lose their training (R121, R123). -/
def endSwaps (c : Chip) (n : Nat) (untrain : Bool) : Chip :=
  let p := n / 32
  let clr := fun (c : Chip) (i : Nat) =>
    if c.on (Reg.PNL_SPARE_CFG p i) Fd.PNL_SPARE_CFG_EN && c.fld (Reg.PNL_SPARE_CFG p i) Fd.PNL_SPARE_CFG_PORT == n % 32 then
      let k := Reg.PNL_SPARE_STATUS p i
      let c1 := (((c.setF k Fd.PNL_SPARE_STATUS_RX_USED 0).setF k Fd.PNL_SPARE_STATUS_TX_USED 0).setF k
        Fd.PNL_SPARE_STATUS_RX_LANE 0).setF k Fd.PNL_SPARE_STATUS_TX_LANE 0
      if untrain then (c1.setF k Fd.PNL_SPARE_STATUS_PARTNER 0).setSpare p i Spare.idle
      else c1.setSpare p i { c1.spare p i with attempt := none }
    else c
  let c1 := clr (clr c 0) 1
  ((c1.setF (Reg.PORT_STATUS n) Fd.PORT_STATUS_SWAP_RX 0).setF (Reg.PORT_STATUS n) Fd.PORT_STATUS_SWAP_TX 0).setPort n
    { c1.port n with retry := [], bad := [], hold := none }

/-- A write of EN = 1 (R101, R105, R107): the port starts its bring-up, or stays in STATE 6 with CFG_ERR. -/
def portEnable (c : Chip) (n : Nat) : Chip :=
  let c1 := c.setF (Reg.PORT_CTRL n) Fd.PORT_CTRL_EN 1
  if c.on (Reg.PORT_CTRL n) Fd.PORT_CTRL_EN then c1
  else if c.enableRefused n then
    (c1.setF (Reg.PORT_STATUS n) Fd.PORT_STATUS_CFG_ERR 1).toState n pCfgErr
  else c1.bringUp n

/-- A write of EN = 0 (R109, R123). -/
def portDisable (c : Chip) (n : Nat) : Chip :=
  let c1 := c.setF (Reg.PORT_CTRL n) Fd.PORT_CTRL_EN 0
  let c2 := (c1.setF (Reg.PORT_STATUS n) Fd.PORT_STATUS_CFG_ERR 0).toState n pDisabled
  let c3 := (c2.linkDown n 0x19 outMasked).endSwaps n true
  (c3.setF (Reg.PORT_STATUS n) Fd.PORT_STATUS_FALLEN 0).setF (Reg.PORT_STATUS n) Fd.PORT_STATUS_TYPE 0x1F

/-- A write of RESTART (R123); hardware clears the bit at the restart. -/
def portRestart (c : Chip) (n : Nat) : Chip :=
  let c1 := c.setF (Reg.PORT_CTRL n) Fd.PORT_CTRL_RESTART 0
  if c.pEnabled n then
    let st := if c.pRate n = 0 then pAn else pLock
    let c2 := ((c1.toState n st).linkDown n 0x19 outMasked).endSwaps n false
    (c2.setF (Reg.PORT_STATUS n) Fd.PORT_STATUS_FALLEN 0).bringUp n
  else c1

/-- PORT_ENABLE (R101). -/
def opPortEnable (rq : Req) (n : Nat) (c : Chip) : Chip := c.regCmd rq (Reg.PORT_CTRL n) (portEnable · n)

/-- PORT_DISABLE (R109). -/
def opPortDisable (rq : Req) (n : Nat) (c : Chip) : Chip := c.regCmd rq (Reg.PORT_CTRL n) (portDisable · n)

/-- PORT_RESTART (R123). -/
def opPortRestart (rq : Req) (n : Nat) (c : Chip) : Chip := c.regCmd rq (Reg.PORT_CTRL n) (portRestart · n)

/-- The types in which a partner can be met: those of its base page, type 4 for the ability 25GBASE-KR-S, and one of types 0 to 2 by
parallel detection (R104). -/
def partnerTypes (a : AnPage) : Nat :=
  if a.parallel then a.types.toNat % 8 else a.types.toNat ||| (b2n a.krS * 2 ^ 4)

/-- The FEC that Clause 73 resolves for type t (R104): BASE-R at 10 Gb/s where both are able and one requests it; at 25 Gb/s RS-FEC, else
BASE-R, where one requests it; 25GBASE-KR-S has no RS-FEC. -/
def resolveFec (c : Chip) (n t : Nat) (a : AnPage) : Nat :=
  let f := c.anFec n ||| a.fec.toNat
  if t = 2 ∨ t = 3 then if bitOf f 1 && bitOf a.fec.toNat 0 && !a.parallel then 2 else 1
  else if t = 4 then
    if !bitOf a.types.toNat 4 then if bitOf f 2 || bitOf f 3 then 2 else 1
    else if bitOf f 2 then 3
    else if bitOf f 3 then 2
    else 1
  else (typeFec t).headD 1

/-- Next pages of the partner are answered with null message pages (R104). -/
def answerPages (c : Chip) (n pages : Nat) : Chip :=
  if c.quenched (n / 32) then c else (List.replicate pages (Output.nullPage n)).foldl emit c

/-- AUTONEG_COMPLETE (R104, R105): the highest common type is resolved. -/
def opAutonegComplete (n : Nat) (a : AnPage) (nextPages : Nat) (c : Chip) : Chip :=
  if c.pState n = pAn then
    let c0 := c.answerPages n nextPages
    match typePrio.find? (fun t => bitOf (c.advTypes n (c.fallenType n)) t && bitOf (partnerTypes a) t) with
    | none => c0
    | some t =>
      match c.pFec n t (c.resolveFec n t a) with
      | none => (c0.setF (Reg.PORT_STATUS n) Fd.PORT_STATUS_CFG_ERR 1).toState n pCfgErr
      | some f =>
        let c1 := (c0.setF (Reg.PORT_STATUS n) Fd.PORT_STATUS_TYPE t).toState n pTrain
        c1.setPort n { c1.port n with fec := f }
  else c

/-- TRAINING_COMPLETE (R108), within the limit of R106. -/
def opTrainingComplete (n : Nat) (c : Chip) : Chip :=
  if c.pState n = pTrain ∧ c.now < (c.port n).since + 4 * sPs then c.toState n pLock else c

/-- TRAINING_TIMEOUT (R106). -/
def opTrainingTimeout (n : Nat) (c : Chip) : Chip :=
  if c.pState n = pTrain ∧ (c.port n).since + 4 * sPs ≤ c.now then c.startAn n (c.advTypes n (c.fallenType n)) else c

/-- The latency constants load at link-up while OVR is 0 (R307). -/
def loadLatency (c : Chip) (n : Nat) : Chip :=
  if c.on (Reg.DTM_PORT_CFG n) Fd.DTM_PORT_CFG_OVR then c
  else
    let l := latTable (typeCode (c.pType n)) (c.port n).fec
    (c.setF (Reg.DTM_PORT_RX_LAT n) Fd.DTM_PORT_RX_LAT_LAT (latUnits l.1)).setF (Reg.DTM_PORT_TX_LAT n)
      Fd.DTM_PORT_TX_LAT_LAT (latUnits l.2)

/-- LINK_UP (R107, R108, R109). -/
def opLinkUp (n : Nat) (c : Chip) : Chip :=
  if c.pState n = pLock then
    let c1 := ((c.toState n pUp).setF (Reg.PORT_STATUS n) Fd.PORT_STATUS_LINK 1).setF (Reg.PORT_STATUS n)
      Fd.PORT_STATUS_FEC_ACT (c.port n).fec
    (c1.loadLatency n).linkEvent n (c1.swapIn n) (c1.fallen n) 0x19 outMasked
  else c

/-- A port in STATE 4 goes into fault. -/
def enterFault (c : Chip) (n : Nat) (lost : Bool) : Chip :=
  if c.pState n = pUp then
    let c1 := c.toState n pFault
    c1.setPort n { c1.port n with faultAt := c.now, lockLost := lost, hold := none }
  else if c.pState n = pFault then c.setPort n { c.port n with lockLost := (c.port n).lockLost || lost }
  else c

/-- PORT_FAULT (R114): kind 0 loss of lock, 1 hi_ber, 2 received remote fault. -/
def opPortFault (n kind : Nat) (c : Chip) : Chip := c.enterFault n (kind == 0)

/-- The hold time (R114). -/
def holdTime (c : Chip) (n : Nat) : Nat := 10 * usPs * 2 ^ c.fld (Reg.PORT_CFG n) Fd.PORT_CFG_HOLD

/-- The hold timer of a fault has run out. -/
def holdOver (c : Chip) (n : Nat) : Bool := (c.port n).hold.isNone && decide ((c.port n).faultAt + c.holdTime n ≤ c.now)

/-- FAULT_CLEAR (R114). -/
def opFaultClear (n : Nat) (c : Chip) : Chip :=
  if c.pState n = pFault && !c.holdOver n then
    let c1 := c.toState n pUp
    c1.setPort n { c1.port n with lockLost := false, hold := none }
  else c

/-- HOLD_EXPIRY (R114). -/
def opHoldExpiry (n : Nat) (c : Chip) : Chip :=
  if c.pState n = pFault && c.holdOver n then
    let c1 := c.toState n (if c.pRate n = 0 then pAn else pLock)
    (c1.linkDown n 0x0C outReported).bringUp n
  else c

/-- The half-width type of a type: same lane code, half the width (R123). -/
def halfType (t : Nat) : Option Nat := if typeWidth t < 2 then none else typeOf (typeWidth t / 2) (typeCode t)

/-- A swap that a failure started is in progress on the port (R114). -/
def failureTrying (c : Chip) (n : Nat) : Bool :=
  [0, 1].any (fun i => match (c.spare (n / 32) i).attempt with
    | some a => a.port == n && !a.degrade
    | none => false)

/-- The hold timer of a fault runs again after a failed swap, unless another swap is in progress (R114). -/
def resumeHold (c : Chip) (n : Nat) : Chip :=
  match if c.failureTrying n then none else (c.port n).hold with
  | some u => c.setPort n { c.port n with hold := none, faultAt := c.now - u }
  | none => c

/-- The fallback after a failed lane that no swap restores; without one, the hold timer resumes (R114,
R123). A port that has fallen back does so no second time (log 128). -/
def widthFallback (c : Chip) (n lane : Nat) : Chip :=
  match halfType (c.pType n) with
  | some t =>
    if c.on (Reg.PORT_CFG n) Fd.PORT_CFG_FALLBACK_EN && !c.fallen n then
      let low := decide (typeWidth (c.pType n) / 2 ≤ lane)
      let c1 := (c.setF (Reg.PORT_STATUS n) Fd.PORT_STATUS_FALLEN (if low then 1 else 2)).toState n
        (if c.pRate n = 0 then pAn else pLock)
      let c2 := c1.setPort n { c1.port n with half := some t, hold := none, lockLost := false }
      (c2.linkDown n 0x0B outDegraded).bringUp n
    else c.resumeHold n
  | none => c.resumeHold n

/-! Receive. -/

/-- Datum stamps frames: enabled and powered (R309). -/
def datumOn (c : Chip) : Bool := c.on Reg.DTM_CTRL ⟨0, 1⟩ && c.domOn 116

/-- Cycles of the PANEL clock, 1.1 GHz, at a time (R22). -/
def panelCycles (ps : Nat) : Nat := ps * 11 / 10000

/-- Local cycles of a panel, or of the CORE domain (8), since the last sync edge, and between the last two (R306). -/
def sinceEdge (c : Chip) (d : Nat) (e p : SyncEdge) : Nat × Nat :=
  if d = 8 then (c.time.coreCyc - e.core, e.core - p.core)
  else (panelCycles c.now - panelCycles e.at_, panelCycles e.at_ - panelCycles p.at_)

/-- Local served time of panel d, or of the CORE domain (8), in 2^-16 ns: T_k + m * P (R306). -/
def localTime (c : Chip) (d : Nat) : Nat :=
  match c.dtm.edges with
  | e :: p :: _ => e.t + (c.sinceEdge d e p).1 * (1000 * 65536 / (c.sinceEdge d e p).2)
  | _ => Config.earlyTime d c.now

/-- Clock A (1) or B (2) minus the served clock at panel d, in 2^-16 ns: the offset at the last sync edge, and per local cycle the change
measured over the interval before it (R312). -/
def localOffset (c : Chip) (d clock : Nat) : Int :=
  let off := fun (e : SyncEdge) => if clock = 1 then e.dA else if clock = 2 then e.dB else 0
  match c.dtm.edges with
  | e :: p :: _ => off e + (off e - off p) * ((c.sinceEdge d e p).1 : Nat) / ((c.sinceEdge d e p).2 : Nat)
  | _ => 0

/-- The ingress time of a frame on port n: its 32-bit form and the 16 high bits of its fraction (R306, R307, R309). -/
def ingressTime (c : Chip) (n : Nat) : Nat × Nat :=
  if c.datumOn then
    let u := (c.localTime (n / 32) : Int) - (c.fld (Reg.DTM_PORT_RX_LAT n) Fd.DTM_PORT_RX_LAT_LAT : Nat)
      - signedOf 32 (c.fld (Reg.DTM_PORT_ASYM n) Fd.DTM_PORT_ASYM_ASYM)
    let v := wrapTo 48 u
    (v / 65536, v % 65536)
  else (0, 0)

/-- EtherType of an untagged frame. -/
def etherType (b : List Byte) : Nat := beNat (slice b 12 2)

end Chip

/-- PORT_ENABLE. -/
def execPortEnable (rq : Req) (port : Fin 256) (s : State) : Host.Outcome State Fault Refusal :=
  runChip s (Chip.opPortEnable rq port.val)

/-- PORT_DISABLE. -/
def execPortDisable (rq : Req) (port : Fin 256) (s : State) : Host.Outcome State Fault Refusal :=
  runChip s (Chip.opPortDisable rq port.val)

/-- PORT_RESTART. -/
def execPortRestart (rq : Req) (port : Fin 256) (s : State) : Host.Outcome State Fault Refusal :=
  runChip s (Chip.opPortRestart rq port.val)

/-- AUTONEG_COMPLETE. -/
def execAutonegComplete (port : Fin 256) (partner : AnPage) (nextPages : Nat) (s : State) : Host.Outcome State Fault Refusal :=
  runChip s (Chip.opAutonegComplete port.val partner nextPages)

/-- TRAINING_COMPLETE. -/
def execTrainingComplete (port : Fin 256) (s : State) : Host.Outcome State Fault Refusal :=
  runChip s (Chip.opTrainingComplete port.val)

/-- TRAINING_TIMEOUT. -/
def execTrainingTimeout (port : Fin 256) (s : State) : Host.Outcome State Fault Refusal :=
  runChip s (Chip.opTrainingTimeout port.val)

/-- LINK_UP. -/
def execLinkUp (port : Fin 256) (s : State) : Host.Outcome State Fault Refusal := runChip s (Chip.opLinkUp port.val)

/-- PORT_FAULT. -/
def execPortFault (port : Fin 256) (kind : Fin 3) (s : State) : Host.Outcome State Fault Refusal :=
  runChip s (Chip.opPortFault port.val kind.val)

/-- FAULT_CLEAR. -/
def execFaultClear (port : Fin 256) (s : State) : Host.Outcome State Fault Refusal := runChip s (Chip.opFaultClear port.val)

/-- HOLD_EXPIRY. -/
def execHoldExpiry (port : Fin 256) (s : State) : Host.Outcome State Fault Refusal := runChip s (Chip.opHoldExpiry port.val)

end Sys2Proof.Machine
end

