-- ==== Sys2Proof/Machine/Spares.lean ====
section
/-!
DEFINITION. Spare-lane swap: training, messages, attempts and releases (R117 to R122).
-/

namespace Sys2Proof.Machine

/-- OP codes of the message block (R118). -/
def msgHello : Nat := 1
def msgBridgeReq : Nat := 2
def msgBridgeAck : Nat := 3
def msgBridgeNak : Nat := 4
def msgSwapDone : Nat := 5
def msgReleaseReq : Nat := 6
def msgReleaseAck : Nat := 7

/-- D1 of a message: OP and SEQ. -/
def msgD1 (op seq : Nat) : Nat := op * 16 + seq % 16

/-- D2 of a message: SPARE, ARG and LANE. -/
def msgD2 (sp arg lane : Nat) : Nat := sp * 128 + arg % 16 * 8 + lane % 8

/-- A message block: block type 0x4B, D1, D2, their CRC, O code 0xA and 28 zero bits (R118). -/
def msgBlock (d1 d2 : Nat) : BitVec 64 :=
  BitVec.ofNat 64 (0x4B + d1 * 2 ^ 8 + d2 * 2 ^ 16 + crc8 (BitVec.ofNat 8 d1) (BitVec.ofNat 8 d2) * 2 ^ 24 + 0xA * 2 ^ 32)

namespace Chip

/-- The port that a spare is assigned to. -/
def sparePort (c : Chip) (p i : Nat) : Option Nat :=
  if c.on (Reg.PNL_SPARE_CFG p i) Fd.PNL_SPARE_CFG_EN then some (32 * p + c.fld (Reg.PNL_SPARE_CFG p i) Fd.PNL_SPARE_CFG_PORT)
  else none

/-- A flag of PNL_SPARE_STATUS. -/
def spFlag (c : Chip) (p i : Nat) (f : BF) : Bool := c.on (Reg.PNL_SPARE_STATUS p i) f

/-- A spare that is bridged in both directions carries no messages (R121). -/
def spareSilent (c : Chip) (p i : Nat) : Bool :=
  c.spFlag p i Fd.PNL_SPARE_STATUS_RX_USED && c.spFlag p i Fd.PNL_SPARE_STATUS_TX_USED

/-- Place a message in every slot of a spare (R118, R119); its transmitter must carry messages. -/
def place (c : Chip) (p i d1 d2 : Nat) : Chip :=
  let c1 := c.setSpare p i { c.spare p i with msg := (d1, d2) }
  if c.quenched p || c.spareSilent p i then c1 else c1.emit (.spare p (32 + i) (msgBlock d1 d2))

/-- Return to the standby message; bridging is supported. It carries the SEQ of the spare's last request (log 126). -/
def placeHello (c : Chip) (p i : Nat) : Chip := c.place p i (msgD1 msgHello (c.spare p i).seq) (msgD2 i 8 0)

/-- A lane number that the port's running type has (R118, R123). -/
def laneOk (c : Chip) (n lane : Nat) : Bool :=
  let w := typeWidth (c.pType n)
  if c.fld (Reg.PORT_STATUS n) Fd.PORT_STATUS_FALLEN = 2 then decide (w ≤ lane) && decide (lane < 2 * w) else decide (lane < w)

/-- The receive of this lane is on a spare already. -/
def laneSwapped (c : Chip) (n lane : Nat) : Bool :=
  [0, 1].any (fun i => c.sparePort (n / 32) i == some n && c.spFlag (n / 32) i Fd.PNL_SPARE_STATUS_RX_USED
    && c.fld (Reg.PNL_SPARE_STATUS (n / 32) i) Fd.PNL_SPARE_STATUS_RX_LANE == lane)

/-- An attempt at this lane is running. -/
def laneTrying (c : Chip) (n lane : Nat) : Bool :=
  [0, 1].any (fun i => match (c.spare (n / 32) i).attempt with
    | some a => a.port == n && a.lane == lane
    | none => false)

/-- A spare on which a request can be sent: assigned, trained, PARTNER 1, receive and transmit unused, no attempt (R120;
that the transmit is unused: log 127). -/
def spareOpen (c : Chip) (n i : Nat) : Bool :=
  let p := n / 32
  c.sparePort p i == some n && (c.spare p i).trained && c.spFlag p i Fd.PNL_SPARE_STATUS_PARTNER
    && !c.spFlag p i Fd.PNL_SPARE_STATUS_RX_USED && !c.spFlag p i Fd.PNL_SPARE_STATUS_TX_USED
    && (c.spare p i).attempt.isNone && c.domOn (9 * p + 8)

/-- Step 1 of R120 on spare i. -/
def sendBridgeReq (c : Chip) (n lane i : Nat) (degrade second : Bool) : Chip :=
  let p := n / 32
  let s := c.spare p i
  let q := (s.seq + 1) % 16
  let c1 := c.setSpare p i { s with seq := q, attempt := some ⟨n, lane, degrade, c.now, false, second⟩ }
  c1.place p i (msgD1 msgBridgeReq q) (msgD2 i 0 lane)

/-- No attempt has succeeded (R120). -/
def swapLost (c : Chip) (n lane : Nat) (degrade : Bool) : Chip :=
  if degrade then c.setPort n { c.port n with retry := ((c.port n).retry.filter (fun r => r.1 != lane)) ++ [(lane, c.now)] }
  else c.widthFallback n lane

/-- Start a swap of a receive lane, on spare 0 first (R120). A failure suspends the hold timer (R114). -/
def startSwap (c : Chip) (n lane : Nat) (degrade : Bool) : Chip :=
  match [0, 1].find? (c.spareOpen n) with
  | some i => c.sendBridgeReq n lane i degrade false
  | none => c.swapLost n lane degrade

/-- An attempt ends without success: counted; the other spare is tried (R120). -/
def endAttempt (c : Chip) (p i : Nat) (a : SwapTry) : Chip :=
  let c1 := (c.setSpare p i { c.spare p i with attempt := none }).bump (Reg.PORT_CNT a.port 24) 1
  if !a.second && c1.spareOpen a.port (1 - i) then c1.sendBridgeReq a.port a.lane (1 - i) a.degrade true
  else c1.swapLost a.port a.lane a.degrade

/-- A swap is possible on the port: its link is up and its lane code is 0x3 or higher (R117). -/
def swapPossible (c : Chip) (n : Nat) : Bool := c.linkOn n && decide (3 ≤ typeCode (c.pType n)) && decide (c.pType n < 17)

/-- Lane l of port n has degraded or failed (R122). -/
def markBad (c : Chip) (n l : Nat) : Chip := c.setPort n { c.port n with bad := l :: (c.port n).bad.filter (fun x => x != l) }

/-- Lanes of port n have been below the degrade threshold for 10 ms (R120, R122). -/
def markGood (c : Chip) (n : Nat) (l : List Nat) : Chip :=
  c.setPort n { c.port n with bad := (c.port n).bad.filter (fun x => !l.contains x),
                              retry := (c.port n).retry.filter (fun r => !l.contains r.1) }

/-- DEGRADE_TRIGGER (R120). -/
def opDegradeTrigger (n lane : Nat) (c0 : Chip) : Chip :=
  let c := if c0.linkOn n && c0.laneOk n lane then c0.markBad n lane else c0
  if c.swapPossible n && c.pState n == pUp && c.laneOk n lane && !c.laneSwapped n lane && !c.laneTrying n lane
      && c.fld (Reg.PORT_CFG n) Fd.PORT_CFG_SWAP_SER != 0 && !(c.port n).retry.any (fun r => r.1 == lane) then
    c.startSwap n lane true
  else c

/-- A lane fails: the port is in fault with its hold timer suspended, and a try of that lane is no longer one for a degrade (R114,
R120). -/
def laneFailed (c : Chip) (n lane : Nat) : Chip :=
  let c1 := c.enterFault n true
  let c2 := (List.range 2).foldl (fun c i =>
    match (c.spare (n / 32) i).attempt with
    | some a => if a.port = n ∧ a.lane = lane then
        c.setSpare (n / 32) i { c.spare (n / 32) i with attempt := some { a with degrade := false } } else c
    | none => c) c1
  (c2.markBad n lane).setPort n { (c2.markBad n lane).port n with
                                hold := some ((c2.port n).hold.getD (c2.now - (c2.port n).faultAt)),
                                retry := (c2.port n).retry.filter (fun r => r.1 != lane) }

/-- FAILURE_TRIGGER (R114, R120, R123): the port is in fault, and the hold timer waits for the swap. -/
def opFailureTrigger (n lane : Nat) (c : Chip) : Chip :=
  if c.linkOn n && c.laneOk n lane && c.laneSwapped n lane then c.markBad n lane
  else if c.linkOn n && c.laneOk n lane then
    let c3 := c.laneFailed n lane
    if c.laneTrying n lane then c3
    else if c.swapPossible n then c3.startSwap n lane false
    else c3.swapLost n lane false
  else c

/-- DEGRADE_RETRY (R120): the condition has held for a further 1 s; or, held false, it has ended: the lane has been below the threshold
for 10 ms. -/
def opDegradeRetry (n lane : Nat) (held : Bool) (c : Chip) : Chip :=
  if !held then c.markGood n [lane]
  else
  match (c.port n).retry.find? (fun r => r.1 == lane) with
  | none => c
  | some r =>
    if r.2 + sPs ≤ c.now then
      let c1 := c.setPort n { c.port n with retry := (c.port n).retry.filter (fun r => r.1 != lane) }
      if c1.swapPossible n && c1.fld (Reg.PORT_CFG n) Fd.PORT_CFG_SWAP_SER != 0 && c1.laneOk n lane && !c1.laneSwapped n lane then c1.startSwap n lane true else c1
    else c

/-- SPARE_TRAINING_DONE (R117). -/
def opSpareTrainingDone (p i : Nat) (ok : Bool) (c : Chip) : Chip :=
  match c.sparePort p i with
  | none => c
  | some n =>
    if c.swapPossible n && !(c.spare p i).trained && (c.spare p i).retryAt.isNone && c.domOn (9 * p + 8) then
      if ok then (c.setSpare p i { c.spare p i with trained := true }).placeHello p i
      else c.setSpare p i { c.spare p i with retryAt := some (c.now + 10 * sPs) }
    else c

/-- SPARE_TRAIN_RETRY (R117): training starts again. -/
def opSpareTrainRetry (p i : Nat) (c : Chip) : Chip :=
  match (c.spare p i).retryAt with
  | none => c
  | some t => if t ≤ c.now then c.setSpare p i { c.spare p i with retryAt := none } else c

/-- A message that the engine acts on (R119): three slots, good CRC, its own SPARE, and the OP of the command. It marks the
partner present. A spare bridged in both directions carries none (R121). -/
def onMsg (c : Chip) (p i op : Nat) (m : SpareMsg) (act : Chip → Nat → Nat → Nat → Nat → Chip) : Chip :=
  let d1 := m.d1.toNat
  let d2 := m.d2.toNat
  match c.sparePort p i with
  | none => c
  | some n =>
    if 3 ≤ m.slots && crc8 m.d1 m.d2 == m.d3.toNat && d2 / 128 == i && d1 / 16 == op && (c.spare p i).trained && !c.spareSilent p i then
      let c1 := (c.setSpare p i { c.spare p i with heard := some c.now }).setF (Reg.PNL_SPARE_STATUS p i)
        Fd.PNL_SPARE_STATUS_PARTNER 1
      act c1 n (d1 % 16) (d2 / 8 % 16) (d2 % 8)
    else c

/-- HELLO (R118, R119). -/
def opHello (p i : Nat) (m : SpareMsg) (c : Chip) : Chip := c.onMsg p i msgHello m (fun c _ _ _ _ => c)

/-- The answer to a request that was answered before with this SEQ (R119). -/
def repeated (c : Chip) (p i op seq : Nat) : Option (Nat × Nat) :=
  match (c.spare p i).lastReq with
  | some (q, o, d1, d2) => if q = seq ∧ o = op then some (d1, d2) else none
  | none => none

/-- Answer a request, and remember the answer. -/
def answer (c : Chip) (p i op seq d1 d2 : Nat) : Chip :=
  (c.place p i d1 d2).setSpare p i { (c.place p i d1 d2).spare p i with lastReq := some (seq, op, d1, d2) }

/-- Why a BRIDGE_REQ is refused: ARG of the BRIDGE_NAK (R118, R121); of several reasons the first of these is named (log 127). -/
def nakArg (c : Chip) (n p i lane : Nat) : Option Nat :=
  if c.spFlag p i Fd.PNL_SPARE_STATUS_TX_USED then some 1
  else if !c.linkOn n then some 3
  else if !c.laneOk n lane then some 2
  else none

/-- BRIDGE_REQ (R121). A request that crosses the engine's own and is refused leaves the engine's attempt as it is (log 127). -/
def opBridgeReq (p i : Nat) (m : SpareMsg) (c : Chip) : Chip :=
  c.onMsg p i msgBridgeReq m (fun c n seq _ lane =>
    match c.repeated p i msgBridgeReq seq with
    | some (d1, d2) => c.place p i d1 d2
    | none =>
      match c.nakArg n p i lane with
      | some arg => c.answer p i msgBridgeReq seq (msgD1 msgBridgeNak seq) (msgD2 i arg lane)
      | none =>
        let own := (c.spare p i).attempt
        let c1 := c.answer p i msgBridgeReq seq (msgD1 msgBridgeAck seq) (msgD2 i 0 lane)
        let k := Reg.PNL_SPARE_STATUS p i
        let c2 := ((c1.setF k Fd.PNL_SPARE_STATUS_TX_USED 1).setF k Fd.PNL_SPARE_STATUS_TX_LANE lane).setFBit
          (Reg.PORT_STATUS n) Fd.PORT_STATUS_SWAP_TX i true
        match own with
        | some a => if a.acked then c2 else c2.endAttempt p i a
        | none => c2)

/-- BRIDGE_ACK (R120), within 2 ms of the request. -/
def opBridgeAck (p i : Nat) (m : SpareMsg) (c : Chip) : Chip :=
  c.onMsg p i msgBridgeAck m (fun c _ seq _ lane =>
    match (c.spare p i).attempt with
    | some a => if seq = (c.spare p i).seq ∧ lane = a.lane ∧ (a.acked = true ∨ c.now < a.start + 2 * msPs) then
        c.setSpare p i { c.spare p i with attempt := some { a with acked := true } } else c
    | none => c)

/-- BRIDGE_NAK (R120). -/
def opBridgeNak (p i : Nat) (m : SpareMsg) (c : Chip) : Chip :=
  c.onMsg p i msgBridgeNak m (fun c _ seq arg _ =>
    let c1 := c.setF (Reg.PNL_SPARE_STATUS p i) Fd.PNL_SPARE_STATUS_NAK arg
    match (c.spare p i).attempt with
    | some a => if seq = (c.spare p i).seq ∧ a.acked = false then (c1.placeHello p i).endAttempt p i a else c1
    | none => c1)

/-- SWAP_DONE (R118): the partner takes its receive of the lane from the spare. -/
def opSwapDone (p i : Nat) (m : SpareMsg) (c : Chip) : Chip := c.onMsg p i msgSwapDone m (fun c _ _ _ _ => c)

/-- RELEASE_REQ (R122). -/
def opReleaseReq (p i : Nat) (m : SpareMsg) (c : Chip) : Chip :=
  c.onMsg p i msgReleaseReq m (fun c n seq _ lane =>
    match c.repeated p i msgReleaseReq seq with
    | some (d1, d2) => c.place p i d1 d2
    | none =>
      let k := Reg.PNL_SPARE_STATUS p i
      if c.spFlag p i Fd.PNL_SPARE_STATUS_TX_USED && c.fld k Fd.PNL_SPARE_STATUS_TX_LANE == lane then
        (((c.setF k Fd.PNL_SPARE_STATUS_TX_USED 0).setF k Fd.PNL_SPARE_STATUS_TX_LANE 0).setFBit
          (Reg.PORT_STATUS n) Fd.PORT_STATUS_SWAP_TX i false).answer p i msgReleaseReq seq (msgD1 msgReleaseAck seq) (msgD2 i 0 lane)
      else c)

/-- RELEASE_ACK (R122): the partner has stopped bridging; the spare is on standby again. -/
def opReleaseAck (p i : Nat) (m : SpareMsg) (c : Chip) : Chip :=
  c.onMsg p i msgReleaseAck m (fun c _ seq _ _ =>
    if seq = (c.spare p i).seq ∧ (c.spare p i).msg.1 / 16 = msgReleaseReq then c.placeHello p i else c)

/-- BRIDGE_ACK_TIMEOUT (R120): no ACK within 2 ms. -/
def opBridgeAckTimeout (p i : Nat) (c : Chip) : Chip :=
  match (c.spare p i).attempt with
  | some a => if !a.acked && decide (a.start + 2 * msPs ≤ c.now) then (c.placeHello p i).endAttempt p i a else c
  | none => c

/-- SWAP_SWITCH (R120 steps 3 and 4). -/
def opSwapSwitch (p i : Nat) (c : Chip) : Chip :=
  match (c.spare p i).attempt with
  | some a =>
    if a.acked then
      let k := Reg.PNL_SPARE_STATUS p i
      let c1 := c.setSpare p i { c.spare p i with attempt := none }
      let c2 := (((c1.setF k Fd.PNL_SPARE_STATUS_RX_USED 1).setF k Fd.PNL_SPARE_STATUS_RX_LANE a.lane).setFBit
        (Reg.PORT_STATUS a.port) Fd.PORT_STATUS_SWAP_RX i true).bump (Reg.PORT_CNT a.port 15) 1
      let c3 := c2.linkEvent a.port true (c2.fallen a.port) 0x0B (if a.degrade then outMasked else outDegraded)
      if c3.spFlag p i Fd.PNL_SPARE_STATUS_TX_USED then c3
      else c3.place p i (msgD1 msgSwapDone (c3.spare p i).seq) (msgD2 i 0 a.lane)
    else c
  | none => c

/-- SPARE_PARTNER_TIMEOUT (R119). -/
def opSparePartnerTimeout (p i : Nat) (c : Chip) : Chip :=
  match (c.spare p i).heard with
  | some t => if t + 10 * msPs ≤ c.now then c.setF (Reg.PNL_SPARE_STATUS p i) Fd.PNL_SPARE_STATUS_PARTNER 0 else c
  | none => c

/-- A write of RELEASE (R122): the receive swaps of recovered lanes with an open message channel return to their lanes. Hardware
clears the bit when done. -/
def portRelease (c : Chip) (n : Nat) : Chip :=
  let p := n / 32
  let c1 := c.setF (Reg.PORT_CTRL n) Fd.PORT_CTRL_RELEASE 0
  (List.range 2).foldl (fun c i =>
    let k := Reg.PNL_SPARE_STATUS p i
    if c.sparePort p i == some n && c.spFlag p i Fd.PNL_SPARE_STATUS_RX_USED && !c.spFlag p i Fd.PNL_SPARE_STATUS_TX_USED
        && !(c.port n).bad.contains (c.fld k Fd.PNL_SPARE_STATUS_RX_LANE) then
      let lane := c.fld k Fd.PNL_SPARE_STATUS_RX_LANE
      let q := ((c.spare p i).seq + 1) % 16
      let c2 := ((c.setF k Fd.PNL_SPARE_STATUS_RX_USED 0).setF k Fd.PNL_SPARE_STATUS_RX_LANE 0).setFBit
        (Reg.PORT_STATUS n) Fd.PORT_STATUS_SWAP_RX i false
      (c2.setSpare p i { c2.spare p i with seq := q }).place p i (msgD1 msgReleaseReq q) (msgD2 i 0 lane)
    else c) c1

/-- PORT_RELEASE (R122); below: lanes that have been below the degrade threshold for 10 ms. -/
def opPortRelease (rq : Req) (n : Nat) (below : List Nat) (c : Chip) : Chip :=
  c.regCmd rq (Reg.PORT_CTRL n) (fun c => (c.markGood n below).portRelease n)

end Chip

/-! The meanings. -/

/-- PORT_RELEASE. -/
def execPortRelease (rq : Req) (port : Fin 256) (below : List Nat) (s : State) : Host.Outcome State Fault Refusal :=
  runChip s (Chip.opPortRelease rq port.val below)

/-- DEGRADE_TRIGGER. -/
def execDegradeTrigger (port : Fin 256) (lane : Fin 8) (s : State) : Host.Outcome State Fault Refusal :=
  runChip s (Chip.opDegradeTrigger port.val lane.val)

/-- FAILURE_TRIGGER. -/
def execFailureTrigger (port : Fin 256) (lane : Fin 8) (s : State) : Host.Outcome State Fault Refusal :=
  runChip s (Chip.opFailureTrigger port.val lane.val)

/-- DEGRADE_RETRY. -/
def execDegradeRetry (port : Fin 256) (x : LaneCheck) (s : State) : Host.Outcome State Fault Refusal :=
  runChip s (Chip.opDegradeRetry port.val x.lane.val x.held)

/-- HELLO. -/
def execHello (panel : Fin 8) (spare : Fin 2) (msg : SpareMsg) (s : State) : Host.Outcome State Fault Refusal :=
  runChip s (Chip.opHello panel.val spare.val msg)

/-- BRIDGE_REQ. -/
def execBridgeReq (panel : Fin 8) (spare : Fin 2) (msg : SpareMsg) (s : State) : Host.Outcome State Fault Refusal :=
  runChip s (Chip.opBridgeReq panel.val spare.val msg)

/-- BRIDGE_ACK. -/
def execBridgeAck (panel : Fin 8) (spare : Fin 2) (msg : SpareMsg) (s : State) : Host.Outcome State Fault Refusal :=
  runChip s (Chip.opBridgeAck panel.val spare.val msg)

/-- BRIDGE_NAK. -/
def execBridgeNak (panel : Fin 8) (spare : Fin 2) (msg : SpareMsg) (s : State) : Host.Outcome State Fault Refusal :=
  runChip s (Chip.opBridgeNak panel.val spare.val msg)

/-- SWAP_DONE. -/
def execSwapDone (panel : Fin 8) (spare : Fin 2) (msg : SpareMsg) (s : State) : Host.Outcome State Fault Refusal :=
  runChip s (Chip.opSwapDone panel.val spare.val msg)

/-- RELEASE_REQ. -/
def execReleaseReq (panel : Fin 8) (spare : Fin 2) (msg : SpareMsg) (s : State) : Host.Outcome State Fault Refusal :=
  runChip s (Chip.opReleaseReq panel.val spare.val msg)

/-- RELEASE_ACK. -/
def execReleaseAck (panel : Fin 8) (spare : Fin 2) (msg : SpareMsg) (s : State) : Host.Outcome State Fault Refusal :=
  runChip s (Chip.opReleaseAck panel.val spare.val msg)

/-- BRIDGE_ACK_TIMEOUT. -/
def execBridgeAckTimeout (panel : Fin 8) (spare : Fin 2) (s : State) : Host.Outcome State Fault Refusal :=
  runChip s (Chip.opBridgeAckTimeout panel.val spare.val)

/-- SWAP_SWITCH. -/
def execSwapSwitch (panel : Fin 8) (spare : Fin 2) (s : State) : Host.Outcome State Fault Refusal :=
  runChip s (Chip.opSwapSwitch panel.val spare.val)

/-- SPARE_PARTNER_TIMEOUT. -/
def execSparePartnerTimeout (panel : Fin 8) (spare : Fin 2) (s : State) : Host.Outcome State Fault Refusal :=
  runChip s (Chip.opSparePartnerTimeout panel.val spare.val)

/-- SPARE_TRAIN_RETRY. -/
def execSpareTrainRetry (panel : Fin 8) (spare : Fin 2) (s : State) : Host.Outcome State Fault Refusal :=
  runChip s (Chip.opSpareTrainRetry panel.val spare.val)

/-- SPARE_TRAINING_DONE. -/
def execSpareTrainingDone (panel : Fin 8) (spare : Fin 2) (ok : Bool) (s : State) : Host.Outcome State Fault Refusal :=
  runChip s (Chip.opSpareTrainingDone panel.val spare.val ok)

end Sys2Proof.Machine
end

