-- ==== Sys2Proof/Machine/Protect.lean ====
section
/-!
DEFINITION. Protected locations: what a read or a traverse does with a bit error, and repairs (R140, R200, R201, R217,
R341 to R344).
-/

namespace Sys2Proof.Machine

namespace Chip

/-- An uncorrectable word is counted and reported, and the location's repair starts. -/
def countUncorr (c : Chip) (l : Loc) : Chip :=
  let c1 := c.startRepair l
  match l.space with
  | 0 | 1 | 2 => (c1.sat (Reg.PRS_ECC_UNCORR l.unit) 1).locReport l 0x03 outDegraded
  | 3 => (c1.sat (Reg.RWR_ECC_UNCORR l.unit) 1).locReport l 0x03 outDegraded
  | 4 => (c1.sat (Reg.CLS_ECC_UNCORR l.unit) 1).locReport l 0x04 outDegraded
  | 5 => ((c1.bump (Reg.PAT_CNT l.unit 5) 1).setF (Reg.PAT_TRAV_ERR l.unit) Fd.PAT_TRAV_ERR_WORD l.index).locReport l 0x05 outDegraded
  | 6 => ((c1.sat (Reg.TS_ECC_UNCORR (l.unit % 8)) 1).locReport l 0x02 outDegraded).storeError (l.unit % 8)
  | _ => c1

/-- A read of a word with flipped bits: corrected and written back, or uncorrectable; a byte with an even number of flips looks good. -/
def readHit (r : Chip × Nat) (u : Hit) : Chip × Nat :=
  if hitBad u then (r.1.countUncorr u.loc, 1)
  else if u.loc.space = 5 then r
  else ((r.1.clearHit u).countCorr u.loc, r.2)

/-- What a read of a location's words that p names meets: 0 good or corrected, 1 uncorrectable or under repair, 2 REPAIR_FAIL. -/
def readWords (c : Chip) (p : Nat → Bool) (l : Loc) : Chip × Nat :=
  if c.tbl.repairFail.contains l then (c, 2)
  else if c.tbl.repairs.contains l then (c, 1)
  else ((c.hitsAt l).filter (fun u => p u.seg)).foldl readHit (c, 0)

/-- A read of a whole location. -/
def readLoc (c : Chip) (l : Loc) : Chip × Nat := c.readWords (fun _ => true) l

/-- Read several locations: the worst that is met. -/
def readLocs (c : Chip) (l : List Loc) : Chip × Nat :=
  l.foldl (fun r x => ((r.1.readLoc x).1, max r.2 (r.1.readLoc x).2)) (c, 0)

/-- A location is written anew in every store (R341). -/
def renewed (c : Chip) (code i : Nat) : Chip := c.renewLocs true (fun l => l.space == 6 && l.unit / 8 == code && l.index == i)

/-- A write renews a location in every store and in the backing copies (R341, R292). -/
def renew (c : Chip) (code i : Nat) : Chip := (c.renewed code i).backWrite (tableLoc code 0 i)

/-- A rule row is written anew in all nine slices (R200, R341). -/
def renewedRow (c : Chip) (row : Nat) : Chip := c.renewLocs true (fun l => l.space == 4 && l.index == row)

/-- A write of a whole rule row renews it in all nine slices and in the backing copies (R200, R341, R292). -/
def renewRow (c : Chip) (row : Nat) : Chip := (c.renewedRow row).backWrite ⟨4, 0, row⟩

/-- A traverse reads every location that a predicate names: it handles each error as a read does. -/
def traverse (c : Chip) (p : Loc → Bool) : Chip :=
  (((c.tbl.upsets.map (·.loc)).eraseDups).filter p).foldl (fun c l => (c.readLoc l).1) c

/-- The physical rank that holds the backing copy on stack k of a location (log 131). -/
def copyRank (c : Chip) (l : Loc) (k : Nat) : Nat := c.physOf k (Config.backRank k l.space (objLoc l).unit l.index % 126)

/-- The backing copy on stack k of a location can be read: the stack serves requests, and neither the channel nor the rank that holds
the copy has failed (R291, R293). -/
def copyUp (c : Chip) (l : Loc) (k : Nat) : Bool :=
  let r := c.copyRank l k
  c.hbm.backed.contains k && c.memUp k && !bitOf (c.rd (Reg.MEM_CH_STATUS k)) (r / 4) && !c.on (Reg.MEM_RANK k r) Fd.MEM_RANK_FENCED

/-- Backing copies of a location are read; one that is uncorrectable counts for its rank (R286). -/
def readCopies (l : Loc) (good : Bool) (ks : List Nat) (c : Chip) : Chip :=
  ks.foldl (fun c k => if good then memUsed 0 c k else (memUsed 0 c k).rankUe k (c.copyRank l k)) c

/-- REPAIR_COMPLETE (R341, R342, R293): once no backing write of the location waits, it is rewritten from the first of its backing
copies, from another, or from a sibling, else recorded as REPAIR_FAIL. copyA and copyB: whether the word is good in the first copy and in
another; a copy that cannot be read serves nothing. An automaton word has no sibling. -/
def opRepairComplete (l : Loc) (copyA copyB sibling : Bool) (c : Chip) : Chip :=
  if c.tbl.repairs.contains l && !c.backWaits (objLoc l) then
    let c1 := { c with tbl.repairs := c.tbl.repairs.filter (fun x => !decide (x = l)) }
    let c2 := c1.endRepair l
    let first := ((backStacks l).take 1).filter (c.copyUp l)
    let rest := ((backStacks l).drop 1).filter (c.copyUp l)
    let c3 := readCopies l copyA first c2
    if copyA && !first.isEmpty then (c3.clearLoc l).countRepair l
    else
      let c4 := readCopies l copyB (if copyB then rest.take 1 else rest) c3
      if (copyB && !rest.isEmpty) || (sibling && l.space != 5) then (c4.clearLoc l).countRepair l
      else { c4 with tbl.repairFail := c4.tbl.repairFail ++ [l] }.locReport l 0x07 outReported
  else c

/-- PRS_TRAVERSE (R140, R217). -/
def opPrsTraverse (s : Nat) (hits : List Hit) (c : Chip) : Chip :=
  if c.domOn (80 + s) then (c.strike hits).traverse (fun l => decide (l.space < 4) && l.unit == s) else c.strike hits

/-- RULE_TRAVERSE (R200). -/
def opRuleTraverse (s : Nat) (hits : List Hit) (c : Chip) : Chip :=
  if c.domOn (80 + s) then (c.strike hits).traverse (fun l => l.space == 4 && l.unit == s) else c.strike hits

/-- PATTERN_TRAVERSE (R201); passEnd: the pass is complete. -/
def opPatternTraverse (e : Nat) (hits : List Hit) (passEnd : Bool) (c : Chip) : Chip :=
  if c.domOn (108 + e) then
    let c1 := (c.strike hits).traverse (fun l => l.space == 5 && l.unit == e)
    if passEnd then c1.bump (Reg.PAT_CNT e 7) 1 else c1
  else c.strike hits

/-- An uncorrectable word of a packet cell (R248, R344, R345): a free cell is retired at once, an allocated cell when freed, and a
frame with bytes there is poisoned when it is read. -/
def cellError (c : Chip) (i : Nat) : Chip :=
  let c1 := (c.bump (Reg.BPM_CNT 10) 1).report 0x14 0 0x06 outDegraded
  if (c1.cell i).kind = 0 then (c1.setCell i { Cell.free with kind := 4 }).bump (Reg.FLT_CNT 43) 1
  else if (c1.cell i).kind = 4 || c1.bpm.badCells.contains i then c1
  else { c1 with bpm.badCells := c1.bpm.badCells ++ [i] }

/-- A read of a 16-byte word of a packet cell (R248). -/
def readCellWord (r : Chip × Bool) (u : Hit) : Chip × Bool :=
  if hitBad u then (r.1.cellError u.loc.index, true)
  else (((r.1.clearHit u).bump (Reg.BPM_CNT 9) 1).report 0x14 0 0x01 outMasked, r.2)

/-- Read a packet cell: true when a word is uncorrectable, or the cell's domain is off (R347). -/
def readCell (c : Chip) (i : Nat) : Chip × Bool := (c.hitsAt ⟨7, 0, i⟩).foldl readCellWord (c, !c.domOn (94 + i / 65536))

/-- Read the cells of a frame: true when one is uncorrectable. -/
def readCells (c : Chip) (l : List Nat) : Chip × Bool :=
  l.foldl (fun r i => ((r.1.readCell i).1, r.2 || (r.1.readCell i).2)) (c, false)

/-- An error of other on-die state (R344): corrected, or in a slice a fault on line 3 (R334). -/
def readOther (c : Chip) (u : Hit) : Chip :=
  if hitBad u then
    if 0x20 ≤ u.loc.unit ∧ u.loc.unit ≤ 0x28 then (c.clearHit u).sliceEvent (u.loc.unit - 0x20) 3 else c
  else (c.clearHit u).locReport u.loc 0x01 outMasked

/-- The traverse reads cell i: not in a group that is off, nor again a word that it or a read has found uncorrectable (log 130). -/
def scrubsCell (c : Chip) (i : Nat) : Bool :=
  c.domOn (94 + i / 65536) && !c.bpm.badCells.contains i && (c.cell i).kind != 4

/-- SCRUB_TRAVERSE (R344, R345): table stores, packet SRAM and the other on-die memories without a traverse of their own. -/
def opScrubTraverse (hits : List Hit) (c : Chip) : Chip :=
  let c1 := (c.strike hits).traverse (fun l => l.space == 6 && c.domOn (89 + l.unit % 8))
  let cells := ((c1.tbl.upsets.filter (fun u => u.loc.space == 7)).map (·.loc.index)).eraseDups
  let c2 := (cells.filter c1.scrubsCell).foldl (fun c i => (c.readCell i).1) c1
  (c2.tbl.upsets.filter (fun u => u.loc.space == 8)).foldl readOther c2

end Chip

/-! The meanings. -/

/-- PRS_TRAVERSE. -/
def execPrsTraverse (slice : Fin 9) (hits : List Hit) (s : State) : Host.Outcome State Fault Refusal :=
  runChip s (Chip.opPrsTraverse slice.val hits)

/-- REPAIR_COMPLETE. -/
def execRepairComplete (loc : Loc) (copyA copyB sibling : Bool) (s : State) : Host.Outcome State Fault Refusal :=
  runChip s (Chip.opRepairComplete loc copyA copyB sibling)

/-- RULE_TRAVERSE. -/
def execRuleTraverse (slice : Fin 9) (hits : List Hit) (s : State) : Host.Outcome State Fault Refusal :=
  runChip s (Chip.opRuleTraverse slice.val hits)

/-- PATTERN_TRAVERSE. -/
def execPatternTraverse (engine : Fin 4) (hits : List Hit) (passEnd : Bool) (s : State) : Host.Outcome State Fault Refusal :=
  runChip s (Chip.opPatternTraverse engine.val hits passEnd)

/-- SCRUB_TRAVERSE. -/
def execScrubTraverse (hits : List Hit) (s : State) : Host.Outcome State Fault Refusal :=
  runChip s (Chip.opScrubTraverse hits)

end Sys2Proof.Machine
end

