-- ==== Sys2Proof/Machine/Tables.lean ====
section
/-!
DEFINITION. The table image: tags and visibility (R143, R144), exact match (R163 to R167), prefixes (R169), index tables and
their shadows (R170, R171), rule rows (R183, R184), and the changes a transaction makes to them (R146, R147).
-/

namespace Sys2Proof.Machine

/-! Tags (R143). -/

def tagCv (t : Nat) : Bool := bitOf t 17
def tagCreate (t : Nat) : Nat := bitsOf t 16 9
def tagRv (t : Nat) : Bool := bitOf t 8
def tagRetire (t : Nat) : Nat := t % 256

/-- The tag of a version that slot s creates. -/
def tagNew (s : Nat) : Nat := 2 ^ 17 + s * 2 ^ 9

/-- A tag with the retire mark of slot s. -/
def tagRetired (t s : Nat) : Nat := t / 2 ^ 9 * 2 ^ 9 + 2 ^ 8 + s

/-- A tag without retire mark. -/
def tagKept (t : Nat) : Nat := t / 2 ^ 9 * 2 ^ 9

/-- A tag whose creation is folded: CV 0 (R155). -/
def tagFolded (t : Nat) : Nat := t % 2 ^ 9

/-- Slot s created the version. -/
def madeBy (s t : Nat) : Bool := tagCv t && tagCreate t == s

/-- Slot s retired the version. -/
def retiredBy (s t : Nat) : Bool := tagRv t && tagRetire t == s

/-- Put a tag at the top of an entry of n bits. -/
def withTag (n t : Nat) (e : Nat) : Nat := e % 2 ^ (n - 18) + t % 2 ^ 18 * 2 ^ (n - 18)

/-- The tag at the top of an entry of n bits. -/
def tagOf (n e : Nat) : Nat := e / 2 ^ (n - 18) % 2 ^ 18

/-- No exact-match entry: empty (R143). -/
def emEmpty (_ : Nat) : BitVec 128 := 0

/-- Nothing is listed. -/
def noneAt {α : Type} (_ : Nat) : Option α := none

/-- No hit bit. -/
def noHit (_ : Nat) : Bool := false

/-! Result codes (R147). -/

def cOk : Nat := 0
def cNoSlot : Nat := 1
def cBadSlot : Nat := 2
def cConflict : Nat := 3
def cInsertFail : Nat := 4
def cTableFull : Nat := 5
def cQuota : Nat := 6
def cFailed : Nat := 7
def cNotFound : Nat := 8
def cBadEntry : Nat := 9
def cShadowFull : Nat := 10
def cCommitted : Nat := 11

/-! Slot states (R145). -/

def sFree : Nat := 0
def sOpen : Nat := 1
def sClosed : Nat := 2
def sCommitted : Nat := 3
def sSweeping : Nat := 4
def sFailed : Nat := 5
def sAborting : Nat := 6

namespace Chip

/-- State of a transaction slot. -/
def slotState (c : Chip) (s : Nat) : Nat := c.fld (Reg.UPD_SLOT s) Fd.UPD_SLOT_STATE

/-- Move a slot. -/
def setSlot (c : Chip) (s st : Nat) : Chip := c.setF (Reg.UPD_SLOT s) Fd.UPD_SLOT_STATE st

/-- The transaction of the slot is committed for epoch e (R144). -/
def slotDone (c : Chip) (s e : Nat) : Bool :=
  (c.slotState s == sCommitted || c.slotState s == sSweeping)
    && decide (0 ≤ epochDiff e (c.fld (Reg.UPD_SLOT s) Fd.UPD_SLOT_EPOCH))

/-- A version is visible at epoch e (R144). -/
def visible (c : Chip) (t e : Nat) : Bool :=
  (!tagCv t || c.slotDone (tagCreate t) e) && !(tagRv t && c.slotDone (tagRetire t) e)

/-- A version is in use now, but for the changes of slot s. -/
def live (c : Chip) (s t : Nat) : Bool := c.visible t c.epoch && !retiredBy s t

/-- A slot whose changes are pending (R146). -/
def slotPending (c : Chip) (s : Nat) : Bool :=
  c.slotState s == sOpen || c.slotState s == sClosed || c.slotState s == sFailed || c.slotState s == sAborting

/-- A version carries a pending change of another transaction (R146). -/
def pendOther (c : Chip) (s t : Nat) : Bool :=
  (tagCv t && tagCreate t != s && c.slotPending (tagCreate t)) || (tagRv t && tagRetire t != s && c.slotPending (tagRetire t))

/-- A version of an index or rule address whose last change another transaction has not swept (R146). -/
def unswept (s t : Nat) : Bool := (tagCv t && tagCreate t != s) || (tagRv t && tagRetire t != s)

/-- Write slots are used (R174). -/
def useSlots (c : Chip) (n : Nat) : Chip := c.bump (Reg.UPD_CNT 1) n

/-! Stores that miss writes (R178). -/

/-- Store k is powered and receives no table write: EN is 0. -/
def misses (c : Chip) (k : Nat) : Bool := c.domOn (89 + k) && !c.on (Reg.TS_CTRL k) Fd.TS_CTRL_EN

/-- Before a location changes: a store that misses the write keeps what it holds, any other store then holds what the table does. -/
def keepOld {α : Type} [DecidableEq α] (c : Chip) (m : NMap (Option α)) (l : Nat) (old : α) : NMap (Option α) :=
  (List.range 5).foldl (fun m k =>
    if c.misses k then (if (mfind m (2 ^ 40 * k + l)).isSome then m else mset noneAt m (2 ^ 40 * k + l) (some old))
    else mdel m (2 ^ 40 * k + l)) m

/-- Exact-match locations are about to change. -/
def noteEm (c : Chip) (ls : List Nat) : Chip :=
  { c with tbl.staleEm := ls.foldl (fun m l => c.keepOld m l (mget emEmpty c.tbl.em l)) c.tbl.staleEm }

/-- Prefix locations are about to change. -/
def noteLpm (c : Chip) (v6 : Bool) (ls : List Nat) : Chip :=
  if v6 then { c with tbl.staleLpm6 := ls.foldl (fun m l => c.keepOld m l (mget noneAt c.tbl.lpm6 l)) c.tbl.staleLpm6 }
  else { c with tbl.staleLpm4 := ls.foldl (fun m l => c.keepOld m l (mget noneAt c.tbl.lpm4 l)) c.tbl.staleLpm4 }

/-- An index entry is about to change. -/
def noteIdx (c : Chip) (k : Nat) : Chip := { c with tbl.staleIdx := c.keepOld c.tbl.staleIdx k (mget noneAt c.tbl.idx k) }

/-- A map with what store k still holds put over it. -/
def overlaid {α : Type} [DecidableEq α] (d : Nat → α) (st : NMap (Option α)) (k : Nat) (m : NMap α) : NMap α :=
  st.foldl (fun m x => match x.2 with
    | some v => if x.1 / 2 ^ 40 = k then mset d m (x.1 % 2 ^ 40) v else m
    | none => m) m

/-- The tables as store k holds them. -/
def asStore (c : Chip) (k : Nat) : Chip :=
  { c with tbl.em := overlaid emEmpty c.tbl.staleEm k c.tbl.em, tbl.lpm4 := overlaid noneAt c.tbl.staleLpm4 k c.tbl.lpm4,
           tbl.lpm6 := overlaid noneAt c.tbl.staleLpm6 k c.tbl.lpm6, tbl.idx := overlaid noneAt c.tbl.staleIdx k c.tbl.idx }

/-- PROFILE is Edge (R161). -/
def edge (c : Chip) : Bool := c.fld Reg.UPD_CFG Fd.UPD_CFG_PROFILE == 1

/-! Exact match. -/

/-- Type of an entry (R163). -/
def emType (e : Nat) : Nat := e / 2 ^ 106 % 16

/-- The lowest bit of the key field of a type. -/
def emKeyLo (t : Nat) : Nat :=
  match t with
  | 1 => 70
  | 2 => 44
  | 3 => 58
  | 4 => 26
  | 5 => 40
  | _ => 104

/-- An entry with TAG, STATIC and result fields zero: its key (R164). -/
def emKey (e : Nat) : Nat := e / 2 ^ emKeyLo (emType e) * 2 ^ emKeyLo (emType e) % 2 ^ 104 + emType e * 2 ^ 106

/-- The hash input of a key: one entry, or the two of an IPv6 host (R164). -/
def emBytes (k : List Nat) : List Byte := (k.map (fun e => beBytes 16 (emKey e))).flatten

/-- The logical partition of a key (R164). -/
def emLogical (k : List Nat) : Nat := crc32c 0xFFFFFFFF (emBytes k) / 2 ^ 26

/-- Buckets H0 and H1 of a key in a physical partition (R164). -/
def emBuckets (c : Chip) (phys : Nat) (k : List Nat) : Nat × Nat :=
  let m := if c.edge then 8192 else 4096
  let h0 := crc32c (c.rd (Reg.UPD_SEED phys 0)) (emBytes k) % m
  let h1 := crc32c (c.rd (Reg.UPD_SEED phys 1)) (emBytes k) % m
  (h0, if h1 = h0 then h0 ^^^ 1 else h1)

/-- The location of a way. -/
def emLoc (phys b w : Nat) : Nat := (8192 * phys + b) * 4 + w

/-- The entry at a location. -/
def emAt (c : Chip) (l : Nat) : Nat := (mget emEmpty c.tbl.em l).toNat

/-- Store an entry at a location as it stands. -/
def emSet (c : Chip) (l e : Nat) : Chip := { c.noteEm [l] with tbl.em := mset emEmpty c.tbl.em l (BitVec.ofNat 128 e) }

/-- Store an entry whole: the location is renewed (R341). -/
def emWriteAt (c : Chip) (l e : Nat) : Chip := (c.emSet l e).renew 2 l

/-- Free a location. -/
def emFree (c : Chip) (l : Nat) : Chip :=
  let c1 := c.emWriteAt l 0
  { c1 with tbl.emHit := mdel c1.tbl.emHit l }

/-- The ways of an entry from a location up: one, or two for an IPv6 host. -/
def emSpan (l n : Nat) : List Nat := (List.range n).map (l + ·)

/-- The ways that a lookup of a key reads: both buckets whole (R165). -/
def emReads (c : Chip) (phys : Nat) (k : List Nat) : List Nat :=
  let h := c.emBuckets phys k
  (List.range 4).map (emLoc phys h.1) ++ (List.range 4).map (emLoc phys h.2)

/-- The locations that hold a version of a key in a physical partition, in the order of a lookup (R165). -/
def emVersions (c : Chip) (phys : Nat) (k : List Nat) : List Nat :=
  (c.emReads phys k).filter (fun l =>
    match k with
    | [a] => emType a != 0 && emKey (c.emAt l) == emKey a
    | [a, b] => decide (l % 4 < 3) && emKey (c.emAt l) == emKey a && emKey (c.emAt (l + 1)) == emKey b
    | _ => false)

/-- Tag of the entry at a location. -/
def emTagAt (c : Chip) (l : Nat) : Nat := tagOf 128 (c.emAt l)

/-- The way of a bucket from which n adjacent ways are free and not claimed. -/
def emRoom (c : Chip) (phys b n : Nat) (claimed : List (Nat × Nat)) : Option Nat :=
  (List.range (5 - n)).find? (fun w => (emSpan w n).all (fun v => c.emAt (emLoc phys b v) == 0 && !claimed.contains (b, v)))

/-- An occupant of a bucket: bucket, way, ways taken. -/
structure Occ where
  b : Nat
  w : Nat
  n : Nat
  deriving DecidableEq, Repr

/-- The occupants of a bucket, by way. -/
def emOccs (c : Chip) (phys b : Nat) : List Occ :=
  (List.range 4).filterMap (fun w =>
    match emType (c.emAt (emLoc phys b w)) with
    | 0 => none
    | 5 => none
    | 4 => some ⟨b, w, 2⟩
    | _ => some ⟨b, w, 1⟩)

/-- The way from which n adjacent ways, not claimed, are free once an occupant has moved away. -/
def emRoomWithout (c : Chip) (phys n : Nat) (o : Occ) (claimed : List (Nat × Nat)) : Option Nat :=
  (List.range (5 - n)).find? (fun w => (emSpan w n).all (fun v =>
    ((decide (o.w ≤ v) && decide (v < o.w + o.n)) || c.emAt (emLoc phys o.b v) == 0) && !claimed.contains (o.b, v)))

/-- The ways, by bucket, that a path (its last occupant first) gives to the key of n ways and to the occupants before each: a later
move takes none of them, as they are not free at its point of the chain (R166). -/
def emClaims (n : Nat) : List (Occ × Nat) → List (Nat × Nat)
  | [] => []
  | [(o, w)] => (emSpan w n).map (fun v => (o.b, v))
  | (o, w) :: (p, x) :: l => (emSpan w p.n).map (fun v => (o.b, v)) ++ emClaims n ((p, x) :: l)

/-- The entries of an occupant. -/
def emEntries (c : Chip) (phys : Nat) (o : Occ) : List Nat := (emSpan (emLoc phys o.b o.w) o.n).map c.emAt

/-- An occupant's other bucket. -/
def emOther (c : Chip) (phys : Nat) (o : Occ) : Nat :=
  let h := c.emBuckets phys (c.emEntries phys o)
  if h.1 = o.b then h.2 else h.1

/-- The breadth-first search for a chain of moves for a key of n ways (R166): a path holds occupants with the way each frees, the last
first. The answer is the path, and the bucket and way to which its last occupant moves. -/
def emSearch (c : Chip) (phys n : Nat) : Nat → List (List (Occ × Nat)) → Option (List (Occ × Nat) × Nat × Nat)
  | 0, _ => none
  | _ + 1, [] => none
  | fuel + 1, path :: rest =>
    match path with
    | [] => emSearch c phys n fuel rest
    | (o, _) :: _ =>
      let b := c.emOther phys o
      let claimed := emClaims n path
      match c.emRoom phys b o.n claimed with
      | some w => some (path, b, w)
      | none =>
        if 8 ≤ path.length then emSearch c phys n fuel rest
        else
          let next := (c.emOccs phys b).filterMap (fun x =>
            if path.any (fun y => decide (y.1 = x)) then none
            else match c.emRoomWithout phys o.n x claimed with
              | some w => some ((x, w) :: path)
              | none => none)
          emSearch c phys n fuel (rest ++ next)

/-- Move the ways of an occupant: entries, tags and hit bits (R166). -/
def emMove (c : Chip) (phys : Nat) (o : Occ) (b w : Nat) : Chip :=
  let c1 := (List.range o.n).foldl (fun c i =>
    let src := emLoc phys o.b (o.w + i)
    let dst := emLoc phys b (w + i)
    let c2 := c.emWriteAt dst (c.emAt src)
    { c2 with tbl.emHit := mset noHit c2.tbl.emHit dst (mget noHit c2.tbl.emHit src) }) c
  (((emSpan (emLoc phys o.b o.w) o.n).foldl emFree c1).bump (Reg.UPD_CNT 2) 1).useSlots 1

/-- Perform a chain from its end backwards; the answer names the bucket and way freed for the new key. -/
def emMoves (c : Chip) (phys : Nat) : List (Occ × Nat) → Nat → Nat → Chip × Nat × Nat
  | [], b, w => (c, b, w)
  | (o, freed) :: l, b, w => emMoves (c.emMove phys o b w) phys l o.b freed

/-- A place for a key of n ways: a free one, or one that a chain of moves frees (R166). -/
def emPlace (c : Chip) (phys : Nat) (k : List Nat) : Option (Chip × Nat) :=
  let n := k.length
  let h := c.emBuckets phys k
  match c.emRoom phys h.1 n [] with
  | some w => some (c, emLoc phys h.1 w)
  | none =>
    match c.emRoom phys h.2 n [] with
    | some w => some (c, emLoc phys h.2 w)
    | none =>
      let start := (List.range 4).flatMap (fun w =>
        (c.emOccs phys h.1 ++ c.emOccs phys h.2).filter (fun o => o.w == w))
      let paths := start.filterMap (fun o => match c.emRoomWithout phys n o [] with
        | some w => some [(o, w)]
        | none => none)
      match c.emSearch phys n 1024 paths with
      | none => none
      | some (path, b, w) =>
        let r := c.emMoves phys path b w
        some (r.1, emLoc phys r.2.1 r.2.2)

/-- Write the entries of a key from a location up with a tag. -/
def emPut (c : Chip) (l t : Nat) (k : List Nat) : Chip :=
  (List.range k.length).foldl (fun c i => c.emWriteAt (l + i) (withTag 128 t (k.getD i 0))) c

/-- Retag the ways of a key. -/
def emRetag (c : Chip) (l n t : Nat) : Chip :=
  (emSpan l n).foldl (fun c i => (c.emSet i (withTag 128 t (c.emAt i))).backWrite (tableLoc 2 0 i)) c

/-- The physical partition of a logical one. -/
def emPhys (c : Chip) (lp : Nat) : Nat := c.fld (Reg.UPD_PART_MAP lp) Fd.UPD_PART_MAP_PHYS

/-- The physical partition that serves no logical one: from a rehash's flip to its end the old one, else the spare (R168). -/
def emIdle (c : Chip) : Nat :=
  match c.upd.cleanup with
  | some (old, _) => old
  | none => c.fld Reg.UPD_PART_SPARE Fd.UPD_PART_SPARE_PHYS

/-- Exact-match entries in use, the idle partition apart (R161). -/
def emUsed (c : Chip) : Nat := (c.tbl.em.filter (fun x => x.1 / 32768 != c.emIdle)).length

/-- One change of a key in one physical partition: a new version, or a version in place. -/
def emWriteIn (c : Chip) (s phys : Nat) (k : List Nat) : Option Chip :=
  let vs := c.emVersions phys k
  match vs.find? (fun l => madeBy s (c.emTagAt l)) with
  | some l => some ((c.emPut l (tagNew s) k).useSlots 1)
  | none =>
    match c.emPlace phys k with
    | none => none
    | some (c1, l) =>
      let old := (c1.emVersions phys k).filter (fun l => c1.live s (c1.emTagAt l))
      let c2 := old.foldl (fun c l => c.emRetag l k.length (tagRetired (c.emTagAt l) s)) c1
      some ((c2.emPut l (tagNew s) k).useSlots (if old.isEmpty then 2 else 4))

/-- The deletion of a key in one physical partition. -/
def emDeleteIn (c : Chip) (s phys : Nat) (k : List Nat) : Chip × Nat :=
  let vs := c.emVersions phys k
  match vs.find? (fun l => madeBy s (c.emTagAt l)) with
  | some l => (((emSpan l k.length).foldl emFree c).useSlots 1, cOk)
  | none =>
    match vs.find? (fun l => c.live s (c.emTagAt l)) with
    | some l => ((c.emRetag l k.length (tagRetired (c.emTagAt l) s)).useSlots 2, cOk)
    | none => (c, if vs.any (fun l => retiredBy s (c.emTagAt l)) then cOk else cNotFound)

/-- A rehash of the key's partition is copying: the new partition takes every change too (R168). -/
def rehashPhys (c : Chip) (lp : Nat) : Option Nat :=
  match c.upd.rehash with
  | some r => if r.part = lp then some r.phys else none
  | none => none

/-- Clear a physical partition. -/
def emClear (c : Chip) (phys : Nat) : Chip :=
  { c.noteEm ((c.tbl.em.filter (fun x => x.1 / 32768 == phys)).map (·.1)) with
    tbl.em := c.tbl.em.filter (fun x => x.1 / 32768 != phys),
    tbl.emHit := c.tbl.emHit.filter (fun x => x.1 / 32768 != phys) }

/-- A rehash fails: the new partition is cleared and the mailbox completes with 0x06 (R168). -/
def rehashFail (c : Chip) (phys : Nat) : Chip :=
  let c1 := (c.emClear phys).setF Reg.UPD_STATUS Fd.UPD_STATUS_REHASH 0
  { c1.mbxEnd .upd 6 [] with upd.rehash := none }

/-- Write a key in slot s. -/
def emWrite (c : Chip) (s : Nat) (k : List Nat) : Chip × Nat :=
  let lp := emLogical k
  let phys := c.emPhys lp
  let vs := c.emVersions phys k
  if vs.any (fun l => c.pendOther s (c.emTagAt l)) then (c, cConflict)
  else if !vs.any (fun l => madeBy s (c.emTagAt l))
      && decide ((if c.edge then 2097152 else 1048576) < c.emUsed + k.length) then (c, cTableFull)
  else
    match c.emWriteIn s phys k with
    | none => (c, cInsertFail)
    | some c1 =>
      match c1.rehashPhys lp with
      | none => (c1, cOk)
      | some q =>
        match c1.emWriteIn s q k with
        | some c2 => (c2, cOk)
        | none => (c1.rehashFail q, cOk)

/-- Delete a key in slot s. -/
def emDelete (c : Chip) (s : Nat) (k : List Nat) : Chip × Nat :=
  let lp := emLogical k
  let phys := c.emPhys lp
  if (c.emVersions phys k).any (fun l => c.pendOther s (c.emTagAt l)) then (c, cConflict)
  else
    let r := c.emDeleteIn s phys k
    match r.1.rehashPhys lp with
    | none => r
    | some q => ((r.1.emDeleteIn s q k).1, r.2)

/-! Prefixes (R169). -/

/-- The prefixes of a family. -/
def lpm (c : Chip) (v6 : Bool) : NMap (Option Pfx) := if v6 then c.tbl.lpm6 else c.tbl.lpm4

/-- Store a prefix version, or none; a write of a whole version renews the location. -/
def lpmSet (c : Chip) (v6 : Bool) (i : Nat) (x : Option Pfx) : Chip :=
  if v6 then { c.noteLpm true [i] with tbl.lpm6 := mset noneAt c.tbl.lpm6 i x }
  else { c.noteLpm false [i] with tbl.lpm4 := mset noneAt c.tbl.lpm4 i x }

/-- Address width of a family. -/
def lpmWidth (v6 : Bool) : Nat := if v6 then 128 else 32

/-- An address with the bits beyond a length zero. -/
def lpmMask (v6 : Bool) (len a : Nat) : Nat :=
  a % 2 ^ lpmWidth v6 / 2 ^ (lpmWidth v6 - len) * 2 ^ (lpmWidth v6 - len)

/-- The same prefix. -/
def Pfx.same (x y : Pfx) : Bool := x.vrf == y.vrf && x.len == y.len && x.addr == y.addr

/-- The versions of a prefix: location and tag. -/
def lpmVersions (c : Chip) (v6 : Bool) (p : Pfx) : List (Nat × Nat) :=
  (c.lpm v6).filterMap (fun x => match x.2 with
    | some q => if Pfx.same p q then some (x.1, q.tag) else none
    | none => none)

/-- How many prefixes a version counts for (R161). -/
def lpmWeight (v6 : Bool) (p : Pfx) : Nat := if v6 && decide (64 < p.len) then 2 else 1

/-- Prefixes in use. -/
def lpmUsed (c : Chip) (v6 : Bool) : Nat :=
  (c.lpm v6).foldl (fun n x => match x.2 with
    | some q => n + lpmWeight v6 q
    | none => n) 0

/-- Prefix capacity (R161). -/
def lpmCap (c : Chip) (v6 : Bool) : Nat :=
  if v6 then (if c.edge then 524288 else 1048576) else (if c.edge then 2097152 else 3145728)

/-- Table code of a family (R175). -/
def lpmCode (v6 : Bool) : Nat := if v6 then 1 else 0

/-- Retag a prefix version. -/
def lpmRetag (c : Chip) (v6 : Bool) (i t : Nat) : Chip :=
  match mfind (c.lpm v6) i with
  | some (some p) => (c.lpmSet v6 i (some { p with tag := t })).backWrite (tableLoc (lpmCode v6) 0 i)
  | _ => c

/-- Write a prefix in slot s. -/
def lpmWrite (c : Chip) (s : Nat) (v6 : Bool) (p : Pfx) : Chip × Nat :=
  let vs := c.lpmVersions v6 p
  if vs.any (fun v => c.pendOther s v.2) then (c, cConflict)
  else
    match vs.find? (fun v => madeBy s v.2) with
    | some v => (((c.lpmSet v6 v.1 (some { p with tag := tagNew s })).renew (lpmCode v6) v.1).useSlots 1, cOk)
    | none =>
      if c.lpmCap v6 < c.lpmUsed v6 + lpmWeight v6 p then (c, cTableFull)
      else
        let old := vs.filter (fun v => c.live s v.2)
        let c1 := old.foldl (fun c v => c.lpmRetag v6 v.1 (tagRetired v.2 s)) c
        let i := gapFrom (c1.lpm v6) 0
        (((c1.lpmSet v6 i (some { p with tag := tagNew s })).renew (lpmCode v6) i).useSlots (if old.isEmpty then 2 else 4), cOk)

/-- Delete a prefix in slot s. -/
def lpmDelete (c : Chip) (s : Nat) (v6 : Bool) (p : Pfx) : Chip × Nat :=
  let vs := c.lpmVersions v6 p
  if vs.any (fun v => c.pendOther s v.2) then (c, cConflict)
  else
    match vs.find? (fun v => madeBy s v.2) with
    | some v => (((c.lpmSet v6 v.1 none).renew (lpmCode v6) v.1).useSlots 1, cOk)
    | none =>
      match vs.find? (fun v => c.live s v.2) with
      | some v => ((c.lpmRetag v6 v.1 (tagRetired v.2 s)).useSlots 2, cOk)
      | none => (c, if vs.any (fun v => retiredBy s v.2) then cOk else cNotFound)

/-! Index tables (R170, R171). Table 0 next hop, 1 member, 2 group, 3 rewrite. -/

/-- Bits of an entry. -/
def ixBits (t : Nat) : Nat := [128, 64, 64, 256].getD t 128

/-- Entries of a table (R161). -/
def ixSize (t : Nat) : Nat := [1048576, 1048576, 65536, 524288].getD t 0

/-- Shadow entries of a table (R161). -/
def ixShadows (t : Nat) : Nat := [32768, 65536, 4096, 16384].getD t 0

/-- Key of a main entry. -/
def ixKey (t i : Nat) : Nat := 2 ^ 22 * t + i

/-- Key of a shadow entry. -/
def ixShKey (t i : Nat) : Nat := 2 ^ 22 * t + 2 ^ 21 + i

/-- An entry. -/
def ixAt (c : Chip) (k : Nat) : Option Nat := (mget noneAt c.tbl.idx k).map (·.toNat)

/-- Store an entry, or none, as it stands. -/
def ixSet (c : Chip) (k : Nat) (x : Option Nat) : Chip :=
  { c.noteIdx k with tbl.idx := mset noneAt c.tbl.idx k (x.map (BitVec.ofNat 272)) }

/-- Store an entry whose tag or shadow index alone changes. -/
def ixMark (c : Chip) (k : Nat) (x : Option Nat) : Chip := (c.ixSet k x).backWrite (tableLoc (8 + k / 2 ^ 22) 0 (k % 2 ^ 22))

/-- Store an entry whole: the location is renewed. -/
def ixPut (c : Chip) (k : Nat) (x : Option Nat) : Chip := (c.ixSet k x).renew (8 + k / 2 ^ 22) (k % 2 ^ 22)

/-- SH and SHIDX fields of a table; R170 gives them to rewrite entries too, whose layout has no place for them:
the model keeps those above the entry's 256 bits (log 30). -/
def ixSh (t : Nat) : BF := [⟨46, 1⟩, ⟨25, 1⟩, ⟨12, 1⟩, ⟨270, 1⟩].getD t ⟨0, 0⟩
def ixShIdx (t : Nat) : BF := [⟨31, 15⟩, ⟨9, 16⟩, ⟨0, 12⟩, ⟨256, 14⟩].getD t ⟨0, 0⟩

/-- A field of an entry. -/
def ebit (f : BF) (e : Nat) : Nat := e / 2 ^ f.lo % 2 ^ f.width

/-- An entry with a field set. -/
def eset (f : BF) (e v : Nat) : Nat :=
  e % 2 ^ f.lo + v % 2 ^ f.width * 2 ^ f.lo + e / 2 ^ (f.lo + f.width) * 2 ^ (f.lo + f.width)

/-- The content of an entry with TAG, SH and SHIDX as given. -/
def ixMake (t tag sh shidx e : Nat) : Nat := eset (ixShIdx t) (eset (ixSh t) (withTag (ixBits t) tag e) sh) shidx

/-- A free shadow entry: the lowest (log 17). -/
def ixFreeSh (c : Chip) (t : Nat) : Option Nat :=
  let i := gapFrom (c.tbl.idx.filter (fun x => decide (ixShKey t 0 ≤ x.1) && decide (x.1 < ixShKey t (ixShadows t)))) (ixShKey t 0)
  if i < ixShKey t (ixShadows t) then some (i - ixShKey t 0) else none

/-- Write an index entry in slot s (R170). -/
def ixWrite (c : Chip) (s t i e : Nat) : Chip × Nat :=
  let k := ixKey t i
  match c.ixAt k with
  | none => ((c.ixPut k (some (ixMake t (tagNew s) 0 0 e))).useSlots 2, cOk)
  | some m =>
    let tag := tagOf (ixBits t) m
    if unswept s tag then (c, cConflict)
    else if madeBy s tag then ((c.ixPut k (some (ixMake t (tagNew s) 0 0 e))).useSlots 1, cOk)
    else if ebit (ixSh t) m = 1 then
      ((c.ixPut (ixShKey t (ebit (ixShIdx t) m)) (some (ixMake t (tagNew s) 0 0 e))).useSlots 1, cOk)
    else
      match c.ixFreeSh t with
      | none => (c, cShadowFull)
      | some j =>
        (((c.ixPut (ixShKey t j) (some (ixMake t (tagNew s) 0 0 e))).ixMark k (some (ixMake t (tagRetired tag s) 1 j m))).useSlots
          (if retiredBy s tag then 2 else 4), cOk)

/-- Delete an index entry in slot s. -/
def ixDelete (c : Chip) (s t i : Nat) : Chip × Nat :=
  let k := ixKey t i
  match c.ixAt k with
  | none => (c, cNotFound)
  | some m =>
    let tag := tagOf (ixBits t) m
    if unswept s tag then (c, cConflict)
    else if madeBy s tag then ((c.ixPut k none).useSlots 1, cOk)
    else if ebit (ixSh t) m = 1 then
      (((c.ixPut (ixShKey t (ebit (ixShIdx t) m)) none).ixMark k (some (ixMake t tag 0 0 m))).useSlots 1, cOk)
    else if retiredBy s tag then (c, cOk)
    else ((c.ixMark k (some (ixMake t (tagRetired tag s) 0 0 m))).useSlots 2, cOk)

/-- The version of an index entry that a lookup of epoch e uses, with the locations it reads (R170). -/
def ixRead (c : Chip) (t i e : Nat) : Option Nat × List Nat :=
  let k := ixKey t i
  match c.ixAt k with
  | none => (none, [i])
  | some m =>
    let own := if c.visible (tagOf (ixBits t) m) e then some m else none
    if ebit (ixSh t) m = 1 then
      let j := ebit (ixShIdx t) m
      let sh := match c.ixAt (ixShKey t j) with
        | some x => if c.visible (tagOf (ixBits t) x) e then some x else none
        | none => none
      ((match own with
        | some x => some x
        | none => sh), [i, 2 ^ 21 + j])
    else (own, [i])

/-! Rule rows (R183, R184). A row is action word (128) over MASK (480) over VALUE (480). -/

/-- A row. -/
def row (c : Chip) (r : Nat) : Option Nat := (mget noneAt c.tbl.rules r).map (·.toNat)

/-- Store a row, or none, as it stands. -/
def rowSet (c : Chip) (r : Nat) (x : Option Nat) : Chip :=
  { c with tbl.rules := mset noneAt c.tbl.rules r (x.map (BitVec.ofNat 1088)) }

/-- Store a row whose tag alone changes. -/
def rowMark (c : Chip) (r : Nat) (x : Option Nat) : Chip := (c.rowSet r x).backWrite ⟨4, 0, r⟩

/-- Store a row whole. -/
def rowPut (c : Chip) (r : Nat) (x : Option Nat) : Chip := (c.rowSet r x).renewRow r

/-- The two version rows of an address, with their tags. -/
def rowVersions (c : Chip) (a : Nat) : List (Nat × Nat) :=
  [2 * a, 2 * a + 1].filterMap (fun r => (c.row r).map (fun e => (r, tagOf 1088 e)))

/-- Write a rule in slot s. -/
def ruleWrite (c : Chip) (s a e : Nat) : Chip × Nat :=
  let vs := c.rowVersions a
  if vs.any (fun v => unswept s v.2) then (c, cConflict)
  else
    match vs.find? (fun v => madeBy s v.2) with
    | some v => ((c.rowPut v.1 (some (withTag 1088 (tagNew s) e))).useSlots 1, cOk)
    | none =>
      let r := if vs.any (fun v => v.1 == 2 * a) then 2 * a + 1 else 2 * a
      let old := vs.filter (fun v => !retiredBy s v.2)
      let c1 := old.foldl (fun c v => c.rowMark v.1 ((c.row v.1).map (withTag 1088 (tagRetired v.2 s)))) c
      ((c1.rowPut r (some (withTag 1088 (tagNew s) e))).useSlots (if old.isEmpty then 2 else 4), cOk)

/-- Delete a rule in slot s. -/
def ruleDelete (c : Chip) (s a : Nat) : Chip × Nat :=
  let vs := c.rowVersions a
  if vs.any (fun v => unswept s v.2) then (c, cConflict)
  else
    match vs.find? (fun v => madeBy s v.2) with
    | some v => ((c.rowPut v.1 none).useSlots 1, cOk)
    | none =>
      match vs.find? (fun v => !retiredBy s v.2) with
      | some v => ((c.rowMark v.1 ((c.row v.1).map (withTag 1088 (tagRetired v.2 s)))).useSlots 2, cOk)
      | none => (c, if vs.isEmpty then cNotFound else cOk)

/-! Sweep and removal (R155, R170). -/

/-- What a sweep leaves of a tag: none frees the entry. -/
def sweepTag (s t : Nat) : Option Nat :=
  if retiredBy s t then none else if madeBy s t then some (tagFolded t) else some t

/-- What the removal of an aborted transaction leaves of a tag. -/
def abortTag (s t : Nat) : Option Nat :=
  if madeBy s t then none else if retiredBy s t then some (tagKept t) else some t

/-- Apply a tag rule to a map of entries of n bits. -/
def retagMap {w : Nat} (f : Nat → Option Nat) (n : Nat) (m : NMap (Option (BitVec w))) : NMap (Option (BitVec w)) :=
  m.filterMap (fun x => match x.2 with
    | some e => (f (tagOf n e.toNat)).map (fun t => (x.1, some (BitVec.ofNat w (withTag n t e.toNat))))
    | none => none)

/-- Apply a tag rule to the exact-match ways. -/
def retagEm (f : Nat → Option Nat) (m : NMap (BitVec 128)) : NMap (BitVec 128) :=
  m.filterMap (fun x => (f (tagOf 128 x.2.toNat)).map (fun t => (x.1, BitVec.ofNat 128 (withTag 128 t x.2.toNat))))

/-- Apply a tag rule to prefixes. -/
def retagPfx (f : Nat → Option Nat) (m : NMap (Option Pfx)) : NMap (Option Pfx) :=
  m.filterMap (fun x => match x.2 with
    | some p => (f p.tag).map (fun t => (x.1, some { p with tag := t }))
    | none => none)

/-- Keys of entries whose tag a rule changes, by the tag of each. -/
def changedKeys {α : Type} (f : Nat → Option Nat) (tag : α → Option Nat) (m : NMap α) : List Nat :=
  (m.filter (fun x => match tag x.2 with
    | some t => f t != some t
    | none => false)).map (·.1)

/-- Keys of the exact-match ways, prefixes and rule rows whose tag a rule changes. -/
def emKeys (c : Chip) (f : Nat → Option Nat) : List Nat := changedKeys f (fun e => some (tagOf 128 e.toNat)) c.tbl.em
def lpmKeys (c : Chip) (v6 : Bool) (f : Nat → Option Nat) : List Nat := changedKeys f (fun p => p.map (·.tag)) (c.lpm v6)
def rowKeys (c : Chip) (f : Nat → Option Nat) : List Nat :=
  changedKeys f (fun r => r.map (fun e => tagOf 1088 e.toNat)) c.tbl.rules

/-- Main index entries that slot s changed, with their table and index. -/
def ixChanged (c : Chip) (s : Nat) : List (Nat × Nat) :=
  c.tbl.idx.filterMap (fun x => match x.2 with
    | some e =>
      let t := x.1 / 2 ^ 22
      let tag := tagOf (ixBits t) e.toNat
      if x.1 % 2 ^ 22 < 2 ^ 21 ∧ (madeBy s tag ∨ retiredBy s tag) then some (t, x.1 % 2 ^ 22) else none
    | none => none)

/-- The sweep of one index entry: CV cleared, the shadow folded, or the entry freed (R170). -/
def ixSweep (c : Chip) (s : Nat) (x : Nat × Nat) : Chip :=
  let k := ixKey x.1 x.2
  match c.ixAt k with
  | none => c
  | some m =>
    let tag := tagOf (ixBits x.1) m
    if retiredBy s tag then
      if ebit (ixSh x.1) m = 1 then
        let sk := ixShKey x.1 (ebit (ixShIdx x.1) m)
        match c.ixAt sk with
        | some e => (c.ixPut k (some (ixMake x.1 0 0 0 e))).ixPut sk none
        | none => c.ixPut k none
      else c.ixPut k none
    else c.ixMark k (some (ixMake x.1 (tagFolded tag) 0 0 m))

/-- The removal of one index change. -/
def ixAbort (c : Chip) (s : Nat) (x : Nat × Nat) : Chip :=
  let k := ixKey x.1 x.2
  match c.ixAt k with
  | none => c
  | some m =>
    let tag := tagOf (ixBits x.1) m
    if madeBy s tag then c.ixPut k none
    else
      let c1 := if ebit (ixSh x.1) m = 1 then c.ixPut (ixShKey x.1 (ebit (ixShIdx x.1) m)) none else c
      c1.ixMark k (some (ixMake x.1 (tagKept tag) 0 0 m))

/-- Locations that a tag rule frees are renewed: a repair of one ends (R341). -/
def dropGone (c : Chip) (f : Nat → Option Nat) : Chip :=
  let c1 := (c.tbl.em.filter (fun x => (f (tagOf 128 x.2.toNat)).isNone)).foldl (fun c x =>
    { c.renewed 2 x.1 with tbl.emHit := mdel c.tbl.emHit x.1 }) c
  let gone := fun (m : NMap (Option Pfx)) => m.filter (fun x => match x.2 with
    | some p => (f p.tag).isNone
    | none => false)
  let c2 := (gone c1.tbl.lpm4).foldl (fun c x => c.renewed 0 x.1) c1
  let c3 := (gone c2.tbl.lpm6).foldl (fun c x => c.renewed 1 x.1) c2
  (c3.tbl.rules.filter (fun x => match x.2 with
    | some e => (f (tagOf 1088 e.toNat)).isNone
    | none => false)).foldl (fun c x => c.renewedRow x.1) c3

/-- How many writes the end of slot s takes: one for each version created and each retired; a modify of an index entry takes one to fold
its shadow in a sweep, and two in the removal of an aborted transaction. -/
def changesOf (c : Chip) (s : Nat) (abort : Bool) : Nat :=
  let by_ := fun (t : Nat) => b2n (madeBy s t) + b2n (retiredBy s t)
  c.tbl.em.foldl (fun n x => if emType x.2.toNat = 5 then n else n + by_ (tagOf 128 x.2.toNat)) 0
    + (c.tbl.lpm4 ++ c.tbl.lpm6).foldl (fun n x => match x.2 with
      | some p => n + by_ p.tag
      | none => n) 0
    + (c.ixChanged s).foldl (fun n x => n + if abort && ebit (ixSh x.1) ((c.ixAt (ixKey x.1 x.2)).getD 0) = 1 then 2 else 1) 0
    + c.tbl.rules.foldl (fun n x => match x.2 with
      | some e => n + by_ (tagOf 1088 e.toNat)
      | none => n) 0

/-- Apply a rule to every keyed entry and rule row, and another to the index entries that slot s changed. -/
def endSlot (c : Chip) (s : Nat) (abort : Bool) (f : Nat → Option Nat) (ix : Chip → Nat × Nat → Chip) : Chip :=
  let c0 := ((c.emKeys f).map (tableLoc 2 0) ++ (c.lpmKeys false f).map (tableLoc 0 0) ++ (c.lpmKeys true f).map (tableLoc 1 0)
    ++ (c.rowKeys f).map (fun r => (⟨4, 0, r⟩ : Loc))).foldl backWrite (c.useSlots (c.changesOf s abort))
  let c1 := (((c0.dropGone f).noteEm (c.emKeys f)).noteLpm false (c.lpmKeys false f)).noteLpm true (c.lpmKeys true f)
  let c2 := { c1 with tbl.em := retagEm f c1.tbl.em, tbl.lpm4 := retagPfx f c1.tbl.lpm4,
                      tbl.lpm6 := retagPfx f c1.tbl.lpm6, tbl.rules := retagMap f 1088 c1.tbl.rules }
  (c2.ixChanged s).foldl ix c2

/-- The sweep of a committed slot (R155). -/
def sweep (c : Chip) (s : Nat) : Chip := c.endSlot s false (sweepTag s) (fun c x => c.ixSweep s x)

/-- The removal of an aborted transaction (R145, R155). -/
def removeSlot (c : Chip) (s : Nat) : Chip := c.endSlot s true (abortTag s) (fun c x => c.ixAbort s x)

end Chip

end Sys2Proof.Machine
end

