-- ==== Sys2Proof/Machine/TetLink.lean ====
section
/-!
DEFINITION. The sending side of the Tether link (R398 to R402).
-/

namespace Sys2Proof.Machine

/-- Roles (R399). -/
def roleNone : Nat := 0
def roleActive : Nat := 1
def roleStandby : Nat := 2
def roleSyncing : Nat := 3

/-- Message types (R399). -/
def tetHeartbeat : Nat := 1
def tetUpdate : Nat := 2
def tetAck : Nat := 3
def tetSwapReq : Nat := 4
def tetSwapGo : Nat := 5
def tetSwapDone : Nat := 6
def tetResync : Nat := 7

/-- The bytes of an update descriptor (R380). -/
def descBytes (d : Desc) : List Byte :=
  leBytes 8 d.seq.toNat ++ [d.op, BitVec.ofNat 8 d.slot.val, BitVec.ofNat 8 d.table.val, 0] ++ leBytes 4 d.index.toNat
    ++ leBytes 8 d.addr.toNat ++ leBytes 4 d.len.toNat ++ leBytes 4 0 ++ leBytes 32 d.data.toNat

/-- An OP that R380 lists. -/
def opListed (op : Nat) : Bool := decide (op ≤ 6) || op == 0x10

/-- The descriptor that 64 bytes spell (R380). -/
def descBack (l : List Byte) : Desc :=
  ⟨BitVec.ofNat 64 (leNat (slice l 0 8)), BitVec.ofNat 8 (byteAt l 8), Fin.ofNat 256 (byteAt l 9),
    Fin.ofNat 16 (byteAt l 10 % 16), BitVec.ofNat 32 (leNat (slice l 12 4)), BitVec.ofNat 64 (leNat (slice l 16 8)),
    BitVec.ofNat 32 (leNat (slice l 24 4)), BitVec.ofNat 256 (leNat (slice l 32 32)),
    !opListed (byteAt l 8) || decide (16 ≤ byteAt l 10) || byteAt l 11 != 0 || leNat (slice l 28 4) != 0⟩

/-- A record of an UPDATE (R399): descriptor, parcel, ring. -/
def updateRecord (d : Desc) (p r : Nat) : List Byte :=
  descBytes d ++ [BitVec.ofNat 8 p, BitVec.ofNat 8 r] ++ leBytes 6 0

namespace Chip

/-- Own role. -/
def role (c : Chip) : Nat := c.fld Reg.TET_STATUS Fd.TET_STATUS_ROLE

/-- Own role generation. -/
def roleGen (c : Chip) : Nat := c.fld Reg.TET_STATUS Fd.TET_STATUS_GEN

/-- The partner is heard. -/
def partner (c : Chip) : Bool := c.on Reg.TET_STATUS Fd.TET_STATUS_PARTNER

/-- The engine forwards nothing and serves no ring: standby, syncing, or lost its partner while syncing (R401). -/
def standby (c : Chip) : Bool := c.role == roleStandby || c.role == roleSyncing || c.tet.dead

/-- Send a Tether message of a type (R399); a quench silences the lanes (R331). -/
def sendTet (c : Chip) (kind gen tseq : Nat) (body : List Byte) : Chip :=
  if c.on Reg.TET_CTRL Fd.TET_CTRL_EN && !c.on Reg.FLT_STATUS Fd.FLT_STATUS_QUENCH then
    (c.emit (.tether kind gen c.role c.pins.slotId tseq body)).bump (Reg.TET_CNT 0) 1
  else c

/-- Send a numbered message and keep it until it is acknowledged (R402). -/
def sendNumbered (c : Chip) (kind : Nat) (body : List Byte) : Chip :=
  let q := c.tet.sent + 1
  let c1 := { c with tet.sent := q, tet.unacked := c.tet.unacked ++ [(q, kind, body)],
                     tet.progressAt := if c.tet.unacked.isEmpty then c.now else c.tet.progressAt }
  c1.sendTet kind c1.roleGen q body

/-- The active engine of a pair copies its updates to the partner. -/
def mirrors (c : Chip) : Bool := c.role == roleActive && c.partner && c.on Reg.TET_CTRL Fd.TET_CTRL_EN

/-- Copy an accepted descriptor or learn change to the partner; the TSEQ it travels under, or 0 (R402). -/
def mirror (c : Chip) (d : Desc) (p r : Nat) : Chip × Nat :=
  if c.mirrors then (c.sendNumbered tetUpdate (updateRecord d p r), c.tet.sent + 1) else (c, 0)

/-- Take a role under a generation, and post the event of the change (R400, R404). -/
def setRole (c : Chip) (r g : Nat) : Chip :=
  let c1 := (c.setF Reg.TET_STATUS Fd.TET_STATUS_ROLE r).setF Reg.TET_STATUS Fd.TET_STATUS_GEN g
  c1.event 0x0C 0 0x08 none ([BitVec.ofNat 8 r, BitVec.ofNat 8 (c.fld Reg.TET_STATUS Fd.TET_STATUS_PARTNER_ROLE), 0, 0] ++ leBytes 2 g)

end Chip

end Sys2Proof.Machine
end

