-- ==== Sys2Proof/Machine/Updates.lean ====
section
/-!
DEFINITION. Update rings and transactions (R142 to R149, R153, R380 to R383), and what a WRITE or DELETE is checked for (R147,
R388).
-/

namespace Sys2Proof.Machine

/-! Completion codes of R382 beside those of R147. -/

def cBadDesc : Nat := 0x0C
def cSeqGap : Nat := 0x0D
def cStaleSeq : Nat := 0x0E
def cPatchRefused : Nat := 0x0F
def cNotPermitted : Nat := 0x10
def cStandby : Nat := 0x11

/-- Kinds of a parcel's index ranges (R388). -/
def rVrf : Nat := 0
def rNh : Nat := 1
def rMember : Nat := 2
def rGroup : Nat := 3
def rRewrite : Nat := 4
def rRule : Nat := 5
def rQueue : Nat := 6
def rPolicer : Nat := 7

namespace Chip

/-! Parcels' ranges and quotas (R388, R389). -/

/-- Index i lies in range k of parcel p, as in force. -/
def inRange (c : Chip) (p k i : Nat) : Bool :=
  let b := c.act (Reg.PAR_RANGE_BASE p k) Fd.PAR_RANGE_BASE_BASE
  decide (b ≤ i) && decide (i < b + c.act (Reg.PAR_RANGE_CNT p k) Fd.PAR_RANGE_CNT_COUNT)

/-- The parcel whose range of kind k holds index i; parcel 0 where no other's does (R396). -/
def ownerOfIndex (c : Chip) (k i : Nat) : Nat := (((List.range 64).drop 1).find? (fun p => c.inRange p k i)).getD 0

/-- The parcel of a port. -/
def portParcel (c : Chip) (n : Nat) : Nat := c.act (Reg.PRS_PORT_CFG 0 n) Fd.PRS_PORT_CFG_PARCEL

/-- The parcel of an exact-match entry, of which an IPv6 host's second way takes the first's. -/
def emOwner (c : Chip) (e : Nat) : Nat :=
  match emType e with
  | 1 => c.ownerOfIndex rVrf (bitsOf e 83 70)
  | 2 => c.portParcel (bitsOf e 43 36)
  | 3 => c.ownerOfIndex rVrf (bitsOf e 103 90)
  | 4 => c.ownerOfIndex rVrf (bitsOf e 103 90)
  | _ => 0

/-- Keyed entries that a parcel owns, every version in use counted: exact-match entries, prefixes and rules (R161, R162, R183). -/
def keyedUsed (c : Chip) (p : Nat) : Nat :=
  c.tbl.em.foldl (fun n x =>
      let e := x.2.toNat
      if emType e = 5 ∨ x.1 / 32768 = c.emIdle then n
      else if c.emOwner e = p then n + (if emType e = 4 then 2 else 1) else n) 0
    + c.tbl.lpm4.foldl (fun n x => match x.2 with
      | some q => if c.ownerOfIndex rVrf q.vrf = p then n + 1 else n
      | none => n) 0
    + c.tbl.lpm6.foldl (fun n x => match x.2 with
      | some q => if c.ownerOfIndex rVrf q.vrf = p then n + lpmWeight true q else n
      | none => n) 0
    + (c.tbl.rules.filter (fun x => x.2.isSome && c.ownerOfIndex rRule (x.1 / 2) == p)).length

/-- A keyed create of parcel p is refused (R388). -/
def quotaFull (c : Chip) (p : Nat) : Bool := p != 0 && decide (c.act (Reg.PAR_QUOTA p) Fd.PAR_QUOTA_KEYED ≤ c.keyedUsed p)

/-! A change of one entry. -/

/-- What a descriptor names: a keyed entry, a prefix, an index entry or a rule. -/
inductive Target where
  | key (k : List Nat)
  | pfx (v6 : Bool) (p : Pfx)
  | ix (t i : Nat) (e : Nat)
  | rule (a : Nat) (e : Nat)
  deriving DecidableEq, Repr

/-- Exact-match type of a table code (R163, R175). -/
def emTypeOf (code : Nat) : Nat := [0, 0, 1, 2, 3, 4].getD code 0

/-- An entry with its TYPE forced. -/
def emTyped (t e : Nat) : Nat := e % 2 ^ 106 + t * 2 ^ 106

/-- The prefix in DATA (R381). -/
def pfxOf (v6 : Bool) (data : Nat) : Pfx :=
  let w := if v6 then 128 else 32
  let len := bitsOf data 241 234
  let a := data / 2 ^ (234 - w) % 2 ^ w
  ⟨0, bitsOf data 255 242, if len ≤ w then lpmMask v6 len a else a, len, data / 2 ^ (234 - w - 20) % 2 ^ 20⟩

/-- DATA of a prefix (R381). -/
def pfxData (v6 : Bool) (p : Pfx) : Nat :=
  let w := if v6 then 128 else 32
  p.vrf * 2 ^ 242 + p.len * 2 ^ 234 + p.addr * 2 ^ (234 - w) + p.nhi * 2 ^ (234 - w - 20)

/-- What a WRITE or DELETE names; none for a reserved TABLE. A DELETE of an exact-match key takes TYPE 0 for its table's. -/
def targetOf (d : Desc) (row : List Byte) (del : Bool) : Option Target :=
  let data := d.data.toNat
  let ty := fun (t e : Nat) => if del && emType e == 0 then emTyped t e else e % 2 ^ 128
  match d.table.val with
  | 0 => some (.pfx false (pfxOf false data))
  | 1 => some (.pfx true (pfxOf true data))
  | 5 => some (.key [ty 4 (data / 2 ^ 128), ty 5 (data % 2 ^ 128)])
  | 8 => some (.ix 0 d.index.toNat data)
  | 9 => some (.ix 1 d.index.toNat data)
  | 10 => some (.ix 2 d.index.toNat data)
  | 11 => some (.ix 3 d.index.toNat data)
  | 12 => some (.rule d.index.toNat (leNat (slice row 0 136)))
  | n => if n = 2 ∨ n = 3 ∨ n = 4 then some (.key [ty (emTypeOf n) (data % 2 ^ 128)]) else none

/-- A common action holds a reserved encoding (R186), its reserved bits among them. -/
def actionBad (a : Nat) : Bool :=
  (bitsOf a 63 62 == 1 && bitsOf a 61 42 == 0) || bitsOf a 18 17 == 3 || bitsOf a 6 0 != 0

/-- A rule's action word holds a reserved encoding (R186), its reserved bits among them. -/
def rowBad (w : Nat) : Bool := decide (4 ≤ bitsOf w 25 23) || bitsOf w 9 0 != 0 || actionBad (bitsOf w 108 45)

/-- A field that the layout of an exact-match entry holds at 0 is not 0 (R163). -/
def emBad (e : Nat) : Bool :=
  let low := match emType e with
    | 1 => bitsOf e 49 0
    | 2 => bitsOf e 15 0
    | 3 => bitsOf e 37 0
    | 4 => bitsOf e 25 0
    | _ => bitsOf e 19 0
  bitOf e 104 || low != 0

/-- A reserved encoding in an entry of index table t (R171, R205). -/
def ixBad (t e : Nat) : Bool :=
  match t with
  | 0 => bitsOf e 30 0 != 0
  | 1 => bitsOf e 8 0 != 0
  | 2 => decide (4096 < bitsOf e 25 13)
  | _ => match bitsOf e 237 236 with
    | 0 => bitsOf e 69 0 != 0
    | 1 => bitsOf e 235 224 != 0
    | _ => true

/-- BAD_ENTRY for any parcel (R147): reserved encodings, an INDEX beyond the table, next-hop index 0. DEDUCED (log 54): a
nonzero value in a field that the layout gives as 0 or as reserved is a reserved encoding. -/
def entryBad (code : Nat) (del : Bool) : Target → Bool
  | .key k => match k with
    | [a] => emType a != emTypeOf code || (!del && emBad a)
    | [a, b] => emType a != 4 || emType b != 5 || (!del && (emBad a || emBad b))
    | _ => true
  | .pfx v6 p => decide (lpmWidth v6 < p.len)
  | .ix t i e => decide (ixSize t ≤ i) || (t == 0 && i == 0) || (!del && ixBad t e)
  | .rule a e => decide (32768 ≤ a) || (!del && rowBad (e / 2 ^ 960))

/-- R388 for a parcel other than 0: QUOTA for an INDEX outside its range, BAD_ENTRY for a key or a field outside. -/
def rangeCode (c : Chip) (p : Nat) (del : Bool) : Target → Nat
  | .key k =>
    let a := k.headD 0
    let b := k.getLastD 0
    let nhi := match emType a with
      | 1 => bitsOf a 69 50
      | 2 => bitsOf a 35 16
      | 3 => bitsOf a 57 38
      | _ => bitsOf b 39 20
    let keyOk := match emType a with
      | 1 => c.inRange p rVrf (bitsOf a 83 70)
      | 2 => del || c.portParcel (bitsOf a 43 36) == p
      | _ => c.inRange p rVrf (bitsOf a 103 90)
    if keyOk && (del || c.inRange p rNh nhi) then cOk else cBadEntry
  | .pfx _ q => if c.inRange p rVrf q.vrf && (del || c.inRange p rNh q.nhi) then cOk else cBadEntry
  | .ix t i e =>
    if !c.inRange p (rNh + t) i then cQuota
    else if del then cOk
    else
      let ok := match t with
        | 0 => match bitsOf e 109 108 with
          | 0 => c.inRange p rQueue (bitsOf e 106 90) && c.inRange p rRewrite (bitsOf e 89 71)
          | 3 => true
          | _ => c.inRange p rGroup (bitsOf e 70 55)
        | 1 => c.inRange p rNh (bitsOf e 45 26)
        | 2 => bitsOf e 25 13 == 0 || (c.inRange p rMember (bitsOf e 45 26)
            && c.inRange p rMember (bitsOf e 45 26 + bitsOf e 25 13 - 1))
        | _ => bitsOf e 205 203 == 0 || bitsOf e 237 236 == 1 || (c.inRange p rRewrite (bitsOf e 224 206)
            && c.inRange p rRewrite (bitsOf e 224 206 + bitsOf e 205 203 - 1))
      if ok then cOk else cBadEntry
  | .rule a e =>
    let act := bitsOf (e / 2 ^ 960) 108 45
    if !c.inRange p rRule a then cQuota
    else if del || ((bitsOf act 63 62 != 1 || c.inRange p rNh (bitsOf act 61 42))
        && (!bitOf act 41 || c.inRange p rQueue (bitsOf act 40 24))) then cOk
    else cBadEntry

/-- A version of the target's key or address is in use or pending in slot s, so that a WRITE creates none. -/
def targetHeld (c : Chip) (s : Nat) : Target → Bool
  | .key k => (c.emVersions (c.emPhys (emLogical k)) k).any (fun l => madeBy s (c.emTagAt l) || c.live s (c.emTagAt l))
  | .pfx v6 p => (c.lpmVersions v6 p).any (fun v => madeBy s v.2 || c.live s v.2)
  | .ix _ _ _ => true
  | .rule a _ => (c.rowVersions a).any (fun v => madeBy s v.2 || !retiredBy s v.2)

/-- A MAC entry in use belongs to another parcel's port: its DELETE is outside the parcel (R388). -/
def foreignMac (c : Chip) (p : Nat) : Target → Bool
  | .key k => emType (k.headD 0) == 2 && (c.emVersions (c.emPhys (emLogical k)) k).any (fun l =>
      c.visible (c.emTagAt l) c.epoch && c.emOwner (c.emAt l) != p)
  | _ => false

/-- Make a change in slot s for parcel p: the chip and a code of R147. The stores are unchanged by a refusal. -/
def change (c : Chip) (s p code : Nat) (del : Bool) (t : Target) : Chip × Nat :=
  if entryBad code del t then (c, cBadEntry)
  else
    let rc := if p = 0 then cOk else if c.foreignMac p t then cBadEntry else c.rangeCode p del t
    if rc ≠ cOk then (c, rc)
    else if del then
      match t with
      | .key k => c.emDelete s k
      | .pfx v6 q => c.lpmDelete s v6 q
      | .ix t i _ => c.ixDelete s t i
      | .rule a _ => c.ruleDelete s a
    else if !c.targetHeld s t && c.quotaFull p then (c, cQuota)
    else
      match t with
      | .key k => c.emWrite s k
      | .pfx v6 q => c.lpmWrite s v6 q
      | .ix t i e => c.ixWrite s t i e
      | .rule a e => c.ruleWrite s a e

/-- The counter of a refused change (R177). -/
def refuseCount (code : Nat) : Nat := if code = cConflict then 4 else if code = cInsertFail then 3 else 5

/-- The insertion-failure event (R167). -/
def insertEvent (c : Chip) (k : List Nat) (table s : Nat) : Chip :=
  c.event 0x05 0 0x3E none [BitVec.ofNat 8 (emLogical k), BitVec.ofNat 8 table, BitVec.ofNat 8 s]

/-- A refused change is counted, and an insertion failure reported (R147, R167). -/
def refused (c : Chip) (code table s : Nat) (t : Target) : Chip :=
  let c1 := c.bump (Reg.UPD_CNT (refuseCount code)) 1
  if code = cInsertFail then
    match t with
    | .key k => c1.insertEvent k table s
    | _ => c1
  else c1

/-! Rings, sequence numbers and completions (R378, R382, R383). -/

/-- LAST of an update ring. -/
def ringLast (c : Chip) (p r : Nat) : Nat := c.rd (Reg.RING_SEQ_LO p r) + c.rd (Reg.RING_SEQ_HI p r) * 2 ^ 32

/-- Store LAST. -/
def setLast (c : Chip) (p r v : Nat) : Chip :=
  (c.wrN (Reg.RING_SEQ_LO p r) (v % 2 ^ 32)).wrN (Reg.RING_SEQ_HI p r) (v / 2 ^ 32)

/-- The 16 bytes of a completion (R382). -/
def complBytes (x : Compl) (rep : Bool) (phase : Nat) : List Byte :=
  leBytes 8 x.seq ++ [BitVec.ofNat 8 x.op, BitVec.ofNat 8 x.code, BitVec.ofNat 8 x.slot,
    BitVec.ofNat 8 (phase * 128 + b2n rep * 64)] ++ leBytes 4 x.result

/-- Write a completion entry; ring 15 is the learn engine's and takes none, nor does a descriptor that the partner sent. -/
def putCompl (c : Chip) (x : Compl) (rep : Bool) : Chip :=
  if x.ring < 4 && !x.silent then c.ringPut x.parcel (4 + x.ring) 16 (complBytes x rep) else c

/-- Write a completion, or hold it until the standby has acknowledged its descriptor (R402). -/
def post (c : Chip) (x : Compl) (rep : Bool) : Chip :=
  if c.mirrors && c.on Reg.TET_CFG Fd.TET_CFG_SYNC && decide (c.tet.acked < x.tseq) then
    { c.setF Reg.TET_STATUS Fd.TET_STATUS_HELD 1 with tet.held := c.tet.held ++ [x] }
  else c.putCompl x rep

/-- The completions a ring remembers. -/
def ringHist (c : Chip) (p r : Nat) : List Compl := mget (fun _ => []) c.upd.hist (16 * p + r)

/-- Complete an accepted descriptor: remembered among the last 16, and written. -/
def complete (c : Chip) (x : Compl) : Chip :=
  let k := 16 * x.parcel + x.ring
  let c1 := { c with upd.hist := mset (fun _ => []) c.upd.hist k ((x :: c.ringHist x.parcel x.ring).take 16) }
  c1.post x false

/-- A descriptor of the ring has not been completed (R381: ring order). -/
def ringBusy (c : Chip) (p r : Nat) : Bool :=
  let mine := fun (x : Compl) => x.parcel == p && x.ring == r
  c.upd.commits.any mine || c.upd.closing.any (fun w => mine w.compl) || c.upd.aborts.any (fun w => mine w.compl)
    || c.upd.loads.any (fun l => match l.compl with
      | some x => mine x
      | none => false)

/-- The engine takes descriptors from a ring: in use, its parcel ACTIVE, entries posted, updates accepted, no swap running,
and the core that fetches them runs (R407). -/
def ringReady (c : Chip) (p r : Nat) : Bool :=
  c.domOn 114 && c.ringOn p r && c.parcelActive p && c.rd (Reg.RING_HOST p r) != c.rd (Reg.RING_ENG p r)
    && c.on Reg.UPD_CTRL Fd.UPD_CTRL_EN && !c.ringBusy p r && c.tet.swap.isNone && c.coreServes (p / 32)
    && c.pwr.entry.isNone && c.rd Reg.PWR_STATUS % 8 == 0

/-- The engine index advances: the entry is counted, and the interrupt asked for (R379). -/
def ringAdvance (c : Chip) (p r : Nat) : Chip :=
  ((c.wrN (Reg.RING_ENG p r) ((c.rd (Reg.RING_ENG p r) + 1) % 2 ^ 32)).bump (Reg.RING_CNT p r 0) 1).ringIrq p r

/-- Sequence check and application of a descriptor that has been fetched, or that the partner sent (silent) (R383, R402). -/
def applySeq (c : Chip) (silent : Bool) (p r : Nat) (d : Desc) (act : Chip → Compl → Chip) : Chip :=
  let last := c.ringLast p r
  let seq := d.seq.toNat
  let x : Compl := ⟨p, r, seq, d.op.toNat, cOk, d.slot.val, 0, 0, silent⟩
  if seq = last + 1 then
    let m := (c.setLast p r seq).mirror d p r
    let y := { x with tseq := m.2 }
    if d.rsv then m.1.complete { y with code := cBadDesc } else act m.1 y
  else if seq ≤ last then
    let c1 := c.bump (Reg.RING_CNT p r 2) 1
    match (c1.ringHist p r).find? (fun y => y.seq == seq) with
    | some y => c1.post { y with silent := silent } true
    | none => c1.putCompl { x with code := cStaleSeq } false
  else c.putCompl { x with code := cSeqGap } false

/-- A descriptor of an update ring: nothing happens until the ring can be served. -/
def descStep (c : Chip) (p r : Nat) (d : Desc) (act : Chip → Compl → Chip) : Chip :=
  if c.ringReady p r then
    let c1 := c.ringAdvance p r
    if c1.standby then c1.putCompl ⟨p, r, d.seq.toNat, d.op.toNat, cStandby, d.slot.val, 0, 0, false⟩ false
    else c1.applySeq false p r d act
  else c

/-! The descriptors. -/

/-- A slot that software of the parcel may name. -/
def slotOf (c : Chip) (s p : Nat) : Bool := decide (s < 252) && c.fld (Reg.UPD_SLOT s) Fd.UPD_SLOT_PARCEL == p

/-- A CLOSE of the slot is running. -/
def closing (c : Chip) (s : Nat) : Bool := c.upd.closing.any (fun w => w.slot == s)

/-- FREE_SW (R177). -/
def freeSw (c : Chip) : Nat := ((List.range 252).filter (fun s => c.slotState s == sFree)).length

/-- Open, closed and failed slots of a parcel (R388). -/
def slotsUsed (c : Chip) (p : Nat) : Nat :=
  ((List.range 252).filter (fun s => c.slotOf s p
    && (c.slotState s == sOpen || c.slotState s == sClosed || c.slotState s == sFailed))).length

/-- OPEN (R145). -/
def actOpen (c : Chip) (x : Compl) : Chip :=
  if x.parcel ≠ 0 ∧ c.act (Reg.PAR_QUOTA x.parcel) Fd.PAR_QUOTA_SLOTS ≤ c.slotsUsed x.parcel then
    (c.bump (Reg.UPD_CNT 5) 1).complete { x with code := cNoSlot }
  else
    match (List.range 252).find? (fun s => c.slotState s == sFree) with
    | none => (c.bump (Reg.UPD_CNT 5) 1).complete { x with code := cNoSlot }
    | some s =>
      ((c.wrN (Reg.UPD_SLOT s) 0).setF (Reg.UPD_SLOT s) Fd.UPD_SLOT_PARCEL x.parcel).setSlot s sOpen
        |>.complete { x with slot := s, result := s }

/-- The code for a slot that takes no change: FAILED, or not open or not the parcel's (R145, R147). -/
def slotCode (c : Chip) (s p : Nat) : Nat :=
  if !c.slotOf s p then cBadSlot
  else if c.slotState s = sFailed then cFailed
  else if c.slotState s = sOpen && !c.closing s then cOk
  else cBadSlot

/-- WRITE or DELETE (R146 to R148). -/
def actChange (d : Desc) (row : List Byte) (del : Bool) (c : Chip) (x : Compl) : Chip :=
  match targetOf d row del with
  | none => c.complete { x with code := cBadDesc }
  | some t =>
    let sc := c.slotCode x.slot x.parcel
    if sc ≠ cOk then (c.bump (Reg.UPD_CNT 5) 1).complete { x with code := sc }
    else
      let r := c.change x.slot x.parcel d.table.val del t
      if r.2 = cOk then r.1.complete x
      else ((c.refused r.2 d.table.val x.slot t).setSlot x.slot sFailed).complete { x with code := r.2 }

/-- CLOSE (R145, R148). -/
def actClose (c : Chip) (x : Compl) : Chip :=
  let sc := c.slotCode x.slot x.parcel
  if sc ≠ cOk then (c.bump (Reg.UPD_CNT 5) 1).complete { x with code := sc }
  else { c with upd.closing := c.upd.closing ++ [(⟨x.slot, x⟩ : SlotWait)] }

/-- ABORT (R145, R153). -/
def actAbort (c : Chip) (x : Compl) : Chip :=
  let st := c.slotState x.slot
  if !c.slotOf x.slot x.parcel then (c.bump (Reg.UPD_CNT 5) 1).complete { x with code := cBadSlot }
  else if st = sCommitted ∨ st = sSweeping then (c.bump (Reg.UPD_CNT 5) 1).complete { x with code := cCommitted }
  else if st = sOpen ∨ st = sClosed ∨ st = sFailed then
    let c1 := { c with upd.aborts := c.upd.aborts ++ [(⟨x.slot, x⟩ : SlotWait)] }
    if c.closing x.slot then c1 else c1.setSlot x.slot sAborting
  else (c.bump (Reg.UPD_CNT 5) 1).complete { x with code := cBadSlot }

/-- Whether the next flip would find a slot 32,000 or more epochs old: flips are held (R154). -/
def flipHeld (c : Chip) : Bool :=
  (List.range 256).any (fun s => (c.slotState s == sCommitted || c.slotState s == sSweeping)
    && decide (32000 ≤ (c.epoch + 1 + 65536 - c.fld (Reg.UPD_SLOT s) Fd.UPD_SLOT_EPOCH) % 65536))

/-- A flip is requested; a request during a hold is counted (R149, R154). -/
def askFlip (c : Chip) : Chip := if c.flipHeld then c.bump (Reg.UPD_CNT 6) 1 else c

/-- COMMIT (R149). -/
def actCommit (c : Chip) (x : Compl) : Chip := { c.askFlip with upd.commits := c.upd.commits ++ [x] }

/-- Learn tick or rehash asks for a flip. -/
def requestFlip (c : Chip) : Chip := { c.askFlip with upd.flipReq := true }

/-- OPEN. -/
def opOpenSlot (p r : Nat) (d : Desc) (c : Chip) : Chip := c.descStep p r d actOpen

/-- WRITE. -/
def opWrite (p r : Nat) (d : Desc) (row : List Byte) (c : Chip) : Chip := c.descStep p r d (actChange d row false)

/-- DELETE. -/
def opDelete (p r : Nat) (d : Desc) (c : Chip) : Chip := c.descStep p r d (actChange d [] true)

/-- CLOSE. -/
def opClose (p r : Nat) (d : Desc) (c : Chip) : Chip := c.descStep p r d actClose

/-- ABORT. -/
def opAbort (p r : Nat) (d : Desc) (c : Chip) : Chip := c.descStep p r d actAbort

/-- COMMIT. -/
def opCommit (p r : Nat) (d : Desc) (c : Chip) : Chip := c.descStep p r d actCommit

/-- NOP (R380). -/
def opNop (p r : Nat) (d : Desc) (c : Chip) : Chip := c.descStep p r d complete

end Chip

/-! The meanings. -/

/-- OPEN. -/
def execOpenSlot (parcel : Fin 64) (ring : Fin 4) (d : Desc) (s : State) : Host.Outcome State Fault Refusal :=
  runChip s (Chip.opOpenSlot parcel.val ring.val d)

/-- WRITE. -/
def execWrite (parcel : Fin 64) (ring : Fin 4) (d : Desc) (row : List Byte) (s : State) : Host.Outcome State Fault Refusal :=
  runChip s (Chip.opWrite parcel.val ring.val d row)

/-- DELETE. -/
def execDelete (parcel : Fin 64) (ring : Fin 4) (d : Desc) (s : State) : Host.Outcome State Fault Refusal :=
  runChip s (Chip.opDelete parcel.val ring.val d)

/-- CLOSE. -/
def execClose (parcel : Fin 64) (ring : Fin 4) (d : Desc) (s : State) : Host.Outcome State Fault Refusal :=
  runChip s (Chip.opClose parcel.val ring.val d)

/-- ABORT. -/
def execAbort (parcel : Fin 64) (ring : Fin 4) (d : Desc) (s : State) : Host.Outcome State Fault Refusal :=
  runChip s (Chip.opAbort parcel.val ring.val d)

/-- COMMIT. -/
def execCommit (parcel : Fin 64) (ring : Fin 4) (d : Desc) (s : State) : Host.Outcome State Fault Refusal :=
  runChip s (Chip.opCommit parcel.val ring.val d)

/-- NOP. -/
def execNop (parcel : Fin 64) (ring : Fin 4) (d : Desc) (s : State) : Host.Outcome State Fault Refusal :=
  runChip s (Chip.opNop parcel.val ring.val d)

end Sys2Proof.Machine
end

