-- ==== Sys2Proof/Machine/Image.lean ====
section
/-!
DEFINITION. Images and patches (R92 to R96), microcode sections (R139, R217) and pattern sets (R193): what is checked and what
a load writes.
-/

namespace Sys2Proof.Machine

/-- How an image is read: n bytes from an offset. -/
abbrev ImgR := Nat → Nat → List Byte

/-- A little-endian integer of an image. -/
def imgU (R : ImgR) (o n : Nat) : Nat := leNat (R o n)

/-- A section-table entry (R93). -/
structure Sect where
  typ : Nat
  target : Nat
  off : Nat
  len : Nat
  rsv : Nat
  deriving DecidableEq, Repr

def imgFormat (R : ImgR) : Nat := imgU R 0x004 2
def imgKey (R : ImgR) : Nat := imgU R 0x00B 1
def imgSvn (R : ImgR) : Nat := imgU R 0x00C 4
def imgLen (R : ImgR) : Nat := imgU R 0x010 4
def imgSects (R : ImgR) : Nat := imgU R 0x014 2
def imgHbm (R : ImgR) : Nat := imgU R 0x016 1
def imgXspi (R : ImgR) : Nat := imgU R 0x017 1

/-- Section-table entry i. -/
def sectAt (R : ImgR) (i : Nat) : Sect :=
  let o := 0x090 + 16 * i
  ⟨imgU R o 2, imgU R (o + 2) 2, imgU R (o + 4) 4, imgU R (o + 8) 4, imgU R (o + 12) 4⟩

/-- The sections of an image, in table order. -/
def sections (R : ImgR) : List Sect := (List.range (min (imgSects R) 40)).map (sectAt R)

/-- The content of a section. -/
def sectBytes (R : ImgR) (x : Sect) : List Byte := R x.off x.len

/-- Section types (R94). -/
def stEarly : Nat := 0x0001
def stConfig : Nat := 0x0002
def stParser : Nat := 0x0010
def stRewrite : Nat := 0x0011
def stPattern : Nat := 0x0020
def stTables : Nat := 0x0030
def stCore : Nat := 0x0040
def stSafety : Nat := 0x0041
def stInfo : Nat := 0x00F0

/-- Greatest length that R94 gives a type; rewrite microcode is held to its own by R217. -/
def sectMax (t : Nat) : Nat :=
  if t = stEarly then 65536 else if t = stParser then 131072 else if t = stPattern then 16777216
  else if t = stCore then 4194304 else if t = stSafety then 524288 else 0x10000000

/-- Types whose TARGET names units. -/
def sectTargeted (t : Nat) : Bool := t == stParser || t == stRewrite || t == stPattern || t == stCore

/-- One entry is well formed (R93, R94). -/
def sectOk (R : ImgR) (types : List Nat) (x : Sect) : Bool :=
  types.contains x.typ && x.rsv == 0 && (sectTargeted x.typ || x.target == 0) && x.off % 256 == 0
    && decide (0x400 ≤ x.off) && decide (0 < x.len) && decide (x.len ≤ sectMax x.typ) && decide (x.off + x.len ≤ imgLen R)

/-- The entries ascend and do not overlap (R93). -/
def sectsOrdered : List Sect → Bool
  | x :: y :: l => decide (x.off + x.len ≤ y.off) && sectsOrdered (y :: l)
  | _ => true

/-- Entries from index SECTIONS onward are all zero (R93). -/
def sectsTail (R : ImgR) : Bool :=
  (List.range 40).all (fun i => decide (i < imgSects R) || decide (sectAt R i = ⟨0, 0, 0, 0, 0⟩))

/-- The section table of a boot image (R93, R94). -/
def bootTableOk (R : ImgR) : Bool :=
  let l := sections R
  let n := fun (t : Nat) => (l.filter (fun x => x.typ == t)).length
  l.all (sectOk R [stEarly, stConfig, stParser, stRewrite, stPattern, stTables, stCore, stSafety, stInfo])
    && sectsOrdered l && sectsTail R && (match l with
      | x :: _ => x.typ == stEarly && x.off == 0x400
      | [] => false)
    && n stEarly == 1 && decide (n stConfig ≤ 8)

/-- The section table of a patch: microcode sections only, or pattern sections only (R139, R194). -/
def patchTableOk (R : ImgR) : Bool :=
  let l := sections R
  (l.all (sectOk R [stParser, stRewrite]) || l.all (sectOk R [stPattern])) && sectsOrdered l && sectsTail R

/-- Refusal code 0x02, with the FORMAT that is accepted (R92, R96). -/
def headerOk (R : ImgR) (format : Nat) : Bool :=
  imgFormat R == format && imgU R 0x006 2 == 0x400 && decide (imgSvn R ≤ 64)
    && imgLen R % 256 == 0 && decide (0x400 ≤ imgLen R) && decide (imgLen R ≤ 0x10000000)
    && decide (1 ≤ imgSects R) && decide (imgSects R ≤ 40)
    && (imgHbm R == 0 || imgHbm R == 0x0C || imgHbm R == 0x18)
    && (imgXspi R == 0 || (decide (25 ≤ imgXspi R % 128) && decide (imgXspi R % 128 ≤ 100)))

/-- The first code whose check fails; 0 when none does. -/
def firstFail : List (Nat × Bool) → Nat
  | [] => 0
  | (code, ok) :: l => if ok then firstFail l else code

/-- Where the body begins: the end of the early section rounded up to 256 (R92). -/
def bodyStart (R : ImgR) : Nat := ceilDiv ((sectAt R 0).off + (sectAt R 0).len) 256 * 256

/-- A digest field of the header equals the digest of bytes. -/
def digestOk (R : ImgR) (o : Nat) (l : List Byte) : Bool := decide (Config.sha384 l = BitVec.ofNat 384 (beNat (R o 48)))

/-- The body matches BODY_DIGEST (R92). -/
def bodyOk (R : ImgR) (start : Nat) : Bool := digestOk R 0x060 (R start (imgLen R - start))

/-- A control-core or safety-core image's digest. -/
def fwDigest (R : ImgR) (x : Sect) : BitVec 384 := Config.sha384 (sectBytes R x)

/-! Microcode records (R139). -/

/-- A record: space, first index and entries. -/
structure UcRec where
  space : Nat
  first : Nat
  entries : List Nat
  deriving DecidableEq, Repr

/-- Bytes of an entry, and entries, of a space; rewrite sections have only the control store and the version (R217). -/
def ucSpace (rewrite : Bool) (sp : Nat) : Option (Nat × Nat) :=
  if sp = 1 then some (32, if rewrite then 2048 else 4096)
  else if sp = 4 then some (4, 1)
  else if rewrite then none
  else if sp = 2 then some (8, 256)
  else if sp = 3 then some (4, 64)
  else none

/-- n entries of w bytes. -/
def ucEntries (w : Nat) : Nat → List Byte → List Nat
  | 0, _ => []
  | n + 1, l => leNat (l.take w) :: ucEntries w n (l.drop w)

/-- The records of a section; none refuses it with 0x0E. -/
def ucRecords (rewrite : Bool) : Nat → List Byte → Option (List UcRec)
  | _, [] => some []
  | 0, _ => none
  | fuel + 1, l =>
    let sp := byteAt l 0
    let first := byteAt l 2 + 256 * byteAt l 3
    let n := byteAt l 4 + 256 * byteAt l 5
    if l.length < 8 ∨ byteAt l 1 ≠ 0 ∨ byteAt l 6 ≠ 0 ∨ byteAt l 7 ≠ 0 then none
    else
      match ucSpace rewrite sp with
      | none => none
      | some (w, size) =>
        if size < first + n ∨ l.length < 8 + w * n then none
        else
          match ucRecords rewrite fuel (l.drop (8 + w * n)) with
          | none => none
          | some rest => some (⟨sp, first, ucEntries w n (l.drop 8)⟩ :: rest)

/-- All records of the sections of a type, in table order; none when one is refused, or has the wrong TARGET or length. -/
def ucSections (R : ImgR) (t : Nat) : Option (List UcRec) :=
  ((sections R).filter (fun x => x.typ == t)).foldl (fun acc x =>
    match acc with
    | none => none
    | some l =>
      if x.target ≠ 0x01FF ∨ (t = stRewrite ∧ 65536 < x.len) then none
      else
        match ucRecords (t == stRewrite) x.len (sectBytes R x) with
        | none => none
        | some r => some (l ++ r)) (some [])

/-- A microcode word that no load has written: EMPTY (R139). -/
def ucEmpty (_ : Nat) : Option (BitVec 256) := none

def dispZero (_ : Nat) : BitVec 64 := 0
def tmapZero (_ : Nat) : BitVec 32 := 0

/-- VERSION of a set of records, the last version record standing; 0 where there is none. -/
def ucVersion (l : List UcRec) : Nat := l.foldl (fun v r => if r.space = 4 then r.entries.headD 0 else v) 0

namespace Chip

/-- Do something to every slice. -/
def eachSlice (c : Chip) (f : Chip → Nat → Chip) : Chip := (List.range 9).foldl f c

/-- A load renews the words of a bank: their errors and repairs are gone (R140, R341), and the bank is written to its backing copies as
one write (R292, log 131). -/
def renewBank (c : Chip) (rewrite : Bool) (b : Nat) : Chip :=
  (c.renewLocs true (fun l => (if rewrite then l.space == 3 else decide (l.space < 3)) && l.index / 4096 == b)).backWrite
    ⟨if rewrite then 3 else 0, 0, 4096 * b⟩

/-- Drop the entries of bank b of a map whose banks hold n entries. -/
def dropBank {α : Type} (m : NMap α) (n b : Nat) : NMap α := m.filter (fun x => x.1 / n != b)

/-- Every word of a parser bank EMPTY, every entry zero. -/
def clearParser (c : Chip) (b : Nat) : Chip :=
  { c.renewBank false b with tbl.prsCs := dropBank c.tbl.prsCs 4096 b, tbl.prsDisp := dropBank c.tbl.prsDisp 256 b,
                             tbl.prsTmap := dropBank c.tbl.prsTmap 64 b }

/-- Every word of a rewrite bank EMPTY. -/
def clearRewrite (c : Chip) (b : Nat) : Chip :=
  { c.renewBank true b with tbl.rwrCs := dropBank c.tbl.rwrCs 2048 b }

/-- Write one entry of a parser bank. -/
def putParser (b sp : Nat) (c : Chip) (x : Nat × Nat) : Chip :=
  if sp = 1 then { c with tbl.prsCs := mset ucEmpty c.tbl.prsCs (4096 * b + x.1) (some (BitVec.ofNat 256 x.2)) }
  else if sp = 2 then { c with tbl.prsDisp := mset dispZero c.tbl.prsDisp (256 * b + x.1) (BitVec.ofNat 64 x.2) }
  else if sp = 3 then { c with tbl.prsTmap := mset tmapZero c.tbl.prsTmap (64 * b + x.1) (BitVec.ofNat 32 x.2) }
  else c

/-- Write one word of a rewrite bank. -/
def putRewrite (b sp : Nat) (c : Chip) (x : Nat × Nat) : Chip :=
  if sp = 1 then { c with tbl.rwrCs := mset ucEmpty c.tbl.rwrCs (2048 * b + x.1) (some (BitVec.ofNat 256 x.2)) } else c

/-- Load records into a bank in all nine slices. -/
def loadBank (c : Chip) (rewrite : Bool) (b : Nat) (l : List UcRec) : Chip :=
  l.foldl (fun c r =>
      (r.entries.mapIdx (fun i v => (r.first + i, v))).foldl
        (if rewrite then putRewrite b r.space else putParser b r.space) c)
    (if rewrite then c.clearRewrite b else c.clearParser b)

/-- A bank of the parsers holds a complete load, or does not. -/
def prsValid (c : Chip) (b v : Nat) : Chip := c.eachSlice (fun c s => c.setF (Reg.PRS_STATUS s) ⟨6 + b, 1⟩ v)

/-- A bank of the rewrite engines holds a complete load, or does not. -/
def rwrValid (c : Chip) (b v : Nat) : Chip := c.eachSlice (fun c s => c.setF (Reg.RWR_STATUS s) ⟨6 + b, 1⟩ v)

end Chip

/-! Pattern sets (R193). -/

/-- A pattern set: version, wide, rules and automaton. -/
structure PatSet where
  version : Nat
  wide : Bool
  rules : List Byte
  aut : List Byte
  deriving DecidableEq, Repr

/-- The set in a section; none is a load error (0x0E). -/
def patSet (l : List Byte) : Option PatSet :=
  let autLen := leNat (slice l 8 4)
  let wide := bitOf (byteAt l 6) 0
  if l.length < 64 + 262144 + autLen ∨ 16384 < leNat (slice l 4 2) ∨ 2 ≤ byteAt l 6 ∨ byteAt l 7 ≠ 0
      ∨ (slice l 12 52).any (· != 0) ∨ (if wide then 16777216 else 8388608) < autLen then none
  else some ⟨leNat (slice l 0 4), wide, slice l 64 262144, slice l (64 + 262144) autLen⟩

def patZero (_ : Nat) : BitVec 128 := 0
def autNone (_ : Nat) : List Byte := []

namespace Chip

/-- The region under which an engine's rules and automaton stand: a wide set stands under region 0. -/
def patKey (c : Chip) (e r : Nat) : Nat := 2 * e + (if c.on (Reg.PAT_STATUS e) Fd.PAT_STATUS_WIDE then 0 else r)

/-- Write a set into a region of engine e; a wide set takes both. -/
def loadPat (c : Chip) (e r : Nat) (x : PatSet) : Chip :=
  let k := 2 * e + (if x.wide then 0 else r)
  let c0 := (c.renewLocs true (fun l => l.space == 5 && l.unit == e && (x.wide || l.index / 2 ^ 20 == r))).backWrite
    ⟨5, e, 2 ^ 20 * (if x.wide then 0 else r)⟩
  let c1 := { c0 with
    tbl.patRules := (List.range 16384).foldl
      (fun m a => mset patZero m (16384 * k + a) (BitVec.ofNat 128 (leNat (slice x.rules (16 * a) 16)))) c0.tbl.patRules
    tbl.patAut := mset autNone c0.tbl.patAut k x.aut }
  c1.setF (Reg.PAT_STATUS e) Fd.PAT_STATUS_WIDE (b2n x.wide)

/-- A region, or both, hold a complete set. -/
def patValid (c : Chip) (e r : Nat) (wide : Bool) (version : Nat) : Chip :=
  if wide then
    ((c.setF (Reg.PAT_STATUS e) Fd.PAT_STATUS_VALID 3).wrN (Reg.PAT_VERSION e 0) version).wrN (Reg.PAT_VERSION e 1) version
  else (c.setF (Reg.PAT_STATUS e) ⟨2 + r, 1⟩ 1).wrN (Reg.PAT_VERSION e r) version

/-! The checks that boot and a patch share (R96, codes 0x03 to 0x07). -/

/-- Codes 0x03 to 0x07, each with whether its check passes. -/
def keyChecks (c : Chip) (R : ImgR) : List (Nat × Bool) :=
  [(0x03, imgU R 0x008 2 == 0x5120 && imgU R 0x00A 1 == 0x41),
   (0x04, decide (imgKey R ≤ 2) && decide (Config.sha384 (R 0x310 97) = Config.keyHash (imgKey R))),
   (0x05, !bitOf (c.fld Reg.BOOT_FUSE Fd.BOOT_FUSE_REVOKED) (imgKey R)),
   (0x06, Config.ecdsaOk (R 0x310 97) (R 0x380 96) (Config.sha384 (R 0 0x380))),
   (0x07, decide (c.fld Reg.BOOT_FUSE Fd.BOOT_FUSE_SVN_MIN ≤ imgSvn R))]

/-- The refusal code of a patch image (R139): 0 when it is accepted. -/
def patchCode (c : Chip) (R : ImgR) : Nat :=
  firstFail ([(0x01, imgU R 0 4 == 0x4D495A41), (0x02, headerOk R 2)] ++ c.keyChecks R ++
    [(0x09, patchTableOk R), (0x0A, imgU R 0x030 48 == 0), (0x0D, bodyOk R 0x400)])

end Chip

end Sys2Proof.Machine
end

