-- ==== Sys2Proof/Machine/Parcels.lean ====
section
/-!
DEFINITION. Parcels: what a parcel owns in table order (R388, R394), quiescing (R393), RESET (R392), and the transactions of
REMOVE and RESTORE (R392, R395).
-/

namespace Sys2Proof.Machine

namespace Chip

/-! What a parcel owns. -/

/-- The current index entries of table t that parcel p owns at epoch e. -/
def ownIx (c : Chip) (p e t : Nat) : List (Nat × Target) :=
  c.tbl.idx.filterMap (fun x =>
    let i := x.1 % 2 ^ 22
    if x.1 / 2 ^ 22 = t ∧ i < 2 ^ 21 ∧ c.ownerOfIndex (rNh + t) i = p then
      match (c.ixRead t i e).1 with
      | some v => some (8 + t, Target.ix t i v)
      | none => none
    else none)

/-- The prefixes that parcel p owns at epoch e. -/
def ownPfx (c : Chip) (p e : Nat) (v6 : Bool) : List (Nat × Target) :=
  (c.lpm v6).filterMap (fun x => match x.2 with
    | some q => if c.visible q.tag e && c.ownerOfIndex rVrf q.vrf == p then some (lpmCode v6, Target.pfx v6 q) else none
    | none => none)

/-- The exact-match entries that parcel p owns at epoch e, in the partitions in use. -/
def ownEm (c : Chip) (p e : Nat) : List (Nat × Target) :=
  c.tbl.em.filterMap (fun x =>
    let a := x.2.toNat
    let ty := emType a
    if ty = 0 ∨ ty = 5 ∨ x.1 / 32768 = c.emIdle then none
    else if c.visible (tagOf 128 a) e && c.emOwner a == p then
      some (ty + 1, Target.key (if ty = 4 then [a, c.emAt (x.1 + 1)] else [a]))
    else none)

/-- The rules that parcel p owns at epoch e. -/
def ownRules (c : Chip) (p e : Nat) : List (Nat × Target) :=
  c.tbl.rules.filterMap (fun x => match x.2 with
    | some v =>
      if c.visible (tagOf 1088 v.toNat) e && c.ownerOfIndex rRule (x.1 / 2) == p then
        some (12, Target.rule (x.1 / 2) v.toNat)
      else none
    | none => none)

/-- Every entry of parcel p visible at epoch e, in the order of R394, each with its table code. -/
def ownEntries (c : Chip) (p e : Nat) : List (Nat × Target) :=
  c.ownIx p e 3 ++ c.ownIx p e 0 ++ c.ownIx p e 1 ++ c.ownIx p e 2 ++ c.ownPfx p e false ++ c.ownPfx p e true
    ++ c.ownEm p e ++ c.ownRules p e

/-! Quiescing. -/

/-- Descriptors or transactions of parcel p have not come to their end. -/
def parBusy (c : Chip) (p : Nat) : Bool :=
  (List.range 4).any (c.ringBusy p)
    || (List.range 252).any (fun s => c.slotOf s p && c.slotPending s)

/-- The record of a ring (R394): RING_CFG, BASE, host index, engine index, LAST, RING_POL. -/
def ringRecord (c : Chip) (p r : Nat) : List Byte :=
  let w := fun (k : Nat) => leBytes 4 (c.rd k)
  w (Reg.RING_CFG p r) ++ w (Reg.RING_BASE_LO p r) ++ w (Reg.RING_BASE_HI p r) ++ w (Reg.RING_HOST p r)
    ++ w (Reg.RING_ENG p r) ++ w (Reg.RING_SEQ_LO p r) ++ w (Reg.RING_SEQ_HI p r) ++ w (Reg.RING_POL p r)

/-- The 16 ring records of a parcel. -/
def ringRecords (c : Chip) (p : Nat) : List Byte := (List.range 16).flatMap (c.ringRecord p)

/-- Set a parcel's state (R392). -/
def setPar (c : Chip) (p st : Nat) : Chip := c.setF (Reg.PAR_STATUS p) Fd.PAR_STATUS_STATE st

/-- The mailboxes of a parcel's window read NONE, whatever runs in them. -/
def dropVfMbx (c : Chip) (p : Nat) : Chip :=
  let c1 := (c.wrN (Reg.VF_MBX_RESULT p 0) 0).wrN (Reg.VF_MBX_RESULT p 1) 0
  { c1 with mbx := c1.mbx.filter (fun o => match o.mbx with
    | .vf q _ => q.val != p
    | _ => true) }

/-- RESET of a parcel (R392): rings disabled, indices and LAST 0, MSI-X masked, mailbox results NONE; tables kept. -/
def parReset (c : Chip) (p : Nat) : Chip :=
  let c1 := (List.range 16).foldl (fun c r =>
    ((((c.setF (Reg.RING_CFG p r) Fd.RING_CFG_EN 0).wrN (Reg.RING_HOST p r) 0).wrN (Reg.RING_ENG p r) 0).wrN
      (Reg.RING_SEQ_LO p r) 0).wrN (Reg.RING_SEQ_HI p r) 0) c
  let c2 := (List.range 64).foldl (fun c v => c.setF (Reg.MSIX_TABLE p v 3) ⟨0, 1⟩ 1) c1
  { c2.dropVfMbx p with upd.hist := c2.upd.hist.filter (fun x => x.1 / 16 != p),
                        hif.irqPend := c2.hif.irqPend.filter (fun k => k / 16 != p) }

/-- A quiesce comes to its end (R392, R393). -/
def endQuiesce (c : Chip) (w : ParWait) : Chip :=
  let c1 := { c with hif.quiesce := c.hif.quiesce.filter (fun v => !decide (v = w)) }
  let c2 := c1.setPar w.parcel w.next
  let c3 := if w.next = 3 then
      { c2 with hif.frozen := mset (fun _ => Frozen.none) c2.hif.frozen w.parcel ⟨c2.epoch, c2.ringRecords w.parcel⟩ }
    else { c2 with hif.frozen := mdel c2.hif.frozen w.parcel }
  let c4 := if w.flr then c3.parReset w.parcel else c3
  if w.host then c4.mbxEnd .par 0 [] else c4

/-- A quiescing parcel: it ends, or a flip is asked for while one of its slots is CLOSED (R393). -/
def settle1 (c : Chip) (w : ParWait) : Chip :=
  if !c.parBusy w.parcel then c.endQuiesce w
  else if !c.upd.flipReq && (List.range 252).any (fun s => c.slotOf s w.parcel && c.slotState s == sClosed) then c.requestFlip
  else c

/-- Let every quiescing parcel go on. -/
def settle (c : Chip) : Chip := c.hif.quiesce.foldl settle1 c

/-- Start a quiesce (R393): OPEN and FAILED slots are aborted, but for one whose CLOSE runs. -/
def startQuiesce (c : Chip) (w : ParWait) : Chip :=
  let c1 := { c with hif.quiesce := c.hif.quiesce ++ [w] }
  let c2 := (List.range 252).foldl (fun c s =>
    if c.slotOf s w.parcel && (c.slotState s == sOpen || c.slotState s == sFailed) && !c.closing s then c.setSlot s sAborting
    else c) c1
  c2.settle1 w

/-! The transaction of a REMOVE. -/

/-- Delete entries in slot s; none when one is refused. -/
def deleteAll (c : Chip) (s : Nat) : List (Nat × Target) → Option Chip
  | [] => some c
  | (code, t) :: l =>
    let r := c.change s 0 code true t
    if r.2 = cOk then r.1.deleteAll s l else none

/-- Clear what a parcel was granted (R392); epoch class, so it applies at the next flip. -/
def clearGrants (c : Chip) (p : Nat) : Chip :=
  ((List.range 8).foldl (fun c k => (c.wrN (Reg.PAR_RANGE_BASE p k) 0).wrN (Reg.PAR_RANGE_CNT p k) 0) c
    |>.wrN (Reg.PAR_QUOTA p) 0).wrN (Reg.PAR_RINGS p) 0

/-- Start the transaction of a REMOVE that has none: in the lowest free software slot, once no entry is refused. -/
def startRemove (c : Chip) : Chip :=
  match c.hif.parTx with
  | some x =>
    if x.slot.isSome || x.restore then c
    else
      match (List.range 252).find? (fun s => c.slotState s == sFree) with
      | none => c
      | some s =>
        match (c.setSlot s sOpen).deleteAll s (c.ownEntries x.parcel c.epoch) with
        | none => c
        | some c1 =>
          { ((c1.setSlot s sClosed).clearGrants x.parcel).requestFlip with hif.parTx := some { x with slot := some s } }
  | none => c

/-- Bring back a ring record with EN 0 (R395). -/
def restoreRing (c : Chip) (p : Nat) (l : List Byte) (r : Nat) : Chip :=
  let w := fun (i : Nat) => leNat (slice l (32 * r + 4 * i) 4)
  (((((((c.wrN (Reg.RING_CFG p r) (w 0 / 2 * 2)).wrN (Reg.RING_BASE_LO p r) (w 1)).wrN (Reg.RING_BASE_HI p r) (w 2)).wrN
    (Reg.RING_HOST p r) (w 3)).wrN (Reg.RING_ENG p r) (w 4)).wrN (Reg.RING_SEQ_LO p r) (w 5)).wrN (Reg.RING_SEQ_HI p r) (w 6)).wrN
    (Reg.RING_POL p r) (w 7)

/-- Bring back an MSI-X table of 64 vectors. -/
def restoreMsix (c : Chip) (p : Nat) (l : List Byte) : Chip :=
  (List.range 256).foldl (fun c i => c.wrN (Reg.MSIX_TABLE p (i / 4) (i % 4)) (leNat (slice l (4 * i) 4))) c

/-- The flip has committed the transaction of a REMOVE or RESTORE: it ends. -/
def endParTx (c : Chip) : Chip :=
  match c.hif.parTx with
  | some x =>
    match x.slot with
    | some s =>
      if c.slotState s = sCommitted then
        let c1 := { c with hif.parTx := none }
        let c2 := if x.restore then
            let c3 := (((List.range 16).foldl (fun c r => c.restoreRing x.parcel x.rings r) c1).restoreMsix x.parcel x.msix)
            { (c3.setF (Reg.PAR_CTRL x.parcel) Fd.PAR_CTRL_EN 1).setPar x.parcel 3 with
              hif.frozen := mset (fun _ => Frozen.none) c3.hif.frozen x.parcel ⟨c3.epoch, x.rings⟩ }
          else
            { (c1.setF (Reg.PAR_CTRL x.parcel) Fd.PAR_CTRL_EN 0).setPar x.parcel 0 with
              hif.frozen := mdel c1.hif.frozen x.parcel }
        c2.mbxEnd .par 0 []
      else c
    | none => c
  | none => c

/-- The flip has committed a resync (R401): the engine is the standby. -/
def endResync (c : Chip) : Chip :=
  match c.tet.resyncSlot with
  | some s =>
    if c.slotState s = sCommitted then
      let c1 := { c with tet.resyncSlot := none, tet.synced := true }
      let c2 := if c.role = roleSyncing then c1.setRole roleStandby c1.roleGen else c1
      if (c2.mbxFind .tet).any (fun o => o.op == 2) then c2.mbxEnd .tet 0 [] else c2
    else c
  | none => c

end Chip

end Sys2Proof.Machine
end

