-- ==== Sys2Proof/Machine/Lookup.lean ====
section
/-!
DEFINITION. One lookup in a table store: exact match (R165), longest prefix (R169) and index tables (R170), with the errors it
meets (R172, R341, R342).
-/

namespace Sys2Proof.Machine

/-- What a lookup finds: the location and the entry, and the worst error that it met: 0 none, 1 uncorrectable or under repair,
2 REPAIR_FAIL. -/
structure Found where
  loc : Nat
  entry : Nat
  hit : Bool
  err : Nat
  deriving DecidableEq, Repr

namespace Chip

/-- Exact match in store k at epoch e: the first visible version of the key in a physical partition, H0's ways before H1's. An
IPv6 host's entry is its first way over its second. -/
def findEm (c : Chip) (k phys : Nat) (key : List Nat) (e : Nat) : Chip × Found :=
  let d := c.asStore k
  let r := c.readLocs ((c.emReads phys key).map (tableLoc 2 k))
  match (d.emVersions phys key).find? (fun l => c.visible (d.emTagAt l) e) with
  | some l => (r.1, ⟨l, if key.length = 2 then d.emAt l * 2 ^ 128 + d.emAt (l + 1) else d.emAt l, true, r.2⟩)
  | none => (r.1, ⟨0, 0, false, r.2⟩)

/-- A prefix covers an address of a VRF. -/
def pfxCovers (v6 : Bool) (p : Pfx) (vrf a : Nat) : Bool := p.vrf == vrf && lpmMask v6 p.len a == p.addr

/-- Of two prefixes the longer one, the first standing among equals. -/
def longer (x y : Option (Nat × Pfx)) : Option (Nat × Pfx) :=
  match x, y with
  | some a, some b => if a.2.len < b.2.len then some b else some a
  | some a, none => some a
  | none, b => b

/-- Locations with flipped bits, under repair or with REPAIR_FAIL. -/
def damaged (c : Chip) : List Loc := (c.tbl.upsets.map (·.loc) ++ c.tbl.repairs ++ c.tbl.repairFail).eraseDups

/-- The damaged locations of store k that a prefix lookup reads: its index word, table code 12 or 13, and the prefixes of its buckets,
the covering ones among them (R169, log 133). -/
def lpmBad (c : Chip) (k : Nat) (v6 : Bool) (vrf a : Nat) (cover : List Nat) : List Loc :=
  c.damaged.filter (fun l => l.space == 6 && l.unit % 8 == k
    && ((l.unit / 8 == 12 + lpmCode v6 && l.index == Config.lpmIndex v6 vrf a (c.cnt (Reg.UPD_CNT 1)).toNat)
      || (l.unit / 8 == lpmCode v6
        && (cover.contains l.index || Config.lpmBucket v6 vrf a (c.cnt (Reg.UPD_CNT 1)).toNat l.index))))

/-- Longest prefix in store k at epoch e: location and prefix. -/
def findLpm (c : Chip) (k : Nat) (v6 : Bool) (vrf a e : Nat) : Chip × Option (Nat × Pfx) × Nat :=
  let cs := ((c.asStore k).lpm v6).filterMap (fun x => match x.2 with
    | some p => if pfxCovers v6 p vrf a then some (x.1, p) else none
    | none => none)
  let r := c.readLocs (c.lpmBad k v6 vrf a (cs.map (·.1)))
  (r.1, (cs.filter (fun x => c.visible x.2.tag e)).foldl (fun b x => longer b (some x)) none, r.2)

/-- Index entry i of table t in store k at epoch e. -/
def findIx (c : Chip) (k t i e : Nat) : Chip × Found :=
  let x := (c.asStore k).ixRead t i e
  let r := c.readLocs (x.2.map (tableLoc (8 + t) k))
  match x.1 with
  | some v => (r.1, ⟨i, v % 2 ^ ixBits t, true, r.2⟩)
  | none => (r.1, ⟨i, 0, false, r.2⟩)

/-- The physical partition of a logical one for a packet of epoch e: the map is switched at a flip (R168). -/
def mapOf (c : Chip) (lp e : Nat) : Nat :=
  if e = c.epoch then c.act (Reg.UPD_PART_MAP lp) Fd.UPD_PART_MAP_PHYS else c.prv (Reg.UPD_PART_MAP lp) Fd.UPD_PART_MAP_PHYS

/-- The newest epoch whose flip lies at least 8 us in the past (R156). -/
def oldest (c : Chip) : Nat :=
  match c.upd.flips.find? (fun f => decide (f.at_ + 8 * usPs ≤ c.now)) with
  | some f => f.epoch
  | none =>
    match c.upd.flips.getLast? with
    | some f => (f.epoch + 65535) % 65536
    | none => c.epoch

end Chip

end Sys2Proof.Machine
end

