-- ==== Sys2Proof/Machine/Engine.lean ====
section
/-!
DEFINITION. The update engine and the learn engine: flips (R149 to R154), sweeps (R155), patches (R139, R194, R218, R384),
rehash (R168), the UPD mailbox (R175), and learning (R157 to R160).
-/

namespace Sys2Proof.Machine

namespace Chip

/-! Flips. -/

/-- HOLD shows whether flips are held (R154). -/
def refreshHold (c : Chip) : Chip := c.setF Reg.UPD_STATUS Fd.UPD_STATUS_HOLD (b2n c.flipHeld)

/-- A flip is due: requested, 10 us after the one before, and not held (R149). -/
def flipDue (c : Chip) : Bool :=
  (c.upd.flipReq || !c.upd.commits.isEmpty)
    && (match c.upd.flips with
      | f :: _ => decide (f.at_ + 10 * usPs ≤ c.now)
      | [] => true)
    && !c.flipHeld

/-- Every CLOSED slot becomes COMMITTED with epoch e (R150). -/
def commitSlots (c : Chip) (e : Nat) : Chip :=
  (List.range 256).foldl (fun c s =>
    if c.slotState s = sClosed then
      let c1 := (c.setF (Reg.UPD_SLOT s) Fd.UPD_SLOT_EPOCH e).setSlot s sCommitted
      { c1 with upd.slotAt := mput c1.upd.slotAt s c1.now }
    else c) c

/-- The map shadow of a finished rehash (R168). -/
def rehashMap (c : Chip) : Chip :=
  match c.upd.rehash with
  | some r => if r.done then c.setF (Reg.UPD_PART_MAP r.part) Fd.UPD_PART_MAP_PHYS r.phys else c
  | none => c

/-- The rehash that the flip has finished: its mailbox completes with the epoch, and its old partition waits to be cleared. -/
def rehashFlipped (c : Chip) (old : Nat) : Chip :=
  match c.upd.rehash with
  | some r =>
    if r.done then
      { c.mbxEnd .upd 0 [c.epoch, r.phys] with upd.rehash := none, upd.cleanup := some (old, c.now) }
    else c
  | none => c

/-- The banks and regions that packets stamped now use. -/
def flipRec (c : Chip) : FlipRec :=
  ⟨c.epoch, c.now, c.act (Reg.PRS_BANK_SEL 0) Fd.PRS_BANK_SEL_BANK, c.act (Reg.RWR_BANK_SEL 0) Fd.RWR_BANK_SEL_BANK,
    (List.range 4).map (fun e => c.act (Reg.PAT_REGION_SEL e) Fd.PAT_REGION_SEL_REGION)⟩

/-- The active copies of the epoch-class registers become the previous ones, and the shadows the active ones (R69, R151). -/
def copyShadows (c : Chip) : Chip := { c.setF Reg.GLB_STATUS Fd.GLB_STATUS_SHADOW_PENDING 0 with prev := c.active, active := c.regs }

/-- The flip itself (R150, R152). -/
def flip (c : Chip) : Chip :=
  let e := (c.epoch + 1) % 65536
  let old := match c.upd.rehash with
    | some r => c.emPhys r.part
    | none => 0
  let c1 := (((c.commitSlots e).rehashMap.copyShadows).setF Reg.UPD_EPOCH Fd.UPD_EPOCH_CURRENT e).bump (Reg.UPD_CNT 0) 1
  let cs := c1.upd.commits
  let c2 := { c1 with upd.flips := (c1.flipRec :: c1.upd.flips).take 4, upd.commits := [], upd.flipReq := false }
  let c3 := cs.foldl (fun c x => c.complete { x with result := e }) c2
  ((c3.rehashFlipped old).refreshHold).endParTx.endResync.settle

/-- FLIP. -/
def opFlip (c : Chip) : Chip := if c.flipDue then c.flip else c

/-! Reclamation. -/

/-- SWEEP_START: 8 us after the flip of its commit (R152, R155). -/
def opSweepStart (s : Nat) (c : Chip) : Chip :=
  if c.slotState s == sCommitted && decide (mget (fun _ => 0) c.upd.slotAt s + 8 * usPs ≤ c.now) then c.setSlot s sSweeping else c

/-- SWEEP_DONE: the slot becomes FREE (R155), which may end a hold (R154). -/
def opSweepDone (s : Nat) (c : Chip) : Chip :=
  if c.slotState s = sSweeping then
    let c1 := (c.sweep s).wrN (Reg.UPD_SLOT s) 0
    { c1 with upd.slotAt := mdel c1.upd.slotAt s }.refreshHold.startRemove
  else c

/-- CLOSE_COMPLETE (R148): once every backing write is in its queue (R292), the slot becomes CLOSED, and an ABORT that waited acts on it
(R153). -/
def opCloseComplete (s : Nat) (c : Chip) : Chip :=
  match c.upd.closing.find? (fun w => w.slot == s) with
  | none => c
  | some w =>
    if c.backFull then c
    else
      let c1 := { c with upd.closing := c.upd.closing.filter (fun v => v.slot != s) }
      let c2 := (c1.setSlot s sClosed).complete w.compl
      (if c2.upd.aborts.any (fun v => v.slot == s) then c2.setSlot s sAborting else c2).settle

/-- ABORT_DONE (R145). -/
def opAbortDone (s : Nat) (c : Chip) : Chip :=
  if c.slotState s = sAborting then
    let mine := c.upd.aborts.filter (fun v => v.slot == s)
    let c1 := { c with upd.aborts := c.upd.aborts.filter (fun v => v.slot != s) }
    (mine.foldl (fun c w => c.complete w.compl) ((c1.removeSlot s).wrN (Reg.UPD_SLOT s) 0)).startRemove.settle
  else c

/-! Patches. -/

/-- The flips whose epochs packets may still carry: OLDEST to CURRENT (R156). -/
def flipsInUse (c : Chip) : List FlipRec :=
  c.upd.flips.filter (fun f => decide (0 ≤ epochDiff f.epoch c.oldest))

/-- The idle parser bank takes a load (R139 step 2). -/
def prsIdleFree (c : Chip) (b : Nat) : Bool :=
  c.fld (Reg.PRS_BANK_SEL 0) Fd.PRS_BANK_SEL_BANK != b && !c.on (Reg.PRS_STATUS 0) Fd.PRS_STATUS_LOADING
    && !c.flipsInUse.any (fun f => f.prsBank == b)

/-- The idle rewrite bank takes a load (R218). -/
def rwrIdleFree (c : Chip) (b : Nat) : Bool :=
  c.fld (Reg.RWR_BANK_SEL 0) Fd.RWR_BANK_SEL_BANK != b && !c.on (Reg.RWR_STATUS 0) Fd.RWR_STATUS_LOADING
    && !c.flipsInUse.any (fun f => f.rwrBank == b)

/-- LOADING of the parsers or rewrite engines. -/
def setLoading (c : Chip) (rewrite : Bool) (v : Nat) : Chip :=
  c.eachSlice (fun c s => if rewrite then c.setF (Reg.RWR_STATUS s) Fd.RWR_STATUS_LOADING v
    else c.setF (Reg.PRS_STATUS s) Fd.PRS_STATUS_LOADING v)

/-- Every slice's domain is on, so that a load reaches its target. -/
def slicesOn (c : Chip) : Bool := (List.range 9).all (fun s => c.domOn (80 + s))

/-- Load the microcode sections of a patch into the idle banks (R139, R218); none refuses it with 0x0E, and nothing changes. -/
def patchMicrocode (c : Chip) (R : ImgR) (x : Compl) : Option Chip :=
  let has := fun (t : Nat) => (sections R).any (fun y => y.typ == t)
  let pb := 1 - c.act (Reg.PRS_BANK_SEL 0) Fd.PRS_BANK_SEL_BANK
  let rb := 1 - c.act (Reg.RWR_BANK_SEL 0) Fd.RWR_BANK_SEL_BANK
  match ucSections R stParser, ucSections R stRewrite with
  | some pl, some rl =>
    if !c.slicesOn || (has stParser && !c.prsIdleFree pb) || (has stRewrite && !c.rwrIdleFree rb) then none
    else
      let c1 := if has stParser then ((c.setLoading false 1).prsValid pb 0).loadBank false pb pl else c
      let c2 := if has stRewrite then ((c1.setLoading true 1).rwrValid rb 0).loadBank true rb rl else c1
      some { c2 with upd.loads := c2.upd.loads ++
        [(⟨if has stParser then some pb else none, if has stRewrite then some rb else none, [], ucVersion pl, ucVersion rl,
          some x⟩ : Load)] }
  | _, _ => none

/-- Load one set into an engine (R194); the regions and versions loaded so far. A wide set counts as region 2. A wide set in use occupies
both regions (R193), so that it serves every epoch while the engine is enabled; one that is overwritten is lost whole (log 135). -/
def patchEngine (x : PatSet) (acc : Option (Chip × List (Nat × Nat × Nat))) (e : Nat) : Option (Chip × List (Nat × Nat × Nat)) :=
  match acc with
  | none => none
  | some (c, l) =>
    let r := 1 - c.act (Reg.PAT_REGION_SEL e) Fd.PAT_REGION_SEL_REGION
    let wide := c.on (Reg.PAT_STATUS e) Fd.PAT_STATUS_WIDE
    if 4 ≤ e ∨ !c.domOn (108 + e) ∨ ((x.wide ∨ wide) ∧ c.on (Reg.PAT_CTRL e) Fd.PAT_CTRL_EN)
        ∨ c.on (Reg.PAT_STATUS e) Fd.PAT_STATUS_LOADING ∨ c.fld (Reg.PAT_REGION_SEL e) Fd.PAT_REGION_SEL_REGION = r
        ∨ c.flipsInUse.any (fun f => f.regions.getD e 0 == r) then none
    else
      let c1 := c.setF (Reg.PAT_STATUS e) Fd.PAT_STATUS_LOADING 1
      let c2 := if x.wide || wide then c1.setF (Reg.PAT_STATUS e) Fd.PAT_STATUS_VALID 0 else c1.setF (Reg.PAT_STATUS e) ⟨2 + r, 1⟩ 0
      some (c2.loadPat e r x, l ++ [(e, if x.wide then 2 else r, x.version)])

/-- Load the pattern sections of a patch; none refuses it with 0x0E. -/
def patchPatterns (c : Chip) (R : ImgR) (x : Compl) : Option Chip :=
  match (sections R).foldl (fun acc y =>
      match patSet (sectBytes R y) with
      | none => none
      | some p => ((List.range 16).filter (bitOf y.target)).foldl (patchEngine p) acc)
    (some (c, [])) with
  | none => none
  | some (c1, l) => some { c1 with upd.loads := c1.upd.loads ++ [(⟨none, none, l, 0, 0, some x⟩ : Load)] }

/-- PATCH (R384): refused with the code of R96, or loading. -/
def actPatch (d : Desc) (image : List Byte) (c : Chip) (x : Compl) : Chip :=
  let R : ImgR := fun o n => slice image o n
  let refuse := fun (code : Nat) => c.complete { x with code := cPatchRefused, result := code }
  if x.parcel ≠ 0 then c.complete { x with code := cNotPermitted }
  else if d.len.toNat < imgLen R then refuse 0x02
  else
    let code := c.patchCode R
    if code ≠ 0 then refuse code
    else
      match (if (sections R).any (fun y => y.typ == stPattern) then c.patchPatterns R x else c.patchMicrocode R x) with
      | some c1 => c1
      | none => refuse 0x0E

/-- PATCH. -/
def opPatch (p r : Nat) (d : Desc) (image : List Byte) (c : Chip) : Chip := c.descStep p r d (actPatch d image)

/-- The end of a load (R139 step 3, R194 step 3). -/
def endLoad (c : Chip) (l : Load) : Chip :=
  let c1 := match l.prs with
    | some b => ((c.prsValid b 1).eachSlice (fun c s => c.wrN (Reg.PRS_UCODE_VERSION s b) l.prsVersion)).setLoading false 0
    | none => c
  let c2 := match l.rwr with
    | some b => ((c1.rwrValid b 1).eachSlice (fun c s => c.wrN (Reg.RWR_UCODE_VERSION s b) l.rwrVersion)).setLoading true 0
    | none => c1
  let c3 := l.pat.foldl (fun c y =>
    (c.patValid y.1 y.2.1 (y.2.1 == 2) y.2.2).setF (Reg.PAT_STATUS y.1) Fd.PAT_STATUS_LOADING 0) c2
  match l.compl with
  | some x => c3.complete x
  | none => c3

/-- LOAD_COMPLETE. -/
def opLoadComplete (c : Chip) : Chip :=
  match c.upd.loads with
  | [] => c
  | l :: rest => ({ c with upd.loads := rest }.endLoad l).settle

/-! Rehash (R168). -/

/-- Copy one key into physical partition q, with its tag and hit bit. -/
def emCopyKey (q : Nat) (acc : Option Chip) (x : Nat × BitVec 128) : Option Chip :=
  match acc with
  | none => none
  | some c =>
    let a := x.2.toNat
    let k := if emType a = 4 then [a, c.emAt (x.1 + 1)] else [a]
    if emType a = 0 ∨ emType a = 5 then some c
    else
      match c.emPlace q k with
      | none => none
      | some (c1, l) =>
        let c2 := (c1.emPut l (tagOf 128 a) k).useSlots 1
        some { c2 with tbl.emHit := mset noHit c2.tbl.emHit l (mget noHit c.tbl.emHit x.1) }

/-- Copy every entry of a physical partition into another; none when one cannot be placed. -/
def emCopy (c : Chip) (phys q : Nat) : Option Chip :=
  (c.tbl.em.filter (fun x => x.1 / 32768 == phys)).foldl (emCopyKey q) (some c)

/-- The UPD mailbox's REHASH. -/
def rehashAct (args : List Nat) (c : Chip) : Chip × Option (Nat × List Nat) :=
  let lp := args.getD 2 0
  if 64 ≤ lp then (c, some (1, []))
  else if c.upd.rehash.isSome || c.upd.cleanup.isSome then (c, some (5, []))
  else
    let phys := c.emPhys lp
    let q := c.fld Reg.UPD_PART_SPARE Fd.UPD_PART_SPARE_PHYS
    let seed := fun (i : Nat) =>
      if args.getD 3 0 = 0 ∧ args.getD 4 0 = 0 then (c.rd (Reg.UPD_SEED phys i) + 0x9E3779B9) % 2 ^ 32 else args.getD (3 + i) 0
    let c1 := (c.wrN (Reg.UPD_SEED q 0) (seed 0)).wrN (Reg.UPD_SEED q 1) (seed 1)
    match c1.emCopy phys q with
    | none => (c1, some (6, []))
    | some c2 => ({ c2.setF Reg.UPD_STATUS Fd.UPD_STATUS_REHASH 1 with upd.rehash := some ⟨lp, q, false⟩ }, none)

/-- REHASH. -/
def opRehash (rq : Req) (tag : BitVec 16) (c : Chip) : Chip := c.mbxRun rq tag .upd 0x10 (fun c a => rehashAct a c)

/-- REHASH_COPY_DONE. -/
def opRehashCopyDone (c : Chip) : Chip :=
  match c.upd.rehash with
  | some r => if r.done then c else { c.requestFlip with upd.rehash := some { r with done := true } }
  | none => c

/-- REHASH_CLEANUP: 8 us after the flip the old partition becomes the spare. -/
def opRehashCleanup (c : Chip) : Chip :=
  match c.upd.cleanup with
  | some (old, t) =>
    if t + 8 * usPs ≤ c.now then
      let c1 := ((c.emClear old).setF Reg.UPD_PART_SPARE Fd.UPD_PART_SPARE_PHYS old).setF Reg.UPD_STATUS Fd.UPD_STATUS_REHASH 0
      { c1 with upd.cleanup := none }
    else c
  | none => c

/-! PROBE and READ_RAW (R175). -/

/-- The value of consecutive argument words, the lowest first. -/
def argNum : List Nat → Nat
  | [] => 0
  | a :: l => a % 2 ^ 32 + 2 ^ 32 * argNum l

/-- The eight entry words of a result. -/
def entryWords (e : Nat) : List Nat := (List.range 8).map (fun i => e / 2 ^ (32 * i) % 2 ^ 32)

/-- Location word of an exact-match way. -/
def emWord (l : Nat) : Nat := l / 32768 * 65536 + l % 32768

/-- What a probe answers: found, location word, prefix length, entry, error, and the parcel of the entry hit. -/
structure Probed where
  hit : Bool
  loc : Nat
  len : Nat
  entry : Nat
  err : Nat
  owner : Nat
  deriving DecidableEq, Repr

/-- The result words of a probe. -/
def probeData (store table : Nat) (x : Probed) : List Nat :=
  (b2n x.hit * 2 ^ 31 + store * 2 ^ 28 + table * 2 ^ 24 + x.len * 2 ^ 8) :: x.loc :: entryWords x.entry

/-- A prefix as a result gives it: its tag, then the fields in the order of R381 (R143, log 133). -/
def pfxEntry (v6 : Bool) (p : Pfx) : Nat := p.tag * 2 ^ 238 + pfxData v6 p / 2 ^ 18

/-- A probe of a table at epoch e, as a packet of that epoch would be answered: a store with EN 0 answers nothing (R178). -/
def probeAt (c : Chip) (store table key e : Nat) : Chip × Probed :=
  if !c.on (Reg.TS_CTRL store) Fd.TS_CTRL_EN then
    (c, ⟨false, 0, 0, 0, 0, if table < 2 then c.ownerOfIndex rVrf (pfxOf (table == 1) key).vrf
      else if table < 6 then c.emOwner (if table = 5 then emTyped 4 (key / 2 ^ 128) else emTyped (emTypeOf table) (key % 2 ^ 128))
      else c.ownerOfIndex (rNh + (table - 8)) (key % 2 ^ 32)⟩)
  else if table < 2 then
    let v6 := table == 1
    let q := pfxOf v6 key
    let a := key / 2 ^ (234 - lpmWidth v6) % 2 ^ lpmWidth v6
    let r := c.findLpm store v6 q.vrf a e
    match r.2.1 with
    | some (l, p) => (r.1, ⟨true, l, p.len, pfxEntry v6 p, r.2.2, c.ownerOfIndex rVrf p.vrf⟩)
    | none => (r.1, ⟨false, 0, 0, 0, r.2.2, c.ownerOfIndex rVrf q.vrf⟩)
  else if table < 6 then
    let k := if table = 5 then [emTyped 4 (key / 2 ^ 128), emTyped 5 (key % 2 ^ 128)] else [emTyped (emTypeOf table) (key % 2 ^ 128)]
    let r := c.findEm store (c.mapOf (emLogical k) e) k e
    if r.2.hit then
      let first := if table = 5 then r.2.entry / 2 ^ 128 else r.2.entry
      (r.1, ⟨true, emWord r.2.loc, 0, r.2.entry, r.2.err, c.emOwner first⟩)
    else (r.1, ⟨false, 0, 0, 0, r.2.err, c.emOwner (k.headD 0)⟩)
  else
    let t := table - 8
    let r := c.findIx store t (key % 2 ^ 32) e
    (r.1, ⟨r.2.hit, if r.2.hit then r.2.loc else 0, 0, r.2.entry, r.2.err, c.ownerOfIndex (rNh + t) (key % 2 ^ 32)⟩)

/-- The check of a probe's arguments: 0, or 0x01, 0x02 or 0x03. -/
def probeCode (c : Chip) (args : List Nat) : Nat :=
  let a0 := args.getD 0 0
  let table := bitsOf (args.getD 1 0) 7 4
  let store := args.getD 1 0 % 8
  let e := a0 % 65536
  if table = 6 ∨ table = 7 ∨ 12 ≤ table ∨ 5 ≤ store ∨ (8 ≤ table ∧ ixSize (table - 8) ≤ args.getD 2 0) then 1
  else if !bitOf a0 16 && decide (0 < epochDiff e c.epoch) then 1
  else if !bitOf a0 16 && decide (epochDiff e c.oldest < 0) then 2
  else if !c.domOn (89 + store) then 3
  else 0

/-- PROBE for a parcel, or for every parcel (R175, R391). -/
def probeAct (hits : List Hit) (parcel : Option Nat) (args : List Nat) (c : Chip) : Chip × Option (Nat × List Nat) :=
  let code := c.probeCode args
  if code ≠ 0 then (c, some (code, []))
  else
    let table := bitsOf (args.getD 1 0) 7 4
    let store := args.getD 1 0 % 8
    let e := if bitOf (args.getD 0 0) 16 then c.epoch else args.getD 0 0 % 65536
    let c0 := ((c.strike hits).bump (Reg.UPD_CNT 7) 1).useSlots (1 + c.free.toNat % 4)
    let r := c0.tick.probeAt store table (argNum (args.drop 2)) e
    let foreign := match parcel with
      | some p => r.2.owner != p && (r.2.hit || table != 3)
      | none => false
    if foreign then (r.1, some (7, []))
    else if r.2.err ≠ 0 then (r.1, some (4, []))
    else (r.1, some (0, probeData store table r.2))

/-- PROBE. -/
def opProbe (rq : Req) (tag : BitVec 16) (hits : List Hit) (c : Chip) : Chip :=
  c.mbxRun rq tag .upd 1 (fun c a => probeAct hits none a c)

/-- The location, table location and entry that READ_RAW names; none beyond the table. -/
def rawAt (c : Chip) (table store w : Nat) : Option (Loc × Nat × Bool) :=
  if table < 2 then
    if c.lpmCap (table == 1) ≤ w then none
    else match mget noneAt (c.lpm (table == 1)) w with
      | some p => some (tableLoc table store w, pfxEntry (table == 1) p, true)
      | none => some (tableLoc table store w, 0, false)
  else if table < 6 then
    let l := w / 65536 * 32768 + w % 32768
    if 65 ≤ w / 65536 ∨ w % 65536 ≠ w % 32768 then none else some (tableLoc 2 store l, c.emAt l, c.emAt l != 0)
  else
    let t := table - 8
    if ixSize t ≤ w then none
    else some (tableLoc table store w, ((c.ixAt (ixKey t w)).getD 0) % 2 ^ ixBits t, (c.ixAt (ixKey t w)).isSome)

/-- READ_RAW. -/
def readRawAct (hits : List Hit) (args : List Nat) (c : Chip) : Chip × Option (Nat × List Nat) :=
  let table := bitsOf (args.getD 1 0) 7 4
  let store := args.getD 1 0 % 8
  if table = 6 ∨ table = 7 ∨ 12 ≤ table ∨ 5 ≤ store then (c, some (1, []))
  else if !c.domOn (89 + store) then (c, some (3, []))
  else
    match (c.asStore store).rawAt table store (args.getD 2 0) with
    | none => (c, some (1, []))
    | some (loc, e, hit) =>
      let r := (c.strike hits).readLoc loc
      if r.2 ≠ 0 then (r.1, some (4, []))
      else (r.1, some (0, probeData store table ⟨hit, args.getD 2 0, 0, e, 0, 0⟩))

/-- READ_RAW. -/
def opReadRaw (rq : Req) (tag : BitVec 16) (hits : List Hit) (c : Chip) : Chip :=
  c.mbxRun rq tag .upd 2 (fun c a => readRawAct hits a c)

/-- VF_PROBE (R391): a VF probes within its own parcel; the manager parcel window on every parcel. -/
def opVfProbe (rq : Req) (tag : BitVec 16) (p : Fin 64) (hits : List Hit) (c : Chip) : Chip :=
  c.mbxRun rq tag (.vf p 0) 1 (fun c a => probeAct hits (if p.val = 0 then none else some p.val) a c)

/-! Learning. -/

/-- The current learn slot. -/
def lrnSlot (c : Chip) : Nat := c.fld Reg.LRN_STATUS Fd.LRN_STATUS_SLOT

/-- The current learn transaction is open; it opens with its first change. -/
def lrnOpen (c : Chip) : Chip :=
  if c.slotState c.lrnSlot = sFree then (c.wrN (Reg.UPD_SLOT c.lrnSlot) 0).setSlot c.lrnSlot sOpen else c

/-- A MAC entry (R163). -/
def macEntry (mac vlan port nhi : Nat) : Nat :=
  2 * 2 ^ 106 + mac * 2 ^ 56 + vlan * 2 ^ 44 + port * 2 ^ 36 + nhi * 2 ^ 16

/-- A learn-engine change as a descriptor of ring 15 (R402). -/
def lrnDesc (op slot e : Nat) : Desc :=
  ⟨0, BitVec.ofNat 8 op, Fin.ofNat 256 slot, 3, 0, 0, 0, BitVec.ofNat 256 e, false⟩

/-- Copy a learn-engine change to the partner. -/
def lrnMirror (c : Chip) (op e : Nat) : Chip := (c.mirror (lrnDesc op c.lrnSlot e) 0 15).1

/-- The data of a learn, move or aged event (R385). -/
def lrnData (mac vlan port nhi old : Nat) : List Byte :=
  beBytes 6 mac ++ leBytes 2 vlan ++ leBytes 1 port ++ leBytes 3 nhi ++ leBytes 1 old

/-- A learn write is skipped and counted (R158). -/
def lrnRefused (c : Chip) (code : Nat) (key : Nat) : Chip :=
  let c1 := c.bump (Reg.LRN_CNT (if code = cConflict then 6 else 7)) 1
  if code = cInsertFail then (c1.bump (Reg.UPD_CNT 3) 1).insertEvent [key] 3 c1.lrnSlot else c1

/-- The learn write of a request. -/
def lrnWrite (c : Chip) (x : LearnReq) : Chip :=
  let e := macEntry x.mac x.vlan x.port x.nhi
  let c0 := c.lrnOpen
  let s := c0.lrnSlot
  let phys := c0.emPhys (emLogical [e])
  if (c0.emVersions phys [e]).any (fun l => c0.live s (c0.emTagAt l) && bitOf (c0.emAt l) 105) then c
  else
    let r := if !c0.targetHeld s (.key [e]) && c0.quotaFull x.parcel then (c0, cQuota) else c0.emWrite s [e]
    if r.2 ≠ cOk then r.1.lrnRefused r.2 e
    else
      let c1 := match (r.1.emVersions phys [e]).find? (fun l => madeBy s (r.1.emTagAt l)) with
        | some l => { r.1 with tbl.emHit := mset noHit r.1.tbl.emHit l true }
        | none => r.1
      let c2 := (c1.bump (Reg.LRN_CNT (if x.old.isSome then 1 else 0)) 1).lrnMirror 2 e
      let c3 := { c2 with upd.lrnChanges := c2.upd.lrnChanges + 1,
                          upd.lrnFilter := if c2.upd.lrnFilter.length < 4096 then c2.upd.lrnFilter ++ [(x.mac, x.vlan, x.port)]
                            else c2.upd.lrnFilter }
      c3.event (if x.old.isSome then 2 else 1) x.parcel 0x3D none (lrnData x.mac x.vlan x.port x.nhi (x.old.getD 0))

/-- LEARN_REQUEST (R157, R158, R339): the request at the front of the queue. -/
def opLearnRequest (c : Chip) : Chip :=
  match c.pipe.learnQ with
  | [] => c
  | x :: rest =>
    let c1 := { c.pmcEvent 0x3D 1 1 with pipe.learnQ := rest }
    if !c.on Reg.LRN_CTRL Fd.LRN_CTRL_EN then c1.bump (Reg.LRN_CNT 5) 1
    else if c1.gen x.slice ≠ x.gen then c1.bump (Reg.FLT_CNT 36) 1
    else if c1.upd.lrnFilter.contains (x.mac, x.vlan, x.port) then c1.bump (Reg.LRN_CNT 4) 1
    else if c1.standby then c1
    else c1.lrnWrite x

/-- The learn slot after s, in turn, that is FREE (log 17). -/
def lrnNext (c : Chip) (s : Nat) : Option Nat :=
  ((List.range 4).map (fun i => 252 + (s - 252 + 1 + i) % 4)).find? (fun t => c.slotState t == sFree)

/-- LEARN_TICK (R159). -/
def opLearnTick (c : Chip) : Chip :=
  if c.now < c.upd.lrnTickAt + c.upd.lrnPeriod * usPs then c
  else
    let c1 := { c with upd.lrnTickAt := c.now, upd.lrnPeriod := c.fld Reg.LRN_CFG Fd.LRN_CFG_TICK, upd.lrnFilter := [] }
    let s := c1.lrnSlot
    let earlier := (List.range 4).any (fun i => c1.slotState (252 + i) == sClosed)
    if c1.upd.lrnChanges = 0 ∨ earlier then c1
    else
      match c1.lrnNext s with
      | none => c1
      | some t =>
        let c2 := ((c1.lrnMirror 4 0).lrnMirror 6 0).setSlot s sClosed
        let c3 := (c2.requestFlip.setF Reg.LRN_STATUS Fd.LRN_STATUS_SLOT t).lrnOpen
        { c3 with upd.lrnChanges := 0 }

/-- Age one MAC entry out of the tables. -/
def ageOne (c : Chip) (a : Nat) : Chip :=
  let mac := bitsOf a 103 56
  let vlan := bitsOf a 55 44
  let port := bitsOf a 43 36
  let e := macEntry mac vlan port (bitsOf a 35 16)
  let c0 := c.lrnOpen
  let r := c0.emDelete c0.lrnSlot [e]
  if r.2 ≠ cOk then r.1.lrnRefused r.2 e
  else
    let c1 := (r.1.bump (Reg.LRN_CNT 2) 1).lrnMirror 3 e
    { c1 with upd.lrnChanges := c1.upd.lrnChanges + 1 }.event 3 (c1.portParcel port) 0x3D none
      (lrnData mac vlan port (bitsOf a 35 16) 0)

/-- AGING_PASS (R160). -/
def opAgingPass (c : Chip) : Chip :=
  let age := c.fld Reg.LRN_CFG Fd.LRN_CFG_AGE
  if age = 0 ∨ c.now < c.upd.lrnAgeAt + age * sPs ∨ c.standby then c
  else
    let spare := c.emIdle
    let due := c.tbl.em.filter (fun x =>
      emType x.2.toNat == 2 && !bitOf x.2.toNat 105 && x.1 / 32768 != spare && !mget noHit c.tbl.emHit x.1
        && c.live c.lrnSlot (tagOf 128 x.2.toNat))
    let c1 := due.foldl (fun c x => c.ageOne x.2.toNat) c
    { c1 with tbl.emHit := [], upd.lrnAgeAt := c.now }

end Chip

/-! The meanings. -/

/-- FLIP. -/
def execFlip (s : State) : Host.Outcome State Fault Refusal := runChip s Chip.opFlip

/-- SWEEP_START. -/
def execSweepStart (slot : Fin 256) (s : State) : Host.Outcome State Fault Refusal := runChip s (Chip.opSweepStart slot.val)

/-- SWEEP_DONE. -/
def execSweepDone (slot : Fin 256) (s : State) : Host.Outcome State Fault Refusal := runChip s (Chip.opSweepDone slot.val)

/-- CLOSE_COMPLETE. -/
def execCloseComplete (slot : Fin 256) (s : State) : Host.Outcome State Fault Refusal :=
  runChip s (Chip.opCloseComplete slot.val)

/-- ABORT_DONE. -/
def execAbortDone (slot : Fin 256) (s : State) : Host.Outcome State Fault Refusal := runChip s (Chip.opAbortDone slot.val)

/-- PATCH. -/
def execPatch (parcel : Fin 64) (ring : Fin 4) (d : Desc) (image : List Byte) (s : State) : Host.Outcome State Fault Refusal :=
  runChip s (Chip.opPatch parcel.val ring.val d image)

/-- LOAD_COMPLETE. -/
def execLoadComplete (s : State) : Host.Outcome State Fault Refusal := runChip s Chip.opLoadComplete

/-- REHASH. -/
def execRehash (rq : Req) (tag : BitVec 16) (s : State) : Host.Outcome State Fault Refusal :=
  runChip s (Chip.opRehash rq tag)

/-- REHASH_COPY_DONE. -/
def execRehashCopyDone (s : State) : Host.Outcome State Fault Refusal := runChip s Chip.opRehashCopyDone

/-- REHASH_CLEANUP. -/
def execRehashCleanup (s : State) : Host.Outcome State Fault Refusal := runChip s Chip.opRehashCleanup

/-- PROBE. -/
def execProbe (rq : Req) (tag : BitVec 16) (hits : List Hit) (s : State) : Host.Outcome State Fault Refusal :=
  runChip s (Chip.opProbe rq tag hits)

/-- READ_RAW. -/
def execReadRaw (rq : Req) (tag : BitVec 16) (hits : List Hit) (s : State) : Host.Outcome State Fault Refusal :=
  runChip s (Chip.opReadRaw rq tag hits)

/-- VF_PROBE. -/
def execVfProbe (rq : Req) (tag : BitVec 16) (p : Fin 64) (hits : List Hit) (s : State) : Host.Outcome State Fault Refusal :=
  runChip s (Chip.opVfProbe rq tag p hits)

/-- LEARN_REQUEST. -/
def execLearnRequest (s : State) : Host.Outcome State Fault Refusal := runChip s Chip.opLearnRequest

/-- LEARN_TICK. -/
def execLearnTick (s : State) : Host.Outcome State Fault Refusal := runChip s Chip.opLearnTick

/-- AGING_PASS. -/
def execAgingPass (s : State) : Host.Outcome State Fault Refusal := runChip s Chip.opAgingPass

end Sys2Proof.Machine
end

