-- ==== Sys2Proof/Machine/Parser.lean ====
section
/-!
DEFINITION. The parser (R124 to R137), and the load-spreading hash that it computes (R196).
-/

namespace Sys2Proof.Machine

/-- Bytes of the head that a parse reads: within the frame without its FCS and below offset 512, else 0 (R129). -/
def headByte (l : List Byte) (i : Nat) : Nat := if i < 512 then byteAt l i else 0

/-- width bits (1 to 64) that start bit bits after the most significant bit of byte off of the head. -/
def headBits (l : List Byte) (off bit width : Nat) : Nat :=
  (List.range 9).foldl (fun v i => v * 256 + headByte l (off + i)) 0 / 2 ^ (72 - bit - width) % 2 ^ width

/-- The metadata record at the start of a parse (R135). -/
def Meta.start (epoch parcel port slice ts len : Nat) : Meta where
  epoch := epoch
  parcel := parcel
  port := port
  slice := slice
  vrf := 0
  hash := 0
  ts := ts
  nhi := 0
  queue := 0
  cls := 0
  colour := 0
  rule := none
  pat := none
  repl := none
  punt := false
  mirror := false
  sample := false
  drop := false
  tsEvent := false
  poisoned := false
  reason := 0
  len := len
  hdrCnt := 0
  l3 := 0x1FF
  l4 := 0x1FF
  inner := 0x1FF

/-- The 256 bits of a metadata record (R135). -/
def Meta.bits (m : Meta) : Nat :=
  m.epoch * 2 ^ 240 + m.parcel * 2 ^ 234 + m.port * 2 ^ 226 + m.slice * 2 ^ 222 + m.vrf * 2 ^ 208 + m.hash * 2 ^ 192
    + m.ts * 2 ^ 160 + m.nhi * 2 ^ 140 + m.queue * 2 ^ 123 + m.cls * 2 ^ 120 + m.colour * 2 ^ 118
    + (match m.rule with
      | some r => 2 ^ 117 + r * 2 ^ 102
      | none => 0)
    + (match m.pat with
      | some (e, a) => 2 ^ 101 + e * 2 ^ 99 + a * 2 ^ 85
      | none => 0)
    + (match m.repl with
      | some g => 2 ^ 84 + g * 2 ^ 68
      | none => 0)
    + b2n m.punt * 2 ^ 67 + b2n m.mirror * 2 ^ 66 + b2n m.sample * 2 ^ 65 + b2n m.drop * 2 ^ 64 + b2n m.tsEvent * 2 ^ 63
    + b2n m.poisoned * 2 ^ 62 + m.reason * 2 ^ 54 + m.len * 2 ^ 40 + m.hdrCnt * 2 ^ 35 + m.l3 * 2 ^ 26 + m.l4 * 2 ^ 17
    + m.inner * 2 ^ 8

/-- Drop a packet: REASON keeps the first drop reason (R134). -/
def Meta.dropFor (m : Meta) (reason : Nat) : Meta := if m.drop then m else { m with drop := true, reason := reason }

/-- Punt a packet: REASON is set only if DROP is clear (R187). -/
def Meta.puntFor (m : Meta) (reason : Nat) : Meta :=
  if m.drop then { m with punt := true } else { m with punt := true, reason := reason }

/-- A parse under way: record, key vector, header index, offset, address, and whether it has ended. -/
structure Parse where
  md : Meta
  key : List Byte
  hdrs : List (Nat × Nat)
  off : Nat
  addr : Nat
  fin : Bool
  depthHit : Bool
  deriving DecidableEq, Repr

/-- One extraction into the key vector (R129). -/
def extract (frame : List Byte) (off : Nat) (key : List Byte) (x : Nat) : List Byte :=
  let width := bitsOf x 12 7 + 1
  let dst := x % 128
  if !bitOf x 23 || decide (96 ≤ dst) then key
  else patchAt key dst (beBytes (ceilDiv width 8) (headBits frame (off + bitsOf x 22 16) (bitsOf x 15 13) width))

/-- The four extractions of a microword, EXT0 first. -/
def extractAll (frame : List Byte) (off w : Nat) (key : List Byte) : List Byte :=
  [160, 184, 208, 232].foldl (fun k lo => extract frame off k (w / 2 ^ lo % 2 ^ 24)) key

/-- Drop a parse. -/
def Parse.drop (p : Parse) (reason : Nat) : Parse := { p with md := p.md.dropFor reason, fin := true }

/-- A depth overrun (R132). -/
def Parse.overrun (p : Parse) (accept : Bool) (reason : Nat) : Parse :=
  if accept then { p with fin := true, depthHit := true } else p.drop reason

/-- The header length of a step; none for a length field that gives 0 (R131). -/
def stepLen (frame : List Byte) (off w : Nat) : Option Nat :=
  if bitsOf w 159 158 = 1 then
    let n := headBits frame (off + bitsOf w 157 151) (bitsOf w 150 148) (bitsOf w 147 144 + 1) * 2 ^ bitsOf w 143 142
      + bitsOf w 141 132
    if n = 0 then none else some n
  else some (bitsOf w 141 132)

/-- The CHECK of a step fails with this reason (R128, R131); what lies beyond the data or byte 512 reads 0 (log 132). -/
def stepCheck (frame : List Byte) (off w : Nat) : Option Nat :=
  let ver := headByte frame off / 16
  let ihl := headByte frame off % 16
  let sum := ocSumBe ((List.range (4 * ihl)).map (fun i => BitVec.ofNat 8 (headByte frame (off + i))))
  match bitsOf w 87 84 with
  | 1 => if ver = 4 ∧ 5 ≤ ihl ∧ sum = 65535 then none else some 7
  | 2 => if ver = 6 then none else some 8
  | 3 => if ver = 4 ∧ 5 ≤ ihl then none else some 7
  | _ => none

/-- The MARK and TS_EVENT of a step; an offset of 511 or 512 cannot be represented (R136). -/
def stepMark (off w : Nat) (m : Meta) : Meta :=
  let o := if off < 511 then off else 0x1FF
  let m1 := match bitsOf w 89 88 with
    | 1 => { m with l3 := o }
    | 2 => { m with l4 := o }
    | 3 => { m with inner := o }
    | _ => m
  if bitOf w 63 then { m1 with tsEvent := true } else m1

/-- REASON of a microword (R128). -/
def ucReason (r : Nat) : Nat := if 0xE0 ≤ r then r else 0xE0

namespace Chip

/-- The type-map code of a 16-bit field (R130). -/
def typeMap (c : Chip) (bank v : Nat) : Nat :=
  match (List.range 64).find? (fun i =>
    let e := (mget tmapZero c.tbl.prsTmap (64 * bank + i)).toNat
    bitOf e 31 && e % 65536 == v) with
  | some i => bitsOf (mget tmapZero c.tbl.prsTmap (64 * bank + i)).toNat 23 16
  | none => 0xFF

/-- The next address of a step, or the reason of a drop (R131). -/
def stepNext (c : Chip) (s bank : Nat) (frame : List Byte) (off w : Nat) : Chip × Nat × Option Nat :=
  let mode := bitsOf w 127 126
  let dflt := bitsOf w 110 99
  if mode = 1 ∨ mode = 2 then
    let r := if mode = 2 then c.readLocs ((List.range 64).map (fun i => ⟨2, s, 4096 * bank + i⟩)) else (c, 0)
    if r.2 ≠ 0 then (r.1, 0, some 0x0A)
    else
      let f := headBits frame (off + bitsOf w 125 119) (bitsOf w 118 116) (if mode = 1 then bitsOf w 115 113 + 1 else 16)
      let t := if mode = 1 then f else c.typeMap bank f
      let q := r.1.readLoc ⟨1, s, 4096 * bank + t⟩
      if q.2 ≠ 0 then (q.1, 0, some 0x0A)
      else
        let e := (mget dispZero c.tbl.prsDisp (256 * bank + t)).toNat / 2 ^ (16 * bitsOf w 112 111) % 65536
        (q.1, if bitOf e 15 then e % 4096 else dflt, none)
  else (c, dflt, none)

/-- One step of a parse (R131). -/
def parseStep (c : Chip) (s bank : Nat) (frame : List Byte) (accept : Bool) (p : Parse) : Chip × Parse :=
  let r := c.readLoc ⟨0, s, 4096 * bank + p.addr⟩
  if r.2 ≠ 0 then (r.1, p.drop 0x09)
  else
    match mget ucEmpty c.tbl.prsCs (4096 * bank + p.addr) with
    | none => (r.1, p.drop 0x0D)
    | some word =>
      let w := word.toNat
      let p1 := { p with key := extractAll frame p.off w p.key }
      match stepLen frame p.off w with
      | none => (r.1, p1.drop 0x06)
      | some len =>
        if 0 < len ∧ 16 ≤ p1.md.hdrCnt then (r.1, p1.overrun accept 0x02)
        else if 0 < len ∧ frame.length < p.off + len then (r.1, p1.drop 0x05)
        else if 0 < len ∧ 512 < p.off + len then (r.1, p1.overrun accept 0x03)
        else
          let id := bitsOf w 95 90
          let p2 := if len = 0 then p1 else
            { p1 with md := { p1.md with hdrCnt := p1.md.hdrCnt + 1 },
                      hdrs := if id = 0 then p1.hdrs else p1.hdrs ++ [(id, p.off)] }
          match stepCheck frame p.off w with
          | some reason => (r.1, p2.drop reason)
          | none =>
            let p3 := { p2 with md := stepMark p.off w p2.md }
            match bitsOf w 83 80 with
            | 1 => (r.1, { p3 with fin := true })
            | 2 => (r.1, p3.drop (ucReason (bitsOf w 79 72)))
            | 3 => (r.1, { p3 with md := p3.md.puntFor (ucReason (bitsOf w 79 72)), fin := true })
            | _ =>
              let n := r.1.stepNext s bank frame p.off w
              match n.2.2 with
              | some reason => (n.1, p3.drop reason)
              | none => (n.1, { p3 with off := p.off + len, addr := n.2.1 })

/-- The steps of a parse: at most 20 (R125). -/
def parseLoop (s bank : Nat) (frame : List Byte) (accept : Bool) : Nat → Chip → Parse → Chip × Parse
  | 0, c, p => (c, p.overrun accept 0x04)
  | n + 1, c, p =>
    let r := c.parseStep s bank frame accept p
    if r.2.fin then r else parseLoop s bank frame accept n r.1 r.2

/-- A field of the copy of an epoch-class register that a packet of epoch e uses (R151). -/
def at_ (c : Chip) (e k : Nat) (f : BF) : Nat := if e = c.epoch then c.act k f else c.prv k f

/-- The entry of a header map (R172, R196) of highest PRIO among the headers, the earlier header standing among equals. -/
def hdrPick (c : Chip) (e : Nat) (key : Nat → Nat) (v prio val : BF) (hdrs : List (Nat × Nat)) : Option Nat :=
  (hdrs.foldl (fun (b : Option (Nat × Nat)) h =>
    if c.at_ e (key h.1) v = 1 then
      let p := c.at_ e (key h.1) prio
      match b with
      | some (q, _) => if q < p then some (p, c.at_ e (key h.1) val) else b
      | none => some (p, c.at_ e (key h.1) val)
    else b) none).map (·.2)

/-- A load-spreading field: its bytes, none where it is not valid (R196). -/
def lbField (c : Chip) (s e prof i : Nat) (key : List Byte) : Option (List Byte) :=
  if c.at_ e (Reg.LB_FIELD s prof i) Fd.LB_FIELD_V = 1 then
    some (slice key (c.at_ e (Reg.LB_FIELD s prof i) Fd.LB_FIELD_KEY_OFF) (c.at_ e (Reg.LB_FIELD s prof i) Fd.LB_FIELD_LEN + 1))
  else none

/-- Byte strings compared as unsigned, first byte first; the shorter of two equal beginnings is the smaller. -/
def bytesLe : List Byte → List Byte → Bool
  | [], _ => true
  | _ :: _, [] => false
  | a :: l, b :: m => if a.toNat < b.toNat then true else if b.toNat < a.toNat then false else bytesLe l m

/-- A pair of fields, the smaller first when the profile is symmetric. -/
def lbPair (sym : Bool) (a b : Option (List Byte)) : List Byte :=
  match a, b with
  | some x, some y => if sym && !bytesLe x y then y ++ x else x ++ y
  | some x, none => x
  | none, some y => y
  | none, none => []

/-- HASH (R196). -/
def lbHash (c : Chip) (s e port : Nat) (key : List Byte) (hdrs : List (Nat × Nat)) : Nat :=
  let prof := (c.hdrPick e (Reg.LB_HDR_MAP s) Fd.LB_HDR_MAP_V Fd.LB_HDR_MAP_PRIO Fd.LB_HDR_MAP_HPROF hdrs).getD
    (c.at_ e (Reg.LB_CFG s) Fd.LB_CFG_DEF_PROF)
  let f := fun (i : Nat) => c.lbField s e prof i key
  if (List.range 8).all (fun i => (f i).isNone) then 0
  else
    let sym := c.at_ e (Reg.LB_PROF_CFG s prof) Fd.LB_PROF_CFG_SYM == 1
    let l := lbPair sym (f 0) (f 1) ++ lbPair sym (f 2) (f 3) ++ ([4, 5, 6, 7].flatMap (fun i => (f i).getD []))
      ++ (if c.at_ e (Reg.LB_PROF_CFG s prof) Fd.LB_PROF_CFG_PORT = 1 then [BitVec.ofNat 8 port] else [])
    let crc := crc32c (c.at_ e (Reg.LB_SEED s) Fd.LB_SEED_SEED) l
    (crc / 65536) ^^^ (crc % 65536)

/-- Parse a head of slice s (R124 to R135), stamping it with the current epoch. -/
def parse (c : Chip) (s : Nat) (h : Head) : Chip × Pkt :=
  let e := c.epoch
  let parcel := match h.inj with
    | some d => d.parcel
    | none => c.act (Reg.PRS_PORT_CFG s h.port) Fd.PRS_PORT_CFG_PARCEL
  let start := match h.inj with
    | some d => d.start
    | none => c.act (Reg.PRS_PORT_CFG s h.port) Fd.PRS_PORT_CFG_START
  let bank := c.act (Reg.PRS_BANK_SEL s) Fd.PRS_BANK_SEL_BANK
  let md := Meta.start e parcel h.port s h.ts (h.bytes.length + 4)
  let p0 : Parse := ⟨md, List.replicate 96 0, [], 0, start, false, false⟩
  let c0 := c.bump (Reg.PRS_CNT s 0) 1
  let r :=
    if !c.on (Reg.PRS_CTRL s) Fd.PRS_CTRL_EN then (c0, p0.drop 0x0B)
    else if h.inj.isNone && c.act (Reg.PRS_PORT_CFG s h.port) Fd.PRS_PORT_CFG_EN == 0 then (c0, p0.drop 0x0C)
    else parseLoop s bank h.bytes (c.on (Reg.PRS_CFG s) Fd.PRS_CFG_OVER) 20 c0 p0
  let p := r.2
  let c1 := if p.md.drop then r.1.bump (Reg.PRS_CNT s 1) 1 else r.1
  let c2 := if p.depthHit then c1.bump (Reg.PRS_CNT s 2) 1 else c1
  let c3 := if p.md.punt then c2.bump (Reg.PRS_CNT s 3) 1 else c2
  (c3, ⟨h, { p.md with hash := c.lbHash s e h.port p.key p.hdrs }, p.key, p.hdrs, 0, false, c.now,
    c.act (Reg.RWR_BANK_SEL s) Fd.RWR_BANK_SEL_BANK, c.gen s, false, false, none⟩)

end Chip

end Sys2Proof.Machine
end

