-- ==== Sys2Proof/Machine/Classify.lean ====
section
/-!
DEFINITION. The lookup stage (R157, R171 to R173), the classifier (R179 to R187), pattern selection and scans (R188 to R191),
and final resolution (R195, R197).
-/

namespace Sys2Proof.Machine

namespace Chip

/-! The lookup stage. -/

/-- A drop reason for an error met in a table entry: R173, or R342 for one that could not be repaired. -/
def tableReason (err : Nat) : Nat := if err = 2 then 0xA0 else 0x25

/-- What a lookup program has decided: nothing yet, a hit with its NHI, or an error. -/
inductive Decided where
  | none | hit (nhi : Nat) | bad (reason : Nat)
  deriving DecidableEq, Repr

/-- The MAC and VLAN of a step's key (R172). -/
def macKey (key : List Byte) (off : Nat) : Nat × Nat := (beNat (slice key off 6), beNat (slice key (off + 6) 2) % 4096)

/-- A DST step: its table's answer, as NHI, with the error met. -/
def dstStep (c : Chip) (k e vrf table : Nat) (key : List Byte) (off : Nat) : Chip × Option Nat × Nat :=
  let em := fun (ks : List Nat) (nhi : Nat → Nat) =>
    let r := c.findEm k (c.mapOf (emLogical ks) e) ks e
    (r.1, if r.2.hit then some (nhi r.2.entry) else none, r.2.err)
  match table with
  | 0 =>
    let r := c.findLpm k false vrf (beNat (slice key off 4)) e
    (r.1, r.2.1.map (fun x => x.2.nhi), r.2.2)
  | 1 =>
    let r := c.findLpm k true vrf (beNat (slice key off 16)) e
    (r.1, r.2.1.map (fun x => x.2.nhi), r.2.2)
  | 2 => em [emTyped 1 (beNat (slice key off 3) % 2 ^ 20 * 2 ^ 84 + vrf * 2 ^ 70)] (fun a => bitsOf a 69 50)
  | 3 => em [macEntry (macKey key off).1 (macKey key off).2 0 0] (fun a => bitsOf a 35 16)
  | 4 => em [emTyped 3 (vrf * 2 ^ 90 + beNat (slice key off 4) * 2 ^ 58)] (fun a => bitsOf a 57 38)
  | 5 =>
    let a := beNat (slice key off 16)
    em [emTyped 4 (vrf * 2 ^ 90 + a / 2 ^ 64 * 2 ^ 26), emTyped 5 (a % 2 ^ 64 * 2 ^ 40)] (fun x => bitsOf (x % 2 ^ 128) 39 20)
  | _ => (c, none, 0)

/-- Queue a learn or move request of a slice: 64 entries (R157). -/
def learnPush (c : Chip) (x : LearnReq) : Chip :=
  if 64 ≤ (c.pipe.learnQ.filter (fun y => y.slice == x.slice)).length then c.bump (Reg.LRN_CNT 5) 1
  else { c with pipe.learnQ := c.pipe.learnQ ++ [x] }

/-- A SRC step (R157). -/
def srcStep (c : Chip) (k e : Nat) (m : Meta) (key : List Byte) (off : Nat) : Chip :=
  let mk := macKey key off
  let ks := [macEntry mk.1 mk.2 0 0]
  let r := c.findEm k (c.mapOf (emLogical ks) e) ks e
  let c1 := r.1
  let nhi := c.at_ e (Reg.FWD_PORT_LEARN_NHI m.slice m.port) Fd.FWD_PORT_LEARN_NHI_NHI
  let req := fun (old : Option Nat) => c1.learnPush ⟨m.slice, c1.gen m.slice, mk.1, mk.2, m.port, nhi, old, m.parcel⟩
  if r.2.err ≠ 0 then c1
  else if !r.2.hit then req none
  else
    let port := bitsOf r.2.entry 43 36
    if port = m.port then { c1 with tbl.emHit := mset noHit c1.tbl.emHit r.2.loc true }
    else if bitOf r.2.entry 105 then
      let c2 := c1.bump (Reg.LRN_CNT 3) 1
      if c2.on Reg.LRN_CFG Fd.LRN_CFG_STATIC_EVENT then
        c2.event 4 m.parcel 0x3D (some (m.slice, c2.gen m.slice)) (lrnData mk.1 mk.2 m.port (bitsOf r.2.entry 35 16) port)
      else c2
    else req (some port)

/-- The reason of a miss in a table (R173). -/
def missReason (table : Nat) : Nat := if table = 2 then 0x23 else if table = 3 then 0x24 else 0x20

/-- One valid step of a program: what is decided so far, and the last DST step's table (R172). -/
def progStep (k e vrf : Nat) (m : Meta) (key : List Byte) (learn : Bool) (r : Chip × Decided × Option Nat) (cfg : Word) :
    Chip × Decided × Option Nat :=
  if bfGet Fd.FWD_PROG_STEP_V cfg = 0 then r
  else
    let table := bfGet Fd.FWD_PROG_STEP_TABLE cfg
    let off := bfGet Fd.FWD_PROG_STEP_KEY_OFF cfg
    if bfGet Fd.FWD_PROG_STEP_ROLE cfg = 1 then (if learn then r.1.srcStep k e m key off else r.1, r.2.1, r.2.2)
    else
      let q := r.1.dstStep k e vrf table key off
      let d := match r.2.1 with
        | .none => if q.2.2 ≠ 0 then .bad (tableReason q.2.2) else match q.2.1 with
          | some nhi => .hit nhi
          | none => .none
        | d => d
      (q.1, d, some table)

/-- The next hop of the current NHI is read and its fields are copied into the record (R171, R173). -/
def copyNextHop (c : Chip) (k : Nat) (m : Meta) (nhi : Nat) : Chip × Meta :=
  let m1 := { m with nhi := nhi }
  if nhi = 0 then (c, m1.dropFor 0x21)
  else
    let r := c.findIx k 0 nhi m.epoch
    let x := r.2.entry
    if r.2.err ≠ 0 then (r.1, m1.dropFor (tableReason r.2.err))
    else if !r.2.hit then (r.1, m1.dropFor 0x21)
    else
      match bitsOf x 109 108 with
      | 3 =>
        let m2 := { m1 with queue := bitsOf x 106 90 }
        if bitOf x 107 then (r.1, m2.puntFor (bitsOf x 54 47))
        else (r.1, m2.dropFor (if bitsOf x 54 47 = 0 then 0x22 else bitsOf x 54 47))
      | 2 => (r.1, { m1 with queue := bitsOf x 106 90, repl := some (bitsOf x 70 55) })
      | _ => (r.1, { m1 with queue := bitsOf x 106 90 })

/-- A register of the copy that epoch e uses, whole. -/
def regAt (c : Chip) (e k : Nat) : Word := if e = c.epoch then mget regDefault c.active k else mget regDefault c.prev k

/-- The lookup stage (R172, R173, R178). A dropped packet takes no lookup (R134). -/
def lookupStage (c : Chip) (p : Pkt) : Chip × Pkt :=
  let m := p.md
  let s := m.slice
  let e := m.epoch
  let prog := (c.hdrPick e (Reg.FWD_HDR_MAP s) Fd.FWD_HDR_MAP_V Fd.FWD_HDR_MAP_PRIO Fd.FWD_HDR_MAP_PROG p.hdrs).getD
    (c.at_ e (Reg.FWD_PORT_CFG s m.port) Fd.FWD_PORT_CFG_PROG)
  let p0 := { p with prog := prog }
  if m.drop then (c, p0)
  else
    let vrf := c.at_ e (Reg.FWD_PORT_CFG s m.port) Fd.FWD_PORT_CFG_VRF
    let m1 := { m with vrf := vrf }
    let k := storeOf s
    if !c.on (Reg.FWD_CTRL s) Fd.FWD_CTRL_EN then (c, { p0 with md := m1.dropFor 0x29 })
    else if !c.on (Reg.TS_CTRL k) Fd.TS_CTRL_EN then (c, { p0 with md := if m1.punt then m1 else m1.dropFor 0x28 })
    else
      let learn := c.at_ e (Reg.FWD_PORT_CFG s m.port) Fd.FWD_PORT_CFG_LEARN == 1
      let r := (List.range 4).foldl (fun r i => progStep k e vrf m1 p.key learn r (c.regAt e (Reg.FWD_PROG_STEP s prog i)))
        (c, .none, none)
      let hit := match r.2.1 with
        | .hit _ => true
        | _ => false
      let p1 := { p0 with dstHit := hit }
      if m.punt then
        match r.2.1 with
        | .hit nhi =>
          let q := r.1.copyNextHop k { m1 with punt := false } nhi
          (q.1, { p1 with md := { m1 with nhi := if q.2.drop then 0 else nhi } })
        | _ => (r.1, { p1 with md := { m1 with nhi := 0 } })
      else
        match r.2.1 with
        | .bad reason => (r.1, { p1 with md := m1.dropFor reason })
        | .hit nhi =>
          let q := r.1.copyNextHop k m1 nhi
          (q.1, { p1 with md := q.2 })
        | .none =>
          let miss := c.at_ e (Reg.FWD_PORT_MISS_NHI s m.port) Fd.FWD_PORT_MISS_NHI_NHI
          if miss = 0 then
            (r.1, { p1 with md := m1.dropFor (match r.2.2 with
              | some t => missReason t
              | none => 0x27) })
          else
            let q := r.1.copyNextHop k m1 miss
            (q.1, { p1 with md := q.2 })

/-! The classifier. -/

/-- Byte i of the BYTES part of the key (R181). -/
def selByte (c : Chip) (s e prof : Nat) (key : List Byte) (i : Nat) : Nat :=
  let v := (c.regAt e (Reg.CLS_KSEL s prof (i / 4))).toNat / 2 ^ (8 * (i % 4)) % 256
  if bitOf v 7 then byteAt key (v % 128) else 0

/-- The result of range comparator r (R182). -/
def rangeHit (c : Chip) (s e : Nat) (m : Meta) (key : List Byte) (r : Nat) : Bool :=
  let cfg := c.regAt e (Reg.CLS_RANGE_CFG s r)
  if bfGet Fd.CLS_RANGE_CFG_V cfg = 0 then false
  else
    let off := c.at_ e (Reg.CLS_RANGE_OFF s r) Fd.CLS_RANGE_OFF_OFF
    let op := match bfGet Fd.CLS_RANGE_CFG_SRC cfg with
      | 0 => byteAt key off * 256 + byteAt key (off + 1)
      | 1 => m.len
      | _ => m.vrf % 65536
    let bnd := c.regAt e (Reg.CLS_RANGE_BND s r)
    let inside := decide (bfGet Fd.CLS_RANGE_BND_LO bnd ≤ op) && decide (op ≤ bfGet Fd.CLS_RANGE_BND_HI bnd)
    inside != (bfGet Fd.CLS_RANGE_CFG_INV cfg == 1)

/-- FLAGS of the key (R180). -/
def keyFlags (m : Meta) (dstHit : Bool) : Nat :=
  b2n m.drop * 128 + b2n m.punt * 64 + b2n m.repl.isSome * 32 + b2n dstHit * 16 + b2n (m.l3 != 0x1FF) * 8
    + b2n (m.l4 != 0x1FF) * 4 + b2n (m.inner != 0x1FF) * 2 + b2n m.poisoned

/-- The 480-bit key (R180). -/
def clsKey (c : Chip) (p : Pkt) : Nat :=
  let m := p.md
  let prof := c.at_ m.epoch (Reg.CLS_PROG_KPROF m.slice p.prog) Fd.CLS_PROG_KPROF_KPROF
  prof * 2 ^ 476 + m.port * 2 ^ 468 + m.parcel * 2 ^ 462 + m.vrf * 2 ^ 448 + keyFlags m p.dstHit * 2 ^ 440
    + (List.range 128).foldl (fun n r => n + b2n (c.rangeHit m.slice m.epoch m p.key r) * 2 ^ (312 + r)) 0
    + (List.range 39).foldl (fun n i => n + c.selByte m.slice m.epoch prof p.key i * 2 ^ (304 - 8 * i)) 0

/-- Whether a row takes part in a search of slice s at epoch e and matches, by its VALUE and MASK as they are stored (R200). A row
under repair is excluded. -/
def rowMatches (c : Chip) (s e key row x : Nat) : Bool :=
  let loc : Loc := ⟨4, s, row⟩
  bitOf x (960 + 109) && c.visible (tagOf 1088 x) e && !c.tbl.repairs.contains loc && !c.tbl.repairFail.contains loc
    && (let y := c.stored loc x
        ((key ^^^ y) &&& (y / 2 ^ 480)) % 2 ^ 480 == 0)

/-- The lowest address at which a visible row matches: row and content (R185). -/
def ruleSearch (c : Chip) (s e key : Nat) : Option (Nat × Nat) :=
  c.tbl.rules.findSome? (fun x => match x.2 with
    | some v => if c.rowMatches s e key x.1 v.toNat then some (x.1, v.toNat) else none
    | none => none)

/-- FWD of a common action. -/
def actFwd (a : Nat) : Nat := bitsOf a 63 62

/-- A common action is applied (R186, R187). -/
def applyAction (p : Pkt) (a dflt : Nat) : Pkt :=
  let m := { p.md with mirror := p.md.mirror || bitOf a 16, sample := p.md.sample || bitOf a 15 }
  let p1 := { p with md := m, capRule := p.capRule || bitOf a 15 }
  if m.drop then p1
  else
    let reason := if bitsOf a 14 7 = 0 then dflt else bitsOf a 14 7
    let m1 := match actFwd a with
      | 1 => { m with nhi := bitsOf a 61 42 }
      | 2 => m.dropFor reason
      | 3 => m.puntFor reason
      | _ => m
    let m2 := if bitOf a 23 then { m1 with cls := bitsOf a 22 20 } else m1
    let m3 := if bitOf a 19 then { m2 with colour := bitsOf a 18 17 } else m2
    { p1 with md := m3, setq := if bitOf a 41 then some (bitsOf a 40 24) else p.setq }

/-- The rule's action and then the pattern's, each field that the pattern's sets replacing the rule's (R191). -/
def applyBoth (p : Pkt) (rule pat : Nat) : Pkt :=
  let r := if actFwd pat = 0 then rule else rule % 2 ^ 62
  applyAction (applyAction p r 0x40) pat 0x47

/-- The anchor of a window (R186). -/
def anchorOf (m : Meta) (a : Nat) : Nat := [0, m.l3, m.l4, m.inner].getD a 0x1FF

/-- The region of an engine that serves packets of epoch e. -/
def patRegion (c : Chip) (n e : Nat) : Nat := c.at_ e (Reg.PAT_REGION_SEL n) Fd.PAT_REGION_SEL_REGION

/-- An engine can scan for packets of epoch e (R188). -/
def patReady (c : Chip) (n e : Nat) : Bool :=
  c.domOn (108 + n) && c.on (Reg.PAT_CTRL n) Fd.PAT_CTRL_EN
    && bitOf (c.fld (Reg.PAT_STATUS n) Fd.PAT_STATUS_VALID) (c.patRegion n e)

/-- A scan that is not made: skipped, or the packet dropped (R188). -/
def noScan (c : Chip) (n : Nat) (pfull : Bool) (p : Pkt) (reason : Nat) : Chip × Pkt :=
  if pfull then (c.bump (Reg.PAT_CNT n 3) 1, { p with md := p.md.dropFor reason }) else (c.bump (Reg.PAT_CNT n 2) 1, p)

/-- The port at the root of a queue's chain (R252). -/
def queuePort (c : Chip) (q : Nat) : Nat :=
  let sub := c.act (Reg.TM_Q_CFG0 q) Fd.TM_Q_CFG0_SUB
  let g := c.act (Reg.TM_N_CFG sub) Fd.TM_N_CFG_PARENT
  c.act (Reg.TM_G_CFG g) Fd.TM_G_CFG_PARENT % 256

/-- A port has a lane in a fenced domain (R369). -/
def portFenced (c : Chip) (n : Nat) : Bool :=
  (List.range (max 1 (c.pWidth n))).any (fun i =>
    c.on (Reg.PWR_DOM (9 * (n / 32) + (n % 32 + i) / 4)) Fd.PWR_DOM_FENCED)

/-- What a member selection finds: the final next hop's index and entry, or the reason of a drop. -/
inductive Pick where
  | bad (reason : Nat)
  | ok (nhi x : Nat)
  deriving DecidableEq, Repr

/-- Read a next hop at an epoch. -/
def readHop (c : Chip) (k e nhi : Nat) : Chip × Pick :=
  if nhi = 0 then (c, .bad 0x21)
  else
    let r := c.findIx k 0 nhi e
    if r.2.err ≠ 0 then (r.1, .bad (tableReason r.2.err))
    else if !r.2.hit then (r.1, .bad 0x21)
    else (r.1, .ok nhi r.2.entry)

/-- Member selection of a group by a hash in slice s; each selection of a slot is counted (R197). -/
def pickMember (c : Chip) (s e g hash : Nat) : Chip × Pick :=
  let k := storeOf s
  let r := c.findIx k 2 g e
  let n := bitsOf r.2.entry 25 13
  if r.2.err ≠ 0 then (r.1, .bad (tableReason r.2.err))
  else if !r.2.hit then (r.1, .bad 0x21)
  else if n = 0 then (r.1, .bad 0x26)
  else
    let b := (r.1.bump (Reg.CLS_CNT s 3) 1).findIx k 1 (bitsOf r.2.entry 45 26 + hash * n / 65536) e
    if b.2.err ≠ 0 then (b.1, .bad (tableReason b.2.err))
    else if !b.2.hit then (b.1, .bad 0x21)
    else
      let f := b.1.readHop k e (bitsOf b.2.entry 45 26)
      match f.2 with
      | .bad x => (f.1, .bad x)
      | .ok nhi x => if bitsOf x 109 108 = 1 then (f.1, .bad 0x41) else (f.1, .ok nhi x)

/-- HASH rotated left by 4 bits (R369). -/
def rotHash (h : Nat) : Nat := h * 16 % 65536 + h / 4096

/-- Up to n retries of a selection whose port is fenced (R369). -/
def retryMember (s e g : Nat) : Nat → Chip → Nat → Chip × Option Pick
  | 0, c, _ => (c, none)
  | n + 1, c, hash =>
    let r := c.pickMember s e g (rotHash hash)
    match r.2 with
    | .ok nhi x =>
      if r.1.portFenced (r.1.queuePort (bitsOf x 106 90)) then retryMember s e g n r.1 (rotHash hash)
      else (r.1.bump (Reg.PWR_CNT 8) 1, some (.ok nhi x))
    | .bad _ => retryMember s e g n r.1 (rotHash hash)

/-- The member of a group for a packet: selection, and redirection away from a fenced port (R197, R369). -/
def selectMember (c : Chip) (s e g hash : Nat) : Chip × Pick :=
  let r := c.pickMember s e g hash
  match r.2 with
  | .bad x => (r.1, .bad x)
  | .ok nhi x =>
    if r.1.portFenced (r.1.queuePort (bitsOf x 106 90)) then
      let t := retryMember s e g 3 r.1 hash
      (t.1, t.2.getD (.ok nhi x))
    else (r.1, .ok nhi x)

/-- Final resolution (R195, R197): the packet, and the rewrite index of its final next hop. -/
def resolve (c : Chip) (p : Pkt) : Chip × Pkt × Nat :=
  let m := p.md
  let r := c.readHop (storeOf m.slice) m.epoch m.nhi
  let f := match r.2 with
    | .bad x => (r.1, Pick.bad x)
    | .ok nhi x =>
      if bitsOf x 109 108 = 1 then r.1.selectMember m.slice m.epoch (bitsOf x 70 55) m.hash else (r.1, Pick.ok nhi x)
  match f.2 with
  | .bad x => (f.1, { p with md := m.dropFor x }, 0)
  | .ok nhi x =>
    let m1 := { m with nhi := nhi, queue := p.setq.getD (bitsOf x 106 90) }
    match bitsOf x 109 108 with
    | 3 =>
      if bitOf x 107 then (f.1, { p with md := m1.puntFor (bitsOf x 54 47) }, 0)
      else (f.1, { p with md := m1.dropFor (if bitsOf x 54 47 = 0 then 0x22 else bitsOf x 54 47) }, 0)
    | 2 => (f.1, { p with md := { m1 with repl := some (bitsOf x 70 55) } }, bitsOf x 89 71)
    | _ => (f.1, { p with md := m1 }, bitsOf x 89 71)

/-- What the classifier makes of a packet: it goes on, or it waits for a scan. -/
inductive Classed where
  | done (p : Pkt)
  | scan (r : PatReq)
  deriving DecidableEq, Repr

/-- Steps 2 to 4 of R179, up to the hand-off of a window (R188, R189). -/
def classify (c : Chip) (p : Pkt) : Chip × Classed :=
  let s := p.md.slice
  if !c.on (Reg.CLS_CTRL s) Fd.CLS_CTRL_EN then (c, .done { p with md := p.md.dropFor 0x45 })
  else
    let c0 := c.bump (Reg.CLS_CNT s 0) 1
    let hit := c0.ruleSearch s p.md.epoch (c0.clsKey p)
    let c1 := c0.tick
    match hit with
    | none => (c1, .done p)
    | some (row, x) =>
      let r := (c1.bump (Reg.CLS_CNT s 1) 1).readWords (fun g => decide (15 ≤ g)) ⟨4, s, row⟩
      let p1 := { p with md := { p.md with rule := some (row / 2) } }
      if r.2 ≠ 0 then (r.1, .done { p1 with md := p1.md.dropFor 0x42 })
      else
        let w := x / 2 ^ 960
        let a := bitsOf w 108 45
        let p2 := applyAction p1 a 0x40
        if !bitOf w 44 || p2.md.drop then (r.1, .done p2)
        else
          let n := bitsOf w 43 42
          let pfull := bitOf w 10
          let anchor := anchorOf p1.md (bitsOf w 25 23)
          let first := anchor + bitsOf w 22 15
          let data := p1.head.bytes.length
          let c2 := r.1.bump (Reg.CLS_CNT s 2) 1
          if anchor = 0x1FF ∨ data ≤ first + 1 then (c2.bump (Reg.PAT_CNT n 4) 1, .done p2)
          else if !c2.patReady n p1.md.epoch then
            let q := c2.noScan n pfull p2 0x46
            (q.1, .done q.2)
          else if 256 ≤ (c2.pipe.patQ.filter (fun y => y.engine == n)).length then
            let q := c2.noScan n pfull p2 0x44
            (q.1, .done q.2)
          else
            (c2, .scan ⟨n, p1, bitsOf w 41 26, first, min (first + 32 * (bitsOf w 14 12 + 1)) data, bitOf w 11, pfull, a⟩)

/-! Scans. -/

/-- A match: pattern address, its rule, and the last byte of the match in the window. -/
structure PatHit where
  addr : Nat
  rule : Nat
  last : Nat
  deriving DecidableEq, Repr

/-- Priority of a pattern rule (R191). -/
def PatHit.prio (h : PatHit) : Nat := bitsOf h.rule 127 120

/-- First word of a region's set in engine n's automaton memory; a wide set begins in region 0. -/
def patBase (c : Chip) (n region : Nat) : Nat := (if c.on (Reg.PAT_STATUS n) Fd.PAT_STATUS_WIDE then 0 else region) * 2 ^ 20

/-- The flipped bits in the set of a region, their words counted from its first: the header, the rules and the automaton (R193). -/
def patFlips (c : Chip) (n region : Nat) : List Hit :=
  (c.tbl.upsets.filter (fun u => u.loc.space == 5 && u.loc.unit == n && (c.patBase n region == u.loc.index / 2 ^ 20 * 2 ^ 20
    || c.on (Reg.PAT_STATUS n) Fd.PAT_STATUS_WIDE))).map
    (fun u => { u with loc := ⟨5, n, u.loc.index - c.patBase n region⟩ })

/-- Pattern rule a of a region as it is stored: words 8 + 2a and 9 + 2a. -/
def patRule (c : Chip) (n region a : Nat) (flips : List Hit) : Nat :=
  let f := fun (w : Nat) => flipMask (flips.filter (fun u => u.loc.index == w))
  (mget patZero c.tbl.patRules (16384 * c.patKey n region + a)).toNat ^^^ (f (8 + 2 * a) + f (9 + 2 * a) * 2 ^ 64)

/-- The automaton of a region as it is stored; its first byte is byte 0 of word 32,776. -/
def patAut (c : Chip) (n region : Nat) (flips : List Hit) : List Byte :=
  (flips.filter (fun u => decide (32776 ≤ u.loc.index))).foldl (fun l u =>
    l.modify (8 * (u.loc.index - 32776) + u.seg) (fun b => b ^^^ BitVec.ofNat 8 (flipMask [{ u with seg := 0 }])))
    (mget autNone c.tbl.patAut (c.patKey n region))

/-- Every match of the patterns that take part (R190). -/
def patHits (c : Chip) (n region groups : Nat) (window : List Byte) : List PatHit :=
  let flips := c.patFlips n region
  let aut := c.patAut n region flips
  (List.range 16384).flatMap (fun a =>
    let r := c.patRule n region a flips
    if bitOf r 115 && bitOf groups (bitsOf r 119 116) then
      ((Config.patMatch aut a window).filter (fun l => decide (l < window.length))).map (fun l => ⟨a, r, l⟩)
    else [])

/-- The better of two matches under a resolution (R190). -/
def PatHit.better (first : Bool) (x y : PatHit) : PatHit :=
  let byPrio := if y.prio < x.prio then x else if x.prio < y.prio then y else if y.addr < x.addr then y else x
  if first then (if x.last < y.last then x else if y.last < x.last then y else byPrio)
  else if x.addr = y.addr then (if y.last < x.last then y else x)
  else byPrio

/-- The result of a scan. -/
def patBest (first : Bool) : List PatHit → Option PatHit
  | [] => none
  | h :: l => some (l.foldl (PatHit.better first) h)

/-- Scan a window in a region: the chip after the parity checks, whether an error was met, and the result. A first-match scan
reads no further than its result (R190). -/
def scan (c : Chip) (n region groups : Nat) (pmode : Bool) (window : List Byte) : Chip × Bool × Option PatHit :=
  let aut := c.patAut n region (c.patFlips n region)
  let best := patBest pmode (c.patHits n region groups window)
  let read := match best with
    | some h => if pmode then window.take (h.last + 1) else window
    | none => window
  let r := c.readLocs ((Config.patReads aut read).map (fun w => ⟨5, n, c.patBase n region + w⟩))
  (r.1, r.2 != 0, best)

/-- The scan of a queued packet, with the actions that follow (R188, R190, R191). -/
def scanReq (c : Chip) (x : PatReq) : Chip × Pkt :=
  let n := x.engine
  let r := (c.bump (Reg.PAT_CNT n 0) 1).scan n (c.patRegion n x.pkt.md.epoch) x.groups x.pmode
    (slice x.pkt.head.bytes x.first (x.last - x.first))
  if r.2.1 then r.1.noScan n x.pfull (applyAction x.pkt x.act 0x40) 0x43
  else
    match r.2.2 with
    | none => (r.1, applyAction x.pkt x.act 0x40)
    | some h =>
      let p := { x.pkt with md := { x.pkt.md with pat := some (n, h.addr) } }
      (r.1.bump (Reg.PAT_CNT n 1) 1, applyBoth p x.act (h.rule % 2 ^ 64))

/-! SCAN_TEST and READ_RULE (R203). -/

/-- The region that a PAT mailbox argument names. -/
def patArgRegion (c : Chip) (n a0 : Nat) : Nat := if bitOf a0 18 then c.patRegion n c.epoch else bitsOf a0 17 17

/-- The 256 test bytes. -/
def patInput (c : Chip) (n len : Nat) : List Byte :=
  ((List.range 64).flatMap (fun j => leBytes 4 (c.rd (Reg.PAT_MBX_IN n j)))).take len

/-- SCAN_TEST. -/
def scanTestAct (hits : List Hit) (n : Nat) (args : List Nat) (c : Chip) : Chip × Option (Nat × List Nat) :=
  let a0 := args.getD 0 0
  let len := args.getD 1 0
  if len = 0 ∨ 256 < len then (c, some (1, []))
  else if !c.domOn (108 + n) then (c, some (3, []))
  else
    let region := c.patArgRegion n a0
    if !bitOf (c.fld (Reg.PAT_STATUS n) Fd.PAT_STATUS_VALID) region then (c, some (2, []))
    else
      let r := (c.strike hits).scan n region (a0 % 65536) (bitOf a0 16) (c.patInput n len)
      if r.2.1 then (r.1, some (4, []))
      else
        match r.2.2 with
        | some h => (r.1, some (0, [2 ^ 31 + h.addr, h.last * 2 ^ 16 + h.prio, 0, 0]))
        | none => (r.1, some (0, [0, 0, 0, 0]))

/-- SCAN_TEST. -/
def opScanTest (rq : Req) (tag : BitVec 16) (engine : Fin 4) (hits : List Hit) (c : Chip) : Chip :=
  c.mbxRun rq tag (.pat engine) 1 (fun c a => scanTestAct hits engine.val a c)

/-- READ_RULE. Pattern rules lie in automaton memory: their words follow the header's at the start of the set. -/
def readRuleAct (hits : List Hit) (n : Nat) (args : List Nat) (c : Chip) : Chip × Option (Nat × List Nat) :=
  let region := bitsOf (args.getD 0 0) 17 17
  let a := args.getD 1 0
  if 16384 ≤ a then (c, some (1, []))
  else if !c.domOn (108 + n) then (c, some (3, []))
  else if !bitOf (c.fld (Reg.PAT_STATUS n) Fd.PAT_STATUS_VALID) region then (c, some (2, []))
  else
    let base := c.patBase n region + 8 + 2 * a
    let r := (c.strike hits).readLocs [⟨5, n, base⟩, ⟨5, n, base + 1⟩]
    if r.2 ≠ 0 then (r.1, some (4, []))
    else
      let v := r.1.patRule n region a (r.1.patFlips n region)
      (r.1, some (0, (List.range 4).map (fun i => v / 2 ^ (32 * i) % 2 ^ 32)))

/-- READ_RULE. -/
def opReadRule (rq : Req) (tag : BitVec 16) (engine : Fin 4) (hits : List Hit) (c : Chip) : Chip :=
  c.mbxRun rq tag (.pat engine) 2 (fun c a => readRuleAct hits engine.val a c)

end Chip

/-! The meanings. -/

/-- SCAN_TEST. -/
def execScanTest (rq : Req) (tag : BitVec 16) (engine : Fin 4) (hits : List Hit) (s : State) : Host.Outcome State Fault Refusal :=
  runChip s (Chip.opScanTest rq tag engine hits)

/-- READ_RULE. -/
def execReadRule (rq : Req) (tag : BitVec 16) (engine : Fin 4) (hits : List Hit) (s : State) : Host.Outcome State Fault Refusal :=
  runChip s (Chip.opReadRule rq tag engine hits)

end Sys2Proof.Machine
end

