-- ==== Sys2Proof/Machine/Rewrite.lean ====
section
/-!
DEFINITION. The rewrite engine: rewrite entries, rewrite programs and their actions, length, MTU (R204 to R211, R216, R217).
A microword's encoding belongs to the builder: Config.rwrDecode gives its action's code and two parameters (log 15). Codes:
0 end; 1 MAC (p1 1: before a header that has none); 2 tag push, 3 pop, 4 replace (p1 0 OTAG, 1 ITAG; p2 0 C-tag, 1 S-tag);
5 MPLS push (p1 labels; p2 1: TTL 255), 6 pop (p1 labels), 7 swap; 8 TTL; 9 IPv4 checksum; 10 encapsulate (p1 0 VXLAN, 1 GRE, 2 IP-in-IP, 3 SRv6; p2
template bytes); 11 SRv6 End; 12 decapsulate (p1 0 L3_OFF, 1 INNER_OFF); 13 PTP mark (p1 mode; p2 0 Ethernet, 1 IPv4, 2 IPv6);
14 drop, 15 punt (p1 reason). A code of 16 or more is the action of the code less 16, and the program's last.
-/

namespace Sys2Proof.Machine

/-- A copy while its program runs: the received frame, the rewritten head, how many received bytes it stands for (H), the entry,
the template bytes and how many are used, header words changed and not yet in the IPv4 checksum, the write descriptor of R210
with the UDP header's place, counts of marks made and skipped, and the program's end: none while it runs, a drop or a punt. -/
structure Rw where
  frame : List Byte
  hd : List Byte
  used : Nat
  ent : Nat
  data : List Byte
  cur : Nat
  fix : List (Nat × Nat)
  mode : Nat
  cfOff : Nat
  tsOff : Nat
  trOff : Nat
  udpOff : Nat
  marks : Nat
  skips : Nat
  fin : Bool
  stop : Option (Bool × Nat)
  deriving DecidableEq, Repr

namespace Rw

/-- Before the program. -/
def start (frame : List Byte) (ent : Nat) (data : List Byte) : Rw :=
  ⟨frame, [], 0, ent, data, 0, [], 0, 0, 0, 0, 0, 0, 0, false, none⟩

/-- Byte i of the frame as rewritten so far. -/
def at_ (w : Rw) (i : Nat) : Nat :=
  if i < w.hd.length then byteAt w.hd i else byteAt w.frame (w.used + (i - w.hd.length))

/-- The 16-bit word at i. -/
def word (w : Rw) (i : Nat) : Nat := w.at_ i * 256 + w.at_ (i + 1)

/-- Bytes of the frame as rewritten so far. -/
def total (w : Rw) : Nat := w.hd.length + (w.frame.length - w.used)

/-- Consume received bytes until the rewritten head has n, as far as the head of 512 bytes goes. -/
def pull (w : Rw) (n : Nat) : Rw :=
  let t := min (n - w.hd.length) (min 512 w.frame.length - w.used)
  { w with hd := w.hd ++ slice w.frame w.used t, used := w.used + t }

/-- Overwrite bytes. -/
def put (w : Rw) (o : Nat) (b : List Byte) : Rw :=
  let w1 := w.pull (o + b.length)
  { w1 with hd := patchAt w1.hd o b }

/-- Insert bytes. -/
def insert (w : Rw) (o : Nat) (b : List Byte) : Rw :=
  let w1 := w.pull o
  { w1 with hd := w1.hd.take o ++ b ++ w1.hd.drop o }

/-- Remove bytes. -/
def remove (w : Rw) (o n : Nat) : Rw :=
  let w1 := w.pull (o + n)
  { w1 with hd := w1.hd.take o ++ w1.hd.drop (o + n) }

/-- The program drops the copy. -/
def fail (w : Rw) (reason : Nat) : Rw := { w with stop := some (false, reason) }

/-- VLAN tags of the frame from tag i on. -/
def tagsFrom (w : Rw) : Nat → Nat → Nat
  | 0, _ => 0
  | n + 1, i => if w.word (12 + 4 * i) = 0x8100 ∨ w.word (12 + 4 * i) = 0x88A8 then 1 + tagsFrom w n (i + 1) else 0

/-- VLAN tags of the frame. -/
def tags (w : Rw) : Nat := w.tagsFrom 8 0

/-- Where the EtherType stands. -/
def etOff (w : Rw) : Nat := 12 + 4 * w.tags

/-- The EtherType. -/
def et (w : Rw) : Nat := w.word w.etOff

/-- Where the bytes after the EtherType begin. -/
def l3 (w : Rw) : Nat := w.etOff + 2

/-- MPLS labels from offset o to the bottom of the stack. -/
def labelsFrom (w : Rw) : Nat → Nat → Nat
  | 0, _ => 0
  | n + 1, o => if w.at_ (o + 2) % 2 = 1 then 1 else 1 + labelsFrom w n (o + 4)

/-- The EtherType announces MPLS. -/
def isMpls (w : Rw) : Bool := w.et == 0x8847 || w.et == 0x8848

/-- MPLS labels of the frame. -/
def labels (w : Rw) : Nat := if w.isMpls then w.labelsFrom 64 w.l3 else 0

/-- TTL or hop limit of an IP header at o. -/
def ipTtl (w : Rw) (o : Nat) : Option Nat :=
  match w.at_ o / 16 with
  | 4 => some (w.at_ (o + 8))
  | 6 => some (w.at_ (o + 7))
  | _ => none

/-- The TTL that a pushed label copies. -/
def innerTtl (w : Rw) : Nat :=
  if w.isMpls then w.at_ (w.l3 + 3)
  else if w.et = 0x0800 ∨ w.et = 0x86DD then (w.ipTtl w.l3).getD 255
  else 255

/-- DMAC and source MAC (R205). -/
def macs (w : Rw) (smac : Nat) : List Byte := beBytes 6 (bitsOf w.ent 202 155) ++ beBytes 6 smac

/-- The EtherType of an IP version. -/
def ipType (v : Nat) : Nat := if v = 6 then 0x86DD else 0x0800

/-- MAC. -/
def mac (w : Rw) (smac p1 : Nat) : Rw :=
  if p1 = 1 then w.insert 0 (w.macs smac ++ beBytes 2 (ipType (w.at_ 0 / 16))) else w.put 0 (w.macs smac)

/-- The four bytes of a tag. -/
def tagBytes (w : Rw) (p1 p2 : Nat) : List Byte :=
  beBytes 2 (if p2 = 1 then 0x88A8 else 0x8100) ++ beBytes 2 (if p1 = 1 then bitsOf w.ent 130 115 else bitsOf w.ent 146 131)

/-- Tag push. -/
def tagPush (w : Rw) (p1 p2 : Nat) : Rw := if 2 ≤ w.tags then w.fail 0x64 else w.insert 12 (w.tagBytes p1 p2)

/-- Tag pop; a tag action may leave at most 2 tags (R206, log 136). -/
def tagPop (w : Rw) : Rw := if w.tags = 0 ∨ 3 < w.tags then w.fail 0x64 else w.remove 12 4

/-- Tag replace. -/
def tagReplace (w : Rw) (p1 p2 : Nat) : Rw := if w.tags = 0 ∨ 2 < w.tags then w.fail 0x64 else w.put 12 (w.tagBytes p1 p2)

/-- n pushed labels from the DATA chain; the bottom one has S when no label was there. -/
def pushBytes (w : Rw) (ttl : Nat) (bottom : Bool) (n : Nat) : List Byte :=
  (List.range n).flatMap (fun i =>
    let v := beNat (slice w.data (w.cur + 4 * i) 4) / 512
    beBytes 4 (v * 512 + b2n (bottom && i + 1 == n) * 256 + ttl))

/-- MPLS push, with the inner TTL or with 255. -/
def mplsPush (w : Rw) (n p2 : Nat) : Rw :=
  let m := w.labels
  if n = 0 ∨ 8 < m + n then w.fail 0x63
  else
    let o := w.l3
    let w1 := (w.insert o (w.pushBytes (if p2 = 1 then 255 else w.innerTtl) (m == 0) n)).put (o - 2) (beBytes 2 0x8847)
    { w1 with cur := w1.cur + 4 * n }

/-- MPLS pop; below the bottom label the EtherType follows the IP version. -/
def mplsPop (w : Rw) (n : Nat) : Rw :=
  let m := w.labels
  if m < n then w.fail 0x63
  else
    let o := w.l3
    let w1 := w.remove o (4 * n)
    let v := w1.at_ o / 16
    if n = m ∧ 0 < n ∧ (v = 4 ∨ v = 6) then w1.put (o - 2) (beBytes 2 (ipType v)) else w1

/-- MPLS swap: the label is PARAM[19:0]. -/
def mplsSwap (w : Rw) : Rw :=
  if w.labels = 0 then w.fail 0x63
  else
    let v := bitsOf w.ent 110 79 % 2 ^ 20
    let o := w.l3
    w.put o (beBytes 3 (v * 16 + w.at_ (o + 2) % 16))

/-- A decremented TTL byte at o. -/
def ttlAt (w : Rw) (o : Nat) (punt : Bool) : Rw :=
  if w.at_ o ≤ 1 then { w with stop := some (punt, 0x61) } else w.put o [BitVec.ofNat 8 (w.at_ o - 1)]

/-- TTL (R207). -/
def ttl (w : Rw) (punt : Bool) : Rw :=
  if w.isMpls then w.ttlAt (w.l3 + 3) punt
  else if w.et = 0x0800 then
    let w1 := w.ttlAt (w.l3 + 8) punt
    { w1 with fix := w1.fix ++ [(w.word (w.l3 + 8), w1.word (w.l3 + 8))] }
  else if w.et = 0x86DD then w.ttlAt (w.l3 + 7) punt
  else w

/-- A checksum after words have changed (RFC 1624). -/
def fixSum (sum : Nat) (l : List (Nat × Nat)) : Nat :=
  65535 - l.foldl (fun s x => ocAdd (ocAdd s (65535 - x.1)) x.2) (65535 - sum)

/-- IPv4 checksum. -/
def ipv4Sum (w : Rw) : Rw :=
  if w.et = 0x0800 then
    let o := w.l3 + 10
    { w.put o (beBytes 2 (fixSum (w.word o) w.fix)) with fix := [] }
  else { w with fix := [] }

/-- Outer lengths and the outer IPv4 checksum of the IP header at o. -/
def outerIp (w : Rw) (o : Nat) : Rw :=
  if w.at_ o / 16 = 4 then
    let w1 := (w.put (o + 2) (beBytes 2 (w.total - o))).put (o + 10) [0, 0]
    let h := (List.range (4 * (w1.at_ o % 16))).map (fun i => BitVec.ofNat 8 (w1.at_ (o + i)))
    w1.put (o + 10) (beBytes 2 (65535 - ocSumBe h))
  else w.put (o + 4) (beBytes 2 (w.total - o - 40))

/-- Where the header after the IP header at o begins. -/
def afterIp (w : Rw) (o : Nat) : Nat := if w.at_ o / 16 = 4 then o + 4 * (w.at_ o % 16) else o + 40

/-- SIDs of the SRH at o. -/
def sids (w : Rw) (o : Nat) : Nat := w.at_ (o + 1) / 2

/-- Encapsulate. -/
def encap (w : Rw) (hash kind n : Nat) : Rw :=
  let b := slice w.data w.cur n
  let param := bitsOf w.ent 110 79
  if kind = 0 then
    let w1 := { w.insert 0 b with cur := w.cur + n }
    let u := w1.afterIp w1.l3
    let w2 := ((w1.put u (beBytes 2 (0xC000 + hash % 0x4000))).put (u + 4) (beBytes 2 (w1.total - u) ++ [0, 0])).put (u + 12)
      (beBytes 3 param)
    w2.outerIp w2.l3
  else
    let o := w.l3
    let w1 := { w.insert o b with cur := w.cur + n }
    let w2 := w1.put (o - 2) (beBytes 2 (ipType (byteAt b 0 / 16)))
    let h := w2.afterIp o
    let w3 : Rw := if kind = 1 ∧ bitOf (w2.at_ h) 5 then w2.put (h + (if bitOf (w2.at_ h) 7 then 8 else 4)) (beBytes 4 param) else w2
    if kind = 3 ∧ w3.at_ (o + 6) = 43 ∧ 6 < w3.sids (o + 40) then w3.fail 0x69 else w3.outerIp o

/-- SRv6 End. -/
def srv6End (w : Rw) : Rw :=
  let h := w.l3 + 40
  let n := w.at_ (h + 3)
  if w.et ≠ 0x86DD ∨ w.at_ (w.l3 + 6) ≠ 43 ∨ n = 0 ∨ 6 < w.sids h then w.fail 0x69
  else
    let sid := (List.range 16).map (fun i => BitVec.ofNat 8 (w.at_ (h + 8 + 16 * (n - 1) + i)))
    (w.put (h + 3) [BitVec.ofNat 8 (n - 1)]).put (w.l3 + 24) sid

/-- Decapsulate: the received bytes before the anchor go. -/
def decap (w : Rw) (anchor : Nat) : Rw :=
  if anchor = 0x1FF then w.fail 0x68
  else if w.used ≤ anchor then { w with hd := [], used := anchor }
  else { w with hd := w.hd.drop (w.hd.length - (w.used - anchor)) }

/-- Bytes of the frame as rewritten so far that the head still reaches: the received head has 512 (R211). -/
def reach (w : Rw) : Nat := w.hd.length + (min 512 w.frame.length - w.used)

/-- Move the trailer into place for PTP over UDP/IPv6 (R211). m: the PTP message; the datagram must end within the head. -/
def ptpTrailer (w : Rw) (m mode : Nat) : Rw :=
  let o := w.l3
  let u := o + 40
  let tr := m + w.word (m + 2)
  let end_ := o + 40 + w.word (o + 4)
  if w.reach < end_ then { w with skips := w.skips + 1 }
  else
    let short := w.word (u + 4) < 8 + w.word (m + 2) + 2
    let w1 := if short then
        let l := w.word (u + 4)
        let p := w.word (o + 4)
        let w2 := ((w.insert end_ [0, 0]).put (u + 4) (beBytes 2 (l + 2))).put (o + 4) (beBytes 2 (p + 2))
        w2.put (u + 6) (beBytes 2 (fixSum (w2.word (u + 6)) [(l, l + 2), (l, l + 2)]))
      else w
    { w1 with mode := mode, cfOff := m + 8, tsOff := m + 34, trOff := tr, udpOff := u, marks := w1.marks + 1 }

/-- PTP mark (R210, R211). -/
def ptp (w : Rw) (mode kind : Nat) : Rw :=
  let set := fun (w : Rw) (m : Nat) =>
    { w.pull (m + 44) with mode := mode, cfOff := m + 8, tsOff := m + 34, trOff := 0, udpOff := 0, marks := w.marks + 1 }
  match kind with
  | 0 => set w w.l3
  | 1 =>
    let u := w.afterIp w.l3
    if w.reach < w.l3 + w.word (w.l3 + 2) then { w with skips := w.skips + 1 } else set (w.put (u + 6) [0, 0]) (u + 8)
  | _ => w.ptpTrailer (w.l3 + 48) mode

/-- One action. -/
def action (w : Rw) (md : Meta) (onestep puntTtl : Bool) (smac code p1 p2 : Nat) : Rw :=
  match code with
  | 1 => w.mac smac p1
  | 2 => w.tagPush p1 p2
  | 3 => w.tagPop
  | 4 => w.tagReplace p1 p2
  | 5 => w.mplsPush p1 p2
  | 6 => w.mplsPop p1
  | 7 => w.mplsSwap
  | 8 => w.ttl puntTtl
  | 9 => w.ipv4Sum
  | 10 => w.encap md.hash p1 p2
  | 11 => w.srv6End
  | 12 => w.decap (if p1 = 1 then md.inner else md.l3)
  | 13 => w.ptp (if p1 = 2 ∧ onestep then 2 else 1) p2
  | 14 => w.fail (ucReason p1)
  | 15 => { w with stop := some (true, ucReason p1) }
  | _ => { w with fin := true }

/-- Where the outermost IP header of the rewritten head stands (R263). -/
def ecnOff (w : Rw) : Option Nat :=
  let o := w.l3 + 4 * w.labels
  if (w.isMpls || w.et == 0x0800 || w.et == 0x86DD) && (w.ipTtl o).isSome then some o else none

end Rw

namespace Chip

/-- A rewrite entry: entry, or the reason of a drop (R205, R216). -/
def readRewrite (c : Chip) (s e i kind : Nat) : Chip × Except Nat Nat :=
  let r := c.findIx (storeOf s) 3 i e
  if r.2.err ≠ 0 then (r.1, .error (if r.2.err = 2 then 0xA0 else 0x67))
  else if !r.2.hit ∨ bitsOf r.2.entry 237 236 ≠ kind then (r.1, .error 0x68)
  else (r.1, .ok r.2.entry)

/-- The template bytes of a DATA chain (R205). -/
def readChain (s e : Nat) : Nat → Chip → Nat → List Byte → Chip × Except Nat (List Byte)
  | 0, c, _, l => (c, .ok l)
  | n + 1, c, i, l =>
    let r := c.readRewrite s e i 1
    match r.2 with
    | .error x => (r.1, .error x)
    | .ok d => readChain s e n r.1 (i + 1) (l ++ beBytes 28 (d % 2 ^ 224))

/-- The microwords of a program: at most 32 (R206). -/
def runProgram (p : Pkt) (onestep punt : Bool) (smac : Nat) : Nat → Chip → Nat → Rw → Chip × Rw
  | 0, c, _, w => (c, w.fail 0x6A)
  | n + 1, c, a, w =>
    let s := p.md.slice
    let r := c.readLoc ⟨3, s, 4096 * p.bank + a % 2048⟩
    if r.2 ≠ 0 then (r.1, w.fail 0x66)
    else
      match mget ucEmpty c.tbl.rwrCs (2048 * p.bank + a % 2048) with
      | none => (r.1, w.fail 0x68)
      | some word =>
        let d := Config.rwrDecode word
        let w1 := w.action p.md onestep punt smac (d.1 % 16) d.2.1 d.2.2
        let w2 := if 384 < w1.hd.length && w1.stop.isNone then w1.fail 0x65 else w1
        if w2.fin || w2.stop.isSome || decide (16 ≤ d.1) then (r.1, w2) else runProgram p onestep punt smac n r.1 (a + 1) w2

/-- What rewriting makes of a copy: the rewritten head with L′, a drop or a punt. -/
inductive RwOut where
  | ok (w : Rw) (len : Nat)
  | drop (reason : Nat)
  | punt (reason : Nat)
  deriving DecidableEq, Repr

/-- Rewrite one copy of a packet, whose frame is given, by a rewrite entry (R204 to R211). -/
def rewrite (c : Chip) (p : Pkt) (frame : List Byte) (ent : Nat) : Chip × RwOut :=
  let s := p.md.slice
  let e := p.md.epoch
  let ch := readChain s e (bitsOf ent 205 203) c (bitsOf ent 224 206) []
  match ch.2 with
  | .error x => (ch.1, .drop x)
  | .ok data =>
    let i := bitsOf ent 154 147
    let smac := (ch.1.at_ e (Reg.RWR_SMAC_HI s i) Fd.RWR_SMAC_HI_MAC) * 2 ^ 32 + ch.1.at_ e (Reg.RWR_SMAC_LO s i) Fd.RWR_SMAC_LO_MAC
    let onestep := match p.head.inj with
      | some d => d.onestep
      | none => false
    let r := runProgram p onestep (ch.1.at_ e (Reg.RWR_CFG s) Fd.RWR_CFG_TTL_PUNT == 1) smac 32 ch.1 (bitsOf ent 235 225)
      (Rw.start frame ent data)
    let c1 := (r.1.bump (Reg.RWR_CNT s 10) r.2.marks).bump (Reg.RWR_CNT s 11) r.2.skips
    match r.2.stop with
    | some (true, x) => (c1, .punt x)
    | some (false, x) => (c1, .drop x)
    | none =>
      let w := match r.2.ecnOff with
        | some o => r.2.pull (o + 20)
        | none => r.2
      let c2 := c1.bump (Reg.RWR_CNT s 0) 1
      let l := w.total + 4
      let c3 := if l < 64 then c2.bump (Reg.RWR_CNT s 9) 1 else c2
      let len := max l 64
      let m := bitsOf ent 114 111
      if c3.at_ e (Reg.RWR_MTU s m) Fd.RWR_MTU_MTU < len then
        let c4 := c3.bump (Reg.RWR_CNT s 8) 1
        (c4, if c3.at_ e (Reg.RWR_MTU s m) Fd.RWR_MTU_PUNT = 1 then .punt 0x62 else .drop 0x62)
      else (c3, .ok w len)

end Chip

end Sys2Proof.Machine
end

