-- ==== Sys2Proof/Machine/TmIn.lean ====
section
/-!
DEFINITION. The traffic manager's ingress side: time base (R251), policers (R255 to R257), depths, random early drop and ECN
(R259 to R263), the spill decision (R236, R237, R260), and the order of work (R254).
-/

namespace Sys2Proof.Machine

/-- The time base counts 2^-32 ns (R251). -/
def tbNs : Nat := 2 ^ 32

/-- One millisecond of the time base. -/
def tbMs : Nat := 1000000 * tbNs

/-- 16-bit Galois LFSR of x^16 + x^14 + x^13 + x^11 + 1 (R262, log 31). -/
def lfsrStep (r : Nat) : Nat := if r % 2 = 1 then (r / 2) ^^^ 0xB400 else r / 2

/-- Bytes that a rate in kb/s gives over a span of the time base, with what was carried: whole bytes and the new carry in
2^-32 / 8,000,000 bytes (R256). -/
def tokenGain (rate span carry : Nat) : Nat × Nat :=
  ((rate * span + carry) / (8000000 * tbNs), (rate * span + carry) % (8000000 * tbNs))

/-- L' plus a signed 8-bit adjustment (R253); a sum below 0 counts as 0 (log 32). -/
def adjusted (len adj : Nat) : Nat := ((len : Int) + signedOf 8 adj).toNat

/-- A copy's size in cells (R253). -/
def cellsOf (len : Nat) : Nat := ceilDiv len 256

/-- Colours. -/
def green : Nat := 0
def yellow : Nat := 1
def red : Nat := 2

/-- The decision of R257: result and the tokens taken from Tc and from Te or Tp. -/
def polDecide (trtcm : Bool) (colour b tc tx : Nat) : Nat × Nat × Nat :=
  if 2 ≤ colour then (red, 0, 0)
  else if trtcm then
    if tx < b then (red, 0, 0)
    else if colour = yellow then (yellow, 0, b)
    else if tc < b then (yellow, 0, b)
    else (green, b, b)
  else if colour = green ∧ b ≤ tc then (green, b, 0)
  else if b ≤ tx then (yellow, 0, b)
  else (red, 0, 0)

/-- A copy at this place counts in the on-die depth: it is in cells and not marked for HBM (R236). -/
def Place.onDie : Place → Bool
  | .cells => true
  | .refill => true
  | _ => false

namespace Chip

/-- The time base in milliseconds modulo 2^16: ENQ_MS (R254). -/
def tbMs16 (c : Chip) : Nat := c.tb / tbMs % 65536

/-- A dropped packet or copy is counted under its reason in its slice (R134, R254). -/
def countDrop (c : Chip) (s reason : Nat) : Chip := c.bump (Reg.FWD_DROP_CNT s reason) 1

/-! Policers. -/

/-- Refill the buckets of policer i (R256, R257). -/
def refillPolicer (c : Chip) (i : Nat) : Chip :=
  let span := c.tb - mget (fun _ => 0) c.tm.polAt i
  let fr := mget (fun _ => ((0, 0) : Nat × Nat)) c.tm.polFrac i
  let tri := c.on (Reg.TM_POL_CFG i) Fd.TM_POL_CFG_MODE
  let cbs := c.fld (Reg.TM_POL_CBS i) Fd.TM_POL_CBS_SIZE
  let xbs := c.fld (Reg.TM_POL_XBS i) Fd.TM_POL_XBS_SIZE
  let g := tokenGain (c.fld (Reg.TM_POL_CIR i) Fd.TM_POL_CIR_RATE) span fr.1
  let h := tokenGain (c.fld (Reg.TM_POL_PIR i) Fd.TM_POL_PIR_RATE) span fr.2
  let tc := c.rd (Reg.TM_POL_TC i) + g.1
  let tx := c.rd (Reg.TM_POL_TX i) + (if tri then h.1 else tc - cbs)
  let c1 := (c.wrN (Reg.TM_POL_TC i) (min tc cbs)).wrN (Reg.TM_POL_TX i) (min tx xbs)
  { c1 with tm.polAt := mset (fun _ => 0) c1.tm.polAt i c.tb,
            tm.polFrac := mset (fun _ => (0, 0)) c1.tm.polFrac i (g.2, if tri then h.2 else 0) }

/-- Meter a packet or copy of len bytes: the chip and the result (R255 to R257). -/
def police (c : Chip) (i len colour : Nat) : Chip × Nat :=
  let c1 := c.refillPolicer i
  let cin := if c1.on (Reg.TM_POL_CFG i) Fd.TM_POL_CFG_AWARE then colour else green
  let tc := c1.rd (Reg.TM_POL_TC i)
  let tx := c1.rd (Reg.TM_POL_TX i)
  let d := polDecide (c1.on (Reg.TM_POL_CFG i) Fd.TM_POL_CFG_MODE) cin
    (adjusted len (c1.fld (Reg.TM_POL_CFG i) Fd.TM_POL_CFG_ADJ)) tc tx
  (((c1.wrN (Reg.TM_POL_TC i) (tc - d.2.1)).wrN (Reg.TM_POL_TX i) (tx - d.2.2)).bump (Reg.TM_POL_CNT i d.1) 1, d.1)

/-! Depths. -/

/-- The copies of queue i, oldest first. -/
def qCopies (c : Chip) (i : Nat) : List Copy := c.bpm.copies.filter (fun x => x.queue == i)

/-- Total depth of queue i (R259). -/
def totalDepth (c : Chip) (i : Nat) : Nat := (c.qCopies i).foldl (fun t x => t + cellsOf x.len) 0

/-- On-die depth D of queue i (R236). -/
def dieDepth (c : Chip) (i : Nat) : Nat :=
  ((c.qCopies i).filter (fun x => x.place.onDie)).foldl (fun t x => t + cellsOf x.len) 0

/-- Refill cells that queue i has in use, in the queue or on their way out. -/
def refillUsed (c : Chip) (i : Nat) : Nat :=
  (c.bpm.copies ++ c.bpm.txq).foldl (fun t x => if x.queue = i then t + x.refill.length else t) 0

/-- Refill cells that no queue has claimed (R237). -/
def refillFree (c : Chip) : Nat :=
  c.fld Reg.BPM_REFILL_CFG Fd.BPM_REFILL_CFG_CELLS - c.bpm.qst.foldl (fun t x => t + x.2.claim) 0

/-! Random early drop and ECN. -/

/-- The slice's LFSR takes its next value (R262). -/
def lfsrNext (c : Chip) (s : Nat) : Chip × Nat :=
  let d := fun (k : Nat) => 0xACE1 + k
  let r := lfsrStep (mget d c.tm.lfsr s)
  ({ c with tm.lfsr := mset d c.tm.lfsr s r }, r)

/-- The average depth after a copy that finds depth d (R261); rounded down (log 33). -/
def redAvg (avg d w : Nat) : Nat := ((avg : Int) + ((d : Int) * 65536 - avg) / (2 ^ w : Nat)).toNat

/-- Set CE in the IP header at offset o of a rewritten head (R263). -/
def setCe (l : List Byte) (o : Nat) : List Byte :=
  if byteAt l o / 16 = 4 then
    let old := byteAt l o * 256 + byteAt l (o + 1)
    let new := old / 4 * 4 + 3
    patchAt (patchAt l (o + 1) [BitVec.ofNat 8 new]) (o + 10)
      (beBytes 2 (Rw.fixSum (byteAt l (o + 10) * 256 + byteAt l (o + 11)) [(old, new)]))
  else patchAt l (o + 1) [BitVec.ofNat 8 (byteAt l (o + 1) ||| 0x30)]

/-- The ECN field of the IP header at offset o. -/
def ecnOf (l : List Byte) (o : Nat) : Nat :=
  if byteAt l o / 16 = 4 then byteAt l (o + 1) % 4 else byteAt l (o + 1) / 16 % 4

/-- Step 6 of R254: the copy, possibly marked, or none where it is dropped. -/
def redStep (c : Chip) (x : Copy) (ecn : Option Nat) : Chip × Option Copy :=
  let q := x.queue
  if !c.on (Reg.TM_Q_CFG1 q) Fd.TM_Q_CFG1_RED_EN then (c, some x)
  else
    let k := c.fld (Reg.TM_Q_CFG1 q) Fd.TM_Q_CFG1_RED_PROF
    let avg := redAvg (c.q q).avg (c.totalDepth q) (c.fld (Reg.TM_RED_CFG k) Fd.TM_RED_CFG_W)
    let c1 := c.setQ q { c.q q with avg := avg }
    let col := min x.colour 2
    let lo := c.fld (Reg.TM_RED_MIN k col) Fd.TM_RED_MIN_DEPTH
    let hi := c.fld (Reg.TM_RED_MAX k col) Fd.TM_RED_MAX_DEPTH
    if hi * 65536 ≤ avg then (c1, none)
    else if avg < lo * 65536 then (c1, some x)
    else
      let pmax := c.rd (Reg.TM_RED_PMAX k) / 2 ^ (8 * col) % 256
      let p := (pmax + 1) * 256 * (avg - lo * 65536) / ((hi - lo) * 65536)
      let r := c1.lfsrNext x.slice
      if r.2 < p then
        match ecn with
        | some o =>
          if c.on (Reg.TM_RED_CFG k) Fd.TM_RED_CFG_ECN && ecnOf x.head o != 0 then
            let c2 := r.1.bump (Reg.TM_CNT 2) 1
            if ecnOf x.head o = 3 then (c2, some x) else (c2, some { x with head := setCe x.head o })
          else (r.1, none)
        | none => (r.1, none)
      else (r.1, some x)

/-! Watchdog and spill. -/

/-- The priority of a queue on its port: none where its port's pause does not reach it (R269). -/
def queuePri (c : Chip) (q port : Nat) : Option Nat :=
  match c.fld (Reg.TM_P_CFG port) Fd.TM_P_CFG_FC_MODE with
  | 1 => some 0
  | 2 => if c.act (Reg.TM_Q_CFG1 q) Fd.TM_Q_CFG1_PFC_V = 1 then some (c.act (Reg.TM_Q_CFG1 q) Fd.TM_Q_CFG1_PFC_PRI) else none
  | _ => none

/-- The watchdog has fired for a queue's priority (R272). -/
def wdActive (c : Chip) (q port : Nat) : Bool :=
  match c.queuePri q port with
  | some p => bitOf (c.fld (Reg.TM_P_STATUS port) Fd.TM_P_STATUS_WD_ACTIVE) p
  | none => false

/-- The queue is in the watchdog's drop state (R254 step 4, R272). -/
def wdDrops (c : Chip) (q port : Nat) : Bool := c.wdActive q port && c.on (Reg.TM_P_CFG port) Fd.TM_P_CFG_WD_ACTION

/-- The spill decision (R237, R260): where the copy goes, or none where the cell share cannot hold it. -/
def spillStep (c : Chip) (q len : Nat) : Chip × Option Place :=
  let n := cellsOf len
  let st := c.q q
  if st.spill then (c, some .marked)
  else
    let k := c.fld (Reg.TM_Q_CFG1 q) Fd.TM_Q_CFG1_SPILL_PROF
    let on := c.fld (Reg.BPM_SPILL_PROF k) Fd.BPM_SPILL_PROF_SPILL_ON
    let refill := c.fld (Reg.BPM_SPILL_PROF k) Fd.BPM_SPILL_PROF_REFILL
    let share := c.fld (Reg.TM_Q_SHARE q) ⟨0, 20⟩
    let d := c.dieDepth q
    let hold := fun (c : Chip) => if share < d + n + st.claim then (c, none) else (c, some Place.cells)
    if on = 0 ∨ d + n ≤ on then hold c
    else if refill ≤ c.refillFree ∧ d + (st.claim + refill) ≤ share then
      ((c.setQ q { st with spill := true, claim := st.claim + refill }).bump (Reg.BPM_CNT 3) 1, some .marked)
    else hold (c.bump (Reg.BPM_CNT 4) 1)

/-! The order of work. -/

/-- A copy that the ingress side drops: counted, its cells and its reference released (R254). -/
def tmDrop (c : Chip) (x : Copy) (reason : Nat) : Chip :=
  ((c.bump (Reg.TM_Q_CNT x.queue 2) 1).countDrop x.slice reason).dropCopy x

/-- Steps 4 to 8 of R254. -/
def tmAdmit (c : Chip) (x : Copy) (ecn : Option Nat) : Chip :=
  let q := x.queue
  if c.wdDrops q x.port then c.tmDrop x 0x93
  else if c.fld (Reg.TM_Q_QMAX q) ⟨0, 29⟩ < c.totalDepth q + cellsOf x.len then c.tmDrop x 0x91
  else
    let r := c.redStep x ecn
    match r.2 with
    | none => r.1.tmDrop x 0x92
    | some x1 =>
      let s := r.1.spillStep q x1.len
      match s.2 with
      | none => s.1.tmDrop x1 0x96
      | some pl =>
        let c1 := ((s.1.bump (Reg.TM_Q_CNT q 0) 1).bump (Reg.TM_Q_CNT q 1) x1.len).bump (Reg.TM_CNT 0) 1
        { c1 with bpm.copies := c1.bpm.copies ++ [{ x1 with place := pl, enqAt := c.tbMs16 }] }

/-- The ingress side takes a copy with its reference (R234, R254). A copy for a fenced port is dropped (R369). -/
def tmEnqueue (c0 : Chip) (x : Copy) (ecn : Option Nat) : Chip :=
  let c := c0.addRef x.chain
  let q := x.queue
  if !c.on Reg.TM_CTRL ⟨0, 1⟩ || !c.on (Reg.TM_Q_CFG0 q) Fd.TM_Q_CFG0_EN then c.tmDrop x 0x95
  else if c.portFenced x.port then (c.bump (Reg.PWR_CNT 9) 1).tmDrop x 0x95
  else if c.act (Reg.TM_Q_POL q) ⟨31, 1⟩ = 1 then
    let i := c.act (Reg.TM_Q_POL q) ⟨0, 18⟩
    let r := c.police i x.len x.colour
    if r.2 = red ∧ !r.1.on (Reg.TM_POL_CFG i) Fd.TM_POL_CFG_RED_ACT then r.1.tmDrop x 0x90
    else r.1.tmAdmit { x with colour := r.2 } ecn
  else c.tmAdmit x ecn

end Chip

end Sys2Proof.Machine
end

