-- ==== Sys2Proof/Machine/Slice.lean ====
section
/-!
DEFINITION. What a slice does with a packet: admission at the Bridle (R229 to R231), the way from a head slot through every
stage (R124, R134, R179, R195, R204), punts (R386), captures (R219 to R223), replication and mirroring (R212 to R215), pattern
scans (R188) and the residence bound (R16).
-/

namespace Sys2Proof.Machine

namespace Chip

/-! Admission. -/

/-- The priority of a frame: PCP of its outermost tag, or the port's DEF_PRI (R271). -/
def framePri (c : Chip) (n : Nat) (b : List Byte) : Nat :=
  if etherType b = 0x8100 ∨ etherType b = 0x88A8 then byteAt b 14 / 32 else c.fld (Reg.TM_P_CFG n) Fd.TM_P_CFG_DEF_PRI

/-- The frame's cells are taken and its head goes to slice s (R227, R230, R234). -/
def admitFrame (c : Chip) (f : BFrame) (s : Nat) (rsv : Bool) : Chip :=
  let parcel := c.act (Reg.PRS_PORT_CFG s f.port) Fd.PRS_PORT_CFG_PARCEL
  let r := c.allocCells (ceilDiv f.bytes.length 256) 1 (c.ownerOf (0x20 + s) parcel)
  let k := r.2.headD 0
  let c1 := (r.1.setChain k ⟨r.2, f.bytes, 1, f.port, rsv, c.framePri f.port f.bytes⟩).bump (Reg.BPM_CNT 0) 1
  { c1 with pipe.heads := c1.pipe.heads ++ [⟨s, f.port, f.bytes, f.ts, f.frac, k, none⟩] }

/-- Which part of the cells takes k cells of a frame of port n (R229, R230): its reserve (true), the shared part, or none. -/
def admitPart (c : Chip) (n k : Nat) : Option Bool :=
  if !(c.on Reg.BPM_CTRL Fd.BPM_CTRL_EN && decide (k ≤ c.cellsFree)) then none
  else if c.portUsed n true + k ≤ c.fld (Reg.BPM_PORT_RSV n) Fd.BPM_PORT_RSV_RSV then some true
  else if c.portUsed n false + k ≤ c.fld (Reg.BPM_PORT_SHMAX n) Fd.BPM_PORT_SHMAX_SHMAX ∧ (k : Int) ≤ c.sharedAvail then some false
  else none

/-- The admission of R230. -/
def admitHead (c : Chip) (f : BFrame) (s : Nat) : Chip :=
  let n := f.port
  let c1 := match c.admitPart n (ceilDiv f.bytes.length 256) with
    | some rsv => c.admitFrame f s rsv
    | none => (c.bump (Reg.BPM_CNT 1) 1).countDrop s 0x80
  c1.fcCheck n

/-- The Bridle discards the frames of panel p (R336, R338, R340). -/
def bridleStopped (c : Chip) (p : Nat) : Bool :=
  (c.serving p).isNone || c.flt.waits.any (fun w => w.panel == p)
    || c.mbx.any (fun o => decide (o.mbx = .flt) && o.op == 2 && o.ready.isNone && o.args.headD 8 == p)

/-- BRIDLE_INGRESS (R230, R336, R360, R401). -/
def opBridleIngress (p : Nat) (c : Chip) : Chip :=
  match c.pipe.bridle.find? (fun f => f.port / 32 == p) with
  | none => c
  | some f =>
    let c1 := { c with pipe.bridle := c.pipe.bridle.erase f }
    if !c.forwards then c
    else if c.standby then c1.bump (Reg.TET_CNT 7) 1
    else if c.pwr.entry.isSome then c1.bump (Reg.PWR_PANEL_DISCARD p 1) 1
    else if c.bridleStopped p then c1.bump (Reg.FLT_PANEL_CNT p 0) 1
    else c1.admitHead f ((c.serving p).getD p)

/-! Head cells (R231). -/

/-- The head-cell cache of slice s. -/
def cache (c : Chip) (s : Nat) : List Nat := mget (fun _ => []) c.pipe.headCache s

/-- Store it. -/
def setCache (c : Chip) (s : Nat) (l : List Nat) : Chip :=
  { c with pipe.headCache := mset (fun _ => []) c.pipe.headCache s l }

/-- A copy takes n linked head cells from its slice's cache, for its packet's parcel (R245, log 35). -/
def takeHead (c : Chip) (s parcel n : Nat) : Chip × Option (List Nat) :=
  let l := c.cache s
  if l.length < n then (c, none)
  else
    let got := l.take n
    let o := c.ownerOf (0x20 + s) parcel
    let c1 := got.foldl (fun c i => (c.ownDown (c.cell i).owner 0 1).setCell i ⟨0, false, 2, o, 0⟩) (c.setCache s (l.drop n))
    ((c1.linkCells got).ownUp o 0 n, some got)

/-- HEAD_CACHE_REFILL (R231): first from the head reserve, then from the shared part. -/
def opHeadCacheRefill (s : Nat) (c : Chip) : Chip :=
  if c.on Reg.BPM_CTRL Fd.BPM_CTRL_EN && c.domOn (80 + s) then
    let l := c.cache s
    let avail := (c.fld Reg.BPM_HEAD_CFG Fd.BPM_HEAD_CFG_RSV - c.kindUsed 2) + (max 0 c.sharedAvail).toNat
    let r := c.allocCells (min (64 - l.length) (min avail c.cellsFree)) 2 (c.ownerOf (0x20 + s) 0)
    r.1.setCache s (l ++ r.2)
  else c

/-! Copies. -/

/-- A rewritten copy is given its head cells and handed to the traffic manager (R228, R231, R254). -/
def handOff (c : Chip) (p : Pkt) (queue : Nat) (w : Rw) (len : Nat) : Chip :=
  let s := p.md.slice
  let r := c.takeHead s p.md.parcel (if w.hd.length ≤ 240 then 1 else 2)
  match r.2 with
  | none => (c.bump (Reg.BPM_CNT 2) 1).countDrop s 0x81
  | some cells =>
    r.1.tmEnqueue {
      queue := queue, port := c.queuePort queue, head := w.hd, headCells := cells, chain := p.head.chain, bodyOff := w.used,
      bodyLen := w.frame.length - w.used, len := len, place := .cells, refill := [], enqAt := 0, inPort := p.md.port, slice := s,
      gen := p.gen, ts := p.md.ts, frac := p.head.frac, parcel := p.md.parcel, colour := p.md.colour,
      inj := p.head.inj.isSome, clock := (match p.head.inj with | some d => d.clock | none => 0),
      mode := w.mode, cfOff := w.cfOff, tsOff := w.tsOff, trOff := w.trOff, udpOff := w.udpOff,
      poisoned := p.md.poisoned, ecn := false } w.ecnOff

/-! Punts (R386). -/

/-- A 32-bit stamp as nanoseconds, extended against the served clock (R316). -/
def extendTs (c : Chip) (ts : Nat) : Nat :=
  ((c.servedNs : Int) + signedOf 32 ((ts + 2 ^ 32 - c.served32 % 2 ^ 32) % 2 ^ 32)).toNat

/-- The ten TIME bytes of a stamp. -/
def stampBytes (c : Chip) (form80 : Bool) (ts : Nat) : List Byte :=
  if form80 then leBytes 6 (c.extendTs ts / 1000000000 % 2 ^ 48) ++ leBytes 4 (c.extendTs ts % 1000000000)
  else leBytes 6 0 ++ leBytes 4 ts

/-- RULE of the metadata record with its valid bit. -/
def ruleField (m : Meta) : Nat := match m.rule with | some r => 32768 + r | none => 0

/-- A punt entry of n bytes: a 64-byte header and the frame, cut at the entry's end. -/
def puntEntry (c : Chip) (p : Pkt) (n ph : Nat) : List Byte :=
  let m := p.md
  let f80 := m.tsEvent || c.form80
  let b := p.head.bytes
  leBytes 2 (m.len % 2 ^ 14 + b2n (decide (n - 64 < b.length)) * 2 ^ 14 + ph * 2 ^ 15)
    ++ [BitVec.ofNat 8 m.reason, BitVec.ofNat 8 m.port, BitVec.ofNat 8 (b2n f80 * 128 + m.cls * 16 + m.slice),
        BitVec.ofNat 8 (b2n m.tsEvent)]
    ++ leBytes 2 m.epoch ++ c.stampBytes f80 m.ts ++ leBytes 2 (if m.tsEvent then p.head.frac else 0) ++ leBytes 2 m.vrf
    ++ leBytes 2 (ruleField m) ++ leBytes 3 m.nhi ++ leBytes 37 0 ++ b.take (n - 64)

/-- The punt ring of a packet's class (R386, R396). -/
def puntRing (c : Chip) (parcel cls : Nat) : Nat := 9 + c.act (Reg.PAR_RINGS parcel) Fd.PAR_RINGS_PUNT_MAP / 4 ^ cls % 4

/-- A punted packet goes to its parcel's ring: policed, written or dropped. -/
def punt (c : Chip) (p : Pkt) : Chip :=
  let m := p.md
  let r := c.puntRing m.parcel m.cls
  let drop := fun (c : Chip) => c.bump (Reg.RING_CNT m.parcel r 1) 1
  if (m.parcel != 0 && decide (c.act (Reg.PAR_RINGS m.parcel) Fd.PAR_RINGS_PUNT ≤ r - 9)) || !c.ringOn m.parcel r
      || !c.parcelActive m.parcel then drop c
  else
    let q := if c.on (Reg.RING_POL m.parcel r) ⟨31, 1⟩ then c.police (c.fld (Reg.RING_POL m.parcel r) ⟨0, 18⟩) m.len m.colour
      else (c, green)
    if q.2 = red then q.1.bump (Reg.RING_CNT m.parcel r 2) 1
    else
      let n := [2048, 4096, 8192, 32768].getD (c.fld (Reg.RING_CFG m.parcel r) Fd.RING_CFG_BUF) 2048
      let c1 := if m.tsEvent then q.1.bump (Reg.DTM_CNT 0) 1 else q.1
      c1.ringPut m.parcel r n (c1.puntEntry p n)

/-! Captures (R219 to R223). -/

/-- The field-book record of a packet but for SEQ (R220). -/
def record (c : Chip) (p : Pkt) (f80 : Bool) : List Byte :=
  let m := p.md
  let cap := min 128 p.head.bytes.length
  leBytes 2 (m.len % 2 ^ 14 + b2n f80 * 2 ^ 15)
    ++ [BitVec.ofNat 8 cap,
        BitVec.ofNat 8 (b2n p.capRule * 128 + b2n p.capPort * 64 + b2n m.drop * 32 + b2n m.poisoned * 16 + b2n m.punt * 8
          + b2n m.mirror * 4 + b2n m.tsEvent * 2),
        BitVec.ofNat 8 m.port, BitVec.ofNat 8 (m.parcel * 4 + m.colour), BitVec.ofNat 8 (m.slice * 16 + m.cls),
        BitVec.ofNat 8 m.reason]
    ++ leBytes 2 m.epoch ++ leBytes 2 (ruleField m) ++ leBytes 3 (m.nhi * 16) ++ leBytes 3 (m.queue * 128)
    ++ c.stampBytes f80 m.ts ++ slice (p.head.bytes.take cap) 0 128

/-- The ring of a capture: the rule's when a rule or pattern asks, else the port's; none where it is not valid or not enabled. -/
def captureRing (c : Chip) (p : Pkt) : Option Nat :=
  let b := (p.md.rule.getD 0) / 512
  let k := Reg.RWR_RULE_MAP p.md.slice b
  let r := if p.capRule then
      (if p.md.rule.isSome && c.at_ p.md.epoch k Fd.RWR_RULE_MAP_RV == 1 then some (c.at_ p.md.epoch k Fd.RWR_RULE_MAP_RING)
       else none)
    else some (c.fld (Reg.FBK_PORT_SAMPLE p.md.port) Fd.FBK_PORT_SAMPLE_RING)
  match r with
  | some r => if c.on (Reg.FBK_RING_CFG r) Fd.FBK_RING_CFG_EN then some r else none
  | none => none

/-- A packet with SAMPLE set puts one record into staging. -/
def capture (c : Chip) (p : Pkt) : Chip :=
  if !p.md.sample || !c.on Reg.FBK_CTRL Fd.FBK_CTRL_EN then c
  else
    match c.captureRing p with
    | none => c.bump (Reg.FBK_CNT 2) 1
    | some r =>
      if 16384 ≤ c.fbk.staged.length then c.bump (Reg.FBK_CNT 1) 1
      else
        let c1 := c.bump (Reg.FBK_CNT 0) 1
        { c1 with fbk.staged := c1.fbk.staged ++ [⟨r, c.record p (c.on (Reg.FBK_RING_CFG r) Fd.FBK_RING_CFG_TSFORM)⟩] }

/-- Port sampling counts a head, and samples the Nth, 2Nth and so on (R219). -/
def portSample (c : Chip) (p : Pkt) : Chip × Pkt :=
  let n := c.fld (Reg.FBK_PORT_SAMPLE p.md.port) Fd.FBK_PORT_SAMPLE_N
  if n = 0 ∨ p.head.inj.isSome then (c, p)
  else
    let k := mget (fun _ => 0) c.fbk.samples p.md.port + 1
    let hit := decide (n ≤ k)
    ({ c with fbk.samples := mset (fun _ => 0) c.fbk.samples p.md.port (if hit then 0 else k) },
      if hit then { p with md := { p.md with sample := true }, capPort := true } else p)

/-! One copy. -/

/-- What rewriting made of a copy goes on: to the traffic manager, to the host, or it is counted (R206, R207, R214). -/
def outcome (c : Chip) (p : Pkt) (queue : Nat) (r : RwOut) : Chip :=
  match r with
  | .ok w len => c.handOff p queue w len
  | .drop x => c.countDrop p.md.slice x
  | .punt x => c.punt { p with md := { p.md with punt := true, reason := x } }

/-- The rewrite entry at index ix: none where the copy is dropped for it, with its reason (R216). -/
def entryOf (c : Chip) (p : Pkt) (ix : Nat) : Chip × Except Nat Nat :=
  if !c.on (Reg.RWR_CTRL p.md.slice) Fd.RWR_CTRL_EN then (c, .error 0x60) else c.readRewrite p.md.slice p.md.epoch ix 0

/-- A unicast copy. -/
def unicast (c : Chip) (p : Pkt) (ix : Nat) : Chip :=
  let e := c.entryOf p ix
  match e.2 with
  | .error x => e.1.countDrop p.md.slice x
  | .ok ent =>
    let r := e.1.rewrite p p.head.bytes ent
    r.1.outcome p p.md.queue r.2

/-- The hop of a member: queue and rewrite index, none where no copy is made, or the reason of a drop (R212). -/
def memberHop (c : Chip) (p : Pkt) (slot : Nat) : Chip × Except Nat (Option (Nat × Nat)) :=
  let k := storeOf p.md.slice
  let e := p.md.epoch
  let b := c.findIx k 1 slot e
  if b.2.err ≠ 0 then (b.1, .error (tableReason b.2.err))
  else if !b.2.hit then (b.1, .error 0x21)
  else
    let f := b.1.readHop k e (bitsOf b.2.entry 45 26)
    match f.2 with
    | .bad x => (f.1, .error x)
    | .ok _ x =>
      let r := if bitsOf x 109 108 = 1 then f.1.selectMember p.md.slice e (bitsOf x 70 55) p.md.hash else (f.1, .ok 0 x)
      match r.2 with
      | .bad y => (r.1, if y = 0x26 then .ok none else .error y)
      | .ok _ y => (r.1, .ok (if bitsOf y 109 108 = 0 then some (bitsOf y 106 90, bitsOf y 89 71) else none))

/-- One member: whether a head slot was used for a copy (R212). -/
def member (c : Chip) (p : Pkt) (slot : Nat) : Chip × Bool :=
  let s := p.md.slice
  let h := c.memberHop p slot
  match h.2 with
  | .error x => (h.1.countDrop s x, true)
  | .ok none => (h.1.bump (Reg.RWR_CNT s 3) 1, false)
  | .ok (some (queue, ix)) =>
    let e := h.1.entryOf p ix
    match e.2 with
    | .error x => (e.1.countDrop s x, true)
    | .ok ent =>
      if bitOf ent 78 ∧ bitsOf ent 77 70 = p.md.port then (e.1.bump (Reg.RWR_CNT s 2) 1, false)
      else
        let r := e.1.rewrite p p.head.bytes ent
        ((r.1.bump (Reg.RWR_CNT s 1) 1).outcome p queue r.2, true)

/-- Members from i on, until one has used a head slot: the next member. -/
def members (p : Pkt) (base : Nat) : Nat → Chip → Nat → Chip × Nat
  | 0, c, i => (c, i)
  | n + 1, c, i =>
    let r := c.member p (base + i)
    if r.2 then (r.1, i + 1) else members p base n r.1 (i + 1)

/-- The group of a packet's REPL: base and size, or the reason of a drop. -/
def groupOf (c : Chip) (p : Pkt) (g : Nat) : Chip × Except Nat (Nat × Nat) :=
  let r := c.findIx (storeOf p.md.slice) 2 g p.md.epoch
  if r.2.err ≠ 0 then (r.1, .error (tableReason r.2.err))
  else if !r.2.hit then (r.1, .error 0x21)
  else (r.1, .ok (bitsOf r.2.entry 45 26, bitsOf r.2.entry 25 13))

/-- The mirror copy (R215). An uncorrectable next hop drops it with 0x25 (R173); a missing one is MIRROR_SKIP. -/
def mirrorCopy (c : Chip) (p : Pkt) : Chip :=
  let s := p.md.slice
  let e := p.md.epoch
  let skip := fun (c : Chip) => c.bump (Reg.RWR_CNT s 7) 1
  let k := Reg.RWR_RULE_MAP s ((p.md.rule.getD 0) / 512)
  let m := c.at_ e k Fd.RWR_RULE_MAP_MSESS
  if p.md.rule.isNone || c.at_ e k Fd.RWR_RULE_MAP_MV == 0 || c.at_ e (Reg.RWR_MIRROR s m) Fd.RWR_MIRROR_V == 0 then skip c
  else
    let h := c.readHop (storeOf s) e (c.at_ e (Reg.RWR_MIRROR s m) Fd.RWR_MIRROR_NHI)
    match h.2 with
    | .bad y => if y = 0x21 then skip h.1 else h.1.countDrop s y
    | .ok _ x =>
      if bitsOf x 109 108 ≠ 0 then skip h.1
      else
        let t := c.at_ e (Reg.RWR_MIRROR s m) Fd.RWR_MIRROR_TRUNC
        let frame := if t = 0 then p.head.bytes else p.head.bytes.take (64 * t - 4)
        let q := h.1.entryOf p (bitsOf x 89 71)
        match q.2 with
        | .error y => (q.1.bump (Reg.RWR_CNT s 6) 1).countDrop s y
        | .ok ent =>
          let r := q.1.rewrite p frame ent
          (r.1.bump (Reg.RWR_CNT s 6) 1).outcome p (bitsOf x 106 90) r.2

/-- The packet's copies from cursor on, and its mirror copy, wait in the replication queue; with none left, or the queue full, the
slice lets the frame go (R213, R234). -/
def replicate (c : Chip) (p : Pkt) (cursor size : Nat) : Chip :=
  let s := p.md.slice
  let left := (size - cursor) + b2n p.md.mirror
  if left = 0 then c.releaseRef p.head.chain
  else if 256 ≤ (c.pipe.replQ.filter (fun x => x.pkt.head.slice == s)).length then
    (c.bump (Reg.RWR_CNT s 4) left).releaseRef p.head.chain
  else { c with pipe.replQ := c.pipe.replQ ++ [⟨p, cursor, size, p.md.mirror⟩] }

/-- Copy 0 of a packet, in its own head slot, and what follows it (R213). -/
def copies (c : Chip) (p : Pkt) (ix : Nat) : Chip :=
  match p.md.repl with
  | none => (c.unicast p ix).replicate p 0 0
  | some g =>
    let r := c.groupOf p g
    match r.2 with
    | .error x => (r.1.countDrop p.md.slice x).replicate p 0 0
    | .ok (base, size) =>
      if size = 0 then (r.1.bump (Reg.RWR_CNT p.md.slice 3) 1).replicate p 0 0
      else
        (r.1.member p base).1.replicate p 1 size

/-- A packet leaves the classifier: final resolution, capture, and its copies, its punt or its drop, which counts in DROP_PKTS of the
packet's queue (R134, R195, R219, R254, R386). -/
def finish (c : Chip) (p : Pkt) : Chip :=
  let r := if p.md.drop || p.md.punt then (c, p, 0) else c.resolve p
  let c1 := r.1.capture r.2.1
  let q := r.2.1
  if q.md.drop then ((c1.bump (Reg.TM_Q_CNT q.md.queue 2) 1).countDrop q.md.slice q.md.reason).replicate q 0 0
  else if q.md.punt then (c1.punt q).replicate q 0 0
  else c1.copies q r.2.2

/-! The order of the frames of a port (R17). -/

/-- A packet that waits for an earlier one of its port. -/
def waiting (p : Pkt) : PatReq := ⟨4, p, 0, 0, 0, false, false, 0⟩

/-- Two packets of one port in one slice. -/
def samePort (p q : Pkt) : Bool := p.md.slice == q.md.slice && p.md.port == q.md.port && p.gen == q.gen

/-- An earlier packet of its port is still at a pattern engine, so that a packet may not be handed on yet (log 112). -/
def patBehind (c : Chip) (p : Pkt) : Bool := c.pipe.patQ.any (fun x => samePort x.pkt p)

/-- The first waiting packet before which no packet of its port stands; before: those already passed. -/
def nextFree (before : List PatReq) : List PatReq → Option PatReq
  | [] => none
  | x :: l => if x.engine == 4 && !before.any (fun y => samePort y.pkt x.pkt) then some x else nextFree (x :: before) l

/-- Hand on, in order, the packets that no longer wait for an earlier one. -/
def handOn : Nat → Chip → Chip
  | 0, c => c
  | n + 1, c =>
    match nextFree [] c.pipe.patQ with
    | none => c
    | some x => handOn n ({ c with pipe.patQ := c.pipe.patQ.erase x }.finish x.pkt)

/-- Packet q, as its scan left it, takes the place of x among those that wait, and the packets that may go are handed on. -/
def scanned (c : Chip) (x : PatReq) (q : Pkt) : Chip :=
  let c1 := { c with pipe.patQ := c.pipe.patQ.map (fun y => if y = x then waiting q else y) }
  handOn c1.pipe.patQ.length c1

/-! The stages. -/

/-- The time stamp of an injected packet at its head slot: the CORE-local served time (R306, R309). -/
def injStamp (c : Chip) (h : Head) : Head :=
  if h.inj.isSome then
    if c.datumOn then { h with ts := c.localTime 8 / 65536 % 2 ^ 32, frac := c.localTime 8 % 65536 } else { h with ts := 0, frac := 0 }
  else h

/-- An uncorrectable packet word met in a parse or scan read (R248). -/
def poison (p : Pkt) : Pkt :=
  { p with md := { p.md with poisoned := true, drop := true, reason := if p.md.drop then p.md.reason else 0x83 } }

/-- The cells that hold bytes a to b of a frame. -/
def cellsOfBytes (c : Chip) (chain a b : Nat) : List Nat := ((c.chain chain).cells.drop (a / 256)).take (ceilDiv b 256 - a / 256)

/-- A head takes its way through the slice, to its hand-off or to a pattern engine. -/
def runHead (c : Chip) (s : Nat) (h0 : Head) : Chip :=
  let h := c.injStamp h0
  let e := c.readCells (c.cellsOfBytes h.chain 0 (min 512 h.bytes.length))
  let r := (e.1.pmcEvent (0x20 + s) 1 1).parse s h
  let p := if e.2 then poison r.2 else r.2
  let t := r.1.portSample p
  let l := t.1.lookupStage t.2
  let k := l.1.classify l.2
  match k.2 with
  | .done q =>
    if k.1.patBehind q then { k.1 with pipe.patQ := k.1.pipe.patQ ++ [waiting q] } else k.1.finish q
  | .scan x => { k.1 with pipe.patQ := k.1.pipe.patQ ++ [x] }

/-- The next head slot of slice s has gone by. -/
def slotUp (c : Chip) (s : Nat) : Chip :=
  { c with pipe.slotNo := mset (fun _ => 0) c.pipe.slotNo s ((mget (fun _ => 0) c.pipe.slotNo s + 1) % 384) }

/-- A recirculated or an injected head of slice s takes the slot: in that order. -/
def runOther (c : Chip) (s : Nat) : Chip :=
  match c.pipe.recircQ.find? (fun h => h.slice == s) with
  | some h => { c with pipe.recircQ := c.pipe.recircQ.erase h }.runHead s h
  | none =>
    match c.pipe.injQ.find? (fun h => h.slice == s) with
    | some h => { c with pipe.injQ := c.pipe.injQ.erase h }.runHead s h
    | none => c

/-- A recirculated or an injected head waits in slice s. -/
def otherWaits (c : Chip) (s : Nat) : Bool :=
  c.pipe.recircQ.any (fun h => h.slice == s) || c.pipe.injQ.any (fun h => h.slice == s)

/-- PARSE_HEAD (R12, R124): a received head, or a recirculated or injected one when none waits or when the slot is the one of 384
(six in each of 64 CORE clocks) that is reserved for those (log 111). -/
def opParseHead (s : Nat) (hits : List Hit) (c0 : Chip) : Chip :=
  let c := c0.strike hits
  let c1 := c.slotUp s
  match c.pipe.heads.find? (fun h => h.slice == s) with
  | some h =>
    if mget (fun _ => 0) c.pipe.slotNo s = 383 ∧ c.otherWaits s = true then c1.runOther s
    else { c1 with pipe.heads := c1.pipe.heads.erase h }.runHead s h
  | none => if c.otherWaits s then c1.runOther s else c

/-- A packet has been in its slice for 4 us (R16). -/
def overdue (c : Chip) (stamp : Nat) : Bool := decide (stamp + 4 * usPs ≤ c.now)

/-- A packet that waits for a scan, or for an earlier packet of its port, has reached the bound: the rule's action stands, and the
packet is dropped. -/
def scanLate (c : Chip) (x : PatReq) : Chip :=
  let p := if x.engine = 4 then x.pkt else applyAction x.pkt x.act 0x40
  c.scanned x { p with md := p.md.dropFor 0x01 }

/-- PATTERN_SCAN (R188, R189, R339). -/
def opPatternScan (n : Nat) (hits : List Hit) (c0 : Chip) : Chip :=
  let c := c0.strike hits
  match c.pipe.patQ.find? (fun x => x.engine == n) with
  | none => c
  | some x =>
    if x.pkt.gen ≠ c.gen x.pkt.md.slice then { c with pipe.patQ := c.pipe.patQ.erase x }.bump (Reg.FLT_CNT 37) 1
    else if c.overdue x.pkt.stampAt then c.scanLate x
    else
      let e := c.readCells (c.cellsOfBytes x.pkt.head.chain x.first x.last)
      if e.2 then e.1.scanned x (poison (applyAction x.pkt x.act 0x40))
      else
        let r := e.1.scanReq x
        r.1.scanned x r.2

/-- The copies that a packet in the replication queue has not made are discarded (R213). -/
def replLate (c : Chip) (x : ReplReq) : Chip :=
  let s := x.pkt.md.slice
  let left := (x.size - x.cursor) + b2n x.mirror
  let c1 := { c with pipe.replQ := c.pipe.replQ.erase x }
  ((c1.bump (Reg.RWR_CNT s 5) left).bump (Reg.FWD_DROP_CNT s 0x01) left).releaseRef x.pkt.head.chain

/-- One served slot of the replication queue. -/
def replStep (c : Chip) (x : ReplReq) : Chip :=
  let c1 := { c with pipe.replQ := c.pipe.replQ.erase x }
  if x.cursor < x.size then
    let r := c1.groupOf x.pkt (x.pkt.md.repl.getD 0)
    match r.2 with
    | .error y => (r.1.bump (Reg.FWD_DROP_CNT x.pkt.md.slice y) (x.size - x.cursor)).replicate x.pkt x.size x.size
    | .ok (base, _) =>
      let n := members x.pkt base (x.size - x.cursor) r.1 x.cursor
      if n.2 < x.size || x.mirror then
        { n.1 with pipe.replQ := { x with cursor := n.2 } :: n.1.pipe.replQ }
      else n.1.releaseRef x.pkt.head.chain
  else (c1.mirrorCopy x.pkt).releaseRef x.pkt.head.chain

/-- REPLICATION_COPY (R213, R215). -/
def opReplicationCopy (s : Nat) (hits : List Hit) (c0 : Chip) : Chip :=
  let c := c0.strike hits
  match c.pipe.replQ.find? (fun x => x.pkt.head.slice == s) with
  | none => c
  | some x => if c.overdue x.pkt.stampAt then c.replLate x else c.replStep x

/-- RESIDENCE_OVERRUN (R16, R213): the oldest packet of the slice that waits at a pattern engine or in the replication queue. -/
def opResidenceOverrun (s : Nat) (c : Chip) : Chip :=
  match c.pipe.patQ.find? (fun x => x.pkt.md.slice == s && x.pkt.gen == c.gen s && c.overdue x.pkt.stampAt) with
  | some x => c.scanLate x
  | none =>
    match c.pipe.replQ.find? (fun x => x.pkt.md.slice == s && c.overdue x.pkt.stampAt) with
    | some x => c.replLate x
    | none => c

end Chip

/-! The meanings. -/

/-- BRIDLE_INGRESS. -/
def execBridleIngress (panel : Fin 8) (s : State) : Host.Outcome State Fault Refusal :=
  runChip s (Chip.opBridleIngress panel.val)

/-- PARSE_HEAD. -/
def execParseHead (slice : Fin 9) (hits : List Hit) (s : State) : Host.Outcome State Fault Refusal :=
  runChip s (Chip.opParseHead slice.val hits)

/-- PATTERN_SCAN. -/
def execPatternScan (engine : Fin 4) (hits : List Hit) (s : State) : Host.Outcome State Fault Refusal :=
  runChip s (Chip.opPatternScan engine.val hits)

/-- REPLICATION_COPY. -/
def execReplicationCopy (slice : Fin 9) (hits : List Hit) (s : State) : Host.Outcome State Fault Refusal :=
  runChip s (Chip.opReplicationCopy slice.val hits)

/-- RESIDENCE_OVERRUN. -/
def execResidenceOverrun (slice : Fin 9) (s : State) : Host.Outcome State Fault Refusal :=
  runChip s (Chip.opResidenceOverrun slice.val)

/-- HEAD_CACHE_REFILL. -/
def execHeadCacheRefill (slice : Fin 9) (s : State) : Host.Outcome State Fault Refusal :=
  runChip s (Chip.opHeadCacheRefill slice.val)

end Sys2Proof.Machine
end

