-- ==== Sys2Proof/Machine/Xm.lean ====
section
/-!
DEFINITION. Extension memory: translation and access (R295 to R297), and the field book's rings (R220 to R224).
-/

namespace Sys2Proof.Machine

/-- Key of device address a on extension port n in Store.mem. -/
def xmKey (n a : Nat) : Nat := 2 ^ 60 * (n + 1) + a

/-- Bytes of a field-book record (R220). -/
def recordLen : Nat := 160

namespace Chip

/-! Translation. -/

/-- The lowest translation entry that a request matches (R296). -/
def xltFind (c : Chip) (parcel xa : Nat) : Option Nat :=
  (List.range 1024).find? (fun i =>
    c.act (Reg.XM_XLT_CFG i) Fd.XM_XLT_CFG_V == 1 && c.act (Reg.XM_XLT_CFG i) Fd.XM_XLT_CFG_PARCEL == parcel
      && decide (c.act (Reg.XM_XLT_BASE i) Fd.XM_XLT_BASE_XA_BASE ≤ xa / 2 ^ 21)
      && decide (xa / 2 ^ 21 ≤ c.act (Reg.XM_XLT_LIMIT i) Fd.XM_XLT_LIMIT_XA_LIMIT))

/-- Device address that entry i gives (R296). -/
def xltAddr (c : Chip) (i xa : Nat) : Nat :=
  c.act (Reg.XM_XLT_DEV i) Fd.XM_XLT_DEV_DEV_BASE * 2 ^ 21 + xa - c.act (Reg.XM_XLT_BASE i) Fd.XM_XLT_BASE_XA_BASE * 2 ^ 21

/-- A request that fails translation on port n (R297): counted, the first recorded and reported. A request that matches no entry
names no port and counts on port 0 (log 36). -/
def xltMiss (c : Chip) (n parcel xa : Nat) (write : Bool) : Chip :=
  let c1 := c.bump (Reg.XM_CNT n 2) 1
  if c1.on Reg.XM_MISS_HI Fd.XM_MISS_HI_V then c1
  else
    let c2 := (c1.wrN Reg.XM_MISS_LO (xa % 2 ^ 32)).wrN Reg.XM_MISS_HI (parcel * 2 ^ 26 + 2 ^ 25 + xa / 2 ^ 32 % 2 ^ 20)
    (c2.report 0x07 0 0x17 outReported).event 0x09 parcel 0x07 none (leBytes 7 xa ++ [BitVec.ofNat 8 (b2n write)])

/-- Port n serves requests (R295). -/
def xmUp (c : Chip) (n : Nat) : Bool :=
  c.domOn (112 + n) && c.on (Reg.XM_CTRL n) Fd.XM_CTRL_EN && c.on (Reg.XM_STATUS n) Fd.XM_STATUS_LINK_UP

/-- One access: where in Store.mem it goes, none where it fails, or where CXL_TIMEOUT has said that it would (R295 to R297, log 140). -/
def xmAccess (c : Chip) (parcel xa : Nat) (write : Bool) : Chip × Option Nat :=
  match c.xltFind parcel xa with
  | none => (c.xltMiss 0 parcel xa write, none)
  | some i =>
    let n := c.act (Reg.XM_XLT_CFG i) Fd.XM_XLT_CFG_PORT
    let a := c.xltAddr i xa
    if (write && c.act (Reg.XM_XLT_CFG i) Fd.XM_XLT_CFG_WE == 0)
        || decide (c.fld (Reg.XM_STATUS n) Fd.XM_STATUS_CAP_GIB * 2 ^ 30 ≤ a) then (c.xltMiss n parcel xa write, none)
    else if !c.xmUp n then (c, none)
    else if 0 < mget (fun _ => 0) c.hbm.timedOut n then
      ({ c with hbm.timedOut := mset (fun _ => 0) c.hbm.timedOut n (mget (fun _ => 0) c.hbm.timedOut n - 1) }, none)
    else
      ({ c.bump (Reg.XM_CNT n (b2n write)) 1 with hbm.timeouts := mset (fun _ => 0) c.hbm.timeouts n 0 }, some (xmKey n a))

/-- A read answered with poison counts on the port of its address (R295). -/
def xmPoison (c : Chip) (parcel xa : Nat) : Chip :=
  match c.xltFind parcel xa with
  | some i => c.bump (Reg.XM_CNT (c.act (Reg.XM_XLT_CFG i) Fd.XM_XLT_CFG_PORT) 3) 1
  | none => c

/-- The power domain of an extension address's port is off. -/
def xmOff (c : Chip) (parcel xa : Nat) : Bool :=
  match c.xltFind parcel xa with
  | some i => !c.domOn (112 + c.act (Reg.XM_XLT_CFG i) Fd.XM_XLT_CFG_PORT)
  | none => false

/-! Field-book rings. -/

/-- Records that ring r holds. -/
def fbkLen (c : Chip) (r : Nat) : Nat := 2 ^ c.fld (Reg.FBK_RING_CFG r) Fd.FBK_RING_CFG_SIZE

/-- Address of record k of ring r: an offset in the HBM region or an extension address (R221). -/
def fbkAddr (c : Chip) (r k : Nat) : Nat :=
  c.rd (Reg.FBK_RING_BASE_LO r) + c.rd (Reg.FBK_RING_BASE_HI r) * 2 ^ 32 + recordLen * (k % c.fbkLen r)

/-- Ring r lies in extension memory. -/
def fbkExt (c : Chip) (r : Nat) : Bool := c.on (Reg.FBK_RING_CFG r) Fd.FBK_RING_CFG_LOC

/-- Every HBM stack is powered: a page of HBM is striped over all four (R277). -/
def hbmOn (c : Chip) : Bool := (List.range 4).all (fun k => c.domOn (104 + k))

/-- The memory of ring r is powered off (R224). -/
def fbkOff (c : Chip) (r k : Nat) : Bool :=
  if c.fbkExt r then c.xmOff (c.fld (Reg.FBK_RING_CFG r) Fd.FBK_RING_CFG_PARCEL) (c.fbkAddr r k) else !c.hbmOn

/-- Access record k of ring r in Store.mem. -/
def fbkAccess (c : Chip) (r k : Nat) (write : Bool) : Chip × Option Nat :=
  if c.fbkExt r then c.xmAccess (c.fld (Reg.FBK_RING_CFG r) Fd.FBK_RING_CFG_PARCEL) (c.fbkAddr r k) write
  else if (List.range 4).all c.memUp then (c.memTouched (b2n write), some (c.fbkAddr r k))
  else (c, none)

/-- A capture of ring r is refused: ring not in use, or full under MODE 0 (R222). -/
def fbkRefuses (c : Chip) (r : Nat) : Bool :=
  !c.on (Reg.FBK_RING_CFG r) Fd.FBK_RING_CFG_EN
    || (!c.on (Reg.FBK_RING_CFG r) Fd.FBK_RING_CFG_MODE
        && decide (c.fbkLen r ≤ (c.rd (Reg.FBK_RING_PROD r) + 2 ^ 32 - c.rd (Reg.FBK_RING_CONS r)) % 2 ^ 32))

/-- PROD and WRITTEN advance; under MODE 1 a record of a ring that has filled replaces the oldest (R222). -/
def fbkWritten (c : Chip) (r : Nat) : Chip :=
  let full := c.on (Reg.FBK_RING_CFG r) Fd.FBK_RING_CFG_MODE && decide (c.fbkLen r ≤ (c.cnt (Reg.FBK_RING_CNT r 0)).toNat)
  let c1 := (c.wrN (Reg.FBK_RING_PROD r) ((c.rd (Reg.FBK_RING_PROD r) + 1) % 2 ^ 32)).bump (Reg.FBK_RING_CNT r 0) 1
  if full then c1.bump (Reg.FBK_RING_CNT r 1) 1 else c1

/-- The requests of a record to HBM, in the background class (R281). -/
def fbkReqs (c : Chip) (r : Nat) (accs : List MemAcc) : Chip := if c.fbkExt r then c else c.memAccs 3 true accs

/-- FBK_RECORD_WRITE (R222, R223): the oldest staged record goes to its ring; ue: its memory met an uncorrectable error. -/
def opFbkRecordWrite (ue : Bool) (accs : List MemAcc) (m : Store) (c : Chip) : Store × Chip :=
  match c.fbk.staged with
  | [] => (m, c)
  | x :: l =>
    let c1 := { c with fbk.staged := l }
    if c1.fbkRefuses x.ring then (m, c1.bump (Reg.FBK_RING_CNT x.ring 1) 1)
    else
      let k := c1.rd (Reg.FBK_RING_PROD x.ring)
      let a := (c1.fbkReqs x.ring accs).fbkAccess x.ring k true
      match a.2 with
      | none => (m, a.1.bump (Reg.FBK_CNT 3) 1)
      | some ad =>
        if ue then (m, a.1.bump (Reg.FBK_CNT 3) 1)
        else (m.wr ad (leBytes 4 k ++ x.bytes), a.1.fbkWritten x.ring)

/-- Ring r holds record k (R224). -/
def fbkHolds (c : Chip) (r k : Nat) : Bool :=
  let d := (c.rd (Reg.FBK_RING_PROD r) + 2 ^ 32 - k % 2 ^ 32) % 2 ^ 32
  decide (1 ≤ d) && decide (d ≤ c.fbkLen r) && decide (d ≤ (c.cnt (Reg.FBK_RING_CNT r 0)).toNat)

/-- The controller and the physical rank of a byte of the field book's region, whose pages follow those of the pool (R221, R277,
log 139). -/
def fbkRank (c : Chip) (a : Nat) : Nat × Nat :=
  let b := a % 4096 / 256
  (b % 4, c.physOf (b % 4) ((pageRanks (c.pageTotal + a / 4096) (b % 4)).getD (b / 4) 0))

/-- A record with uncorrectable 32-byte accesses: in extension memory an answer with poison (R295), in HBM errors of their ranks
(R286). -/
def fbkPoison (c : Chip) (r k : Nat) (bad : List (Fin 5)) : Chip :=
  if c.fbkExt r then c.xmPoison (c.fld (Reg.FBK_RING_CFG r) Fd.FBK_RING_CFG_PARCEL) (c.fbkAddr r k)
  else bad.foldl (fun c j => c.rankUe (c.fbkRank (c.fbkAddr r k + 32 * j.val)).1 (c.fbkRank (c.fbkAddr r k + 32 * j.val)).2) c

/-- Words of a byte list. -/
def wordsOf (n : Nat) (l : List Byte) : List Nat := (List.range n).map (fun i => leNat (slice l (4 * i) 4))

/-- The READ_RECORD operation for an owner: none for every ring, or a parcel (R224, R391). -/
def actReadRecord (owner : Option Nat) (bad : List (Fin 5)) (m : Store) (c : Chip) (args : List Nat) : Chip × Option (Nat × List Nat) :=
  let r := args.getD 0 0
  let k := args.getD 1 0
  if 64 ≤ r then (c, some (1, []))
  else if (match owner with | some p => c.fld (Reg.FBK_RING_CFG r) Fd.FBK_RING_CFG_PARCEL != p | none => false) then
    (c, some (7, []))
  else if !c.on (Reg.FBK_RING_CFG r) Fd.FBK_RING_CFG_EN then (c, some (2, []))
  else if !c.fbkHolds r k then (c, some (3, []))
  else if c.fbkOff r k then (c, some (5, []))
  else
    let a := c.fbkAccess r k false
    match a.2 with
    | none => (a.1, some (4, []))
    | some ad => if !bad.isEmpty then (a.1.fbkPoison r k bad, some (4, [])) else (a.1, some (0, wordsOf 40 (m.rd ad recordLen)))

/-- READ_RECORD (R224). -/
def opReadRecord (rq : Req) (tag : BitVec 16) (bad : List (Fin 5)) (m : Store) (c : Chip) : Chip :=
  c.mbxRun rq tag .fbk 1 (actReadRecord none bad m)

/-- VF_READ_RECORD (R391): in the window of parcel 0, every ring. -/
def opVfReadRecord (rq : Req) (tag : BitVec 16) (p : Fin 64) (bad : List (Fin 5)) (m : Store) (c : Chip) : Chip :=
  c.mbxRun rq tag (.vf p 1) 1 (actReadRecord (if p.val = 0 then none else some p.val) bad m)

end Chip

/-! The meanings. -/

/-- FBK_RECORD_WRITE. -/
def execFbkRecordWrite (w : RecordWrite) (s : State) : Host.Outcome State Fault Refusal :=
  runBoth s (Chip.opFbkRecordWrite w.ue w.accs)

/-- READ_RECORD. -/
def execReadRecord (rq : Req) (tag : BitVec 16) (bad : List (Fin 5)) (s : State) : Host.Outcome State Fault Refusal :=
  runRead s (Chip.opReadRecord rq tag bad)

/-- VF_READ_RECORD. -/
def execVfReadRecord (rq : Req) (tag : BitVec 16) (p : Fin 64) (bad : List (Fin 5)) (s : State) : Host.Outcome State Fault Refusal :=
  runRead s (Chip.opVfReadRecord rq tag p bad)

end Sys2Proof.Machine
end

