-- ==== Sys2Proof/Machine/Hbm.lean ====
section
/-!
DEFINITION. HBM controllers and extension ports (chapter 12): refresh, retraining, command parity, rank retirement and
migration, the backing traverse, and the links of the extension ports.
-/

namespace Sys2Proof.Machine

/-- Rank blocks of a rank (R277). -/
def rankBlocks : Nat := if Config.isH96 then 49152 else 24576

namespace Chip

/-- Channel ch of controller k works. -/
def chanUp (c : Chip) (k ch : Nat) : Bool := c.memUp k && !bitOf (c.rd (Reg.MEM_CH_STATUS k)) ch

/-- Refresh interval of controller k in picoseconds (R280). -/
def refreshPs (c : Chip) (k : Nat) : Nat := if c.on (Reg.MEM_STATUS k) Fd.MEM_STATUS_HOT then 1950 * nsPs else 3900 * nsPs

/-- HBM_REFRESH (R280). -/
def opHbmRefresh (k ch : Nat) (c : Chip) : Chip :=
  let i := 32 * k + ch
  if c.chanUp k ch && decide (mget (fun _ => 0) c.hbm.refAt i + c.refreshPs k ≤ c.now) then
    let c1 := (c.bump (Reg.MEM_CNT k 8) 1).closeRows i
    { c1 with hbm.refAt := mset (fun _ => 0) c1.hbm.refAt i c.now }
  else c

/-- HBM_RETRAIN_STEP (R280). -/
def opHbmRetrainStep (k ch : Nat) (c : Chip) : Chip :=
  let i := 32 * k + ch
  if c.chanUp k ch && decide (mget (fun _ => 0) c.hbm.stepAt i + 40 * usPs ≤ c.now) then
    let c1 := c.bump (Reg.MEM_CNT k 9) 1
    { c1 with hbm.stepAt := mset (fun _ => 0) c1.hbm.stepAt i c.now }
  else c

/-! Ranks. -/

/-- RETIRE_REQ (R289, R298). A rank whose retirement is ignored keeps RETIRE_REQ 0. -/
def opRetireReq (rq : Req) (k r : Nat) (c : Chip) : Chip :=
  c.regCmd rq (Reg.MEM_RANK k r) (fun c =>
    if c.retirable k r then (c.setF (Reg.MEM_RANK k r) Fd.MEM_RANK_RETIRE_REQ 1).retire k r else c)

/-- The migration of controller k has copied its last block (R290). -/
def endMigration (c : Chip) (k : Nat) : Chip :=
  let s := c.fld (Reg.MEM_MIG k) Fd.MEM_MIG_SRC
  let d := c.fld (Reg.MEM_MIG k) Fd.MEM_MIG_DST
  let c1 := ((c.setF (Reg.MEM_STATUS k) Fd.MEM_STATUS_MIGRATING 0).setF (Reg.MEM_RANK k s) Fd.MEM_RANK_RETIRED 1).setF
    (Reg.MEM_RANK k s) Fd.MEM_RANK_MAP d
  let c2 := ((c1.countSpares k).report (0x0C + k) 0 0x09 outMasked).memEvent k s 1
  nextRetire (c2.hbm.due.length + 1) c2 k

/-- A word of the block under copy that is uncorrectable in S is counted, and marked so in D (R286, R290). -/
def badWord (k s d p : Nat) (c : Chip) (w : Fin 128) : Chip :=
  let c1 := c.rankUe k s
  { c1 with hbm.badWords := c1.hbm.badWords.filter (fun x => x != (k, d, 128 * p + w.val)) ++ [(k, d, 128 * p + w.val)] }

/-- MIGRATION_BLOCK (R290): a rank block has been copied, at least 4 us after the one before. held: writes to it that waited for its copy;
bad: its words of 32 bytes that are uncorrectable in S. -/
def opMigrationBlock (k held : Nat) (bad : List (Fin 128)) (accs : List MemAcc) (c0 : Chip) : Chip :=
  if c0.memUp k && c0.on (Reg.MEM_STATUS k) Fd.MEM_STATUS_MIGRATING
      && decide (mget (fun _ => 0) c0.hbm.migAt k + 4 * usPs ≤ c0.now) then
    let p := c0.fld (Reg.MEM_MIG k) Fd.MEM_MIG_POINTER
    let n := p + 1
    let c := bad.foldl (badWord k (c0.fld (Reg.MEM_MIG k) Fd.MEM_MIG_SRC) (c0.fld (Reg.MEM_MIG k) Fd.MEM_MIG_DST) p)
      (((memUsed 1 (memUsed 0 (c0.memAccs 3 false accs) k) k).bump (Reg.MEM_CNT k 11) held))
    let c1 := (c.setF (Reg.MEM_MIG k) Fd.MEM_MIG_POINTER n).bump (Reg.MEM_CNT k 10) 1
    let c2 := { c1 with hbm.migAt := mset (fun _ => 0) c1.hbm.migAt k c.now }
    if rankBlocks ≤ n then c2.endMigration k else c2
  else c0

/-! Command parity (R284, R285). -/

/-- A channel that nothing lists. -/
def chanQuiet (_ : Nat) : Chan := Chan.quiet

/-- Channel ch of controller k fails: reported, and each of its ranks fenced (R285). -/
def failChannel (c : Chip) (k ch : Nat) : Chip :=
  let c1 := (c.wrN (Reg.MEM_CH_STATUS k) (setBit (c.rd (Reg.MEM_CH_STATUS k)) ch true)).setF (Reg.MEM_STATUS k) Fd.MEM_STATUS_CH_FAIL 1
  let c2 := (c1.report (0x0C + k) 0 0x0A outDegraded).memEvent k ch 3
  (List.range 4).foldl (fun c s =>
    if c.on (Reg.MEM_RANK k (4 * ch + s)) Fd.MEM_RANK_FENCED then c else c.fenceRank k (4 * ch + s)) c2

/-- An alert restarts the replay, after three such retrains the channel, and within 1 ms of a retrain fails it. -/
def opParityAlert (k ch : Nat) (c : Chip) : Chip :=
  let i := 32 * k + ch
  if !c.chanUp k ch then c
  else
    let x := mget chanQuiet c.hbm.chans i
    let set := fun (c : Chip) (y : Chan) => { c with hbm.chans := mset chanQuiet c.hbm.chans i y }
    if x.retrainAt.any (fun t => decide (c.now < t + msPs)) then
      (set c Chan.quiet).failChannel k ch
    else
      let during := x.replayAt.any (fun t => decide (c.now < t + 500 * nsPs))
      let met := if during then x.met + 1 else 0
      if 3 ≤ met then set (c.bump (Reg.MEM_CNT k 5) 1) ⟨none, 0, some c.now⟩
      else set (((c.bump (Reg.MEM_CNT k 4) 1).closeRows i).report (0x0C + k) 0 0x08 outMasked) ⟨some c.now, met, none⟩

/-! Backing copies (R293). -/

/-- The copy on stack k of a location is uncorrectable: counted for its rank (R286). -/
def copyUe (l : Loc) (c : Chip) (k : Nat) : Chip := c.rankUe k (c.copyRank l k)

/-- A word of a backing copy that is uncorrectable on one stack is rewritten from another copy; where no other can be read, it is
reported as a failed repair. -/
def backOne (c : Chip) (x : Fin 4 × Loc) : Chip :=
  if (backStacks x.2).contains x.1.val && c.copyUp x.2 x.1 then
    let c1 := copyUe x.2 c x.1
    if (backStacks x.2).any (fun j => j != x.1.val && c.copyUp x.2 j) then c1.bump (Reg.MEM_CNT x.1 14) 1
    else c1.locReport x.2 0x07 outReported
  else c

/-- A word that is uncorrectable in every copy that can be read is reported as a failed repair. -/
def backBoth (c : Chip) (l : Loc) : Chip :=
  let ks := (backStacks l).filter (c.copyUp l)
  if ks.isEmpty then c else (ks.foldl (copyUe l) c).locReport l 0x07 outReported

/-- A stack that is off or has a failed channel leaves the other copy alone; the loss is reported (log 37). -/
def backLost (c : Chip) (k : Nat) : Chip :=
  if c.memUp k && !c.on (Reg.MEM_STATUS k) Fd.MEM_STATUS_CH_FAIL then c else c.report (0x0C + k) 0 0x19 outReported

/-- BACKING_TRAVERSE (R293), 10 s after the one before: oneBad names words that are uncorrectable on one stack, bothBad those lost in
every copy. The copies of a stack that had lost them are written again (log 131). -/
def opBackingTraverse (oneBad : List (Fin 4 × Loc)) (bothBad : List Loc) (accs : List MemAcc) (c : Chip) : Chip :=
  if c.now < c.hbm.backAt + 10000 * msPs then c
  else
    let ks := (List.range 4).filter c.memUp
    let c1 := ks.foldl (memUsed 0) (c.memAccs 3 false accs)
    let c2 := (List.range 4).foldl backLost (bothBad.foldl backBoth (oneBad.foldl backOne c1))
    { c2 with hbm.backAt := c.now, hbm.backed := (List.range 4).filter (fun k => ks.contains k || c2.hbm.backed.contains k) }

/-! Extension-port links (R295). -/

/-- Port n loses its link: counted and reported. -/
def xmLinkDown (c : Chip) (n : Nat) : Chip :=
  if c.on (Reg.XM_STATUS n) Fd.XM_STATUS_LINK_UP then
    ((c.setF (Reg.XM_STATUS n) Fd.XM_STATUS_LINK_UP 0).bump (Reg.XM_CNT n 4) 1).report (0x10 + n) 0 0x17 outReported
  else c

/-- CXL_LINK_DOWN. -/
def opCxlLinkDown (n : Nat) (c : Chip) : Chip := c.xmLinkDown n

/-- CXL_TIMEOUT: a request on port n had no response within 50 us and fails for its user; 16 in a row take the link down. -/
def opCxlTimeout (n : Nat) (c : Chip) : Chip :=
  if c.xmUp n then
    let t := mget (fun _ => 0) c.hbm.timeouts n + 1
    let c1 := { c.bump (Reg.XM_CNT n 5) 1 with
      hbm.timedOut := mset (fun _ => 0) c.hbm.timedOut n (mget (fun _ => 0) c.hbm.timedOut n + 1) }
    if 16 ≤ t then { c1 with hbm.timeouts := mset (fun _ => 0) c1.hbm.timeouts n 0 }.xmLinkDown n
    else { c1 with hbm.timeouts := mset (fun _ => 0) c1.hbm.timeouts n t }
  else c

/-- CXL_LINK_UP: the link of a powered port has trained again. -/
def opCxlLinkUp (n : Nat) (c : Chip) : Chip :=
  if c.domOn (112 + n) then
    { c.setF (Reg.XM_STATUS n) Fd.XM_STATUS_LINK_UP 1 with
      hbm.timeouts := mset (fun _ => 0) c.hbm.timeouts n 0, hbm.timedOut := mset (fun _ => 0) c.hbm.timedOut n 0 }
  else c

end Chip

/-! The meanings. -/

/-- HBM_REFRESH. -/
def execHbmRefresh (k : Fin 4) (ch : Fin 32) (s : State) : Host.Outcome State Fault Refusal :=
  runChip s (Chip.opHbmRefresh k.val ch.val)

/-- HBM_RETRAIN_STEP. -/
def execHbmRetrainStep (k : Fin 4) (ch : Fin 32) (s : State) : Host.Outcome State Fault Refusal :=
  runChip s (Chip.opHbmRetrainStep k.val ch.val)

/-- PARITY_ALERT. -/
def execParityAlert (k : Fin 4) (ch : Fin 32) (s : State) : Host.Outcome State Fault Refusal :=
  runChip s (Chip.opParityAlert k.val ch.val)

/-- RETIRE_REQ. -/
def execRetireReq (rq : Req) (k : Fin 4) (r : Fin 128) (s : State) : Host.Outcome State Fault Refusal :=
  runChip s (Chip.opRetireReq rq k.val r.val)

/-- MIGRATION_BLOCK. -/
def execMigrationBlock (x : BlockCopy) (s : State) : Host.Outcome State Fault Refusal :=
  runChip s (Chip.opMigrationBlock x.k.val x.held x.bad x.accs)

/-- BACKING_TRAVERSE. -/
def execBackingTraverse (oneBad : List (Fin 4 × Loc)) (rest : BackingRest) (s : State) : Host.Outcome State Fault Refusal :=
  runChip s (Chip.opBackingTraverse oneBad rest.bothBad rest.accs)

/-- CXL_TIMEOUT. -/
def execCxlTimeout (n : Fin 2) (s : State) : Host.Outcome State Fault Refusal := runChip s (Chip.opCxlTimeout n.val)

/-- CXL_LINK_DOWN. -/
def execCxlLinkDown (n : Fin 2) (s : State) : Host.Outcome State Fault Refusal := runChip s (Chip.opCxlLinkDown n.val)

/-- CXL_LINK_UP. -/
def execCxlLinkUp (n : Fin 2) (s : State) : Host.Outcome State Fault Refusal := runChip s (Chip.opCxlLinkUp n.val)

end Sys2Proof.Machine
end

