-- ==== Sys2Proof/Machine/Pools.lean ====
section
/-!
DEFINITION. The spill to HBM (R236 to R241, R287), the extension pools (R242 to R244) and the leak audit (R245 to R247).
-/

namespace Sys2Proof.Machine

/-- Bytes of records that a packet page holds (R241). -/
def pageBytes : Nat := 4064

/-- No page. -/
def pageFree (_ : Nat) : Page := Page.free

/-- Bytes of the record of a copy of length L′: a descriptor and the copy without FCS, padded to 32 bytes (R238). -/
def spillLen (len : Nat) : Nat := 32 + ceilDiv (len - 4) 32 * 32

namespace Chip

/-! Copies as bytes (R228). -/

/-- A copy without its FCS: rewritten head, the frame chain from byte H, padding. -/
def copyBytes (c : Chip) (x : Copy) : List Byte :=
  let b := x.head ++ slice (c.chain x.chain).bytes x.bodyOff x.bodyLen
  b ++ List.replicate (x.len - 4 - b.length) 0

/-- The cells that hold a copy. -/
def copyCells (c : Chip) (x : Copy) : List Nat :=
  match x.place with
  | .cells => x.headCells ++ c.cellsOfBytes x.chain x.bodyOff (x.bodyOff + x.bodyLen)
  | .marked => x.headCells ++ c.cellsOfBytes x.chain x.bodyOff (x.bodyOff + x.bodyLen)
  | .refill => x.refill
  | .hbm => []

/-- The oldest copy of queue i at a place. -/
def oldestAt (c : Chip) (i : Nat) (p : Place) : Option Copy := c.bpm.copies.find? (fun x => x.queue == i && decide (x.place = p))

/-- Replace the first of the copies equal to x. -/
def replaceFirst (x y : Copy) : List Copy → List Copy
  | [] => []
  | z :: l => if z = x then y :: l else z :: replaceFirst x y l

/-- A queued copy changes. -/
def setCopy (c : Chip) (x y : Copy) : Chip := { c with bpm.copies := replaceFirst x y c.bpm.copies }

/-- The subscriber node of a queue and the group node of that node (R252). -/
def qSub (c : Chip) (q : Nat) : Nat := c.act (Reg.TM_Q_CFG0 q) Fd.TM_Q_CFG0_SUB
def subGroup (c : Chip) (s : Nat) : Nat := c.act (Reg.TM_N_CFG s) Fd.TM_N_CFG_PARENT

/-- Queue q, its subscriber node and its group node keep no deficit once they hold no copy (R265). -/
def emptyDcs (c : Chip) (q : Nat) : Chip :=
  let qs := c.bpm.copies.map (·.queue)
  let s := c.qSub q
  let g := c.subGroup s
  let ks := (if qs.contains q then [] else [Reg.TM_Q_CFG0 q]) ++ (if qs.any (fun r => c.qSub r == s) then [] else [Reg.TM_N_CFG s])
    ++ (if qs.any (fun r => c.subGroup (c.qSub r) == g) then [] else [Reg.TM_G_CFG g])
  { c with tm.drrDc := ks.foldl (fun m k => mset (fun _ => 0) m k 0) c.tm.drrDc }

/-- A copy is no longer queued. -/
def delCopy (c : Chip) (x : Copy) : Chip := { c with bpm.copies := c.bpm.copies.erase x }.emptyDcs x.queue

/-! Packet pages (R241, R291). -/

/-- Pages that can be taken. -/
def pagesFree (c : Chip) : Nat := c.pageTotal - c.bpm.pages.length

/-- Take n pages, the first free ones of the bitmap, for queue i. -/
def takePages : Nat → Chip → Nat → Nat → List Nat → Chip × List Nat
  | 0, c, _, _, got => (c, got)
  | n + 1, c, i, o, got =>
    let p := gapFrom c.bpm.pages 0
    takePages n (({ c with bpm.pages := mset pageFree c.bpm.pages p ⟨1, o, 0, i⟩ }).ownUp o 1 1) i o (got ++ [p])

/-- Controller k has fenced a rank that page p touches (R291). -/
def pageFenced (c : Chip) (p k : Nat) : Bool :=
  (List.range 128).any (fun r => c.on (Reg.MEM_RANK k r) Fd.MEM_RANK_FENCED &&
    match c.logicalOf k r with
    | some l => (pageRanks p k).contains l
    | none => false)

/-- A page is freed; one that touches a fenced rank is withdrawn, and each controller that fenced it counts it (R291). -/
def freePage (c : Chip) (p : Nat) : Chip :=
  let c1 := c.ownDown (mget pageFree c.bpm.pages p).owner 1 1
  let ks := (List.range 4).filter (c1.pageFenced p)
  if ks.isEmpty then { c1 with bpm.pages := mdel c1.bpm.pages p }
  else
    ks.foldl (fun c k => c.sat (Reg.MEM_WITHDRAWN k) 1) { c1 with bpm.pages := mset pageFree c1.bpm.pages p ⟨2, 0, 0, 0⟩ }

/-- Bytes of records in queue i's page chain. -/
def hbmBytes (c : Chip) (i : Nat) : Nat :=
  ((c.qCopies i).filter (fun x => decide (x.place = .hbm))).foldl (fun t x => t + spillLen x.len) 0

/-- Pages that no record of queue i reaches any more are freed, from the front of its chain. -/
def trimPages (c : Chip) (i : Nat) : Chip :=
  let q := c.q i
  let span := pageBytes * (q.pages.length - 1) + q.tail
  let n := if c.hbmBytes i = 0 then q.pages.length else (span - c.hbmBytes i) / pageBytes
  let c1 := (q.pages.take n).foldl freePage c
  c1.setQ i { c1.q i with pages := q.pages.drop n, tail := if (q.pages.drop n).isEmpty then 0 else q.tail }

/-- A spilling queue with no record and no write left returns to ON_DIE (R237). -/
def settleSpill (c : Chip) (i : Nat) : Chip :=
  if (c.q i).spill && !(c.qCopies i).any (fun x => decide (x.place = .hbm) || decide (x.place = .marked)) then
    c.setQ i { c.q i with spill := false, claim := c.refillUsed i }
  else c

/-- A copy that is not to go on lets its cells and its reference go; refill cells return to the claim, which only the event SPILL to
ON_DIE lowers (R234, R237, R239). -/
def releaseCopy (c : Chip) (x : Copy) : Chip :=
  let n := (c.chain x.chain).port
  let c1 := c.dropCopy x
  let c2 := match x.place with
    | .cells => c1.fcCheck n
    | .marked => c1.fcCheck n
    | .refill => c1
    | .hbm => c1.trimPages x.queue
  c2.settleSpill x.queue

/-! Records in HBM. -/

/-- A spill cap of controller k in GB/s: while HOT is set at most 675 (R278, R279). -/
def spillCap (c : Chip) (k : Nat) (f : BF) : Nat :=
  let v := c.fld (Reg.MEM_SPILL_CAP k) f
  if c.on (Reg.MEM_STATUS k) Fd.MEM_STATUS_HOT then min v 675 else v

/-- Bytes on stack k of a record of len bytes at offset o of its chain (R241, R277). -/
def stackBytes (o len k : Nat) : Nat :=
  32 * ((List.range (len / 32)).filter (fun j => (32 + (o + 32 * j) % pageBytes) / 256 % 4 == k)).length

/-- Every controller's cap admits the next transfer (R278). -/
def capAdmits (c : Chip) (m : NMap Nat) (f : BF) : Bool :=
  (List.range 4).all (fun k => decide (mget (fun _ => 0) m k ≤ c.now) && c.spillCap k f != 0)

/-- From when each controller's cap admits the transfer after that of a record: 1 GB/s is 1 byte in 1,000 ps. -/
def capAfter (c : Chip) (m : NMap Nat) (f : BF) (o len : Nat) : NMap Nat :=
  (List.range 4).foldl (fun m k => mset (fun _ => 0) m k (c.now + ceilDiv (1000 * stackBytes o len k) (c.spillCap k f))) m

/-- Offset in queue i's page chain of its oldest record. -/
def recordAt (c : Chip) (i : Nat) : Nat := pageBytes * ((c.q i).pages.length - 1) + (c.q i).tail - c.hbmBytes i

/-- Where a marked word lies in the record of len bytes at offset o of queue i's chain: 0 outside it, 1 in its data, 2 in its queue
descriptor or in the header of a page that it lies in (R287, R290). -/
def markIn (c : Chip) (i o len : Nat) (w : Nat × Nat × Nat) : Nat :=
  match c.logicalOf w.1 w.2.1 with
  | none => 0
  | some l =>
    let off := 32 * (Config.wordOffset w.1 l w.2.2 % 128)
    ((List.range (c.q i).pages.length).filter (fun j => (c.q i).pages.getD j 0 == Config.wordPage w.1 l w.2.2
        && decide (o / pageBytes ≤ j) && decide (j ≤ (o + len - 1) / pageBytes))).foldl (fun _ j =>
      let at_ := pageBytes * j + off - 32
      if off = 0 ∨ at_ = o then 2 else if o < at_ ∧ at_ < o + len then 1 else 0) 0

/-- The marked words of a record. -/
def marksIn (c : Chip) (i o len kind : Nat) : List (Nat × Nat × Nat) :=
  c.hbm.badWords.filter (fun w => c.markIn i o len w == kind)

/-- The first controller that has fenced a rank of a page in which the record at offset o of queue i's chain lies (R287, log 141). -/
def recordFenced (c : Chip) (i o len : Nat) : Option Nat :=
  let ps := ((c.q i).pages.drop (o / pageBytes)).take ((o + len - 1) / pageBytes - o / pageBytes + 1)
  (List.range 4).find? (fun k => ps.any (fun p => c.pageFenced p k))

/-- SPILL_WRITE_COMPLETE (R238, R278): the oldest copy of queue i marked for HBM has been written; one that the cap holds waits. -/
def opSpillWriteComplete (i : Nat) (accs : List MemAcc) (c : Chip) : Chip :=
  match c.oldestAt i .marked with
  | none => c
  | some x =>
    if !(List.range 4).all c.memUp || !c.capAdmits c.hbm.spillAt Fd.MEM_SPILL_CAP_WR_GBPS then c
    else
      let q := c.q i
      let room := if q.pages.isEmpty then 0 else pageBytes - q.tail
      let n := ceilDiv (spillLen x.len - room) pageBytes
      if c.pagesFree < n then
        (((c.delCopy x).bump (Reg.BPM_CNT 5) 1).countDrop x.slice 0x82).releaseCopy x
      else
        let e := (c.memAccs 2 true accs).readCells (c.copyCells x)
        let b := e.1.copyBytes x
        let t := takePages n e.1 i (e.1.ownerOf 0x13 x.parcel) []
        let pages := q.pages ++ t.2
        let span := pageBytes * (q.pages.length - 1) + q.tail + spillLen x.len
        let o := span - spillLen x.len
        let c0 := t.1.setQ i { t.1.q i with pages := pages, tail := span - pageBytes * (pages.length - 1) }
        let c1 := { c0 with hbm.spillAt := c0.capAfter c0.hbm.spillAt Fd.MEM_SPILL_CAP_WR_GBPS o (spillLen x.len),
                            hbm.badWords := c0.hbm.badWords.filter (fun w => c0.markIn i o (spillLen x.len) w == 0) }
        let y := { x with head := b, headCells := [], chain := 0, bodyOff := 0, bodyLen := 0, place := .hbm,
                          poisoned := x.poisoned || e.2 }
        let c2 := (c1.setCopy x y).freeCells x.headCells
        ((c2.releaseRef x.chain).bump (Reg.BPM_CNT 6) 1).memTouched 1

/-- One record that is lost with its chain (R287). -/
def loseRecord (k : Nat) (c : Chip) (x : Copy) : Chip :=
  (((c.delCopy x).bump (Reg.MEM_CNT k 13) 1).countDrop x.slice 0xB1).releaseCopy x

/-- READBACK (R239, R278, R287): the oldest HBM record of queue i, with the uncorrectable accesses of its data (errs), and of its queue
descriptor and page headers. -/
def opReadback (i : Nat) (errs : List (Fin 4 × Fin 128)) (desc : DescErrs) (accs : List MemAcc) (c : Chip) : Chip :=
  match c.oldestAt i .hbm with
  | none => c
  | some x =>
    let q := c.q i
    let n := cellsOf x.len
    let o := c.recordAt i
    if !(List.range 4).all c.memUp || !c.capAdmits c.hbm.fillAt Fd.MEM_SPILL_CAP_RD_GBPS || decide (q.claim < c.refillUsed i + n)
        || decide (c.fld (Reg.BPM_SPILL_PROF (c.fld (Reg.TM_Q_CFG1 i) Fd.TM_Q_CFG1_SPILL_PROF)) Fd.BPM_SPILL_PROF_SPILL_ON
            ≤ c.dieDepth i) then c
    else
      match c.recordFenced i o (spillLen x.len) with
      | some k => loseRecord k c x
      | none =>
        let both := desc.both.map (fun y => (y.1.val, y.2.val)) ++ (c.marksIn i o (spillLen x.len) 2).map (fun w => (w.1, w.2.1))
        let data := errs.map (fun y => (y.1.val, y.2.val)) ++ (c.marksIn i o (spillLen x.len) 1).map (fun w => (w.1, w.2.1))
        let c0 := { c with hbm.fillAt := c.capAfter c.hbm.fillAt Fd.MEM_SPILL_CAP_RD_GBPS o (spillLen x.len) }
        let c1 := (both ++ data).foldl (fun c y => c.rankUe y.1 y.2) (((c0.memAccs 1 false accs).memTouched 0).ranksUe desc.half)
        match both, data with
        | y :: _, _ => ((c1.qCopies i).filter (fun z => decide (z.place = .hbm))).foldl (loseRecord y.1) c1
        | [], y :: _ => (((c1.bump (Reg.MEM_CNT y.1 12) 1).delCopy x).countDrop x.slice 0xB0).releaseCopy x
        | [], [] =>
          let a := c1.allocCells n 3 (c1.ownerOf 0x13 x.parcel)
          if a.2.length < n then c
          else (((a.1.setCopy x { x with place := .refill, refill := a.2 }).bump (Reg.BPM_CNT 7) 1).trimPages i).settleSpill i

/-! Extension pools. -/

/-- Pool k answers operations (R243). -/
def poolReady (c : Chip) (k : Nat) : Bool :=
  c.on (Reg.BPM_XP_CFG k) Fd.BPM_XP_CFG_EN && c.on (Reg.BPM_XP_STATUS k) Fd.BPM_XP_STATUS_READY

def poolLeaves (c : Chip) (k : Nat) : Nat := c.fld (Reg.BPM_XP_LEAVES k) Fd.BPM_XP_LEAVES_LEAVES
def poolMeta (c : Chip) (k : Nat) : Nat := c.rd (Reg.BPM_XP_META_LO k) + c.rd (Reg.BPM_XP_META_HI k) * 2 ^ 32
def poolBuf (c : Chip) (k : Nat) : Nat := c.rd (Reg.BPM_XP_BUF_LO k) + c.rd (Reg.BPM_XP_BUF_HI k) * 2 ^ 32
def poolParcel (c : Chip) (k : Nat) : Nat := c.fld (Reg.BPM_XP_CFG k) Fd.BPM_XP_CFG_PARCEL
def poolPort (c : Chip) (k : Nat) : Nat := c.fld (Reg.BPM_XP_CFG k) Fd.BPM_XP_CFG_PORT

/-- Extension address of leaf word w. -/
def leafAddr (c : Chip) (k w : Nat) : Nat := c.poolMeta k + 8 * w

/-- Extension address of the audit record of buffer i. -/
def auditAddr (c : Chip) (k i : Nat) : Nat := c.poolMeta k + 8 * c.poolLeaves k + 2 * i

/-- Read n bytes of extension memory for pool k. -/
def poolRead (c : Chip) (m : Store) (k xa n : Nat) : Chip × Option Nat :=
  let a := c.xmAccess (c.poolParcel k) xa false
  (a.1, a.2.map (fun ad => leNat (m.rd ad n)))

/-- Write n bytes of extension memory for pool k; a failed write is dropped (R295). -/
def poolWrite (c : Chip) (m : Store) (k xa n v : Nat) : Store × Chip :=
  let a := c.xmAccess (c.poolParcel k) xa true
  match a.2 with
  | some ad => (m.wr ad (leBytes n v), a.1)
  | none => (m, a.1)

/-- The lowest leaf word whose summary bit is 1 (R242, R244). -/
def freeLeaf (c : Chip) (k : Nat) : Option Nat := (List.range (c.poolLeaves k)).find? (fun w => !c.bpm.xfull.contains (k, w))

/-- Set a leaf word and its summary bit. -/
def setLeaf (c : Chip) (m : Store) (k w v : Nat) : Store × Chip :=
  let r := c.poolWrite m k (c.leafAddr k w) 8 v
  (r.1, { r.2 with bpm.xfull := if v = 0 then r.2.bpm.xfull ++ [(k, w)] else r.2.bpm.xfull.erase (k, w) })

/-- POOL_INIT (R242, R243): a write of EN 1, refused as a reserved encoding with no leaves or with more than fit. -/
def poolEnable (c : Chip) (rq : Req) (k : Nat) : Chip :=
  if c.on (Reg.BPM_XP_CFG k) Fd.BPM_XP_CFG_EN then c
  else
    let others := (List.range 16).foldl (fun t j => if j ≠ k ∧ c.on (Reg.BPM_XP_CFG j) Fd.BPM_XP_CFG_EN then t + c.poolLeaves j else t) 0
    if c.poolLeaves k = 0 ∨ 67108864 < others + c.poolLeaves k then c.err rq errBadValue (Reg.BPM_XP_CFG k)
    else (c.setF (Reg.BPM_XP_CFG k) Fd.BPM_XP_CFG_EN 1).setF (Reg.BPM_XP_STATUS k) Fd.BPM_XP_STATUS_READY 0

/-- POOL_INIT. -/
def opPoolInit (rq : Req) (k : Nat) (c : Chip) : Chip := c.regCmd rq (Reg.BPM_XP_CFG k) (fun c => c.poolEnable rq k)

/-- Write value v of n bytes at each of some extension addresses of pool k, one request each; true where none failed (R296, R297). -/
def poolFill (k n v : Nat) : List Nat → Store → Chip → Store × Chip × Bool
  | [], m, c => (m, c, true)
  | xa :: l, m, c =>
    let a := c.poolWrite m k xa n v
    let r := poolFill k n v l a.1 a.2
    (r.1, r.2.1, (c.xmAccess (c.poolParcel k) xa true).2.isSome && r.2.2)

/-- POOL_INIT_DONE (R243): every leaf word is written as ones and every audit record as zero, each at the device address that its own
extension address gives; a pool part of whose memory cannot be reached is not READY (log 41). -/
def opPoolInitDone (k : Nat) (m : Store) (c : Chip) : Store × Chip :=
  if c.on (Reg.BPM_XP_CFG k) Fd.BPM_XP_CFG_EN && !c.on (Reg.BPM_XP_STATUS k) Fd.BPM_XP_STATUS_READY then
    let n := c.poolLeaves k
    let a := poolFill k 8 (2 ^ 64 - 1) ((List.range n).map (c.leafAddr k)) m c
    let b := poolFill k 2 0 ((List.range (64 * n)).map (c.auditAddr k)) a.1 a.2.1
    if a.2.2 && b.2.2 then
      let c1 := (b.2.1.wrN (Reg.BPM_XP_FREE k) (64 * n)).setF (Reg.BPM_XP_STATUS k) Fd.BPM_XP_STATUS_READY 1
      (b.1, { c1 with bpm.xfull := c1.bpm.xfull.filter (fun x => x.1 != k) })
    else (b.1, b.2.1)
  else (m, c)

/-- The owner of a buffer taken through mailbox m (R244). -/
def poolOwner (c : Chip) (m k : Nat) : Nat := c.ownerOf (if m = 0 then 0x06 else 0x09) (c.poolParcel k)

/-- The XALLOC operation through mailbox mb: the lowest free buffer (R244). -/
def actXalloc (mb : Nat) (ue : Bool) (args : List Nat) (m : Store) (c : Chip) : Store × Chip × (Nat × List Nat) :=
  let k := args.getD 0 0
  if 16 ≤ k then (m, c, (1, []))
  else if !c.poolReady k then (m, c, (1, []))
  else if !c.xmUp (c.poolPort k) then (m, c, (4, []))
  else
    match c.freeLeaf k with
    | none => (m, c, (2, []))
    | some w =>
      let r := c.poolRead m k (c.leafAddr k w) 8
      match r.2 with
      | none => (m, r.1, (5, []))
      | some v =>
        if ue then (m, r.1.xmPoison (c.poolParcel k) (c.leafAddr k w), (5, []))
        else
          match (List.range 64).find? (bitOf v) with
          | none => (m, r.1, (2, []))
          | some j =>
            let i := 64 * w + j
            let o := c.poolOwner mb k
            let l := r.1.setLeaf m k w (setBit v j false)
            let a := l.2.poolWrite l.1 k (c.auditAddr k i) 2 (o * 256)
            let c1 := (a.2.ownUp o 2 1).wrN (Reg.BPM_XP_FREE k) (a.2.rd (Reg.BPM_XP_FREE k) + (2 ^ 32 - 1))
            let ad := c.poolBuf k + i * (4096 * 2 ^ c.fld (Reg.BPM_XP_CFG k) Fd.BPM_XP_CFG_SIZE)
            (a.1, c1, (0, [ad % 2 ^ 32, ad / 2 ^ 32 % 2 ^ 20, i]))

/-- The XFREE operation (R244). -/
def actXfree (ue : Bool) (args : List Nat) (m : Store) (c : Chip) : Store × Chip × (Nat × List Nat) :=
  let k := args.getD 0 0
  let i := args.getD 1 0
  if 16 ≤ k then (m, c, (1, []))
  else if !c.poolReady k ∨ 64 * c.poolLeaves k ≤ i then (m, c, (1, []))
  else if !c.xmUp (c.poolPort k) then (m, c, (4, []))
  else
    let w := i / 64
    let r := c.poolRead m k (c.leafAddr k w) 8
    match r.2 with
    | none => (m, r.1, (5, []))
    | some v =>
      if ue then (m, r.1.xmPoison (c.poolParcel k) (c.leafAddr k w), (5, []))
      else if bitOf v (i % 64) then (m, r.1.bump (Reg.BPM_CNT 15) 1, (3, []))
      else
        let a := r.1.poolRead m k (c.auditAddr k i) 2
        match a.2 with
        | none => (m, a.1, (5, []))
        | some rec16 =>
          let l := a.1.setLeaf m k w (setBit v (i % 64) true)
          (l.1, (l.2.ownDown (rec16 / 256 % 256) 2 1).wrN (Reg.BPM_XP_FREE k) (l.2.rd (Reg.BPM_XP_FREE k) + 1), (0, []))

/-- Run a pool operation in BPM mailbox mb; a refused command leaves the memory as it is. -/
def poolCmd (rq : Req) (tag : BitVec 16) (mb : Fin 2) (op : Nat) (m : Store) (c : Chip)
    (act : List Nat → Store → Chip → Store × Chip × (Nat × List Nat)) : Store × Chip :=
  let run := fun (c : Chip) (args : List Nat) => ((act args m c).2.1, some (act args m c).2.2)
  let ok := (Mbx.bpm mb).allows rq && !c.addrOff (Mbx.bpm mb).cmd && (c.mbxFind (.bpm mb)).isNone
    && c.mbxServed (.bpm mb) op
  (if ok then (act (c.mbxArgs (.bpm mb)) m (c.setF (Mbx.bpm mb).result ⟨14, 2⟩ 1)).1 else m, c.mbxRun rq tag (.bpm mb) op run)

/-- XALLOC (R244). -/
def opXalloc (rq : Req) (tag : BitVec 16) (mb : Fin 2) (ue : Bool) (m : Store) (c : Chip) : Store × Chip :=
  poolCmd rq tag mb 1 m c (actXalloc mb.val ue)

/-- XFREE (R244). -/
def opXfree (rq : Req) (tag : BitVec 16) (mb : Fin 2) (ue : Bool) (m : Store) (c : Chip) : Store × Chip :=
  poolCmd rq tag mb 2 m c (actXfree ue)

/-- The CELL_INFO operation (R244). What the fields of a free cell hold is not stated: free values. -/
def actCellInfo (c : Chip) (args : List Nat) : Chip × Option (Nat × List Nat) :=
  let i := args.getD 0 0
  if 524288 ≤ i then (c, some (1, []))
  else
    let x := c.cell i
    if x.kind = 0 then (c.tick, some (0, [2 ^ 31 + c.free.toNat % 2 ^ 31, (Config.cellKindCode 0).toNat * 2 ^ 16]))
    else (c, some (0, [x.age * 2 ^ 27 + x.owner * 2 ^ 19 + x.next, (Config.cellKindCode x.kind).toNat * 2 ^ 16 + (c.chain i).refs]))

/-- CELL_INFO (R244). -/
def opCellInfo (rq : Req) (tag : BitVec 16) (mb : Fin 2) (c : Chip) : Chip := c.mbxRun rq tag (.bpm mb) 3 actCellInfo

end Chip

/-! The leak audit. -/

/-- A buffer at a visit: kind (1 cell, 2 page, 3 extension buffer), pool, index, owner, and its new AGE. -/
structure Visit where
  kind : Nat
  pool : Nat
  index : Nat
  owner : Nat
  age : Nat
  deriving DecidableEq, Repr

/-- AGE rises by one and stops at 15. -/
def older (a : Nat) : Nat := min 15 (a + 1)

/-- The histogram bin of an age (R246). -/
def ageBin (a : Nat) : Nat :=
  if a ≤ 1 then a else if a ≤ 3 then 2 else if a ≤ 5 then 3 else if a ≤ 7 then 4 else if a ≤ 11 then 5 else if a ≤ 14 then 6 else 7

namespace Chip

/-- The audit record of an allocated extension buffer ages (R246). -/
def visitBuf (k : Nat) (r : Store × Chip × List Visit) (i : Nat) : Store × Chip × List Visit :=
  let c := r.2.1
  match (c.poolRead r.1 k (c.leafAddr k (i / 64)) 8).2 with
  | none => r
  | some v =>
    if bitOf v (i % 64) then r
    else
      let a := c.poolRead r.1 k (c.auditAddr k i) 2
      match a.2 with
      | none => (r.1, a.1, r.2.2)
      | some x =>
        let g := older (x / 16 % 16)
        let w := a.1.poolWrite r.1 k (c.auditAddr k i) 2 (x / 256 * 256 + g * 16 + x % 16)
        (w.1, w.2, r.2.2 ++ [⟨3, k, i, x / 256, g⟩])

/-- Every buffer of pool k. -/
def visitPool (r : Store × Chip × List Visit) (k : Nat) : Store × Chip × List Visit :=
  if r.2.1.poolReady k && r.2.1.xmUp (r.2.1.poolPort k) then
    (List.range (64 * r.2.1.poolLeaves k)).foldl (visitBuf k) r
  else r

/-- An owner's histogram, oldest buffer and alarms from the visits of a pass (R246, R247). -/
def auditOwner (vs : List Visit) (c : Chip) (o : Nat) : Chip :=
  let mine := vs.filter (fun v => v.owner == o)
  let top := mine.foldl (fun a v => max a v.age) 0
  let c1 := (List.range 8).foldl (fun c b => c.wrN (Reg.BPM_OWNER_HIST o b) ((mine.filter (fun v => ageBin v.age == b)).length)) c
  let c2 := match mine.find? (fun v => v.age == top) with
    | some v => (c1.wrN (Reg.BPM_OWNER_OLDEST o) (v.kind * 2 ^ 30 + v.age * 16 + v.pool)).wrN (Reg.BPM_OWNER_OLDIDX o) v.index
    | none => (c1.wrN (Reg.BPM_OWNER_OLDEST o) 0).wrN (Reg.BPM_OWNER_OLDIDX o) 0
  let lim := c.fld (Reg.BPM_OWNER_CFG o) Fd.BPM_OWNER_CFG_AGE_LIMIT
  let late := if lim = 0 then [] else mine.filter (fun v => decide (lim ≤ v.age))
  match late with
  | [] => c2
  | v :: _ =>
    let k := Reg.BPM_LEAK_STATUS (o / 32)
    let c3 := ((c2.sat (Reg.BPM_OWNER_ALARMS o) late.length).wrN k (setBit (c2.rd k) (o % 32) true)).bump (Reg.BPM_CNT 14) 1
    (c3.report 0x12 0 0x18 outReported).event 0x08 0 0x12 none
      ([BitVec.ofNat 8 o, BitVec.ofNat 8 v.kind, 0, 0] ++ leBytes 4 v.index)

/-- The pass that ends now was due at bpm.auditAt plus the period; where the next one is due too, it has been delayed until now and
starts at once (R246, log 137). -/
def auditDone (c : Chip) : Chip :=
  let p := c.fld Reg.BPM_AUDIT_CFG Fd.BPM_AUDIT_CFG_PERIOD * msPs
  let start := c.bpm.auditAt + p
  if start + p ≤ c.now then { c.bump (Reg.BPM_CNT 13) 1 with bpm.auditAt := c.now - p }
  else { c with bpm.auditAt := start }

/-- AUDIT_PASS (R246, R247): the pass that is due ends. -/
def opAuditPass (m : Store) (c : Chip) : Store × Chip :=
  if c.on Reg.BPM_AUDIT_CFG Fd.BPM_AUDIT_CFG_EN
      && decide (c.bpm.auditAt + c.fld Reg.BPM_AUDIT_CFG Fd.BPM_AUDIT_CFG_PERIOD * msPs ≤ c.now) then
    let cells := c.bpm.cells.map (fun x => if x.2.kind = 4 then x else (x.1, { x.2 with age := older x.2.age }))
    let pages := c.bpm.pages.map (fun x => if x.2.kind = 1 then (x.1, { x.2 with age := older x.2.age }) else x)
    let vs := (cells.filter (fun x => x.2.kind != 4)).map (fun x => (⟨1, 0, x.1, x.2.owner, x.2.age⟩ : Visit))
      ++ (pages.filter (fun x => x.2.kind == 1)).map (fun x => (⟨2, 0, x.1, x.2.owner, x.2.age⟩ : Visit))
    let c0 := if pages.any (fun x => x.2.kind == 1) then c.memTouched 0 else c
    let r := (List.range 16).foldl visitPool (m, { c0 with bpm.cells := cells, bpm.pages := pages }, vs)
    (r.1, (((List.range 256).foldl (auditOwner r.2.2) r.2.1).bump (Reg.BPM_CNT 12) 1).auditDone)
  else (m, c)

end Chip

/-! The meanings. -/

/-- SPILL_WRITE_COMPLETE. -/
def execSpillWriteComplete (w : SpillWrite) (s : State) : Host.Outcome State Fault Refusal :=
  runChip s (Chip.opSpillWriteComplete w.q.val w.accs)

/-- READBACK. -/
def execReadback (q : Fin 131072) (errs : List (Fin 4 × Fin 128)) (desc : DescErrs) (accs : List MemAcc) (s : State) :
    Host.Outcome State Fault Refusal :=
  runChip s (Chip.opReadback q.val errs desc accs)

/-- POOL_INIT. -/
def execPoolInit (rq : Req) (pool : Fin 16) (s : State) : Host.Outcome State Fault Refusal :=
  runChip s (Chip.opPoolInit rq pool.val)

/-- POOL_INIT_DONE. -/
def execPoolInitDone (pool : Fin 16) (s : State) : Host.Outcome State Fault Refusal :=
  runBoth s (Chip.opPoolInitDone pool.val)

/-- XALLOC. -/
def execXalloc (rq : Req) (tag : BitVec 16) (m : Fin 2) (ue : Bool) (s : State) : Host.Outcome State Fault Refusal :=
  runBoth s (Chip.opXalloc rq tag m ue)

/-- XFREE. -/
def execXfree (rq : Req) (tag : BitVec 16) (m : Fin 2) (ue : Bool) (s : State) : Host.Outcome State Fault Refusal :=
  runBoth s (Chip.opXfree rq tag m ue)

/-- CELL_INFO. -/
def execCellInfo (rq : Req) (tag : BitVec 16) (m : Fin 2) (s : State) : Host.Outcome State Fault Refusal :=
  runChip s (Chip.opCellInfo rq tag m)

/-- AUDIT_PASS. -/
def execAuditPass (s : State) : Host.Outcome State Fault Refusal := runBoth s Chip.opAuditPass

end Sys2Proof.Machine
end

