-- ==== Sys2Proof/Machine/Egress.lean ====
section
/-!
DEFINITION. The traffic manager's egress side (R264 to R272) and the transmit MAC (R115, R210, R211, R248, R309 to R313, R337).
-/

namespace Sys2Proof.Machine

/-- A scheduling element: the base of its entry, its rate register and its burst register (R252). -/
structure Elem where
  key : Nat
  rate : Nat
  burst : Nat
  deriving DecidableEq, Repr

def elQueue (q : Nat) : Elem := ⟨Reg.TM_Q_CFG0 q, Reg.TM_Q_RATE q, Reg.TM_Q_BURST q⟩
def elSub (s : Nat) : Elem := ⟨Reg.TM_N_CFG s, Reg.TM_N_RATE s, Reg.TM_N_BURST s⟩
def elGroup (g : Nat) : Elem := ⟨Reg.TM_G_CFG g, Reg.TM_G_RATE g, Reg.TM_G_BURST g⟩
def elPort (n : Nat) : Elem := ⟨Reg.TM_P_CFG n, Reg.TM_P_RATE n, Reg.TM_P_BURST n⟩

/-- What an element would send next: B of the copy, its queue, the elements it leaves through below this one, and the deficits
and pointers that sending it sets. -/
structure Choice where
  b : Nat
  queue : Nat
  els : List Elem
  dcs : List (Nat × Nat)
  pos : List (Nat × DrrPos)
  deriving DecidableEq, Repr

/-- The child number after cur in an ascending list, turning round. -/
def afterIn (l : List Nat) (cur : Nat) : Nat :=
  match l.find? (fun x => decide (cur < x)) with
  | some x => x
  | none => l.headD 0

/-- MAC data rate of a port type in Gb/s (R103). -/
def typeGbps (t : Nat) : Nat := [1, 10, 10, 40, 25, 100, 50, 100, 200, 100, 200, 400, 800, 200, 400, 800, 1600].getD t 1

namespace Chip

/-! Shapers (R266). -/

/-- A shaper that has never been used is full. -/
def shaperFull (c : Chip) (e : Elem) : Shaper := ⟨(c.rd e.burst % 2 ^ 24 : Nat), 0, c.tb⟩

/-- An element's shaper now, under a rate and a burst. -/
def shaperAt (c : Chip) (e : Elem) (rate burst : Nat) : Shaper :=
  let s := (mfind c.tm.shapers e.key).getD (c.shaperFull e)
  let g := tokenGain rate (c.tb - s.at_) s.frac
  ⟨min (burst : Int) (s.credit + (g.1 : Nat)), g.2, c.tb⟩

/-- An element's shaper now. -/
def shaper (c : Chip) (e : Elem) : Shaper := c.shaperAt e (c.rd e.rate) (c.rd e.burst % 2 ^ 24)

/-- Store a shaper. -/
def setShaper (c : Chip) (e : Elem) (s : Shaper) : Chip := { c with tm.shapers := mput c.tm.shapers e.key s }

/-- An element's credit lets it send: unshaped, or above 0. -/
def credited (c : Chip) (e : Elem) : Bool := c.rd e.rate == 0 || decide (0 < (c.shaper e).credit)

/-- A copy takes its B from an element's credit. -/
def charge (b : Nat) (c : Chip) (e : Elem) : Chip :=
  if c.rd e.rate = 0 then c
  else
    let s := c.shaper e
    c.setShaper e { s with credit := s.credit - (b : Nat) }

/-! Eligibility (R264, R270, R272). -/

/-- A queue is paused by the port's partner; a watchdog that has fired for its priority lifts that. -/
def qPaused (c : Chip) (q n : Nat) : Bool :=
  match c.queuePri q n with
  | some p => bitOf (c.fld (Reg.TM_P_STATUS n) Fd.TM_P_STATUS_PAUSED) p && !c.wdActive q n
  | none => false

/-- The oldest copy of queue q, if it is held wholly in cells (R239). -/
def qHead (c : Chip) (q : Nat) : Option Copy :=
  match c.bpm.copies.find? (fun x => x.queue == q) with
  | some x => if x.place.onDie then some x else none
  | none => none

/-- What a queue of port n would send. -/
def choiceQueue (c : Chip) (n q : Nat) : Option Choice :=
  match c.qHead q with
  | some x =>
    if c.credited (elQueue q) && !c.qPaused q n then
      some ⟨adjusted x.len (c.fld (Reg.TM_P_CFG n) Fd.TM_P_CFG_ADJ), q, [elQueue q], [], []⟩
    else none
  | none => none

/-- The deficit of a child. -/
def dcOf (c : Chip) (ds : List (Nat × Nat)) (k : Nat) : Nat :=
  match ds.find? (fun x => x.1 == k) with
  | some x => x.2
  | none => mget (fun _ => 0) c.tm.drrDc k

/-- Deficit round robin among children of equal priority (R265): from child cur on, until one's next copy fits. -/
def drr (c : Chip) (grp : List (Nat × Elem × Choice)) : Nat → Nat → Bool → List (Nat × Nat) →
    Option (Nat × Elem × Choice × List (Nat × Nat))
  | 0, _, _, _ => none
  | fuel + 1, cur, given, ds =>
    match grp.find? (fun x => x.1 == cur) with
    | none => none
    | some x =>
      let k := x.2.1.key
      let dc := c.dcOf ds k + (if given then 0 else 256 * (c.rd k / 2 ^ 20 % 256))
      let ds1 := (k, dc) :: ds.filter (fun y => y.1 != k)
      if x.2.2.b ≤ dc then some (cur, x.2.1, x.2.2, ds1)
      else drr c grp fuel (afterIn (grp.map (·.1)) cur) false ds1

/-- What a parent sends among its eligible children, given in ascending number: highest PRIO first, then deficit round robin. -/
def choiceAmong (c : Chip) (parent : Elem) (l : List (Nat × Elem × Choice)) : Option Choice :=
  if l.isEmpty || !c.credited parent then none
  else
    let pr := fun (x : Nat × Elem × Choice) => c.rd x.2.1.key / 2 ^ 28 % 8
    let top := l.foldl (fun m x => max m (pr x)) 0
    let grp := l.filter (fun x => pr x == top)
    let nums := grp.map (·.1)
    let key := 8 * parent.key + top
    let pos := mget (fun _ => (⟨0, false⟩ : DrrPos)) c.tm.drrPos key
    let here := nums.contains pos.child
    match c.drr grp (66 * grp.length + 1) (if here then pos.child else afterIn nums pos.child) (here && pos.given) [] with
    | none => none
    | some (cur, e, x, ds) =>
      let taken := ds.map (fun y => if y.1 = e.key then (y.1, y.2 - x.b) else y)
      some ⟨x.b, x.queue, parent :: x.els, taken ++ x.dcs, (key, ⟨cur, true⟩) :: x.pos⟩

/-- Ascending list without repeats. -/
def sortNums (l : List Nat) : List Nat := l.foldl (fun s x => (s.filter (fun y => decide (y < x))) ++ [x] ++ s.filter (fun y => decide (x < y))) []

/-- Queues of port n that hold copies. -/
def portQueues (c : Chip) (n : Nat) : List Nat :=
  sortNums ((c.bpm.copies.map (·.queue)).filter (fun q => c.queuePort q == n))

/-- What a subscriber node of port n would send. -/
def choiceSub (c : Chip) (n : Nat) (qs : List Nat) (s : Nat) : Option Choice :=
  c.choiceAmong (elSub s) ((qs.filter (fun q => c.qSub q == s)).filterMap (fun q => (c.choiceQueue n q).map (fun x => (q, elQueue q, x))))

/-- What a group node of port n would send. -/
def choiceGroup (c : Chip) (n : Nat) (qs : List Nat) (g : Nat) : Option Choice :=
  c.choiceAmong (elGroup g) ((sortNums ((qs.map c.qSub).filter (fun s => c.subGroup s == g))).filterMap (fun s =>
    (c.choiceSub n qs s).map (fun x => (s, elSub s, x))))

/-- What port n would send (R264, R265). -/
def choicePort (c : Chip) (n : Nat) : Option Choice :=
  let qs := c.portQueues n
  c.choiceAmong (elPort n) ((sortNums (qs.map (fun q => c.subGroup (c.qSub q)))).filterMap (fun g =>
    (c.choiceGroup n qs g).map (fun x => (g, elGroup g, x))))

/-- What child i of the element at key k would send; none where it is not an eligible child of it (R264). -/
def childChoice (c : Chip) (k i : Nat) : Option Choice :=
  if k < Reg.TM_G_CFG 0 then if Reg.TM_N_CFG (c.qSub i) = k then c.choiceQueue (c.queuePort i) i else none
  else if k < Reg.TM_P_CFG 0 then
    if Reg.TM_G_CFG (c.subGroup i) = k then
      let n := c.fld k ⟨0, 8⟩
      c.choiceSub n (c.portQueues n) i
    else none
  else
    let n := (k - Reg.TM_P_CFG 0) / 0x40
    c.choiceGroup n (c.portQueues n) i

/-- A visit ends, and the pointer moves on, when the child's next copy does not fit or the child is not eligible any more (R265). -/
def visitNow (c : Chip) (key : Nat) (p : DrrPos) : DrrPos :=
  let stays := match c.childChoice (key / 8) p.child with
    | some x => decide (x.b ≤ c.dcOf [] ((x.els.map (·.key)).headD 0)) && c.rd ((x.els.map (·.key)).headD 0) / 2 ^ 28 % 8 == key % 8
    | none => false
  if p.given && !stays then ⟨p.child + 1, false⟩ else p

/-- Every pointer that rests at a child whose visit has ended moves on. -/
def settleDrr (c : Chip) : Chip := { c with tm.drrPos := c.tm.drrPos.map (fun x => (x.1, c.visitNow x.1 x.2)) }

/-! Dequeue. -/

/-- Age of a copy in ms (R267). -/
def copyAge (c : Chip) (x : Copy) : Nat := (c.tbMs16 + 65536 - x.enqAt) % 65536

/-- A copy is older than its queue's limit (R267). -/
def aged (c : Chip) (x : Copy) : Bool :=
  let m := c.fld (Reg.TM_Q_CFG1 x.queue) Fd.TM_Q_CFG1_MAX_SOJOURN
  decide ((if m = 0 ∨ 60000 < m then 60000 else m) < c.copyAge x)

/-- The sojourn of a copy in ns (R268). -/
def sojournOf (c : Chip) (x : Copy) : Nat :=
  if 2100 ≤ c.copyAge x then 0x7FFFFFFF else (timeDiff c.served32 x.ts).toNat

/-- Queued copies of port n are discarded at dequeue: the entry or the drain of the port discards, or the fenced port's link is
down (R360, R369). -/
def drainDiscards (c : Chip) (n : Nat) : Bool :=
  (match c.pwr.entry with | some e => e.discard | none => false)
    || (c.portFenced n && (!c.linkOn n || c.pwr.drains.any (fun d => d.discard && d.dom / 9 == n / 32)))

/-- A queued copy leaves unsent: counted under its reason, its buffers released (R267). -/
def discardCopy (c : Chip) (x : Copy) (reason : Nat) : Chip :=
  (((c.delCopy x).bump (Reg.TM_Q_CNT x.queue 2) 1).countDrop x.slice reason).releaseCopy x

/-- The scheduler visits the elements of a choice: each shaper is charged; the deficits gain their quanta, and lose the copy's B where
it is sent and not discarded (R265, R266). -/
def visitPath (c : Chip) (ch : Choice) (sent : Bool) : Chip :=
  let c1 := ch.els.foldl (charge ch.b) c
  let back := fun (y : Nat × Nat) => if !sent && (ch.els.drop 1).any (fun e => e.key == y.1) then y.2 + ch.b else y.2
  { c1 with tm.drrDc := ch.dcs.foldl (fun m y => mset (fun _ => 0) m y.1 (back y)) c1.tm.drrDc,
            tm.drrPos := ch.pos.foldl (fun m y => mset (fun _ => ⟨0, false⟩) m y.1 y.2) c1.tm.drrPos }

/-- The chosen copy leaves its queue for the panel transmit queue. -/
def dequeueCopy (c : Chip) (n : Nat) (x : Copy) (ch : Choice) : Chip :=
  let c1 := (c.visitPath ch true).delCopy x
  let q := c1.q x.queue
  let c2 := (c1.setQ x.queue { q with sojourn := max q.sojourn (c.sojournOf x) }).bump (Reg.TM_CNT 1) 1
  { c2 with bpm.txq := c2.bpm.txq ++ [{ x with port := n }] }.settleDrr

/-- The chosen copy is read and discarded at dequeue (R267, R272). -/
def dequeueDrop (c : Chip) (x : Copy) (ch : Choice) (reason : Nat) : Chip :=
  ((c.visitPath ch false).discardCopy x reason).settleDrr

/-- DEQUEUE (R264 to R267, R272, R369). -/
def opDequeue (n : Nat) (c : Chip) : Chip :=
  if !c.forwards || !c.on Reg.TM_CTRL ⟨0, 1⟩ || !c.domOn 103 || decide (2 ≤ (c.bpm.txq.filter (fun x => x.port == n)).length) then c
  else
    match c.choicePort n with
    | none => c
    | some ch =>
      match c.qHead ch.queue with
      | none => c
      | some x =>
        if c.wdDrops ch.queue n then c.dequeueDrop x ch 0x93
        else if c.drainDiscards n then (c.bump (Reg.PWR_CNT 9) 1).dequeueDrop x ch 0x95
        else if c.aged x then c.dequeueDrop x ch 0x94
        else c.dequeueCopy n x ch

/-- Discard copies while they are too old. -/
def sweepAged (c : Chip) : List Copy → Chip
  | [] => c
  | x :: l => if c.aged x then (c.discardCopy x 0x94).sweepAged l else c

/-- AGE_SWEEP (R267): the visit to queue q. -/
def opAgeSweep (q : Nat) (c : Chip) : Chip := (c.sweepAged (c.qCopies q)).settleDrr

/-! Sampling (R268). -/

/-- The microsecond of the time base. -/
def tbUs (c : Chip) : Nat := c.tb / (1000 * tbNs)

/-- QUEUE_SAMPLE: at the first call after a multiple of the period; the boundaries passed since the last sample, or since the queue has
been sampled with this period, were skipped. -/
def opQueueSample (q : Nat) (c : Chip) : Chip :=
  let k := c.fld (Reg.TM_Q_CFG0 q) Fd.TM_Q_CFG0_SAMP_PROF
  let p := c.fld (Reg.TM_SAMP_PROF k) Fd.TM_SAMP_PROF_PERIOD_US
  let us := c.tbUs
  let last := max (mget (fun _ => 0) c.tm.sampAt q) (mget (fun _ => 0) c.tm.sampFrom k)
  if p = 0 ∨ us / p ≤ last / p then c
  else
    let c1 := (c.wrN (Reg.TM_Q_SAMPLE_DEPTH q) (c.totalDepth q)).wrN (Reg.TM_Q_SAMPLE_DELAY q) (c.q q).sojourn
    let c2 := c1.setQ q { c1.q q with sojourn := 0 }
    let c3 := c2.bump (Reg.TM_CNT 3) (us / p - last / p - 1)
    { c3 with tm.sampAt := mset (fun _ => 0) c3.tm.sampAt q us }

/-! Pause, PFC and the watchdog. -/

/-- A received pause of one priority. -/
def pause (c : Chip) (n p : Nat) : Pause := mget (fun _ => Pause.none) c.tm.pauses (8 * n + p)

/-- Store it. -/
def setPauseRec (c : Chip) (n p : Nat) (x : Pause) : Chip :=
  { c with tm.pauses := mset (fun _ => Pause.none) c.tm.pauses (8 * n + p) x }

/-- Set or clear a status bit of a priority; in pause mode priority 0 stands for all eight (log 34). -/
def setPri (c : Chip) (n : Nat) (f : BF) (p : Nat) (b : Bool) : Chip :=
  let k := Reg.TM_P_STATUS n
  if c.fld (Reg.TM_P_CFG n) Fd.TM_P_CFG_FC_MODE = 1 then c.setF k f (if b then 255 else 0)
  else c.setF k f (setBit (c.fld k f) p b)

/-- One priority of a received frame (R270, R272); true when it is ignored. -/
def pausePri (n quanta p : Nat) (r : Chip × Bool) : Chip × Bool :=
  let c := r.1
  let x := c.pause n p
  let last := if quanta = 0 then x.last else c.tb
  if bitOf (c.fld (Reg.TM_P_STATUS n) Fd.TM_P_STATUS_WD_ACTIVE) p then (c.setPauseRec n p { x with last := last }, true)
  else if quanta = 0 then ((c.setPri n Fd.TM_P_STATUS_PAUSED p false).setPauseRec n p Pause.none, r.2)
  else
    let ends := c.tb + quanta * 512 * tbNs / typeGbps (c.pType n)
    let start := if bitOf (c.fld (Reg.TM_P_STATUS n) Fd.TM_P_STATUS_PAUSED) p && decide (c.tb < x.ends) then x.start else c.tb
    ((c.setPri n Fd.TM_P_STATUS_PAUSED p true).setPauseRec n p ⟨ends, start, last⟩, r.2)

/-- A pause or PFC frame that the MAC has consumed reaches the traffic manager (R269, R270, R272). A frame that is not of the port's mode
is consumed as with FC_MODE 0 (log 42). -/
def flowFrame (c : Chip) (n : Nat) (pfc : Bool) (enable : Nat) (quanta : List Nat) : Chip :=
  let mode := c.fld (Reg.TM_P_CFG n) Fd.TM_P_CFG_FC_MODE
  if mode = 1 ∧ pfc = false ∨ mode = 2 ∧ pfc = true then
    let pris := if pfc then (List.range 8).filter (fun p => bitOf enable p) else [0]
    let r := pris.foldl (fun r p => pausePri n (quanta.getD p 0 % 65536) p r) (c.bump (Reg.TM_CNT 6) 1, false)
    (if r.2 then r.1.bump (Reg.TM_CNT 7) 1 else r.1).settleDrr
  else c.bump (Reg.TM_CNT 7) 1

/-- A new FC_MODE of port n ends the pauses received under the old one and the watchdog's states (log 138). -/
def newFcMode (c : Chip) (n : Nat) : Chip :=
  let c1 := (c.setF (Reg.TM_P_STATUS n) Fd.TM_P_STATUS_PAUSED 0).setF (Reg.TM_P_STATUS n) Fd.TM_P_STATUS_WD_ACTIVE 0
  (List.range 8).foldl (fun c p => c.setPauseRec n p Pause.none) c1

/-- The counter of a received frame (R116). -/
def rxCounter (l maxf : Nat) (code fcs ctrl : Bool) : Nat :=
  if code then 3
  else if l < 64 then (if fcs then 4 else 5)
  else if maxf < l then (if fcs then 6 else 7)
  else if !fcs then 2
  else if ctrl then 8
  else 0

/-- What the FEC of port n found: codewords corrected and not, and the corrected symbols of each lane (R111, R112). -/
def countFec (c : Chip) (n : Nat) (f : RxFrame) : Chip :=
  (List.range 8).foldl (fun c i => c.bump (Reg.PORT_CNT n (16 + i)) (f.syms.getD i 0))
    ((c.bump (Reg.PORT_CNT n 12) f.corrCw).bump (Reg.PORT_CNT n 13) f.uncorrCw)

/-- The frames of panel p wait for its slice: the Bridle discards none of them for another reason (R336, R360, R401). -/
def bridleWaits (c : Chip) (p : Nat) : Bool := !c.standby && c.pwr.entry.isNone && !c.bridleStopped p

/-- A whole frame enters the receive queue of its panel (R25, rank 1); with 64 waiting for the slice it is discarded (R23, R364; log
143). -/
def toBridle (c : Chip) (f : BFrame) : Chip :=
  let p := f.port / 32
  if c.bridleWaits p && decide (64 ≤ (c.pipe.bridle.filter (fun g => g.port / 32 == p)).length) then
    c.bump (Reg.PWR_PANEL_DISCARD p 0) 1
  else { c with pipe.bridle := c.pipe.bridle ++ [f] }

/-- A whole frame of port n in STATE 4, classified in the order of R116: delivered to the Bridle, consumed, or discarded. -/
def rxFrame (c : Chip) (n : Nat) (f : RxFrame) (t : Nat × Nat) : Chip :=
  let l := f.bytes.length + 4
  let k := rxCounter l (c.fld (Reg.PORT_CFG n) Fd.PORT_CFG_MAXFRAME) (f.codeErr || decide (0 < f.uncorrCw)) f.fcsGood
    (etherType f.bytes == 0x8808)
  let c1 := c.bump (Reg.PORT_CNT n k) 1
  if k = 0 then
    let c2 := c1.bump (Reg.PORT_CNT n 1) l
    (c2.pmcEvent (0x18 + n / 32) 1 1).toBridle ⟨n, f.bytes, t.1, t.2⟩
  else if k = 8 then
    let op := beNat (slice f.bytes 14 2)
    if op = 0x0101 then
      c1.flowFrame n true (byteAt f.bytes 17) ((List.range 8).map (fun p => beNat (slice f.bytes (18 + 2 * p) 2)))
    else if op = 0x0001 then c1.flowFrame n false 0 [beNat (slice f.bytes 16 2)]
    else c1
  else c1

/-- The receiver of port n recognises frames and counts: up, or in fault with block and alignment lock held (R114). -/
def rxLocked (c : Chip) (n : Nat) : Bool :=
  c.domOn (72 + n / 32) && c.forwards && (c.pState n == pUp || (c.pState n == pFault && !(c.port n).lockLost))

/-- RECEIVE_FRAME (R111 to R116): a frame, or codewords in which no frame lies. -/
def opReceiveFrame (n : Nat) (f : RxFrame) (c : Chip) : Chip :=
  if !c.rxLocked n then c
  else
    let c1 := c.countFec n f
    if f.noFrame then c1
    else if c.pState n = pFault then c1.bump (Reg.PORT_CNT n 3) 1
    else c1.rxFrame n f (c.ingressTime n)

/-- PAUSE_FRAME_RX (R116, R269, R270): a pause or PFC frame of valid length with good FCS, named by its contents. -/
def opPauseFrameRx (n : Nat) (pfc : Bool) (enable : BitVec 8) (quanta : List Nat) (c : Chip) : Chip :=
  if !c.rxLocked n then c
  else if c.pState n = pFault then c.bump (Reg.PORT_CNT n 3) 1
  else (c.bump (Reg.PORT_CNT n 8) 1).flowFrame n pfc enable.toNat quanta

/-- PAUSE_EXPIRY (R270). -/
def opPauseExpiry (n p0 : Nat) (c : Chip) : Chip :=
  let p := if c.fld (Reg.TM_P_CFG n) Fd.TM_P_CFG_FC_MODE = 1 then 0 else p0
  if bitOf (c.fld (Reg.TM_P_STATUS n) Fd.TM_P_STATUS_PAUSED) p && decide ((c.pause n p).ends ≤ c.tb) then
    c.setPri n Fd.TM_P_STATUS_PAUSED p false
  else c

/-- PFC_REFRESH (R271). -/
def opPfcRefresh (n : Nat) (c : Chip) : Chip :=
  if c.fld (Reg.TM_P_STATUS n) Fd.TM_P_STATUS_XOFF_SENT ≠ 0
      ∧ mget (fun _ => 0) c.tm.fcAt n + c.fld (Reg.TM_P_QUANTA n) Fd.TM_P_QUANTA_REFRESH_US * 1000 * tbNs ≤ c.tb then c.sendXoff n
  else c

/-- The watchdog's event for a port and a priority (R385). -/
def wdEvent (c : Chip) (n p fired : Nat) : Chip :=
  c.event 0x07 0 0x13 none [BitVec.ofNat 8 n, BitVec.ofNat 8 p, BitVec.ofNat 8 fired]

/-- The watchdog looks at one priority of one port: a pause that has expired is over (R272). -/
def wdCheck (c : Chip) (k : Nat) : Chip :=
  let n := k / 8
  let p := k % 8
  let x := c.pause n p
  let lim := c.fld (Reg.TM_P_WD n) Fd.TM_P_WD_LIMIT
  if bitOf (c.fld (Reg.TM_P_STATUS n) Fd.TM_P_STATUS_WD_ACTIVE) p then
    if x.last + c.fld (Reg.TM_P_WD n) Fd.TM_P_WD_RESTORE * tbMs ≤ c.tb then
      ((c.setPri n Fd.TM_P_STATUS_WD_ACTIVE p false).setPauseRec n p { x with start := c.tb }).wdEvent n p 0
    else c
  else if lim ≠ 0 ∧ bitOf (c.fld (Reg.TM_P_STATUS n) Fd.TM_P_STATUS_PAUSED) p ∧ c.tb < x.ends ∧ x.start + lim * tbMs < c.tb then
    (((c.setPri n Fd.TM_P_STATUS_WD_ACTIVE p true).bump (Reg.TM_CNT 4) 1).report 0x13 0 0x19 outReported).wdEvent n p 1
  else c

/-- PFC_WATCHDOG_TICK (R272): each millisecond of the time base, every pause. -/
def opPfcWatchdogTick (c : Chip) : Chip :=
  if c.tm.wdAt < c.tb / tbMs then
    ((c.tm.pauses.map (·.1)).foldl wdCheck { c with tm.wdAt := c.tb / tbMs }).settleDrr
  else c

/-! Time-dependent writes. -/

/-- The egress time of port n in 2^-16 ns, on the served clock or on A (1) or B (2) (R306, R307, R312). -/
def egressTime (c : Chip) (n clock : Nat) : Int :=
  (c.localTime (n / 32) : Int) + c.localOffset (n / 32) clock + (c.fld (Reg.DTM_PORT_TX_LAT n) Fd.DTM_PORT_TX_LAT_LAT : Nat)
    - signedOf 32 (c.fld (Reg.DTM_PORT_ASYM n) Fd.DTM_PORT_ASYM_ASYM)

/-- Residence of a received copy that leaves at time e (R310, R316). -/
def residence (c : Chip) (x : Copy) (e : Int) : Int :=
  let ref := e / 65536
  let d := signedOf 32 (((x.ts : Int) - ref) % 2 ^ 32).toNat
  let ing := (ref + d) * 65536 + (x.frac : Nat)
  e - ing + (if c.on (Reg.DTM_PORT_CFG x.inPort) Fd.DTM_PORT_CFG_P2P then
    (c.fld (Reg.DTM_PORT_LINK_DLY x.inPort) Fd.DTM_PORT_LINK_DLY_DLY : Nat) else 0)

/-- A correctionField plus a time: an overflow is written as the greatest value (R210). -/
def addCorrection (old : Nat) (d : Int) : Nat :=
  let v := signedOf 64 old + d
  if v < -(2 ^ 63) ∨ 2 ^ 63 ≤ v then 2 ^ 63 - 1 else wrapTo 64 v

/-- The trailer after words of the datagram change from old to new bytes (R211). -/
def trailerFix (t : Nat) : List Byte → List Byte → Nat
  | a :: b :: l, p :: q :: m => trailerFix (ocAdd (ocAdd t (a.toNat * 256 + b.toNat)) (65535 - (p.toNat * 256 + q.toNat))) l m
  | _, _ => t

/-- Write bytes of the message and keep the UDP checksum valid through the trailer, if there is one. -/
def timeWrite (tr : Nat) (b : List Byte) (o : Nat) (v : List Byte) : List Byte :=
  let b1 := patchAt b o v
  if tr = 0 then b1 else patchAt b1 tr (beBytes 2 (trailerFix (beNat (slice b tr 2)) (slice b o v.length) v))

/-- The time-dependent writes of a copy that leaves port n now (R310 to R312). -/
def timeWrites (c : Chip) (n : Nat) (x : Copy) (b : List Byte) : List Byte :=
  let cf := beNat (slice b x.cfOff 8)
  let put := fun (b : List Byte) (d : Int) => timeWrite x.trOff b x.cfOff (beBytes 8 (addCorrection cf d))
  if x.mode = 2 then
    let e := c.egressTime n x.clock
    let ns := e / 65536
    let b1 := timeWrite x.trOff b x.tsOff (beBytes 6 ((ns / 1000000000) % 2 ^ 48).toNat ++ beBytes 4 (ns % 1000000000).toNat)
    put b1 (e % 65536)
  else if x.inj then
    let start := (beNat (slice b x.tsOff 6) * 1000000000 + beNat (slice b (x.tsOff + 6) 4)) * 65536
    timeWrite x.trOff (put b (c.egressTime n 0 - (start : Nat))) x.tsOff (beBytes 10 0)
  else put b (c.residence x (c.egressTime n 0))

/-! Transmission. -/

/-- The transmit MAC discards a copy that a failed slice may have corrupted: made before a corrupting fault of the slice, under a
generation that is no longer current, and received no earlier than 5 us before that fault (R337). -/
def staleCopy (c : Chip) (x : Copy) : Bool :=
  c.gen x.slice != x.gen && decide (c.copyAge x < 2100) && c.flt.corrupt.any (fun f =>
    f.1 == x.slice && decide ((f.2.1 + 65536 - x.gen) % 65536 < 32768)
      && decide (0 ≤ timeDiff x.ts ((f.2.2 + 2 ^ 32 - 5000) % 2 ^ 32)))

/-- The copy at the transmit MAC goes out, its FCS inverted when a word of its cells is uncorrectable (R248). -/
def sendCopy (c : Chip) (n : Nat) (x : Copy) : Chip :=
  let e := c.readCells (c.copyCells x)
  let bad1 := e.2 || x.poisoned
  let c1 := if bad1 then e.1.bump (Reg.BPM_CNT 11) 1 else e.1
  let late := x.mode != 0 && (!c1.datumOn || decide (2100 ≤ c1.copyAge x))
  let c2 := if late then c1.bump (Reg.DTM_CNT 3) 1 else c1
  let c3 := if x.mode = 0 ∨ late then c2 else c2.bump (Reg.DTM_CNT (if x.mode = 2 then 2 else 1)) 1
  let b := if x.mode = 0 ∨ late then c3.copyBytes x else c3.timeWrites n x (c3.copyBytes x)
  let bad := bad1 || late
  let start := max c3.now (mget (fun _ => 0) c3.pnl.txEnd n)
  let c4 := { c3.emit (.frame n b bad) with
    pnl.txEnd := mset (fun _ => 0) c3.pnl.txEnd n (start + (x.len + 20) * 8000 / typeGbps (c.pType n)) }
  let c5 := if bad then c4 else (c4.bump (Reg.PORT_CNT n 9) 1).bump (Reg.PORT_CNT n 10) x.len
  c5.releaseCopy x

/-- TRANSMIT_COPY: the first copy of port n in the panel transmit queue. A quenched transmitter holds it (R331). -/
def opTransmitCopy (n : Nat) (hits : List Hit) (c0 : Chip) : Chip :=
  let c := c0.strike hits
  match c.bpm.txq.find? (fun x => x.port == n) with
  | none => c
  | some x =>
    if c.quenched (n / 32) then c
    else
      let c1 := { c with bpm.txq := c.bpm.txq.erase x }
      if c1.staleCopy x then (c1.bump (Reg.FLT_CNT 40) 1).releaseCopy x
      else if !c1.linkOn n || c1.pState n == pFault then (c1.bump (Reg.PORT_CNT n 11) 1).releaseCopy x
      else c1.sendCopy n x

end Chip

/-! The meanings. -/

/-- DEQUEUE. -/
def execDequeue (port : Fin 256) (s : State) : Host.Outcome State Fault Refusal := runChip s (Chip.opDequeue port.val)

/-- AGE_SWEEP. -/
def execAgeSweep (q : Fin 131072) (s : State) : Host.Outcome State Fault Refusal := runChip s (Chip.opAgeSweep q.val)

/-- TRANSMIT_COPY. -/
def execTransmitCopy (port : Fin 256) (hits : List Hit) (s : State) : Host.Outcome State Fault Refusal :=
  runChip s (Chip.opTransmitCopy port.val hits)

/-- RECEIVE_FRAME. -/
def execReceiveFrame (port : Fin 256) (f : RxFrame) (s : State) : Host.Outcome State Fault Refusal :=
  runChip s (Chip.opReceiveFrame port.val f)

/-- PFC_REFRESH. -/
def execPfcRefresh (port : Fin 256) (s : State) : Host.Outcome State Fault Refusal := runChip s (Chip.opPfcRefresh port.val)

/-- PAUSE_FRAME_RX. -/
def execPauseFrameRx (port : Fin 256) (pfc : Bool) (enable : BitVec 8) (quanta : List Nat) (s : State) : Host.Outcome State Fault Refusal :=
  runChip s (Chip.opPauseFrameRx port.val pfc enable quanta)

/-- PAUSE_EXPIRY. -/
def execPauseExpiry (port : Fin 256) (pri : Fin 8) (s : State) : Host.Outcome State Fault Refusal :=
  runChip s (Chip.opPauseExpiry port.val pri.val)

/-- PFC_WATCHDOG_TICK. -/
def execPfcWatchdogTick (s : State) : Host.Outcome State Fault Refusal := runChip s Chip.opPfcWatchdogTick

/-- QUEUE_SAMPLE. -/
def execQueueSample (q : Fin 131072) (s : State) : Host.Outcome State Fault Refusal := runChip s (Chip.opQueueSample q.val)

end Sys2Proof.Machine
end

