-- ==== Sys2Proof/Machine/RegField.lean ====
section
/-!
DEFINITION. What a register write does field by field: reserved encodings (R62), access types (R60), locked and static fields
(R67, R68).
-/

namespace Sys2Proof.Machine

/-- A field may hold this value (R62); a clamped field takes any. -/
def limitOk (l : Limit) (v : Nat) : Bool :=
  match l with
  | .any => true
  | .upto n => decide (v ≤ n)
  | .range a b => decide (a ≤ v) && decide (v ≤ b)
  | .oneOf l => l.contains v
  | .clamp _ _ => true
  | .sclamp _ _ => true

/-- The value that a field stores (R62). -/
def limitStore (l : Limit) (width v : Nat) : Nat :=
  match l with
  | .clamp a b => max a (min v b)
  | .sclamp a b => wrapTo width (max (signedOf 12 a) (min (signedOf width v) (signedOf 12 b)))
  | _ => v

/-- A field that a write can change, whose value R62 checks. -/
def fieldWritable (f : FieldDesc) : Bool :=
  match f.type with
  | .rw => true
  | .rwh => true
  | .rwl => true
  | .w1s => true
  | .wo => true
  | _ => false

/-- Every field of a write carries an allowed value. -/
def fieldsOk (fs : List FieldDesc) (v : Nat) : Bool :=
  fs.all (fun f => !fieldWritable f || limitOk f.limit (bfGet ⟨f.lo, f.width⟩ (BitVec.ofNat 32 v)))

/-- A field keeps its value: locked, or static in a running block. -/
def fieldHeld (lock running : Bool) (f : FieldDesc) : Bool :=
  (f.type == .rwl && lock) || (f.cls == .static && running)

/-- One field after a write of v to a register that held cur. -/
def fieldNew (lock running : Bool) (f : FieldDesc) (cur v : Nat) : Nat :=
  if fieldHeld lock running f then cur
  else
    match f.type with
    | .rw => limitStore f.limit f.width v
    | .rwh => limitStore f.limit f.width v
    | .rwl => limitStore f.limit f.width v
    | .w1c => cur &&& (2 ^ f.width - 1 - v)
    | .w1s => cur ||| v
    | _ => cur

/-- A register after a write of v. -/
def fieldsNew (lock running : Bool) (fs : List FieldDesc) (cur : Word) (v : Nat) : Word :=
  fs.foldl (fun w f =>
    let b : BF := ⟨f.lo, f.width⟩
    bfSet b w (fieldNew lock running f (bfGet b cur) (bfGet b (BitVec.ofNat 32 v)))) cur

/-- A held field is given another value than it has; of a field with a clamp, the value that would be stored counts (log 113). -/
def heldDiffers (sel : FieldDesc → Bool) (fs : List FieldDesc) (cur : Word) (v : Nat) : Bool :=
  fs.any (fun f =>
    let b : BF := ⟨f.lo, f.width⟩
    sel f && fieldWritable f && bfGet b cur != limitStore f.limit f.width (bfGet b (BitVec.ofNat 32 v)))

namespace Chip

/-- GLB_LOCK.LOCK (R61). -/
def locked (c : Chip) : Bool := c.on Reg.GLB_LOCK Fd.GLB_LOCK_LOCK

/-- A port is enabled or not drained. -/
def portRunning (c : Chip) (n : Nat) : Bool := !c.portIdle n

/-- Lane k of panel p belongs to a running port. -/
def laneRunning (c : Chip) (p k : Nat) : Bool :=
  (List.range 32).any (fun j => decide (j ≤ k) && decide (k < j + c.pWidth (32 * p + j)) && c.portRunning (32 * p + j))

/-- No buffer is allocated (R250). -/
def bpmIdle (c : Chip) : Bool :=
  !c.bpm.cells.any (fun x => x.2.kind != 4) && c.bpm.pages.isEmpty
    && !(List.range 256).any (fun o => c.rd (Reg.BPM_OWNER_OUT o 2) != 0)

/-- The update engine has no operation in progress (R177): no COMMIT, CLOSE or ABORT waits, no sweep is due or runs, no rehash, no
load (log 53). -/
def updIdle (c : Chip) : Bool :=
  c.upd.commits.isEmpty && c.upd.closing.isEmpty && c.upd.aborts.isEmpty && !c.upd.flipReq
    && (List.range 256).all (fun s => c.slotState s != sCommitted && c.slotState s != sSweeping)
    && c.upd.rehash.isNone && c.upd.loads.isEmpty

/-- The block, port, ring or pool that a static field at this address belongs to is running (R67); for PROFILE, a slot that is
not FREE counts too (R162). -/
def running (c : Chip) (a : Nat) : Bool :=
  if a < 0x60000 then c.on Reg.DTM_CTRL ⟨0, 1⟩
  else if a < 0x70000 then c.on (a / 0x40 * 0x40) ⟨0, 1⟩
  else if a < 0xC0000 then c.on (Reg.MBUS_CTRL ((a - 0xB0000) / 0x100)) ⟨0, 1⟩
  else if a < 0xE6000 then c.on Reg.BPM_CTRL ⟨0, 1⟩ || !c.bpmIdle
  else if a < 0xF0000 then c.on (a / 0x20 * 0x20) Fd.BPM_XP_CFG_EN
  else if a < 0x200000 then
    let p := (a - 0x100000) / 0x20000
    let o := (a - 0x100000) % 0x20000
    if 0x1000 ≤ o then c.portRunning (32 * p + (o - 0x1000) / 0x40)
    else if o < 0x200 then c.laneRunning p ((o - 0x100) / 4)
    else
      let i := (o - 0x200) / 4
      c.on (Reg.PNL_SPARE_CFG p i) Fd.PNL_SPARE_CFG_EN
        && c.portRunning (32 * p + c.fld (Reg.PNL_SPARE_CFG p i) Fd.PNL_SPARE_CFG_PORT)
  else if a < 0x300000 then c.on Reg.FBK_CTRL ⟨0, 1⟩ || !c.fbk.staged.isEmpty
  else if a < 0x10000000 then
    c.on Reg.UPD_CTRL ⟨0, 1⟩ || !c.updIdle || (a == Reg.UPD_CFG && !(List.range 256).all (fun s => c.slotState s == sFree))
  else c.on (a / 0x40 * 0x40) ⟨0, 1⟩

/-- Store a write of v in the register at key k, whose fields are fs, for a requester that used address a: R62, then field by
field (R68). -/
def storeFields (c : Chip) (rq : Req) (a k : Nat) (fs : List FieldDesc) (v : Nat) : Chip :=
  if !fieldsOk fs v then c.err rq errBadValue a
  else
    let cur := c.reg k
    let run := c.running k
    let c1 := if heldDiffers (fun f => f.type == .rwl && c.locked) fs cur v then c.err rq errLockWrite a else c
    let c2 := if heldDiffers (fun f => f.cls == .static && run) fs cur v then c1.err rq errCfgIgnored a else c1
    c2.wr k (fieldsNew c.locked run fs cur v)

end Chip

end Sys2Proof.Machine
end

