-- ==== Sys2Proof/Machine/ReadBack.lean ====
section
/-!
DEFINITION. Reads of control-store words and rule rows through PRS_RD_ADDR, RWR_RD_ADDR and CLS_RD_ADDR (R140, R141, R200,
R202, R217, R225).
-/

namespace Sys2Proof.Machine

/-- The fields of a row of the spec's tables at key k. -/
def fieldsAt (k : Nat) : List FieldDesc :=
  match descOf k with
  | some (d, _) => d.fields
  | none => []

namespace Chip

/-- n words of a value. -/
def dataWords (n v : Nat) : List Nat := (List.range n).map (fun i => v / 2 ^ (32 * i) % 2 ^ 32)

/-- A read of an entry through a read port, which handles errors as any read does: single errors corrected, uncorrectable words as
stored (R141, R202, R225). -/
def readPort (c : Chip) (l : Loc) (key : Nat → Nat) (n v : Nat) : Chip := (c.readLoc l).1.wrList key 0 (dataWords n (c.readAs l v))

/-- PRS_RD_ADDR names an entry that exists (R141). -/
def prsRdOk (v : Nat) : Bool :=
  match bitsOf v 13 12 with
  | 0 => true
  | 1 => decide (bitsOf v 11 0 < 256)
  | 2 => decide (bitsOf v 11 0 < 64)
  | _ => false

/-- The parser entry that PRS_RD_ADDR names. -/
def prsEntry (c : Chip) (v : Nat) : Nat :=
  let b := bitsOf v 16 16
  let i := bitsOf v 11 0
  match bitsOf v 13 12 with
  | 0 => ((mget ucEmpty c.tbl.prsCs (4096 * b + i)).getD 0).toNat
  | 1 => (mget dispZero c.tbl.prsDisp (256 * b + i)).toNat
  | _ => (mget tmapZero c.tbl.prsTmap (64 * b + i)).toNat

/-- A write of PRS_RD_ADDR of slice s. -/
def prsRdWrite (c : Chip) (rq : Req) (s v : Nat) : Chip :=
  let k := Reg.PRS_RD_ADDR s
  if !prsRdOk v then c.err rq errBadValue k
  else
    let c1 := c.storeFields rq k k (fieldsAt k) v
    c1.readPort ⟨bitsOf v 13 12, s, 4096 * bitsOf v 16 16 + bitsOf v 11 0⟩ (Reg.PRS_RD_DATA s) 8 (c1.prsEntry v)

/-- A write of RWR_RD_ADDR, which reaches all nine slices (R225). -/
def rwrRdWrite (c : Chip) (rq : Req) (a v : Nat) : Chip :=
  let b := bitsOf v 16 16
  let i := bitsOf v 10 0
  (List.range 9).foldl (fun c s =>
    let k := Reg.RWR_RD_ADDR s
    let c1 := c.storeFields rq a k (fieldsAt k) v
    c1.readPort ⟨3, s, 4096 * b + i⟩ (Reg.RWR_RD_DATA s) 8 ((mget ucEmpty c1.tbl.rwrCs (2048 * b + i)).getD 0).toNat) c

/-- A rule row in the order of CLS_RD_DATA: VALUE, MASK, action word. -/
def ruleRow (c : Chip) (row : Nat) : Nat :=
  match mfind c.tbl.rules row with
  | some (some v) => v.toNat
  | _ => 0

/-- A write of CLS_RD_ADDR, which reaches all nine slices (R202). -/
def clsRdWrite (c : Chip) (rq : Req) (a v : Nat) : Chip :=
  let row := bitsOf v 15 0
  (List.range 9).foldl (fun c s =>
    let k := Reg.CLS_RD_ADDR s
    let c1 := c.storeFields rq a k (fieldsAt k) v
    c1.readPort ⟨4, s, row⟩ (Reg.CLS_RD_DATA s) 34 (c1.ruleRow row)) c

/-- PRS_RD_ADDR_WRITE. -/
def opPrsRdAddrWrite (rq : Req) (s : Nat) (value : BitVec 32) (hits : List Hit) (c : Chip) : Chip :=
  (c.strike hits).regCmd rq (Reg.PRS_RD_ADDR s) (fun c => c.prsRdWrite rq s value.toNat)

/-- RWR_RD_ADDR_WRITE. -/
def opRwrRdAddrWrite (rq : Req) (s : Nat) (value : BitVec 32) (hits : List Hit) (c : Chip) : Chip :=
  (c.strike hits).regCmd rq (Reg.RWR_RD_ADDR s) (fun c => c.rwrRdWrite rq (Reg.RWR_RD_ADDR s) value.toNat)

/-- CLS_RD_ADDR_WRITE. -/
def opClsRdAddrWrite (rq : Req) (s : Nat) (value : BitVec 32) (hits : List Hit) (c : Chip) : Chip :=
  (c.strike hits).regCmd rq (Reg.CLS_RD_ADDR s) (fun c => c.clsRdWrite rq (Reg.CLS_RD_ADDR s) value.toNat)

end Chip

/-! The meanings. -/

/-- PRS_RD_ADDR_WRITE. -/
def execPrsRdAddrWrite (rq : Req) (slice : Fin 9) (value : BitVec 32) (hits : List Hit) (s : State) : Host.Outcome State Fault Refusal :=
  runChip s (Chip.opPrsRdAddrWrite rq slice.val value hits)

/-- RWR_RD_ADDR_WRITE. -/
def execRwrRdAddrWrite (rq : Req) (slice : Fin 9) (value : BitVec 32) (hits : List Hit) (s : State) : Host.Outcome State Fault Refusal :=
  runChip s (Chip.opRwrRdAddrWrite rq slice.val value hits)

/-- CLS_RD_ADDR_WRITE. -/
def execClsRdAddrWrite (rq : Req) (slice : Fin 9) (value : BitVec 32) (hits : List Hit) (s : State) : Host.Outcome State Fault Refusal :=
  runChip s (Chip.opClsRdAddrWrite rq slice.val value hits)

end Sys2Proof.Machine
end

