-- ==== Sys2Proof/Machine/Datum.lean ====
section
/-!
DEFINITION. Datum: the three clocks and their tick (R300 to R305), the register commands, PPS, the time reference (R317 to R319),
and the servos on C3 (R320 to R322).
-/

namespace Sys2Proof.Machine

/-! Clock arithmetic in units of 2^-32 ns (R300). -/

def unitNs : Nat := 2 ^ 32
def unitSec : Nat := 1000000000 * 2 ^ 32

/-- SEC wraps modulo 2^48 (R300). -/
def clkWrap : Nat := 2 ^ 48 * unitSec

/-- A clock as one number. -/
def clkNat (k : Clk) : Nat := k.sec * unitSec + k.ns * unitNs + k.frac

/-- The clock that a number spells. -/
def clkOf (v : Nat) : Clk := ⟨v / unitSec % 2 ^ 48, v % unitSec / unitNs, v % unitNs⟩

/-- Clock a minus clock b, the nearer way round. -/
def clkDiff (a b : Clk) : Int :=
  let d := ((clkNat a + clkWrap - clkNat b) % clkWrap : Nat)
  if 2 * d < clkWrap then (d : Int) else (d : Int) - (clkWrap : Nat)

/-- A clock moved by an amount. -/
def clkAdd (k : Clk) (d : Int) : Clk := clkOf (((clkNat k : Int) + d) % (clkWrap : Nat)).toNat

/-- The clamp of R301. -/
def incMin : Nat := 0x13FAE147B
def incMax : Nat := 0x14051EB85
def incClamp (v : Nat) : Nat := max incMin (min incMax v)

/-- What one tick takes of a phase adjustment: INC * ADJ_PPM * 10^-6 truncated, or all that is left (R302). -/
def adjPart (inc ppm : Nat) (rem : Int) : Int :=
  let s : Int := (inc * ppm / 1000000 : Nat)
  if 0 ≤ rem then min rem s else max rem (-s)

/-- c of R304. -/
def slewPart (inc ppb : Nat) : Nat := (2 * inc * ppb + 1000000000) / 2000000000

/-- The correction of the served clock for a difference d (R304). -/
def slewBy (d : Int) (s : Nat) : Int := if (s : Int) ≤ d then s else if d ≤ -(s : Int) then -(s : Int) else d

/-- A clock has passed a whole second plus an offset in 2^-16 ns (R318). -/
def passedSec (a b : Clk) (off : Int) : Bool :=
  decide (((clkNat a : Int) - off * 65536) / (unitSec : Nat) < ((clkNat b : Int) - off * 65536) / (unitSec : Nat))

/-- Keep the points of a history up to the first that is older than t. -/
def keepSince (t : Nat) : List HistPt → List HistPt
  | [] => []
  | p :: l => if p.served ≤ t then [p] else p :: keepSince t l

namespace Chip

/-- The clocks run (R325). -/
def datumRun (c : Chip) : Bool := c.datumOn && c.on Reg.DTM_STATUS Fd.DTM_STATUS_LOCK

/-- Clock x: 0 A, 1 B. -/
def clk (c : Chip) (x : Nat) : Clk := if x = 0 then c.dtm.clkA else c.dtm.clkB

/-- Set clock x. -/
def setClk (c : Chip) (x : Nat) (k : Clk) : Chip :=
  if x = 0 then { c with dtm.clkA := k } else { c with dtm.clkB := k }

/-- The increment in use of clock x. -/
def inc (c : Chip) (x : Nat) : Nat := c.fld (Reg.DTM_CLK_INC_HI x) Fd.DTM_CLK_INC_HI_INT * 2 ^ 32 + c.rd (Reg.DTM_CLK_INC_LO x)

/-- The remaining adjustment of clock x. -/
def adj (c : Chip) (x : Nat) : Int := mget (fun _ => (0 : Int)) c.dtm.adj x

/-- Set it. -/
def setAdj (c : Chip) (x : Nat) (v : Int) : Chip := { c with dtm.adj := mset (fun _ => (0 : Int)) c.dtm.adj x v }

/-- The source of the served clock (R304). -/
def serveSrc (c : Chip) : Nat := c.fld Reg.DTM_SERVE Fd.DTM_SERVE_SRC

/-- The servo of clock x. -/
def servo (c : Chip) (x : Nat) : Servo := mget (fun _ => Servo.free) c.dtm.servos x

/-- Set it. -/
def setServo (c : Chip) (x : Nat) (v : Servo) : Chip := { c with dtm.servos := mset (fun _ => Servo.free) c.dtm.servos x v }

/-! Register actions, which take effect from the next tick. -/

/-- The increment of clock x becomes v, clamped (R301); a servo that disciplines the clock remembers it. -/
def setInc (c : Chip) (x v : Nat) : Chip :=
  let i := incClamp v
  let c1 := (c.wrN (Reg.DTM_CLK_INC_LO x) (i % 2 ^ 32)).wrN (Reg.DTM_CLK_INC_HI x) (i / 2 ^ 32)
  let s := c1.servo x
  if s.mode = 0 then c1 else c1.setServo x { s with incs := (c1.now, i) :: s.incs }

/-- A write of INC_HI, which changes nothing until INC_LO is written (R301). -/
def incHiWrite (c : Chip) (x v : Nat) : Chip := { c with dtm.incHi := mset (fun _ => 1) c.dtm.incHi x (v % 256) }

/-- A write of INC_LO, which applies both words (R301). -/
def incLoWrite (c : Chip) (x v : Nat) : Chip := c.setInc x (mget (fun _ => 1) c.dtm.incHi x * 2 ^ 32 + v)

/-- A write of ADJ in 2^-16 ns (R302). -/
def adjWrite (c : Chip) (x v : Nat) : Chip := c.setAdj x (signedOf 32 v * 65536)

/-- PPS_OUT goes low (R318). -/
def ppsLow (c : Chip) : Chip :=
  let c1 := if c.pins.ppsOut then c.emit (.pps false) else c
  { c1 with pins.ppsOut := false, dtm.ppsDue := false }

/-- While EN is 0 the clocks hold 0 and the PLL is stopped (R325). -/
def datumStop (c : Chip) : Chip :=
  let z : Clk := ⟨0, 0, 0⟩
  (({ c with dtm.clkA := z, dtm.clkB := z, dtm.clkS := z, dtm.edges := [] }).setF Reg.DTM_STATUS Fd.DTM_STATUS_LOCK 0).ppsLow

/-- CLK_INC_WRITE (R301). -/
def opClkIncWrite (rq : Req) (x : Nat) (value : BitVec 32) (c : Chip) : Chip :=
  c.regCmd rq (Reg.DTM_CLK_INC_LO x) (fun c => c.incLoWrite x value.toNat)

/-- CLK_ADJ (R302). -/
def opClkAdj (rq : Req) (x : Nat) (value : BitVec 32) (c : Chip) : Chip :=
  c.regCmd rq (Reg.DTM_CLK_ADJ x) (fun c => c.adjWrite x value.toNat)

/-- CLK_SET (R303): GO with AT_PPS; the tick, or the next PPS_IN edge, applies it. -/
def opClkSet (rq : Req) (x : Nat) (atPps : Bool) (c : Chip) : Chip :=
  let k := Reg.DTM_CLK_SET_CMD x
  c.regCmd rq k (fun c => c.storeFields rq k k (fieldsAt k) (1 + 2 * b2n atPps))

/-- SERVE_SWITCH (R304). -/
def opServeSwitch (rq : Req) (value : BitVec 32) (c : Chip) : Chip :=
  c.regCmd rq Reg.DTM_SERVE (fun c => c.storeFields rq Reg.DTM_SERVE Reg.DTM_SERVE (fieldsAt Reg.DTM_SERVE) value.toNat)

/-- SNAP (R305). -/
def opSnap (rq : Req) (c : Chip) : Chip :=
  c.regCmd rq Reg.DTM_SERVE (fun c => c.setF Reg.DTM_SERVE Fd.DTM_SERVE_SNAP 1)

/-- DATUM_LOCK (R325). -/
def opDatumLock (c : Chip) : Chip := if c.datumOn then c.setF Reg.DTM_STATUS Fd.DTM_STATUS_LOCK 1 else c

/-! The tick. -/

/-- The value that a pending set gives clock x: SEC and NS of the SET registers, FRAC 0 (R303). -/
def setValue (c : Chip) (x : Nat) : Clk :=
  ⟨c.rd (Reg.DTM_CLK_SET_SEC_LO x) + c.fld (Reg.DTM_CLK_SET_SEC_HI x) Fd.DTM_CLK_SET_SEC_HI_SEC * 2 ^ 32,
   c.fld (Reg.DTM_CLK_SET_NS x) Fd.DTM_CLK_SET_NS_NS, 0⟩

/-- A set of clock x takes effect: ADJ is cancelled and GO cleared (R303). -/
def applySet (c : Chip) (x : Nat) : Chip :=
  ((c.setClk x (c.setValue x)).setAdj x 0).setF (Reg.DTM_CLK_SET_CMD x) Fd.DTM_CLK_SET_CMD_GO 0

/-- A set is pending; b: for the next PPS_IN edge. -/
def setPending (c : Chip) (x : Nat) (b : Bool) : Bool :=
  c.on (Reg.DTM_CLK_SET_CMD x) Fd.DTM_CLK_SET_CMD_GO && c.on (Reg.DTM_CLK_SET_CMD x) Fd.DTM_CLK_SET_CMD_AT_PPS == b

/-- One tick of clock A or B (R301 to R303). -/
def tickClk (c : Chip) (x : Nat) : Chip :=
  let a := adjPart (c.inc x) (c.fld (Reg.DTM_CLK_ADJ_CFG x) Fd.DTM_CLK_ADJ_CFG_ADJ_PPM) (c.adj x)
  let c1 := (c.setClk x (clkAdd (c.clk x) ((c.inc x : Nat) + a))).setAdj x (c.adj x - a)
  if c1.setPending x false then c1.applySet x else c1

/-- What the served clock becomes in a tick (R304). -/
def servedNext (c : Chip) : Clk :=
  let i := c.inc c.serveSrc
  clkAdd c.dtm.clkS ((i : Nat) + slewBy (clkDiff (c.clk c.serveSrc) c.dtm.clkS) (slewPart i (c.fld Reg.DTM_SERVE Fd.DTM_SERVE_SLEW_PPB)))

/-- A SNAP takes effect (R305). -/
def applySnap (c : Chip) : Chip :=
  if c.on Reg.DTM_SERVE Fd.DTM_SERVE_SNAP then
    ((({ c with dtm.clkS := c.clk c.serveSrc }).setF Reg.DTM_SERVE Fd.DTM_SERVE_SNAP 0).bump (Reg.DTM_CNT 7) 1)
  else c

/-- The servo of clock x follows (clock − served): 4 s of history (R320). -/
def histTick (c : Chip) (x : Nat) : Chip :=
  let s := c.servo x
  if s.mode = 0 then c
  else
    let d := clkDiff (c.clk x) c.dtm.clkS
    let l := match s.hist with
      | p :: _ => if p.diff = d then s.hist else ⟨c.servedNs, d⟩ :: s.hist
      | [] => [⟨c.servedNs, d⟩]
    c.setServo x { s with hist := keepSince (c.servedNs - 4000000000) l }

/-- A sync edge leaves in the tick in which the served clock reaches a multiple of 1,000 ns (R306). -/
def edgeTick (c : Chip) : Chip :=
  let s := clkNat c.dtm.clkS
  if s % (1000 * unitNs) < c.inc c.serveSrc then
    let e : SyncEdge := ⟨(s - s % (1000 * unitNs)) / 65536, clkDiff c.dtm.clkA c.dtm.clkS / 65536, clkDiff c.dtm.clkB c.dtm.clkS / 65536,
      c.time.coreCyc, c.now⟩
    { c with dtm.edges := e :: c.dtm.edges.take 1 }
  else c

/-- The clock that drives PPS_OUT (R318). -/
def ppsClk (c : Chip) : Clk :=
  match c.fld Reg.DTM_CFG Fd.DTM_CFG_PPS_SRC with
  | 1 => c.dtm.clkA
  | 2 => c.dtm.clkB
  | _ => c.dtm.clkS

/-- One DATUM tick of the three clocks (R300 to R305). -/
def clocksTick (c : Chip) : Chip :=
  if c.datumRun then
    let s := c.servedNext
    let c1 := ((({ (c.tickClk 0).tickClk 1 with dtm.clkS := s }).applySnap.histTick 0).histTick 1).edgeTick
    if c.on Reg.DTM_CFG Fd.DTM_CFG_PPS_EN && passedSec c.ppsClk c1.ppsClk (signedOf 32 (c.rd Reg.DTM_PPS_OUT_OFF)) then
      { c1 with dtm.ppsDue := true }
    else c1
  else c

/-! The servos (R320, R321). -/

/-- Add an offset to a clock through its SET registers (R321). -/
def servoSet (c : Chip) (x : Nat) (off : Int) : Chip :=
  let k := clkAdd (c.clk x) off
  (((c.wrN (Reg.DTM_CLK_SET_SEC_LO x) (k.sec % 2 ^ 32)).wrN (Reg.DTM_CLK_SET_SEC_HI x) (k.sec / 2 ^ 32)).wrN
    (Reg.DTM_CLK_SET_NS x) k.ns).wrN (Reg.DTM_CLK_SET_CMD x) 1

/-- Adjust a clock by an offset, as far as ADJ reaches (R302, R321). -/
def servoAdj (c : Chip) (x : Nat) (off : Int) : Chip :=
  c.setAdj x (max (-(2 ^ 31 : Int)) (min (2 ^ 31 - 1 : Int) (off.tdiv 65536)) * 65536)

/-- An offset in ACQUIRING or HOLDOVER: a step is set; else the increment takes the frequency estimate, a free value, and ADJ the
offset (R321, log 20). -/
def servoAcquire (c : Chip) (x : Nat) (off : Int) : Chip :=
  let s := c.servo x
  if Config.servoStepNs x * unitNs < off.natAbs then (c.servoSet x off).setServo x { s with state := 1, good := 0, bad := 0 }
  else
    let good := if off.natAbs ≤ Config.servoLockNs x * unitNs then s.good + 1 else 0
    let c1 := c.setServo x { s with state := if s.state = 1 ∧ 4 ≤ good then 2 else 1, good := good, bad := 0 }
    (c1.tick.setInc x c.free.toNat).servoAdj x off

/-- An offset in LOCKED: the loop's new INC and ADJ are free values (R321, log 20). -/
def servoTrack (c : Chip) (x : Nat) (off : Int) : Chip :=
  let s := c.servo x
  let bad := if Config.servoStepNs x * unitNs < off.natAbs then s.bad + 1 else 0
  let c1 := c.setServo x (if 3 ≤ bad then { s with state := 1, good := 0, bad := 0 } else { s with bad := bad })
  let c2 := c1.tick.setInc x c1.free.toNat
  c2.tick.adjWrite x (c2.free.toNat % 2 ^ 32)

/-- The servo takes an offset (R321). -/
def servoTake (c : Chip) (x : Nat) (off : Int) : Chip :=
  let c1 := c.setServo x { c.servo x with last := off, lastAt := c.now }
  if (c.servo x).state = 2 then c1.servoTrack x off else c1.servoAcquire x off

/-- A servo enters ACQUIRING with a clear history (R321). -/
def servoStart (c : Chip) (x mode : Nat) : Chip :=
  c.setServo x ⟨mode, 1, 0, 0, 0, c.now, [⟨c.servedNs, clkDiff (c.clk x) c.dtm.clkS⟩], [(c.now, c.inc x)]⟩

/-- SERVO_MODE in C3's firmware. -/
def servoModeSet (c : Chip) (x mode : Nat) : Chip :=
  let s := c.servo x
  if mode = 0 then c.setServo x { s with mode := 0, state := 0, hist := [], incs := [] }
  else if s.state = 0 then c.servoStart x mode
  else c.setServo x { s with mode := mode }

/-- (clock − served) of clock x at a served time; a time before the history's first point has a free value (log 43). -/
def histAt (c : Chip) (x t : Nat) : Int :=
  match (c.servo x).hist.find? (fun p => decide (p.served ≤ t)) with
  | some p => p.diff
  | none => c.free.toInt

/-- SERVO_MODE (R320). -/
def actServoMode (c : Chip) (args : List Nat) : Chip × Option (Nat × List Nat) :=
  let x := args.getD 0 0
  if 2 ≤ x ∨ 3 ≤ args.getD 1 0 then (c, some (1, []))
  else if !c.datumOn then (c, some (4, []))
  else (c.servoModeSet x (args.getD 1 0), some (0, []))

/-- SAMPLE (R320). -/
def actSample (c : Chip) (args : List Nat) : Chip × Option (Nat × List Nat) :=
  let a := args.getD 0 0
  let x := a % 2
  let age := timeDiff c.served32 (args.getD 2 0)
  if bitsOf a 15 1 ≠ 0 then (c, some (1, []))
  else if !c.datumOn then (c, some (4, []))
  else if (c.servo x).mode ≠ 1 then (c, some (2, []))
  else if age < 0 ∨ 4000000000 < age then (c, some (3, []))
  else
    let sample := (signedOf 32 (args.getD 1 0) * 65536 + (bitsOf a 31 16 : Nat)) * 65536
    (c.tick.servoTake x (sample - c.histAt x (c.servedNs - age.toNat)), some (0, []))

/-- STATUS (R320). -/
def actServoStatus (c : Chip) (args : List Nat) : Chip × Option (Nat × List Nat) :=
  let x := args.getD 0 0
  if 2 ≤ x then (c, some (1, []))
  else if !c.datumOn then (c, some (4, []))
  else
    let s := c.servo x
    (c, some (0, [s.state, wrapTo 32 (s.last.tdiv (unitNs : Nat)), c.inc x % 2 ^ 32, c.inc x / 2 ^ 32]))

/-- SERVO_MODE. -/
def opServoMode (rq : Req) (tag : BitVec 16) (m : Fin 2) (c : Chip) : Chip := c.mbxRun rq tag (.dtm m) 1 actServoMode

/-- SAMPLE. -/
def opServoSample (rq : Req) (tag : BitVec 16) (m : Fin 2) (c : Chip) : Chip := c.mbxRun rq tag (.dtm m) 2 actSample

/-- STATUS. -/
def opServoStatus (rq : Req) (tag : BitVec 16) (m : Fin 2) (c : Chip) : Chip := c.mbxRun rq tag (.dtm m) 3 actServoStatus

/-- The weighted sum of increments from time t to time e, newest first, and the time they cover. -/
def incSum (t : Nat) : Nat → List (Nat × Nat) → Nat × Nat
  | _, [] => (0, 0)
  | e, (s, v) :: l =>
    if e ≤ t then (0, 0)
    else
      let r := incSum t s l
      (r.1 + v * (e - max s t), r.2 + (e - max s t))

/-- The average increment of the last 60 s (R321). -/
def incAverage (c : Chip) (x : Nat) : Nat :=
  let r := incSum (c.now - 60 * sPs) c.now (c.servo x).incs
  if r.2 = 0 then c.inc x else r.1 / r.2

/-- SERVO_HOLDOVER (R321). -/
def opServoHoldover (x : Nat) (c : Chip) : Chip :=
  let s := c.servo x
  if c.coreServes 3 && (s.state == 1 || s.state == 2) && decide (s.lastAt + Config.servoHoldS x * sPs ≤ c.now) then
    let c1 := c.setInc x (c.incAverage x)
    c1.setServo x { c1.servo x with state := 3, good := 0, bad := 0 }
  else c

/-- C3's firmware starts or restarts: its servos enter their mode through ACQUIRING (R321, R346). -/
def servosEnter (c : Chip) : Chip :=
  [0, 1].foldl (fun c x => if (c.servo x).mode = 0 then c else c.servoStart x (c.servo x).mode) c

/-! Pulse per second and the reference (R317 to R319). -/

/-- A capture into three registers NS, SEC_LO and SEC_HI (R317). -/
def ppsCapture (c : Chip) (ns lo hi : Nat) (k : Clk) : Chip :=
  ((c.wrN ns k.ns).wrN lo (k.sec % 2 ^ 32)).wrN hi (2 ^ 31 + k.sec / 2 ^ 32)

/-- A capture has not been read away. -/
def captured (c : Chip) : Bool :=
  c.on (Reg.DTM_CLK_PPS_SEC_HI 0) Fd.DTM_CLK_PPS_SEC_HI_V || c.on (Reg.DTM_CLK_PPS_SEC_HI 1) Fd.DTM_CLK_PPS_SEC_HI_V
    || c.on Reg.DTM_SRV_PPS_SEC_HI Fd.DTM_SRV_PPS_SEC_HI_V

/-- The nearest whole second minus a clock's value (R320). -/
def toSecond (k : Clk) : Int :=
  let r := k.ns * unitNs + k.frac
  if 2 * r < unitSec then -(r : Int) else ((unitSec - r : Nat) : Int)

/-- PPS_IN_EDGE (R317): the edge in this tick. -/
def opPpsInEdge (c : Chip) : Chip :=
  if c.datumRun then
    let c1 := if c.captured then c.bump (Reg.DTM_CNT 5) 1 else c
    let c2 := (((c1.ppsCapture (Reg.DTM_CLK_PPS_NS 0) (Reg.DTM_CLK_PPS_SEC_LO 0) (Reg.DTM_CLK_PPS_SEC_HI 0) c.dtm.clkA).ppsCapture
      (Reg.DTM_CLK_PPS_NS 1) (Reg.DTM_CLK_PPS_SEC_LO 1) (Reg.DTM_CLK_PPS_SEC_HI 1) c.dtm.clkB).ppsCapture
      Reg.DTM_SRV_PPS_NS Reg.DTM_SRV_PPS_SEC_LO Reg.DTM_SRV_PPS_SEC_HI c.dtm.clkS).bump (Reg.DTM_CNT 4) 1
    let c3 := [0, 1].foldl (fun c x => if c.setPending x true then c.applySet x else c) c2
    [0, 1].foldl (fun d x => if (d.servo x).mode = 2 ∧ d.coreServes 3 = true then d.servoTake x (toSecond (c.clk x)) else d) c3
  else c

/-- PPS_OUT_PULSE (R318): the pin rises when it is due, and falls at the pulse's end. -/
def opPpsOutPulse (c : Chip) : Chip :=
  if c.pins.ppsOut then
    if c.dtm.ppsEnd ≤ c.now then c.ppsLow else c
  else if c.dtm.ppsDue then
    { c.emit (.pps true) with pins.ppsOut := true, dtm.ppsDue := false,
                              dtm.ppsEnd := c.now + c.fld Reg.DTM_CFG Fd.DTM_CFG_PPS_WIDTH * msPs }
  else c

/-- TIME_REF_LOSS (R319). -/
def opTimeRefLoss (c : Chip) : Chip :=
  if c.on Reg.DTM_STATUS Fd.DTM_STATUS_REF_LOST || !c.domOn 116 then c
  else
    (({ c with pins.timeRef := false }).setF Reg.DTM_STATUS Fd.DTM_STATUS_REF_LOST 1).bump (Reg.DTM_CNT 6) 1 |>.report
      0x05 0 0x12 outDegraded

/-- TIME_REF_RETURN (R319): TIME_REFCLK has been good for 100 ms. -/
def opTimeRefReturn (c : Chip) : Chip :=
  { c.setF Reg.DTM_STATUS Fd.DTM_STATUS_REF_LOST 0 with pins.timeRef := true }

end Chip

/-! The meanings. -/

/-- CLK_INC_WRITE. -/
def execClkIncWrite (rq : Req) (x : Fin 2) (value : BitVec 32) (s : State) : Host.Outcome State Fault Refusal :=
  runChip s (Chip.opClkIncWrite rq x.val value)

/-- CLK_ADJ. -/
def execClkAdj (rq : Req) (x : Fin 2) (value : BitVec 32) (s : State) : Host.Outcome State Fault Refusal :=
  runChip s (Chip.opClkAdj rq x.val value)

/-- CLK_SET. -/
def execClkSet (rq : Req) (x : Fin 2) (atPps : Bool) (s : State) : Host.Outcome State Fault Refusal :=
  runChip s (Chip.opClkSet rq x.val atPps)

/-- SERVE_SWITCH. -/
def execServeSwitch (rq : Req) (value : BitVec 32) (s : State) : Host.Outcome State Fault Refusal :=
  runChip s (Chip.opServeSwitch rq value)

/-- SNAP. -/
def execSnap (rq : Req) (s : State) : Host.Outcome State Fault Refusal := runChip s (Chip.opSnap rq)

/-- DATUM_LOCK. -/
def execDatumLock (s : State) : Host.Outcome State Fault Refusal := runChip s Chip.opDatumLock

/-- PPS_IN_EDGE. -/
def execPpsInEdge (s : State) : Host.Outcome State Fault Refusal := runChip s Chip.opPpsInEdge

/-- PPS_OUT_PULSE. -/
def execPpsOutPulse (s : State) : Host.Outcome State Fault Refusal := runChip s Chip.opPpsOutPulse

/-- TIME_REF_LOSS. -/
def execTimeRefLoss (s : State) : Host.Outcome State Fault Refusal := runChip s Chip.opTimeRefLoss

/-- TIME_REF_RETURN. -/
def execTimeRefReturn (s : State) : Host.Outcome State Fault Refusal := runChip s Chip.opTimeRefReturn

/-- SERVO_MODE. -/
def execServoMode (rq : Req) (tag : BitVec 16) (m : Fin 2) (s : State) : Host.Outcome State Fault Refusal :=
  runChip s (Chip.opServoMode rq tag m)

/-- SAMPLE. -/
def execServoSample (rq : Req) (tag : BitVec 16) (m : Fin 2) (s : State) : Host.Outcome State Fault Refusal :=
  runChip s (Chip.opServoSample rq tag m)

/-- STATUS. -/
def execServoStatus (rq : Req) (tag : BitVec 16) (m : Fin 2) (s : State) : Host.Outcome State Fault Refusal :=
  runChip s (Chip.opServoStatus rq tag m)

/-- SERVO_HOLDOVER. -/
def execServoHoldover (x : Fin 2) (s : State) : Host.Outcome State Fault Refusal := runChip s (Chip.opServoHoldover x.val)

end Sys2Proof.Machine
end

