-- ==== Sys2Proof/Machine/Mgmt.lean ====
section
/-!
DEFINITION. Control-core load, the debug port, snapshots and bandwidth windows, and the management buses (chapter 17).
-/

namespace Sys2Proof.Machine

/-- A hart of R413 as MGT_CORE_STATUS numbers it (R424): C0 to C3, boot core 4, safety core 5. -/
def hartIdx (h : Nat) : Nat := if h = 0 then 4 else if h ≤ 4 then h - 1 else 5

/-- The scope bit that reaches a hart (R412). -/
def hartScope (h : Nat) : Nat := if h = 5 then 3 else if h = 4 then 2 else 1

/-- Counters that a snapshot does not latch (R418, R428): FLT_PANEL_CNT, PWR_PANEL_DISCARD and PMC_BW. -/
def snapLatched (k : Nat) : Bool :=
  !((decide (0x30300 ≤ k) && decide (k < 0x30380)) || (decide (0x40C00 ≤ k) && decide (k < 0x40C80))
    || (decide (0xA1000 ≤ k) && decide (k < 0xA3000)))

namespace Chip

/-! Load of the cores (R408). -/

/-- One core's LOAD of the window just ended. -/
def coreLoad (c : Chip) (i load : Nat) : Chip :=
  let k := Reg.MGT_CORE_STATUS i
  let l := min load 100
  let high := decide (c.fld Reg.MGT_CFG Fd.MGT_CFG_SAT_PCT ≤ l)
  let sat := c.on k Fd.MGT_CORE_STATUS_SAT
  let c1 := c.setF k Fd.MGT_CORE_STATUS_LOAD l
  let n := if high = sat then 0 else mget (fun _ => 0) c.dbg.satRun i + 1
  if n ≠ 0 ∧ c.fld Reg.MGT_CFG Fd.MGT_CFG_SAT_MS ≤ n then
    let c2 := { c1.setF k Fd.MGT_CORE_STATUS_SAT (b2n high) with dbg.satRun := mset (fun _ => 0) c1.dbg.satRun i 0 }
    if high then (c2.bump (Reg.MGT_CNT 0) 1).collect 0x09 0 0x19 outReported i else c2
  else { c1 with dbg.satRun := mset (fun _ => 0) c1.dbg.satRun i n }

/-- LOAD_WINDOW (R408): at each millisecond of the time base, the loads of C0 to C3, the boot core and the safety core. -/
def opLoadWindow (loads : List Nat) (c : Chip) : Chip :=
  if c.tb / tbMs ≤ c.dbg.loadAt then c
  else (List.range 6).foldl (fun c i => c.coreLoad i (loads.getD i 0)) { c with dbg.loadAt := c.tb / tbMs }

/-! The debug port (R410 to R414). -/

/-- DBG_AUTH STATE and SCOPE. -/
def dbgState (c : Chip) : Nat := c.fld Reg.MGT_DBG_STATUS Fd.MGT_DBG_STATUS_STATE
def dbgScope (c : Chip) : Nat := c.fld Reg.MGT_DBG_STATUS Fd.MGT_DBG_STATUS_SCOPE

/-- A scope bit is granted. -/
def granted (c : Chip) (i : Nat) : Bool := c.dbgState == 3 && bitOf c.dbgScope i

/-- What DBG_AUTH captures (R412), as a number. -/
def authBytes (c : Chip) : List Byte :=
  [BitVec.ofNat 8 c.dbgState, BitVec.ofNat 8 (c.fld Reg.MGT_DBG_STATUS Fd.MGT_DBG_STATUS_FAILS), BitVec.ofNat 8 c.dbgScope, 0]
    ++ leBytes 48 c.dbg.shown.toNat ++ leBytes 8 Config.uid.toNat

/-- The shift register of DBG_AUTH comes out. -/
def authShift (c : Chip) : Chip := c.emit (.debug 8 (leNat c.authBytes))

/-- A halted hart runs again: its watchdog starts from zero, and debug knows its registers and memory no more (R414). -/
def resumeHart (c : Chip) (h : Nat) : Chip :=
  let i := hartIdx h
  if c.dbg.halted.contains i then
    let c1 := { c with dbg.halted := c.dbg.halted.filter (fun j => j != i),
                       dbg.regs := c.dbg.regs.filter (fun x => x.1 / 8192 != h),
                       dbg.mem := c.dbg.mem.filter (fun x => x.1 / 2 ^ 61 != h) }
    if h = 5 then c1.resumeTakeovers else if h = 0 then c1 else c1.kick i
  else c

/-- Lock the port (R411): a lockout stays, and every halted hart resumes. -/
def lockPort (c : Chip) : Chip :=
  let c1 := if c.dbgState = 3 then
      (c.setF Reg.MGT_DBG_STATUS Fd.MGT_DBG_STATUS_STATE (if c.dbg.nonce.isSome then 1 else 0)).setF
        Reg.MGT_DBG_STATUS Fd.MGT_DBG_STATUS_SCOPE 0
    else c
  (List.range 6).foldl resumeHart (c1.setF Reg.MGT_DBG_CTRL Fd.MGT_DBG_CTRL_RELOCK 0)

/-- CHALLENGE (R412): a new nonce, a free value; not while a response is verified or in lockout. -/
def opChallenge (c : Chip) : Chip :=
  let c1 := c.authShift
  if c.dbgState = 2 ∨ c.dbgState = 4 then c1
  else
    let n : BitVec 384 := BitVec.ofNat 384 ((List.range 6).foldl (fun a i => a + (Config.freeWord (c.freeCtr + i)).toNat * 2 ^ (64 * i)) 0)
    let c2 := { c1 with dbg.nonce := some n, dbg.shown := n, freeCtr := c.freeCtr + 6 }
    if c.dbgState = 3 then c2 else c2.setF Reg.MGT_DBG_STATUS Fd.MGT_DBG_STATUS_STATE 1

/-- RESPONSE (R412): the response is taken for verification, and uses up the nonce. -/
def opResponse (data : List Byte) (c : Chip) : Chip :=
  let c1 := c.authShift
  if c.dbgState = 2 ∨ c.dbgState = 4 then c1
  else
    { c1.setF Reg.MGT_DBG_STATUS Fd.MGT_DBG_STATUS_STATE (if c.dbgState = 3 then 3 else 2) with
      dbg.nonce := none, dbg.resp := some ⟨data, c.dbg.nonce⟩ }

/-- The conditions of R412 for a response. -/
def authGood (c : Chip) (r : AuthResp) : Bool :=
  match r.nonce with
  | none => false
  | some n =>
    let i := byteAt r.data 1
    let scope := byteAt r.data 2
    let key := slice r.data 4 97
    let msg := leBytes 48 n.toNat ++ leBytes 8 Config.uid.toNat ++ leBytes 2 0x5120 ++ [0x41, BitVec.ofNat 8 scope]
    decide (i ≤ 2) && decide (Config.sha384 key = Config.keyHash i) && !bitOf (c.fld Reg.BOOT_FUSE Fd.BOOT_FUSE_REVOKED) i
      && decide (scope < 32) && Config.ecdsaOk key (slice r.data 104 96) (Config.sha384 msg)

/-- AUTH_VERDICT (R412). -/
def opAuthVerdict (c : Chip) : Chip :=
  match c.dbg.resp with
  | none => c
  | some r =>
    let k := Reg.MGT_DBG_STATUS
    let c1 := { c with dbg.resp := none }
    if c.authGood r then
      let scope := byteAt r.data 2
      (((c1.setF k Fd.MGT_DBG_STATUS_STATE 3).setF k Fd.MGT_DBG_STATUS_SCOPE scope).bump (Reg.MGT_CNT 1) 1).collect
        0x09 0 0x19 outReported scope
    else
      let n := c.fld k Fd.MGT_DBG_STATUS_FAILS + 1
      let c2 := (c1.setF k Fd.MGT_DBG_STATUS_FAILS (min n 3)).bump (Reg.MGT_CNT 2) 1
      if 3 ≤ n then ((c2.lockPort).setF k Fd.MGT_DBG_STATUS_STATE 4).setF k Fd.MGT_DBG_STATUS_SCOPE 0
      else if c.dbgState = 2 then c2.setF k Fd.MGT_DBG_STATUS_STATE 0
      else c2

/-- RELOCK (R411, R412). -/
def opRelock (c : Chip) : Chip := c.authShift.lockPort

/-- IDCODE (R410). -/
def opIdcode (c : Chip) : Chip := c.emit (.debug 1 0x15120A6B)

/-- SAMPLE/PRELOAD (R410): the balls come out and the boundary register is loaded. -/
def opSamplePreload (sampled shifted : Nat) (c : Chip) : Chip := { c.emit (.debug 2 sampled) with dbg.boundary := shifted }

/-- EXTEST, CLAMP and HIGHZ: within scope they take the lanes out of service; locked they capture zeros (R411, R412). -/
def scanOut (code shown : Nat) (c : Chip) : Chip :=
  if c.granted 0 then { c.emit (.debug code shown) with dbg.lanesOut := true } else c.emit (.debug code 0)

/-- EXTEST (R410). -/
def opExtest (c : Chip) : Chip := c.scanOut 3 c.dbg.boundary

/-- CLAMP (R410): the boundary register drives the balls, and the bypass register is shifted. -/
def opClamp (c : Chip) : Chip := c.scanOut 4 0

/-- HIGHZ (R410). -/
def opHighz (c : Chip) : Chip := c.scanOut 5 0

/-- BYPASS, and every code that R410 does not list. -/
def opBypass (c : Chip) : Chip := c.emit (.debug 0x1F 0)

/-- Debug reaches hart h, and its domain is on (R412, R413). -/
def reaches (c : Chip) (h : Nat) : Bool := c.granted (hartScope h) && (h == 5 || c.domOn 115)

/-- Hart h is halted. -/
def hartHalted (c : Chip) (h : Nat) : Bool := c.dbg.halted.contains (hartIdx h)

/-- DEBUG_HALT (R414). -/
def opDebugHalt (h : Nat) (c : Chip) : Chip :=
  if c.reaches h && !c.hartHalted h then { c.bump (Reg.MGT_CNT 3) 1 with dbg.halted := c.dbg.halted ++ [hartIdx h] } else c

/-- DEBUG_RESUME (R414). -/
def opDebugResume (h : Nat) (c : Chip) : Chip := if c.reaches h then c.resumeHart h else c

/-! The counters of the boot core and C0 to C3 (R417, log 145). -/

/-- The counters: mcycle, minstret and mhpmcounter3 to 6, by register number. -/
def pmuCtrs : List Nat := [0xB00, 0xB02, 0xB03, 0xB04, 0xB05, 0xB06]

/-- A register number of R417. -/
def isPmu (r : Nat) : Bool := pmuCtrs.contains r || (decide (0x323 ≤ r) && decide (r ≤ 0x326))

/-- A counter or its event. -/
def pmuGet (c : Chip) (h r : Nat) : BitVec 64 := mget (fun _ => 0) c.dbg.pmu (8192 * h + r)

/-- Set a counter or its event. -/
def pmuSet (c : Chip) (h r : Nat) (v : BitVec 64) : Chip :=
  { c with dbg.pmu := mset (fun _ => 0) c.dbg.pmu (8192 * h + r) v }

/-- What counter r rises by over cycles and retired instructions: mhpmcounter3 to 6 by the event selected, of which an overflow interrupt
that is taken (irq) is one of event 5. -/
def pmuRise (c : Chip) (h cycles retired irq r : Nat) : Nat :=
  if r = 0xB00 then cycles
  else if r = 0xB02 then retired
  else
    let e := (c.pmuGet h (r - 0xB03 + 0x323)).toNat
    if 1 ≤ e ∧ e ≤ 5 then Config.coreEvents h c.now c.freeCtr e + (if e = 5 then irq else 0) else 0

/-- Counter r rises by n; when it overflows with its interrupt enabled, the interrupt is taken after at most 6 more instructions. -/
def pmuCount (h r n : Nat) (c : Chip) : Chip :=
  let v := c.pmuGet h r
  let c1 := c.pmuSet h r (v + BitVec.ofNat 64 n)
  if 2 ^ 64 ≤ v.toNat + n ∧ bitOf (mget (fun _ => 0) c.dbg.pmuIrq h).toNat (pmuCtrs.idxOf r) = true ∧ (mfind c.dbg.pmuWait h).isNone then
    { c1 with dbg.pmuWait := mput c.dbg.pmuWait h ((Config.coreSkid h c.now).val, Config.coreSkid h c.now) }
  else c1

/-- An overflow interrupt that waits: taken once its instructions have retired, with mepc behind the cause by its skid. The answer: taken. -/
def pmuTake (h retired : Nat) (c : Chip) : Chip × Bool :=
  match mfind c.dbg.pmuWait h with
  | none => (c, false)
  | some w =>
    if w.1 ≤ retired then
      ({ c with dbg.pmuWait := mdel c.dbg.pmuWait h, dbg.mepcSkid := mput c.dbg.mepcSkid h w.2 }, true)
    else ({ c with dbg.pmuWait := mput c.dbg.pmuWait h (w.1 - retired, w.2) }, false)

/-- What the firmware of hart h writes to a counter register. -/
def pmuWrite (h : Nat) (c : Chip) (r : Nat) : Chip :=
  match Config.coreWrites h c.now c.freeCtr r with
  | some v => c.pmuSet h r v
  | none => c

/-- Hart h runs for cycles, retiring instructions: its counters count, and its firmware may write them. -/
def hartRun (h cycles retired : Nat) (c : Chip) : Chip :=
  let t := c.pmuTake h retired
  let c1 := pmuCtrs.foldl (fun c r => pmuCount h r (c.pmuRise h cycles retired (b2n t.2) r) c) t.1
  let c2 := (pmuCtrs ++ [0x323, 0x324, 0x325, 0x326]).foldl (pmuWrite h) c1
  match Config.coreWrites h c.now c.freeCtr 0 with
  | some v => { c2 with dbg.pmuIrq := mset (fun _ => 0) c2.dbg.pmuIrq h v }
  | none => c2

/-- The boot core or one of C0 to C3 runs: it has firmware, is neither held in reset nor halted, and its domain is on. -/
def hartRuns (c : Chip) (h : Nat) : Bool := c.domOn 115 && c.coreServes (hartIdx h)

/-- MGMT cycles pass: every hart that runs counts them (R417). -/
def mgmtCycles (n : Nat) (c : Chip) : Chip :=
  ((List.range 5).filter c.hartRuns).foldl (fun c h => c.hartRun h n (Config.coreEvents h c.now c.freeCtr 0)) c

/-- DEBUG_STEP (R413): one instruction of the hart's firmware, which its counters count (R417), and after which debug knows nothing else
of the hart. -/
def opDebugStep (h : Nat) (c : Chip) : Chip :=
  if c.reaches h && c.hartHalted h then
    let c1 := if h < 5 then (c.hartRun h (Config.coreEvents h c.now c.freeCtr 6) 1).tick else c
    { c1 with dbg.regs := c1.dbg.regs.filter (fun x => x.1 / 8192 != h), dbg.mem := c1.dbg.mem.filter (fun x => x.1 / 2 ^ 61 != h) }
  else c

/-- A register of a halted hart: x0 is 0, the counters of R417 stand as they count; another that debug has not written or read has a free
value, which it keeps (log 11). -/
def hartReg (c : Chip) (h r : Nat) : Chip × BitVec 64 :=
  if r = 0x1000 then (c, 0)
  else if h < 5 ∧ isPmu r = true then (c, c.pmuGet h r)
  else
    match mfind c.dbg.regs (8192 * h + r) with
    | some v => (c, v)
    | none => ({ c.tick with dbg.regs := mput c.dbg.regs (8192 * h + r) c.free }, c.free)

/-- A double word of a hart's memory; what is not known has a free value, kept while the hart is halted (log 11). -/
def hartMem (c : Chip) (h a : Nat) : Chip × BitVec 64 :=
  match mfind c.dbg.mem (2 ^ 61 * h + a / 8 % 2 ^ 61) with
  | some v => (c, v)
  | none =>
    if c.hartHalted h then ({ c.tick with dbg.mem := mput c.dbg.mem (2 ^ 61 * h + a / 8 % 2 ^ 61) c.free }, c.free)
    else (c.tick, c.free)

/-- Write a double word of a hart's memory; a running hart's firmware may change it at once. -/
def setHartMem (c : Chip) (h a : Nat) (v : BitVec 64) : Chip :=
  if c.hartHalted h then { c with dbg.mem := mput c.dbg.mem (2 ^ 61 * h + a / 8 % 2 ^ 61) v } else c

/-- ABSTRACT_COMMAND (R413): kind 0x10 is the answer, 0x11 the command error of a hart that cannot take it. -/
def opAbstractCommand (h : Nat) (cmd : AbsCmd) (c : Chip) : Chip :=
  if !c.reaches h then c
  else if !c.hartHalted h then c.emit (.debug 0x11 4)
  else
    match cmd with
    | .readReg r => if 0x1020 ≤ r.val then c.emit (.debug 0x11 3) else (c.hartReg h r.val).1.emit (.debug 0x10 (c.hartReg h r.val).2.toNat)
    | .writeReg r v =>
      if 0x1020 ≤ r.val then c.emit (.debug 0x11 3)
      else if r.val = 0x1000 then c.emit (.debug 0x10 0)
      else if h < 5 ∧ isPmu r.val = true then (c.pmuSet h r.val v).emit (.debug 0x10 0)
      else { c.emit (.debug 0x10 0) with dbg.regs := mput c.dbg.regs (8192 * h + r.val) v }
    | .readMem a => (c.hartMem h a.toNat).1.emit (.debug 0x10 (c.hartMem h a.toNat).2.toNat)
    | .writeMem a v => (c.setHartMem h a.toNat v).emit (.debug 0x10 0)

/-! Snapshots and bandwidth windows (R418 to R420). -/

/-- Take a snapshot, or join the one that runs (R418). -/
def snapTake (c : Chip) : Chip :=
  let c1 := c.setF Reg.PMC_SNAP_CTRL Fd.PMC_SNAP_CTRL_GO 0
  if c.pmc.copy.isSome then c1
  else { c1.setF Reg.PMC_SNAP_STATUS Fd.PMC_SNAP_STATUS_BUSY 1 with pmc.copy := some c.ctrs }

/-- SNAPSHOT_GO (R418): a write of GO, or a multiple of PERIOD_MS of the time base. -/
def opSnapshotGo (rq : Req) (periodic : Bool) (c : Chip) : Chip :=
  if periodic then
    let p := c.fld Reg.PMC_SNAP_CTRL Fd.PMC_SNAP_CTRL_PERIOD_MS
    let ms := c.tb / tbMs
    if p = 0 ∨ ms / p ≤ c.pmc.snapAt / p then c else { c.snapTake with pmc.snapAt := ms }
  else c.regCmd rq Reg.PMC_SNAP_CTRL snapTake

/-- SNAPSHOT_COMPLETE (R418). -/
def opSnapshotComplete (c : Chip) : Chip :=
  match c.pmc.copy with
  | none => c
  | some m =>
    let k := Reg.PMC_SNAP_STATUS
    let c1 := (c.setF k Fd.PMC_SNAP_STATUS_BUSY 0).setF k Fd.PMC_SNAP_STATUS_SEQ ((c.fld k Fd.PMC_SNAP_STATUS_SEQ + 1) % 65536)
    { c1 with snapC := m, pmc.copy := none }

/-- The MAC counters of PMC_BW[n][k] (R420, R116). -/
def bwSource (n k : Nat) : Nat := Reg.PORT_CNT n ([1, 10, 0, 9].getD k 0)

/-- One word pair of PMC_BW: what its counter rose by in the window. -/
def bwOne (c : Chip) (i : Nat) : Chip :=
  let s := bwSource (i / 4) (i % 4)
  let v := c.cnt s
  { c.setCnt (Reg.PMC_BW (i / 4) (i % 4)) (v - mget ctrDefault c.pmc.bwBase s) with
    pmc.bwBase := mset ctrDefault c.pmc.bwBase s v }

/-- BW_WINDOW (R420). -/
def opBwWindow (c : Chip) : Chip :=
  let ms := c.tb / tbMs
  if ms / c.pmc.bwMs ≤ c.pmc.bwAt / c.pmc.bwMs then c
  else
    let c1 := (List.range 1024).foldl bwOne c
    let c2 := c1.wrN Reg.PMC_BW_STATUS ((c1.rd Reg.PMC_BW_STATUS + 1) % 2 ^ 32)
    { c2 with pmc.bwAt := ms, pmc.bwMs := c2.fld Reg.PMC_BW_CFG Fd.PMC_BW_CFG_WINDOW_MS }

/-! Management buses (R421 to R423). -/

/-- Recovery of a stuck SDA: 3 tries (R423). The answer: recovered. -/
def busRecover (c : Chip) (m : Nat) (tries : List Bool) : Chip × Bool :=
  if (tries.take 3).any id then ((c.bump (Reg.MBUS_CNT m 3) 1).setF (Reg.MBUS_STATUS m) Fd.MBUS_STATUS_STUCK 0, true)
  else (((c.bump (Reg.MBUS_CNT m 4) 1).setF (Reg.MBUS_STATUS m) Fd.MBUS_STATUS_STUCK 1).report 0x0B 0 0x19 outReported, false)

/-- The check of the bus before a transaction (R423). -/
def busCheck (c : Chip) (m : Nat) (bus : BusEnv) : Chip × Bool :=
  if c.on (Reg.MBUS_STATUS m) Fd.MBUS_STATUS_STUCK || bus.stuck then c.busRecover m bus.tries else (c, true)

/-- The write bytes of a command. -/
def busWdata (c : Chip) (m n : Nat) : List Byte :=
  ((List.range 8).flatMap (fun j => leBytes 4 (c.rd (Reg.MBUS_MBX_WDATA m j)))).take n

/-- A transaction: wr and rd say whether it writes and reads (R422, R426). -/
def busRun (c : Chip) (m : Nat) (bus : BusEnv) (wr rd : Bool) (args : List Nat) : Chip × (Nat × List Nat) :=
  let a := args.getD 0 0
  let nw := bitsOf a 15 8
  let nr := bitsOf a 23 16
  if 32 < nw ∨ 32 < nr ∨ 2 ^ 24 ≤ a ∨ c.on (Reg.MBUS_CTRL m) ⟨0, 1⟩ = false then (c, (1, []))
  else
    let k := c.busCheck m bus
    if !k.2 then (k.1, (7, []))
    else
      let c1 := k.1.bump (Reg.MBUS_CNT m 0) 1
      if bus.arbLost then (c1.bump (Reg.MBUS_CNT m 5) 1, (5, []))
      else if bus.stretchOut then (c1.bump (Reg.MBUS_CNT m 2) 1, (4, []))
      else if !bus.addrAck then (c1.bump (Reg.MBUS_CNT m 1) 1, (2, []))
      else
        let c2 := if wr then c1.emit (.mbus m (a % 128) (c1.busWdata m nw)) else c1
        if wr && decide (0 < nw) && !bus.dataAck then (c2.bump (Reg.MBUS_CNT m 1) 1, (3, []))
        else if rd && bitOf a 7 && !bus.pecGood then (c2, (6, []))
        else if rd then (c2, (0, dataWords (ceilDiv nr 4) (leNat (slice bus.reads 0 nr)))) else (c2, (0, []))

/-- A bus command in its mailbox. -/
def busMbx (rq : Req) (tag : BitVec 16) (m : Fin 4) (op : Nat) (f : Chip → List Nat → Chip × (Nat × List Nat)) (c : Chip) : Chip :=
  c.mbxRun rq tag (.mbus m) op (fun c args => ((f c args).1, some (f c args).2))

/-- MBUS_WRITE (R422). -/
def opMbusWrite (rq : Req) (tag : BitVec 16) (m : Fin 4) (bus : BusEnv) (c : Chip) : Chip :=
  busMbx rq tag m 1 (fun c args => c.busRun m.val bus true false args) c

/-- MBUS_READ (R422). -/
def opMbusRead (rq : Req) (tag : BitVec 16) (m : Fin 4) (bus : BusEnv) (c : Chip) : Chip :=
  busMbx rq tag m 2 (fun c args => c.busRun m.val bus false true args) c

/-- WRITE_READ (R422). -/
def opWriteRead (rq : Req) (tag : BitVec 16) (m : Fin 4) (bus : BusEnv) (c : Chip) : Chip :=
  busMbx rq tag m 3 (fun c args => c.busRun m.val bus true true args) c

/-- RECOVER (R423). -/
def opRecover (rq : Req) (tag : BitVec 16) (m : Fin 4) (bus : BusEnv) (c : Chip) : Chip :=
  busMbx rq tag m 4 (fun c _ => ((c.busCheck m.val bus).1, (if (c.busCheck m.val bus).2 then 0 else 7, []))) c

/-- ALERT_N_CHANGE (R421). -/
def opAlertNChange (m : Nat) (low : Bool) (c : Chip) : Chip := c.setF (Reg.MBUS_STATUS m) Fd.MBUS_STATUS_ALERT (b2n low)

end Chip

/-! The meanings. -/

/-- LOAD_WINDOW. -/
def execLoadWindow (loads : List Nat) (s : State) : Host.Outcome State Fault Refusal := runChip s (Chip.opLoadWindow loads)

/-- CHALLENGE. -/
def execChallenge (s : State) : Host.Outcome State Fault Refusal := runChip s Chip.opChallenge

/-- RESPONSE. -/
def execResponse (data : List Byte) (s : State) : Host.Outcome State Fault Refusal := runChip s (Chip.opResponse data)

/-- AUTH_VERDICT. -/
def execAuthVerdict (s : State) : Host.Outcome State Fault Refusal := runChip s Chip.opAuthVerdict

/-- RELOCK. -/
def execRelock (s : State) : Host.Outcome State Fault Refusal := runChip s Chip.opRelock

/-- IDCODE. -/
def execIdcode (s : State) : Host.Outcome State Fault Refusal := runChip s Chip.opIdcode

/-- SAMPLE_PRELOAD. -/
def execSamplePreload (sampled shifted : Nat) (s : State) : Host.Outcome State Fault Refusal :=
  runChip s (Chip.opSamplePreload sampled shifted)

/-- EXTEST. -/
def execExtest (s : State) : Host.Outcome State Fault Refusal := runChip s Chip.opExtest

/-- CLAMP. -/
def execClamp (s : State) : Host.Outcome State Fault Refusal := runChip s Chip.opClamp

/-- HIGHZ. -/
def execHighz (s : State) : Host.Outcome State Fault Refusal := runChip s Chip.opHighz

/-- BYPASS. -/
def execBypass (s : State) : Host.Outcome State Fault Refusal := runChip s Chip.opBypass

/-- DEBUG_HALT. -/
def execDebugHalt (hart : Fin 6) (s : State) : Host.Outcome State Fault Refusal := runChip s (Chip.opDebugHalt hart.val)

/-- DEBUG_RESUME. -/
def execDebugResume (hart : Fin 6) (s : State) : Host.Outcome State Fault Refusal := runChip s (Chip.opDebugResume hart.val)

/-- DEBUG_STEP. -/
def execDebugStep (hart : Fin 6) (s : State) : Host.Outcome State Fault Refusal := runChip s (Chip.opDebugStep hart.val)

/-- ABSTRACT_COMMAND. -/
def execAbstractCommand (hart : Fin 6) (cmd : AbsCmd) (s : State) : Host.Outcome State Fault Refusal :=
  runChip s (Chip.opAbstractCommand hart.val cmd)

/-- SNAPSHOT_GO. -/
def execSnapshotGo (rq : Req) (periodic : Bool) (s : State) : Host.Outcome State Fault Refusal :=
  runChip s (Chip.opSnapshotGo rq periodic)

/-- SNAPSHOT_COMPLETE. -/
def execSnapshotComplete (s : State) : Host.Outcome State Fault Refusal := runChip s Chip.opSnapshotComplete

/-- BW_WINDOW. -/
def execBwWindow (s : State) : Host.Outcome State Fault Refusal := runChip s Chip.opBwWindow

/-- MBUS_WRITE. -/
def execMbusWrite (rq : Req) (tag : BitVec 16) (m : Fin 4) (bus : BusEnv) (s : State) : Host.Outcome State Fault Refusal :=
  runChip s (Chip.opMbusWrite rq tag m bus)

/-- MBUS_READ. -/
def execMbusRead (rq : Req) (tag : BitVec 16) (m : Fin 4) (bus : BusEnv) (s : State) : Host.Outcome State Fault Refusal :=
  runChip s (Chip.opMbusRead rq tag m bus)

/-- WRITE_READ. -/
def execWriteRead (rq : Req) (tag : BitVec 16) (m : Fin 4) (bus : BusEnv) (s : State) : Host.Outcome State Fault Refusal :=
  runChip s (Chip.opWriteRead rq tag m bus)

/-- RECOVER. -/
def execRecover (rq : Req) (tag : BitVec 16) (m : Fin 4) (bus : BusEnv) (s : State) : Host.Outcome State Fault Refusal :=
  runChip s (Chip.opRecover rq tag m bus)

/-- ALERT_N_CHANGE. -/
def execAlertNChange (m : Fin 4) (low : Bool) (s : State) : Host.Outcome State Fault Refusal :=
  runChip s (Chip.opAlertNChange m.val low)

end Sys2Proof.Machine
end

