-- ==== Sys2Proof/Machine/Host.lean ====
section
/-!
DEFINITION. Rings as the host drives them (R378, R379, R387), parcels and their PAR mailbox (R392 to R397), and the resets of the
host interface (R78, R376).
-/

namespace Sys2Proof.Machine

namespace Chip

/-! Rings. -/

/-- Who may write in the window of parcel p (R54): its VF, or for the manager parcel any other requester. -/
def ownsWindow (rq : Req) (p : Nat) : Bool :=
  match rq with
  | .vf n => n.val == p && p != 0
  | _ => p == 0

/-- A doorbell value that R378 ignores. -/
def doorbellBad (c : Chip) (p r v : Nat) : Bool :=
  decide (timeDiff v (c.rd (Reg.RING_HOST p r)) < 0) || decide ((c.ringLen p r : Int) < timeDiff v (c.rd (Reg.RING_ENG p r)))

/-- DOORBELL (R378). -/
def opDoorbell (rq : Req) (p r : Nat) (value : BitVec 32) (c : Chip) : Chip :=
  let k := Reg.VF_DOORBELL p r
  if !ownsWindow rq p then c.err rq errBadAccess k
  else if c.addrOff k then c.err rq errOffAccess k
  else if c.doorbellBad p r value.toNat then c.err rq errBadValue k
  else c.wr (Reg.RING_HOST p r) value

/-- RING_ERROR (R379). -/
def opRingError (p r : Nat) (c : Chip) : Chip :=
  if c.ringOn p r then
    ((c.setF (Reg.RING_CFG p r) Fd.RING_CFG_EN 0).setF (Reg.RING_STATUS p r) Fd.RING_STATUS_ERR 1).emit (.aer p r)
  else c

/-- MSIX_INTERRUPT (R379): the message that covers what was written during the interval. -/
def opMsixInterrupt (p r : Nat) (c : Chip) : Chip :=
  let k := 16 * p + r
  let last := mget (fun _ => 0) c.hif.irqLast k
  if c.hif.irqPend.contains k && decide (last + c.fld (Reg.RING_CFG p r) Fd.RING_CFG_MOD * usPs ≤ c.now + 1) then
    let c1 := c.sendMsix p (c.fld (Reg.RING_CFG p r) Fd.RING_CFG_VEC)
    { c1 with hif.irqPend := c1.hif.irqPend.erase k, hif.irqLast := mset (fun _ => 0) c1.hif.irqLast k (c.now + 1) }
  else c

/-! Injection. -/

/-- What the 32 bytes of an inject descriptor say (R387). -/
structure InjEntry where
  len : Nat
  start : Nat
  port : Nat
  parcel : Nat
  onestep : Bool
  clock : Nat
  sliceV : Bool
  slice : Nat
  gen : Nat
  rsv : Bool
  frame : List Byte
  deriving DecidableEq, Repr

/-- Read an inject entry. -/
def injEntry (l : List Byte) : InjEntry :=
  let a := leNat (slice l 0 2)
  let b := leNat (slice l 2 2)
  let f := byteAt l 6
  let v := bitOf f 3
  let s := byteAt l 7
  ⟨a % 2 ^ 14, b % 2 ^ 12, byteAt l 4, byteAt l 5 % 64, bitOf f 0, bitsOf f 2 1, v, s % 16, leNat (slice l 8 2),
    decide (2 ^ 14 ≤ a) || decide (2 ^ 12 ≤ b) || decide (64 ≤ byteAt l 5) || decide (16 ≤ f) || bitsOf f 2 1 == 3
      || decide (16 ≤ s) || (v && decide (8 < s % 16)) || (slice l 10 22).any (· != 0),
    slice l 32 (a % 2 ^ 14)⟩

/-- Entry size of a punt or inject ring. -/
def bufLen (c : Chip) (p r : Nat) : Nat := [2048, 4096, 8192, 32768].getD (c.fld (Reg.RING_CFG p r) Fd.RING_CFG_BUF) 2048

/-- A takeover or give-back of panel p runs (R335, R340). -/
def panelMoves (c : Chip) (p : Nat) : Bool :=
  c.flt.waits.any (fun w => w.panel == p)
    || c.mbx.any (fun o => decide (o.mbx = .flt) && o.op == 2 && o.ready.isNone && o.begun && o.args.headD 8 == p)

/-- The cases in which R387 refuses an inject descriptor of ring r of parcel p. -/
def injBad (c : Chip) (p r : Nat) (x : InjEntry) : Bool :=
  decide (x.len < 60) || decide (16379 < x.len) || decide (c.bufLen p r < x.len + 32) || x.rsv
    || (p != 0 && c.portParcel x.port != p)
    || (x.sliceV && (c.sliceFailed x.slice || !c.domOn (80 + x.slice) || (x.slice == 8 && (c.panelOf 8).isNone)))
    || (!x.sliceV && (c.serving (x.port / 32)).isNone) || c.standby

/-- An injected frame takes its cells and enters the slice's inject queue (R387, R230). -/
def injTake (c : Chip) (s parcel : Nat) (x : InjEntry) (rsv : Bool) : Chip :=
  let t := c.allocCells (ceilDiv x.len 256) 1 (c.ownerOf (0x20 + s) parcel)
  let k := t.2.headD 0
  let c1 := t.1.setChain k ⟨t.2, x.frame, 1, x.port, rsv, c.framePri x.port x.frame⟩
  let h : Head := ⟨s, x.port, x.frame, 0, 0, k, some ⟨x.start, parcel, x.onestep, x.clock⟩⟩
  { c1 with pipe.injQ := c1.pipe.injQ ++ [h] }.fcCheck x.port

/-- INJECT_FETCH (R387): the entry at the ring's engine index; it waits in host memory while its panel moves, while the slice's
inject queue is full; an entry that cell admission refuses waits there too (R25, R387; log 144). -/
def opInjectFetch (p ir : Nat) (entry : List Byte) (c : Chip) : Chip :=
  let r := 12 + ir
  let x := injEntry entry
  let s := if x.sliceV then x.slice else (c.serving (x.port / 32)).getD 0
  if !c.domOn 114 || !c.ringOn p r || !c.parcelActive p || c.rd (Reg.RING_HOST p r) == c.rd (Reg.RING_ENG p r)
      || c.panelMoves (x.port / 32) then c
  else if c.injBad p r x then (c.bump (Reg.RING_CNT p r 2) 1).ringAdvance p r
  else if x.sliceV && c.gen x.slice != x.gen then (c.bump (Reg.FLT_CNT 38) 1).ringAdvance p r
  else if 64 ≤ (c.pipe.injQ.filter (fun h => h.slice == s)).length then c
  else
    match c.admitPart x.port (ceilDiv x.len 256) with
    | none => c
    | some rsv => (c.injTake s (if p = 0 then x.parcel else p) x rsv).ringAdvance p r

/-! Parcels. -/

/-- State of a parcel (R392). -/
def parState (c : Chip) (p : Nat) : Nat := c.fld (Reg.PAR_STATUS p) Fd.PAR_STATUS_STATE

/-- PARCEL_CREATE (R392): a write of PAR_CTRL.EN 1. -/
def opParcelCreate (rq : Req) (p : Nat) (c : Chip) : Chip :=
  c.regCmd rq (Reg.PAR_CTRL p) (fun c =>
    if c.parState p = 0 then (c.setF (Reg.PAR_CTRL p) Fd.PAR_CTRL_EN 1).setPar p 1 else c)

/-- A PAR command on the parcel in ARG0: code 0x01 for parcel 0 or none, 0x02 in a state that does not list it (R392, R397). -/
def parCmd (states : List Nat) (act : Nat → Chip → Chip × Option (Nat × List Nat)) (c : Chip) (args : List Nat) :
    Chip × Option (Nat × List Nat) :=
  let p := args.getD 0 0
  if p = 0 ∨ 64 ≤ p then (c, some (1, []))
  else if !states.contains (c.parState p) then (c, some (2, []))
  else act p c

/-- Start a quiesce for the mailbox; it may end at once. -/
def parStop (next p : Nat) (c : Chip) : Chip × Option (Nat × List Nat) :=
  let w : ParWait := ⟨p, next, false, true⟩
  let c1 := c.startQuiesce w
  (c1, if c1.hif.quiesce.contains w then none else some (0, []))

/-- QUIESCE (R393). -/
def actQuiesce : Chip → List Nat → Chip × Option (Nat × List Nat) := parCmd [1] (parStop 2)

/-- FREEZE (R392). -/
def actFreeze : Chip → List Nat → Chip × Option (Nat × List Nat) := parCmd [1, 2] (parStop 3)

/-- RESUME (R392). -/
def actResume : Chip → List Nat → Chip × Option (Nat × List Nat) :=
  parCmd [2, 3] (fun p c => ({ c.setPar p 1 with hif.frozen := mdel c.hif.frozen p }, some (0, [])))

/-- RESET (R392). -/
def actParcelReset : Chip → List Nat → Chip × Option (Nat × List Nat) :=
  parCmd [2, 3] (fun p c => ({ (c.parReset p).setPar p 2 with hif.frozen := mdel c.hif.frozen p }, some (0, [])))

/-- A port belongs to parcel p, in force or as written (R397, code 0x03). -/
def portNames (c : Chip) (p : Nat) : Bool :=
  (List.range 256).any (fun n => c.portParcel n == p || c.fld (Reg.PRS_PORT_CFG 0 n) Fd.PRS_PORT_CFG_PARCEL == p)

/-- REMOVE (R392): its transaction starts, in a free slot or as soon as one is free. -/
def actRemove : Chip → List Nat → Chip × Option (Nat × List Nat) :=
  parCmd [2, 3] (fun p c =>
    if c.portNames p then (c, some (3, [])) else ({ c with hif.parTx := some ⟨p, none, false, [], []⟩ }.startRemove, none))

/-- QUIESCE. -/
def opQuiesce (rq : Req) (tag : BitVec 16) (c : Chip) : Chip := c.mbxRun rq tag .par 1 actQuiesce

/-- RESUME. -/
def opResume (rq : Req) (tag : BitVec 16) (c : Chip) : Chip := c.mbxRun rq tag .par 2 actResume

/-- FREEZE. -/
def opFreeze (rq : Req) (tag : BitVec 16) (c : Chip) : Chip := c.mbxRun rq tag .par 3 actFreeze

/-- RESET. -/
def opParcelReset (rq : Req) (tag : BitVec 16) (c : Chip) : Chip := c.mbxRun rq tag .par 6 actParcelReset

/-- REMOVE. -/
def opRemove (rq : Req) (tag : BitVec 16) (c : Chip) : Chip := c.mbxRun rq tag .par 7 actRemove

/-! The save area (R394). -/

/-- The descriptor of an entry, as a WRITE of SLOT 0; a rule's row stands at a byte offset of the area. -/
def entryDesc (seq addr code : Nat) (t : Target) : Desc :=
  let d := fun (op : Nat) (index adr data : Nat) => (⟨BitVec.ofNat 64 seq, BitVec.ofNat 8 op, 0, Fin.ofNat 16 code,
    BitVec.ofNat 32 index, BitVec.ofNat 64 adr, 0, BitVec.ofNat 256 data, false⟩ : Desc)
  match t with
  | .key k => d 2 0 0 (match k with
    | [a] => a
    | _ => k.headD 0 * 2 ^ 128 + k.getLastD 0)
  | .pfx v6 q => d 2 0 0 (pfxData v6 q)
  | .ix _ i e => d 2 i 0 e
  | .rule a _ => d 2 a addr 0

/-- An OPEN or CLOSE of SLOT 0. -/
def slotDesc (seq op : Nat) : Desc := ⟨BitVec.ofNat 64 seq, BitVec.ofNat 8 op, 0, 0, 0, 0, 0, 0, false⟩

/-- The WRITEs of a stream and the rows of its rules, from a number on; rows stand from an offset on. -/
def streamOf : List (Nat × Target) → Nat → Nat → List Byte × List Byte
  | [], _, _ => ([], [])
  | (code, t) :: l, seq, at_ =>
    let row := match t with
      | .rule _ e => leBytes 136 e
      | _ => []
    let r := streamOf l (seq + 1) (at_ + row.length)
    (descBytes (entryDesc seq at_ code t) ++ r.1, row ++ r.2)

/-- The words of a parcel's grants (R394). -/
def grantBytes (c : Chip) (p : Nat) : List Byte :=
  (List.range 8).flatMap (fun k => leBytes 4 (c.rd (Reg.PAR_RANGE_BASE p k)) ++ leBytes 4 (c.rd (Reg.PAR_RANGE_CNT p k)))
    ++ leBytes 4 (c.rd (Reg.PAR_QUOTA p)) ++ leBytes 4 (c.rd (Reg.PAR_RINGS p)) ++ leBytes 56 0

/-- The save area of a frozen parcel. -/
def saveArea (c : Chip) (p : Nat) : List Byte :=
  let f := mget (fun _ => Frozen.none) c.hif.frozen p
  let es := c.ownEntries p f.epoch
  let n := es.length + 2
  let st := streamOf es 2 (0x6C0 + 64 * n)
  let msix := (List.range 256).flatMap (fun i => leBytes 4 (c.rd (Reg.MSIX_TABLE p (i / 4) (i % 4))))
  let body := slice f.rings 0 512 ++ msix ++ c.grantBytes p ++ descBytes (slotDesc 1 1) ++ st.1 ++ descBytes (slotDesc n 4) ++ st.2
  [0x41, 0x5A, 0x50, 0x53] ++ leBytes 2 1 ++ leBytes 2 0x5120 ++ [0x41, BitVec.ofNat 8 p] ++ leBytes 2 f.epoch
    ++ leBytes 4 n ++ leBytes 8 (0x40 + body.length) ++ leBytes 8 Config.uid.toNat
    ++ leBytes 4 (crc32c 0xFFFFFFFF body) ++ leBytes 28 0 ++ body

/-- The extension address of a PAR command (R397). -/
def parXa (args : List Nat) : Nat := args.getD 1 0 + args.getD 2 0 % 2 ^ 20 * 2 ^ 32

/-- The size of the save area. -/
def parSize (args : List Nat) : Nat := args.getD 3 0 * 2 ^ 20

/-- One request of a save: where the access goes, the bytes are written, and the rest follows; else the save ends (R295). -/
def xmPutAt (rest : Store → Chip → Store × Chip × Bool) (st : Store) (l : List Byte) (r : Chip × Option Nat) : Store × Chip × Bool :=
  match r.2 with
  | none => (st, r.1, false)
  | some a => rest (st.wr a (l.take 64)) r.1

/-- Write bytes by 64-byte requests under parcel 0; the end is false when one fails (R295). -/
def xmPut : Nat → Store → Chip → Nat → List Byte → Store × Chip × Bool
  | 0, st, c, _, _ => (st, c, true)
  | fuel + 1, st, c, xa, l =>
    if l.isEmpty then (st, c, true)
    else xmPutAt (fun st c => xmPut fuel st c (xa + 64) (l.drop 64)) st l (c.xmAccess 0 xa true)

/-- One request of a restore. -/
def xmGetAt (rest : Chip → List Byte → Chip × Option (List Byte)) (st : Store) (r : Chip × Option Nat) : Chip × Option (List Byte) :=
  match r.2 with
  | none => (r.1, none)
  | some a => rest r.1 (st.rd a 64)

/-- Read n times 64 bytes by requests under parcel 0. -/
def xmGet (st : Store) : Nat → Chip → Nat → List Byte → Chip × Option (List Byte)
  | 0, c, _, acc => (c, some acc)
  | n + 1, c, xa, acc => xmGetAt (fun c l => xmGet st n c (xa + 64) (acc ++ l)) st (c.xmAccess 0 xa false)

/-- SAVE (R394). -/
def actSave (st : Store) (c : Chip) (args : List Nat) : Store × Chip × Option (Nat × List Nat) :=
  let p := args.getD 0 0
  let gate := parCmd [3] (fun _ c => (c, none)) c args
  match gate.2 with
  | some r => (st, c, some r)
  | none =>
    let l := c.saveArea p
    if parSize args < l.length then (st, c, some (4, [l.length]))
    else
      match xmPut l.length st c (parXa args) l with
      | (st1, c1, ok) => (st1, c1, some (if ok then (0, []) else (5, [])))

/-- A mailbox takes a command and begins it (R71, R407). -/
def mbxStarts (c : Chip) (rq : Req) (m : Mbx) (op : Nat) : Bool :=
  m.allows rq && !c.addrOff m.cmd && (c.mbxFind m).isNone && c.mbxServed m op

/-- Run a mailbox command whose operation changes the byte memories too. -/
def mbxRunBoth (c : Chip) (rq : Req) (tag : BitVec 16) (mb : Mbx) (op : Nat) (m : Store)
    (act : List Nat → Store → Chip → Store × Chip × Option (Nat × List Nat)) : Store × Chip :=
  (if c.mbxStarts rq mb op then (act (c.mbxArgs mb) m (c.setF mb.result ⟨14, 2⟩ 1)).1 else m,
   c.mbxRun rq tag mb op (fun c a => (act a m c).2))

/-- SAVE. -/
def opSave (rq : Req) (tag : BitVec 16) (st : Store) (c : Chip) : Store × Chip :=
  c.mbxRunBoth rq tag .par 4 st (fun args st c => actSave st c args)

/-! RESTORE (R395). -/

/-- Two ranges of one kind meet. -/
def rangesMeet (b1 n1 b2 n2 : Nat) : Bool := decide (0 < n1) && decide (0 < n2) && decide (b1 < b2 + n2) && decide (b2 < b1 + n1)

/-- A saved range of kind k. -/
def savedRange (l : List Byte) (k : Nat) : Nat × Nat := (leNat (slice l (0x640 + 8 * k) 4) % 2 ^ 20, leNat (slice l (0x644 + 8 * k) 4) % 2 ^ 21)

/-- The saved ranges overlap those of another parcel but 0. -/
def savedOverlaps (c : Chip) (p : Nat) (l : List Byte) : Bool :=
  ((List.range 64).drop 1).any (fun q => q != p && (List.range 8).any (fun k =>
    rangesMeet (savedRange l k).1 (savedRange l k).2 (c.fld (Reg.PAR_RANGE_BASE q k) Fd.PAR_RANGE_BASE_BASE)
      (c.fld (Reg.PAR_RANGE_CNT q k) Fd.PAR_RANGE_CNT_COUNT)))

/-- Write the saved grants of parcel p. -/
def putGrants (c : Chip) (p : Nat) (l : List Byte) : Chip :=
  (((List.range 8).foldl (fun c k => (c.wrN (Reg.PAR_RANGE_BASE p k) (savedRange l k).1).wrN (Reg.PAR_RANGE_CNT p k) (savedRange l k).2) c).wrN
    (Reg.PAR_QUOTA p) (leNat (slice l 0x680 3) + min 252 (byteAt l 0x683) * 2 ^ 24)).wrN
    (Reg.PAR_RINGS p) (leNat (slice l 0x684 4) / 2 ^ 16 * 2 ^ 16 + bitsOf (leNat (slice l 0x684 4)) 10 8 * 2 ^ 8
      + bitsOf (leNat (slice l 0x684 4)) 5 4 * 2 ^ 4 + bitsOf (leNat (slice l 0x684 4)) 2 0)

/-- Magic, format, part, step and the two lengths of a save area (R395). -/
def areaOk (l : List Byte) : Bool :=
  leNat (slice l 0 4) == 0x53505A41 && leNat (slice l 4 2) == 1 && leNat (slice l 6 2) == 0x5120 && byteAt l 8 == 0x41
    && decide (0x6C0 + 64 * leNat (slice l 0xC 4) ≤ leNat (slice l 0x10 8))

/-- Replay the WRITEs of a stream in slot s for parcel p; none when one is refused. -/
def replay (s p : Nat) (l : List Byte) : Nat → Nat → Chip → Option Chip
  | 0, _, c => some c
  | n + 1, i, c =>
    let d := descBack (slice l (0x6C0 + 64 * i) 64)
    if d.op = 1 ∨ d.op = 4 then replay s p l n (i + 1) c
    else if d.op ≠ 2 ∨ d.rsv = true then none
    else
      match targetOf d (slice l d.addr.toNat 136) false with
      | none => none
      | some t =>
        let r := c.change s p d.table.val false t
        if r.2 = cOk then replay s p l n (i + 1) r.1 else none

/-- Bring a save area's parcel back: its transaction is closed and its flip asked for; none when the area is refused. -/
def restoreArea (c : Chip) (p : Nat) (l : List Byte) : Option Chip :=
  if leNat (slice l 0x20 4) ≠ crc32c 0xFFFFFFFF (l.drop 0x40) ∨ c.savedOverlaps p l then none
  else
    match (List.range 252).find? (fun s => c.slotState s == sFree) with
    | none => none
    | some s =>
      let c1 := ((c.putGrants p l).wrN (Reg.UPD_SLOT s) 0 |>.setF (Reg.UPD_SLOT s) Fd.UPD_SLOT_PARCEL p).setSlot s sOpen
      match replay s p l (leNat (slice l 0xC 4)) 0 { c1 with active := ({ c with regs := c.active }.putGrants p l).regs } with
      | none => none
      | some c2 =>
        some { ({ c2 with active := c.active }.setSlot s sClosed).requestFlip with
          hif.parTx := some ⟨p, some s, true, slice l 0x40 512, slice l 0x240 1024⟩ }

/-- RESTORE (R395). -/
def actRestore (st : Store) (c : Chip) (args : List Nat) : Chip × Option (Nat × List Nat) :=
  parCmd [0] (fun p c =>
    match xmGet st 1 c (parXa args) [] with
    | (c1, none) => (c1, some (5, []))
    | (c1, some h) =>
      let total := leNat (slice h 0x10 8)
      if !areaOk h then (c1, some (6, []))
      else if parSize args < total then (c1, some (4, [total]))
      else
        match xmGet st (ceilDiv total 64) c1 (parXa args) [] with
        | (c2, none) => (c2, some (5, []))
        | (c2, some l) =>
          match c2.restoreArea p (l.take total) with
          | none => (c2, some (6, []))
          | some c3 => (c3, none)) c args

/-- RESTORE. -/
def opRestore (rq : Req) (tag : BitVec 16) (st : Store) (c : Chip) : Chip := c.mbxRun rq tag .par 5 (actRestore st)

/-! Resets of the host interface (R78, R376, R392). -/

/-- The window of parcel p: its registers but for those that keep names. -/
def resetWindow (c : Chip) (p : Nat) (keep : Nat → Bool) : Chip :=
  c.resetRegs (Reg.RING_CFG p 0 - 0x4000) (Reg.RING_CFG p 0 + 0xC000) keep

/-- Interrupts, completions and mailboxes of parcel p are forgotten. -/
def forgetParcel (c : Chip) (p : Nat) : Chip :=
  { c.dropVfMbx p with upd.hist := c.upd.hist.filter (fun x => x.1 / 16 != p),
                       hif.irqPend := c.hif.irqPend.filter (fun k => k / 16 != p),
                       hif.irqLast := c.hif.irqLast.filter (fun x => x.1 / 16 != p) }

/-- PF_FLR (R376): rings, mailboxes and MSI-X state of parcel 0. -/
def opPfFlr (c : Chip) : Chip := (c.resetWindow 0 (fun k => decide (k < 0x61000))).forgetParcel 0

/-- VF_FLR (R392): QUIESCE, then RESET. -/
def opVfFlr (n : Nat) (c : Chip) : Chip :=
  if n = 0 ∨ c.parState n = 0 then c else c.startQuiesce ⟨n, 2, true, false⟩

/-- The host interface, parcels and rings are cleared (R78). -/
def clearHost (c : Chip) : Chip :=
  let c1 := (c.resetRegs 0x60000 0x80000 (fun _ => false)).resetRegs 0x10000000 0x20000000 (fun _ => false)
  { c1 with hif := Hif.reset, upd.hist := [],
            mbx := c1.mbx.filter (fun o => match o.mbx with
              | .par => false
              | .vf _ _ => false
              | _ => true),
            latches := c1.latches.filter (fun x => x.rq.priv) }

/-- PERST_ASSERT (R78); host interface registers in the register save area are cleared too. -/
def opPerstAssert (c : Chip) : Chip :=
  if c.pins.perstN then
    { c.clearHost with
      pins.perstN := false,
      pwr.save := c.pwr.save.map (fun a => { a with regs := a.regs.filter (fun x => domOfAddr x.1 != some 114) }) }
  else c

/-- PERST_N_RELEASE (R84); in Deflated the edge starts an exit instead (R363). -/
def opPerstNRelease (c : Chip) : Chip := { c with pins.perstN := true }

end Chip

/-! The meanings. -/

/-- DOORBELL. -/
def execDoorbell (rq : Req) (parcel : Fin 64) (ring : Fin 16) (value : BitVec 32) (s : State) : Host.Outcome State Fault Refusal :=
  runChip s (Chip.opDoorbell rq parcel.val ring.val value)

/-- RING_ERROR. -/
def execRingError (parcel : Fin 64) (ring : Fin 16) (s : State) : Host.Outcome State Fault Refusal :=
  runChip s (Chip.opRingError parcel.val ring.val)

/-- MSIX_INTERRUPT. -/
def execMsixInterrupt (parcel : Fin 64) (ring : Fin 16) (s : State) : Host.Outcome State Fault Refusal :=
  runChip s (Chip.opMsixInterrupt parcel.val ring.val)

/-- INJECT_FETCH. -/
def execInjectFetch (parcel : Fin 64) (ring : Fin 4) (entry : List Byte) (s : State) : Host.Outcome State Fault Refusal :=
  runChip s (Chip.opInjectFetch parcel.val ring.val entry)

/-- PARCEL_CREATE. -/
def execParcelCreate (rq : Req) (p : Fin 64) (s : State) : Host.Outcome State Fault Refusal :=
  runChip s (Chip.opParcelCreate rq p.val)

/-- QUIESCE. -/
def execQuiesce (rq : Req) (tag : BitVec 16) (s : State) : Host.Outcome State Fault Refusal :=
  runChip s (Chip.opQuiesce rq tag)

/-- RESUME. -/
def execResume (rq : Req) (tag : BitVec 16) (s : State) : Host.Outcome State Fault Refusal :=
  runChip s (Chip.opResume rq tag)

/-- FREEZE. -/
def execFreeze (rq : Req) (tag : BitVec 16) (s : State) : Host.Outcome State Fault Refusal :=
  runChip s (Chip.opFreeze rq tag)

/-- SAVE. -/
def execSave (rq : Req) (tag : BitVec 16) (s : State) : Host.Outcome State Fault Refusal := runBoth s (Chip.opSave rq tag)

/-- RESTORE. -/
def execRestore (rq : Req) (tag : BitVec 16) (s : State) : Host.Outcome State Fault Refusal :=
  runRead s (Chip.opRestore rq tag)

/-- PARCEL_RESET. -/
def execParcelReset (rq : Req) (tag : BitVec 16) (s : State) : Host.Outcome State Fault Refusal :=
  runChip s (Chip.opParcelReset rq tag)

/-- REMOVE. -/
def execRemove (rq : Req) (tag : BitVec 16) (s : State) : Host.Outcome State Fault Refusal :=
  runChip s (Chip.opRemove rq tag)

/-- PF_FLR. -/
def execPfFlr (s : State) : Host.Outcome State Fault Refusal := runChip s Chip.opPfFlr

/-- VF_FLR. -/
def execVfFlr (n : Fin 64) (s : State) : Host.Outcome State Fault Refusal := runChip s (Chip.opVfFlr n.val)

/-- PERST_ASSERT. -/
def execPerstAssert (s : State) : Host.Outcome State Fault Refusal := runChip s Chip.opPerstAssert

/-- PERST_N_RELEASE. -/
def execPerstNRelease (s : State) : Host.Outcome State Fault Refusal := runChip s Chip.opPerstNRelease

end Sys2Proof.Machine
end

