-- ==== Sys2Proof/Machine/Tether.lean ====
section
/-!
DEFINITION. The Tether link as it receives and arbitrates (R398 to R406).
-/

namespace Sys2Proof.Machine

/-- Records of a body: descriptor, parcel and ring (R399). -/
def bodyRecords (l : List Byte) : List (Desc × Nat × Nat) :=
  (List.range (l.length / 72)).map (fun i => (descBack (slice l (72 * i) 64), byteAt l (72 * i + 64) % 64, byteAt l (72 * i + 65) % 16))

/-- Cut a list into lists of n. -/
def chunks {α : Type} (n : Nat) : Nat → List α → List (List α)
  | 0, _ => []
  | _, [] => []
  | fuel + 1, l => l.take n :: chunks n fuel (l.drop n)

namespace Chip

/-! What an acknowledgement does (R402). -/

/-- Completions that the standby has now acknowledged are written. -/
def releaseHeld (c : Chip) (upto : Nat) : Chip :=
  let out := c.tet.held.filter (fun x => decide (x.tseq ≤ upto))
  let keep := c.tet.held.filter (fun x => !decide (x.tseq ≤ upto))
  let c1 := out.foldl (fun c x => c.putCompl x false) { c with tet.held := keep }
  c1.setF Reg.TET_STATUS Fd.TET_STATUS_HELD (b2n (!keep.isEmpty))

/-- The active hands over (R403 step 2): SWAP_GO with the old generation, then STANDBY. What it received from now on is counted on
from the last number that it sent. -/
def handOver (c : Chip) : Chip :=
  let g := c.roleGen
  let c1 := c.sendTet tetSwapGo g 0 (leBytes 8 c.tet.sent)
  { (c1.setRole roleStandby ((g + 1) % 65536)).bump (Reg.TET_CNT 5) 1 with
    tet.recv := c.tet.sent, tet.synced := true, tet.resync := none }

/-- A swap at the active goes on once every UPDATE is acknowledged. -/
def swapGoOn (c : Chip) : Chip :=
  if c.tet.swap.isSome && c.role == roleActive && c.tet.unacked.isEmpty then c.handOver else c

/-- TSEQ n and all before it are acknowledged. -/
def ackTo (c : Chip) (n : Nat) : Chip :=
  if c.tet.acked < n ∧ n ≤ c.tet.sent then
    ({ c with tet.acked := n, tet.unacked := c.tet.unacked.filter (fun x => decide (n < x.1)), tet.progressAt := c.now }.releaseHeld
      n).swapGoOn
  else c

/-! Resync (R402). -/

/-- The records of a resync: for each parcel that owns entries an OPEN, its WRITEs and a CLOSE (R394). -/
def resyncRecords (c : Chip) : List (List Byte) :=
  (List.range 64).flatMap (fun p =>
    let es := c.ownEntries p c.epoch
    let rec72 := fun (d : Desc) => updateRecord d p 0
    if es.isEmpty then []
    else [rec72 (slotDesc 1 1)] ++ es.mapIdx (fun i e => rec72 (entryDesc (i + 2) 0 e.1 e.2)) ++ [rec72 (slotDesc (es.length + 2) 4)])

/-- Descriptors accepted before a resync travel in it: their completions wait for its end. -/
def restamp (n : Nat) (x : Compl) : Compl := { x with tseq := if x.tseq = 0 then 0 else n }

/-- The active starts a resync: numbers begin again at 1. -/
def startResync (c : Chip) : Chip :=
  let rs := c.resyncRecords
  let cs := match chunks 16 rs.length rs with
    | [] => [[]]
    | l => l
  let n := cs.length
  let st := fun (w : SlotWait) => ({ w with compl := restamp n w.compl } : SlotWait)
  let c1 := { c with
    tet.sent := 0, tet.acked := 0, tet.unacked := [], tet.progressAt := c.now, tet.resync := some c.now
    tet.held := c.tet.held.map (restamp n), upd.commits := c.upd.commits.map (restamp n)
    upd.closing := c.upd.closing.map st, upd.aborts := c.upd.aborts.map st
    upd.hist := c.upd.hist.map (fun x => (x.1, x.2.map (restamp n)))
    upd.loads := c.upd.loads.map (fun l => { l with compl := l.compl.map (restamp n) }) }
  (List.range n).foldl (fun c i =>
    c.sendNumbered (tetResync + (if i + 1 = n then 128 else 0)) ((cs.getD i []).flatMap id)) c1

/-- Ask for a resync: what is received is numbered from 1, and the tables do not agree. -/
def wantResync (c : Chip) : Chip := { c with tet.recv := 0, tet.synced := false, upd.hist := [] }

/-! What every message does first. -/

/-- A message is heard (R404). -/
def tetHear (c : Chip) : Chip :=
  let c1 := ((c.bump (Reg.TET_CNT 1) 1).setF Reg.TET_STATUS Fd.TET_STATUS_PARTNER 1).setF Reg.TET_STATUS Fd.TET_STATUS_LINK 1
  { c1 with tet.heard := some c.now }

/-- A message other than HEARTBEAT: discarded with a bad FCS, and counted under another generation (R398, R400). -/
def tetTake (c : Chip) (m : TetMsg) (act : Chip → Chip) : Chip :=
  if !c.on Reg.TET_CTRL Fd.TET_CTRL_EN || !m.fcsGood then c
  else if m.gen.toNat ≠ c.roleGen then c.tetHear.bump (Reg.TET_CNT 2) 1
  else act c.tetHear

/-! Heartbeats and arbitration (R400, R401). -/

/-- Own SLOT_ID, or with equal ones own GLB_UID, is lower. -/
def ownLower (c : Chip) : Bool :=
  let p := c.fld Reg.TET_STATUS Fd.TET_STATUS_PARTNER_SLOT
  decide (c.pins.slotId < p) || (c.pins.slotId == p && decide (Config.uid.toNat < c.tet.partnerUid))

/-- The roles of a swap have been exchanged (R403): this engine's command completes, merged for the higher SLOT_ID of two. -/
def swapOver (c : Chip) : Chip :=
  let code := if c.tet.ownSwap && c.tet.peerSwap && !c.ownLower then 4 else 0
  let c1 := if c.tet.ownSwap then c.mbxEnd .tet code [] else c
  { c1.setF Reg.TET_STATUS Fd.TET_STATUS_SWAP_PENDING 0 with
    tet.swap := none, tet.ownSwap := false, tet.peerSwap := false }

/-- A swap ends without an exchange. -/
def swapFail (c : Chip) (code : Nat) : Chip :=
  let c1 := if c.tet.ownSwap then c.mbxEnd .tet code [] else c
  { c1.setF Reg.TET_STATUS Fd.TET_STATUS_SWAP_PENDING 0 with tet.swap := none, tet.ownSwap := false, tet.peerSwap := false }

/-- Arbitration on an accepted heartbeat; the engine firmware that makes it is on C3 (R398, R401). -/
def arbitrate (c : Chip) (role : Nat) : Chip :=
  if !c.coreServes 3 || c.tet.dead then c
  else if c.role = roleNone then
    if role = roleActive then c.wantResync.setRole roleSyncing c.roleGen
    else if role = roleNone ∧ c.ownLower = true then
      { c with tet.sent := 0, tet.acked := 0, tet.unacked := [], tet.synced := true }.setRole roleActive ((c.roleGen + 1) % 65536)
    else c
  else if c.role = roleActive ∧ (role = roleStandby ∨ role = roleSyncing) then
    if c.tet.partnerSynced then { c with tet.resync := none }
    else if c.tet.resync.isNone then c.startResync else c
  else if c.role = roleStandby ∧ role = roleActive ∧ c.tet.swap.isSome ∧ c.tet.ownSwap = false then c.swapOver
  else c

/-- A heartbeat that R400 accepts. -/
def hbTake (c : Chip) (m : TetMsg) : Chip :=
  let uid := leNat (slice m.body 4 8)
  let flags := byteAt m.body 2
  let g := if 0 < epochDiff m.gen.toNat c.roleGen then m.gen.toNat else c.roleGen
  let c1 := ((c.setF Reg.TET_STATUS Fd.TET_STATUS_GEN g).setF Reg.TET_STATUS Fd.TET_STATUS_PARTNER_ROLE m.role.val).setF
    Reg.TET_STATUS Fd.TET_STATUS_PARTNER_SLOT m.slotId.val
  let c2 := { c1 with tet.partnerUid := uid, tet.partnerSynced := bitOf flags 0, tet.peerSwap := c1.tet.peerSwap || bitOf flags 1 }
  (c2.ackTo (leNat (slice m.body 12 8))).arbitrate m.role.val

/-- HEARTBEAT (R400, R401). -/
def opHeartbeat (m : TetMsg) (c : Chip) : Chip :=
  if !c.on Reg.TET_CTRL Fd.TET_CTRL_EN || !m.fcsGood then c
  else
    let c1 := c.tetHear
    let c2 := if !c.partner && m.slotId.val == c.pins.slotId then c1.report 0x08 0 0x19 outReported else c1
    if m.role.val ≠ roleNone ∧ epochDiff m.gen.toNat c.roleGen < 0 then c2.bump (Reg.TET_CNT 2) 1 else c2.hbTake m

/-- HEARTBEAT_SEND (R398): flags synced and own SWAP command pending. -/
def opHeartbeatSend (c : Chip) : Chip :=
  if !c.on Reg.TET_CTRL Fd.TET_CTRL_EN || decide (c.now < c.tet.hbAt + c.fld Reg.TET_CFG Fd.TET_CFG_HB_US * usPs) then c
  else
    { c.sendTet tetHeartbeat c.roleGen 0 (leBytes 2 c.epoch ++ [BitVec.ofNat 8 (b2n c.tet.synced + 2 * b2n c.tet.ownSwap), 0]
        ++ leBytes 8 Config.uid.toNat ++ leBytes 8 c.tet.recv) with tet.hbAt := c.now }

/-! Updates and resync as the standby takes them (R402). -/

/-- A record needs bytes of host memory at its ADDR: a rule row or a patch image. -/
def needsRow (d : Desc) : Bool := (d.op == 2 && d.table.val == 12) || d.op == 0x10

/-- A change of the learn engine, in its own slot. -/
def lrnRecord (c : Chip) (d : Desc) : Chip :=
  let s := d.slot.val
  let e := d.data.toNat % 2 ^ 128
  let c0 := if c.slotState s = sFree then (c.wrN (Reg.UPD_SLOT s) 0).setSlot s sOpen else c
  if s < 252 then c
  else if d.op = 2 then (c0.emWrite s [e]).1
  else if d.op = 3 then (c0.emDelete s [e]).1
  else if d.op = 4 then
    let c1 := c0.setSlot s sClosed
    match c1.lrnNext s with
    | some t => c1.setF Reg.LRN_STATUS Fd.LRN_STATUS_SLOT t
    | none => c1
  else if d.op = 6 then c.requestFlip
  else c

/-- The effect of a descriptor at the standby; a CLOSE or an ABORT comes to its end at once, since the model's writes have. -/
def mirrorAct (d : Desc) (row : List Byte) (c : Chip) (x : Compl) : Chip :=
  match d.op.toNat with
  | 0 => c.complete x
  | 1 => c.actOpen x
  | 2 => actChange d row false c x
  | 3 => actChange d [] true c x
  | 4 => opCloseComplete d.slot.val (c.actClose x)
  | 5 => opAbortDone d.slot.val (c.actAbort x)
  | 6 => c.actCommit x
  | _ => actPatch d row c x

/-- Records of an UPDATE in order; rows gives the rows and images that records need. The first descriptor of a ring after a resync
sets its LAST (R383). -/
def updRecords : List (Desc × Nat × Nat) → List (List Byte) → Chip → Chip
  | [], _, c => c
  | (d, p, r) :: l, rows, c =>
    let row := if needsRow d then rows.headD [] else []
    let rest := if needsRow d then rows.tail else rows
    if r = 15 then updRecords l rest (c.lrnRecord d)
    else if 4 ≤ r then updRecords l rest c
    else
      let c1 := if (c.ringHist p r).isEmpty && decide (c.ringLast p r + 1 < d.seq.toNat) then c.setLast p r (d.seq.toNat - 1) else c
      updRecords l rest (c1.applySeq true p r d (mirrorAct d row))

/-- An engine that takes its tables from the active. -/
def follows (c : Chip) : Bool := c.role == roleStandby || c.role == roleSyncing

/-- A numbered message: applied in order, else counted; what has been received is acknowledged (R402). none: it waits. -/
def tetNumbered (c : Chip) (m : TetMsg) (act : Chip → Option Chip) : Chip :=
  if !c.follows then c
  else if m.tseq.toNat ≠ c.tet.recv + 1 then (c.bump (Reg.TET_CNT 4) 1).sendTet tetAck c.roleGen 0 (leBytes 8 c.tet.recv)
  else
    match act c with
    | none => c
    | some c1 => { c1 with tet.recv := m.tseq.toNat }.sendTet tetAck c.roleGen 0 (leBytes 8 m.tseq.toNat)

/-- UPDATE (R402). -/
def opTetUpdate (m : TetMsg) (rows : List (List Byte)) (c : Chip) : Chip :=
  c.tetTake m (fun c => c.tetNumbered m (fun c => some (updRecords (bodyRecords m.body) rows c)))

/-- ACK (R402). -/
def opTetAck (m : TetMsg) (c : Chip) : Chip := c.tetTake m (fun c => c.ackTo (leNat (slice m.body 0 8)))

/-- TETHER_RETRANSMIT (R402). -/
def opTetherRetransmit (c : Chip) : Chip :=
  if c.tet.unacked.isEmpty || decide (c.now < c.tet.progressAt + 50 * usPs) || c.role != roleActive then c
  else
    let c1 := c.tet.unacked.foldl (fun c x => c.sendTet x.2.1 c.roleGen x.1 x.2.2) c
    { c1.bump (Reg.TET_CNT 3) c.tet.unacked.length with tet.progressAt := c.now }

/-- The transaction of a resync; at its start every entry is deleted in it. none while a slot or an entry is not free. -/
def resyncOpen (c : Chip) : Option (Chip × Nat) :=
  match c.tet.resyncSlot with
  | some s => some (c, s)
  | none =>
    match (List.range 252).find? (fun s => c.slotState s == sFree) with
    | none => none
    | some s =>
      match (((c.wrN (Reg.UPD_SLOT s) 0).setSlot s sOpen).deleteAll s ((List.range 64).flatMap (fun p => c.ownEntries p c.epoch))) with
      | none => none
      | some c1 => some ({ c1 with tet.resyncSlot := some s }, s)

/-- Records of a RESYNC: its WRITEs, in the resync's transaction, for every parcel. -/
def resyncWrites (s : Nat) : List (Desc × Nat × Nat) → List (List Byte) → Chip → Chip
  | [], _, c => c
  | (d, _, _) :: l, rows, c =>
    let row := if needsRow d then rows.headD [] else []
    let rest := if needsRow d then rows.tail else rows
    match (if d.op = 2 then targetOf d row false else none) with
    | some t => resyncWrites s l rest (c.change s 0 d.table.val false t).1
    | none => resyncWrites s l rest c

/-- RESYNC (R402): the last chunk closes the transaction and asks for its flip. -/
def opTetResyncChunk (m : TetMsg) (rows : List (List Byte)) (c : Chip) : Chip :=
  c.tetTake m (fun c => c.tetNumbered m (fun c =>
    match c.resyncOpen with
    | none => none
    | some (c1, s) =>
      let c2 := resyncWrites s (bodyRecords m.body) rows c1
      some (if m.last then (c2.setSlot s sClosed).requestFlip else c2)))

/-! Swap (R403). -/

/-- The partner is heard and its tables agree with the active's. -/
def syncedPair (c : Chip) : Bool :=
  c.partner && ((c.role == roleActive && c.tet.partnerSynced
      && c.fld Reg.TET_STATUS Fd.TET_STATUS_PARTNER_ROLE == roleStandby)
    || (c.role == roleStandby && c.tet.synced))

/-- A swap runs from now. -/
def swapStart (c : Chip) : Chip := { c.setF Reg.TET_STATUS Fd.TET_STATUS_SWAP_PENDING 1 with tet.swap := some (c.tet.swap.getD c.now) }

/-- SWAP_REQ (R403). -/
def opTetSwapReq (m : TetMsg) (c : Chip) : Chip :=
  c.tetTake m (fun c =>
    if c.role == roleActive && c.syncedPair then { c.swapStart with tet.peerSwap := true }.swapGoOn else c)

/-- SWAP_GO (R403 step 3). -/
def opTetSwapGo (m : TetMsg) (c : Chip) : Chip :=
  c.tetTake m (fun c =>
    if c.role = roleStandby then
      let n := leNat (slice m.body 0 8)
      let c1 := { c with tet.sent := n, tet.acked := n, tet.unacked := [], tet.synced := true, tet.partnerSynced := true,
                         tet.resync := none }
      let c2 := (c1.setRole roleActive ((c.roleGen + 1) % 65536)).bump (Reg.TET_CNT 5) 1
      (c2.sendTet tetSwapDone c2.roleGen 0 []).swapOver
    else c)

/-- SWAP_DONE of the Tether (R403). -/
def opTetherSwapDone (m : TetMsg) (c : Chip) : Chip :=
  c.tetTake m (fun c => if c.tet.swap.isSome && c.role == roleStandby then c.swapOver else c)

/-- The SWAP operation (R403, R406). -/
def actTetSwap (c : Chip) (_ : List Nat) : Chip × Option (Nat × List Nat) :=
  if !c.syncedPair then (c, some (2, []))
  else
    let c1 := { c.swapStart with tet.ownSwap := true }
    if c.role = roleStandby then (c1.sendTet tetSwapReq c1.roleGen 0 [], none) else (c1.swapGoOn, none)

/-- TET_SWAP. -/
def opTetSwap (rq : Req) (tag : BitVec 16) (c : Chip) : Chip := c.mbxRun rq tag .tet 1 actTetSwap

/-- The RESYNC operation (R406). -/
def actTetResync (c : Chip) (_ : List Nat) : Chip × Option (Nat × List Nat) :=
  if c.role = roleStandby ∧ c.partner = true then (c.wantResync, none) else (c, some (2, []))

/-- TET_RESYNC. -/
def opTetResync (rq : Req) (tag : BitVec 16) (c : Chip) : Chip := c.mbxRun rq tag .tet 2 actTetResync

/-! Partner loss (R401, R404). -/

/-- The transaction of a resync is given up. -/
def dropResync (c : Chip) : Chip :=
  match c.tet.resyncSlot with
  | some s => { (c.removeSlot s).wrN (Reg.UPD_SLOT s) 0 with tet.resyncSlot := none }
  | none => c

/-- What a lost partner means for the own role. -/
def lostPartner (c : Chip) : Chip :=
  let c0 := (c.swapFail 2).mbxEnd .tet 2 []
  let c1 := { c0 with
    tet.resync := none, tet.unacked := [], tet.acked := c.tet.sent, tet.partnerSynced := false, tet.aloneAt := c.now }
  if c.role = roleStandby then
    ({ c1.dropResync with tet.synced := true }.setRole roleActive ((c.roleGen + 1) % 65536)).bump (Reg.TET_CNT 6) 1
  else if c.role = roleActive then c1.releaseHeld c.tet.sent
  else if c.role = roleSyncing then
    { (c1.dropResync.setRole roleNone c.roleGen).report 0x08 0 0x19 outReported with tet.dead := true }
  else c1

/-- PARTNER_LOSS (R404). -/
def opPartnerLoss (c : Chip) : Chip :=
  match c.tet.heard with
  | some t =>
    if c.partner && c.coreServes 3
        && decide (t + c.fld Reg.TET_CFG Fd.TET_CFG_HB_MISS * c.fld Reg.TET_CFG Fd.TET_CFG_HB_US * usPs ≤ c.now) then
      { ((c.setF Reg.TET_STATUS Fd.TET_STATUS_PARTNER 0).setF Reg.TET_STATUS Fd.TET_STATUS_LINK 0) with tet.heard := none }.lostPartner
    else c
  | none => c

/-- ALONE_TIMEOUT (R401). -/
def opAloneTimeout (c : Chip) : Chip :=
  if c.on Reg.TET_CTRL Fd.TET_CTRL_EN && c.role == roleNone && !c.partner && !c.tet.dead && c.coreServes 3
      && decide (c.tet.aloneAt + c.fld Reg.TET_CFG2 Fd.TET_CFG2_ALONE_MS * msPs ≤ c.now) then
    { c with tet.synced := true }.setRole roleActive ((c.roleGen + 1) % 65536)
  else c

end Chip

/-! The meanings. -/

/-- HEARTBEAT. -/
def execHeartbeat (msg : TetMsg) (s : State) : Host.Outcome State Fault Refusal := runChip s (Chip.opHeartbeat msg)

/-- HEARTBEAT_SEND. -/
def execHeartbeatSend (s : State) : Host.Outcome State Fault Refusal := runChip s Chip.opHeartbeatSend

/-- UPDATE. -/
def execTetUpdate (msg : TetMsg) (rows : List (List Byte)) (s : State) : Host.Outcome State Fault Refusal :=
  runChip s (Chip.opTetUpdate msg rows)

/-- ACK. -/
def execTetAck (msg : TetMsg) (s : State) : Host.Outcome State Fault Refusal := runChip s (Chip.opTetAck msg)

/-- TETHER_RETRANSMIT. -/
def execTetherRetransmit (s : State) : Host.Outcome State Fault Refusal := runChip s Chip.opTetherRetransmit

/-- SWAP_REQ. -/
def execTetSwapReq (msg : TetMsg) (s : State) : Host.Outcome State Fault Refusal := runChip s (Chip.opTetSwapReq msg)

/-- SWAP_GO. -/
def execTetSwapGo (msg : TetMsg) (s : State) : Host.Outcome State Fault Refusal := runChip s (Chip.opTetSwapGo msg)

/-- TETHER_SWAP_DONE. -/
def execTetherSwapDone (msg : TetMsg) (s : State) : Host.Outcome State Fault Refusal := runChip s (Chip.opTetherSwapDone msg)

/-- RESYNC. -/
def execTetResyncChunk (msg : TetMsg) (rows : List (List Byte)) (s : State) : Host.Outcome State Fault Refusal :=
  runChip s (Chip.opTetResyncChunk msg rows)

/-- PARTNER_LOSS. -/
def execPartnerLoss (s : State) : Host.Outcome State Fault Refusal := runChip s Chip.opPartnerLoss

/-- ALONE_TIMEOUT. -/
def execAloneTimeout (s : State) : Host.Outcome State Fault Refusal := runChip s Chip.opAloneTimeout

/-- TET_SWAP. -/
def execTetSwap (rq : Req) (tag : BitVec 16) (s : State) : Host.Outcome State Fault Refusal :=
  runChip s (Chip.opTetSwap rq tag)

/-- TET_RESYNC. -/
def execTetResync (rq : Req) (tag : BitVec 16) (s : State) : Host.Outcome State Fault Refusal :=
  runChip s (Chip.opTetResync rq tag)

end Sys2Proof.Machine
end

