-- ==== Sys2Proof/Machine/Restart.lean ====
section
/-!
DEFINITION. The BKP domain's copies (R80, R81), the start of boot phase B1 (R86), what a restart keeps and clears (R78), the
priority of simultaneous sources (R77), and the Plain profile's hold (R76).
-/

namespace Sys2Proof.Machine

/-- Registers held in the BKP domain (R80, R99, R373). -/
def isBkp (k : Nat) : Bool :=
  k == Reg.RST_CAUSE || (decide (0x10010 ≤ k) && decide (k < 0x1002C)) || k == Reg.RST_RESTART || k == Reg.BOOT_SLOT_PREF
    || k == Reg.PWR_RTC_ALARM_LO || k == Reg.PWR_RTC_ALARM_HI || k == Reg.PWR_RTC_CTRL

/-- A source that restarts boot at B0 (R75). -/
def atB0 (code : Nat) : Bool := code == 0 || code == 5 || code == 6

/-- Source a wins over source b (R77). -/
def beats (a b : Nat) : Bool := if atB0 a = atB0 b then decide (a < b) else atB0 a

namespace Chip

/-- The value of a register in the BKP domain. -/
def inBkp (c : Chip) (k : Nat) : Word := mget regDefault c.bkp k

/-- Hardware writes a BKP-held field: the shadow, the domain's copy, and what is on its way there. -/
def setBkpF (c : Chip) (k : Nat) (f : BF) (v : Nat) : Chip :=
  { c.setF k f v with
    bkp := mset regDefault c.bkp k (bfSet f (c.inBkp k) v),
    bkpPend := c.bkpPend.map (fun x => if x.1 = k then (k, bfSet f x.2 v) else x) }

/-- Software writes a BKP-held register: the shadow at once, the domain when the handshake completes (R81, log 45). -/
def postBkp (c : Chip) (k : Nat) (v : Word) : Chip := { c with bkpPend := c.bkpPend ++ [(k, v)] }

/-- B1 begins: the straps are sampled, WAKE_OUT goes low, and the flash is reset (R35 to R38, R83). -/
def enterB1 (c : Chip) : Chip :=
  { (c.setF Reg.RST_RESTART Fd.RST_RESTART_BACKOFF 0).setBkpF Reg.RST_CAUSE Fd.RST_CAUSE_PROFILE (b2n c.pins.straps.rstprof) with
    boot.phase := 1, boot.phaseStart := c.now, pins.testmode := c.pins.straps.testmode, pins.slotId := c.pins.straps.slotId.val,
    pins.wakeOut := false, pins.xspiReset := false }

/-- B1 starts, or the wait that precedes it from the 17th start on (R86). -/
def startB1 (c : Chip) : Chip :=
  let n := min (c.fld Reg.RST_RESTART Fd.RST_RESTART_RUN + 1) 0xFFFF
  let c1 := c.setBkpF Reg.RST_RESTART Fd.RST_RESTART_RUN n
  if 17 ≤ n then
    { c1.setF Reg.RST_RESTART Fd.RST_RESTART_BACKOFF 1 with boot.phase := 6, boot.waitEnd := c.now + 100 * msPs }
  else c1.enterB1

/-- SUPPLY_GOOD and RESET_N let B1 start (R42). -/
def b1Free (c : Chip) : Bool := c.pins.supplyGood && c.pins.resetN

/-- B0 ends, and B1 starts, once it has done its work and SUPPLY_GOOD and RESET_N are high; a restart at B1 waits for them alike
(R42, R83, log 117). -/
def tryB1 (c : Chip) : Chip := if c.boot.phase = 0 ∧ c.boot.trimmed = true ∧ c.boot.causes = [] ∧ c.b1Free = true then c.startB1 else c

/-- The last reset, where a source became active in the present AON cycle (R77). -/
def sameCycle (c : Chip) : Option LastReset := c.boot.lastReset.filter (fun r => r.cycle == c.now / 10000)

/-- The chip as a further source of the same AON cycle is judged: the phase, profile, test mode and trim that the first source met (R77). -/
def asBefore (c : Chip) : Chip :=
  match c.sameCycle with
  | some r =>
    { c.setF Reg.BOOT_STATUS Fd.BOOT_STATUS_SLOT r.slot with
      boot.phase := r.phase, boot.phaseStart := r.phaseStart, boot.trimmed := r.trimmed, pins.testmode := r.test }
  | none => c

/-- The registers that a restart keeps: those of BKP (BACKOFF is none of them) and the fuse shadow; PWR_DOM keeps TRIPS, and STATE 5
where the domain tripped twice within 1 s, until a restart at B0 (R78, R80, R367); the journal's status describes the journal. -/
def keptRegs (c : Chip) (code : Nat) : NMap Word :=
  let r := c.setF Reg.RST_RESTART Fd.RST_RESTART_BACKOFF 0
  let l := r.regs.filter (fun x => isBkp x.1 || x.1 == Reg.BOOT_FUSE || x.1 == Reg.FLT_JRN_STATUS)
  if atB0 code then l
  else
    (List.range 117).foldl (fun m d =>
      mset regDefault m (Reg.PWR_DOM d) (BitVec.ofNat 32 (c.fld (Reg.PWR_DOM d) Fd.PWR_DOM_TRIPS * 2 ^ 8
        + if c.pwr.stuck.contains d then 5 else 0))) l

/-- The chip after a restart has cleared it (R78). -/
def wiped (c : Chip) (code : Nat) : Chip :=
  { Chip.reset with
    out := c.out, freeCtr := c.freeCtr, now := c.now, bkp := c.bkp,
    bkpPend := if code = 0 then [] else c.bkpPend,
    regs := c.keptRegs code,
    time.rtc := c.time.rtc, time.rtcAcc := c.time.rtcAcc,
    pins := { c.pins with cxlPerst0 := false, cxlPerst1 := false, ppsOut := false, xspiReset := false },
    boot.trimmed := c.boot.trimmed && !atB0 code,
    boot.bkpLost := c.boot.bkpLost,
    boot.causes := [], boot.arrived := c.boot.phase, boot.torn := c.boot.torn,
    boot.lastReset := some ⟨c.now / 10000, code, c.boot.phase, c.boot.phaseStart, c.fld Reg.BOOT_STATUS Fd.BOOT_STATUS_SLOT, c.plain,
      c.pins.testmode, c.boot.trimmed, c.pins.wakeOut, c.fld Reg.RST_RESTART Fd.RST_RESTART_RUN⟩,
    flt.journal := c.flt.journal, flt.jrnSeq := c.flt.jrnSeq, flt.jrnNext := c.flt.jrnNext,
    flt.jrnCredit := c.flt.jrnCredit, flt.jrnAt := c.flt.jrnAt,
    pwr.tripAt := if atB0 code then [] else c.pwr.tripAt,
    pwr.stuck := if atB0 code then [] else c.pwr.stuck,
    pwr.stowed := c.pwr.stowed && code == 0 }

/-- Journal writes that end before the reset takes effect: the one in progress at power-off (R43), else all (log 46). -/
def flushJournal : Nat → Chip → Chip
  | 0, c => c
  | n + 1, c => flushJournal n c.opJournalWrite

/-- RST_COUNT of a source (R80). -/
def countReset (c : Chip) (code : Nat) : Chip :=
  c.setBkpF (Reg.RST_COUNT code) Fd.RST_COUNT_COUNT (min (c.fld (Reg.RST_COUNT code) Fd.RST_COUNT_COUNT + 1) 0xFFFF)

/-- RST_CAUSE and RST_COUNT of the reset that arrived (R80, R81). -/
def recordReset (c : Chip) (code : Nat) : Chip :=
  ((c.setBkpF Reg.RST_CAUSE Fd.RST_CAUSE_LAST code).setBkpF Reg.RST_CAUSE Fd.RST_CAUSE_PHASE c.boot.arrived).countReset code

/-- The AON shadow is loaded from BKP again: writes that had not arrived are lost (R81). -/
def reloadShadow (c : Chip) : Chip :=
  { c with regs := c.bkp.foldl (fun m x => mset regDefault m x.1 x.2) (c.regs.filter (fun x => !isBkp x.1)) }

/-- The chip restarts for one source: cleared, recorded (a power-on reset, and one that arrives before the AON trim, in the B0 that
follows), and at its phase (R75, R78, R81). -/
def restarted (c : Chip) (code : Nat) : Chip :=
  let c1 := (flushJournal (if code = 0 then 1 else c.flt.jrnQ.length) c).wiped code
  if code = 0 then { c1.reloadShadow with boot.causes := c.boot.causes.filter (fun x => x != 0) ++ [0] }
  else if c.boot.phase = 0 ∧ c.boot.trimmed = false ∧ c.boot.causes ≠ [] then { c1 with boot.causes := c.boot.causes ++ [code] }
  else
    let c2 := c1.recordReset code
    if atB0 code then c2 else c2.tryB1

/-- The B1 that the first source of a cycle began has not begun (R77). -/
def undoB1 (c : Chip) (r : LastReset) : Chip :=
  if c.boot.phase = 0 then c
  else
    let c1 := (c.setBkpF Reg.RST_RESTART Fd.RST_RESTART_RUN r.run).setF Reg.RST_RESTART Fd.RST_RESTART_BACKOFF 0
    { c1.setBkpF Reg.RST_CAUSE Fd.RST_CAUSE_PROFILE (b2n r.plain) with boot.phase := 0, pins.wakeOut := r.wake }

/-- A second source in the same AON cycle: it is counted, and it takes the place of the first if it wins (R77). -/
def alsoReset (c : Chip) (code : Nat) (r : LastReset) : Chip :=
  let c0 := if (atB0 code && !atB0 r.code) || !c.b1Free then c.undoB1 r else c
  if beats code r.code then
    let c1 := { c0 with boot.lastReset := some { r with code := code } }
    let c2 := if atB0 code then
        { c1 with boot.trimmed := false, pwr.tripAt := [], pwr.stuck := [], regs := c1.keptRegs code } else c1
    if code = 0 then { { c2 with bkpPend := [] }.reloadShadow with boot.causes := [0] }
    else (c2.setBkpF Reg.RST_CAUSE Fd.RST_CAUSE_LAST code).countReset code
  else if code = r.code then c0
  else c0.countReset code

/-- The Plain profile holds a reset of codes 2, 3 and 6: quench, FAULT_N held, a journal record of unit 0x01, no forwarding
(R76, R327). -/
def holdPlain (c : Chip) : Chip :=
  let c1 := (c.report 0x01 0 0x15 outCritical).startQuench.assertFaultn true
  { c1 with boot.plainHold := true }

end Chip

/-- Every memory byte of HBM is lost; the devices on the extension ports keep theirs (R78). -/
def Store.lostHbm (m : Store) : Store := { m with mem := m.mem.filter (fun x => decide (2 ^ 60 ≤ x.1)) }

/-- The bytes of HBM that lie in stack k are lost: 256-byte block b of a page lies in stack b mod 4 (R78, R277). -/
def Store.lostStack (m : Store) (k : Nat) : Store :=
  { m with mem := m.mem.filter (fun x => decide (2 ^ 60 ≤ x.1) || x.1 / 256 % 4 != k) }

/-- A reset source becomes active (R75 to R79): the transmitters are quenched before it takes effect. Under the Plain profile a source that is held in the cycle of a reset ends with it. -/
def Chip.resetSource (code : Nat) (m : Store) (c : Chip) : Store × Chip :=
  match c.sameCycle with
  | some r => if r.plain && decide (2 ≤ code) then (m, c) else (m, c.alsoReset code r)
  | none => if c.plain && decide (2 ≤ code) then (m, c.holdPlain) else (m.lostHbm, (c.cutFrames (fun _ => true)).restarted code)

end Sys2Proof.Machine
end

