-- ==== Sys2Proof/Machine/Power.lean ====
section
/-!
DEFINITION. The power sequencer (chapter 15): power states, performance levels, domain switching and draining, the RTC alarm, and
what a domain that loses power takes with it (R347).
-/

namespace Sys2Proof.Machine

def domOff : Nat := 0
def domQueued : Nat := 1
def domRamping : Nat := 2
def domUp : Nat := 3
def domDraining : Nat := 4
def domFailed : Nat := 5
def domRetained : Nat := 6

/-- Domains that an entry into Moored switches off, in order (R360). -/
def mooredOff : List Nat := ((List.range 4).map (111 - ·)) ++ ((List.range 9).map (102 - ·)) ++ ((List.range 89).map (88 - ·))

/-- Domains that an entry into Deflated or Stowed switches off besides (R361). -/
def deflatedOff : List Nat := [89, 90, 91, 92, 93, 103, 112, 113, 114, 115, 116]

/-- Domains at retention or in self-refresh while Moored (R356, R360). -/
def mooredKept : List Nat := [89, 90, 91, 92, 93, 103, 104, 105, 106, 107]

/-- Domains that change only with the power state (R368). -/
def stateDom (d : Nat) : Bool := (decide (102 ≤ d) && decide (d ≤ 107)) || d == 114 || d == 115

/-- Nominal voltage of a level in mV (R364). -/
def levelMv (l : Nat) : Nat := [780, 720, 660, 600].getD l 780

/-- The outcome of R347 for a domain. -/
def domOutcome (d : Nat) : Nat :=
  if d < 72 then if d % 9 = 8 then outReported else outDegraded
  else if d < 80 then outReported
  else if d = 88 ∨ d = 93 then outReported
  else if d < 102 then outDegraded
  else if d < 104 then outCritical
  else if d < 112 then outDegraded
  else outReported

namespace Chip

/-- PWR_STATUS.STATE (R373). -/
def pwrState (c : Chip) : Nat := c.fld Reg.PWR_STATUS Fd.PWR_STATUS_STATE

/-- Move a domain. -/
def setDom (c : Chip) (d st : Nat) : Chip := c.setF (Reg.PWR_DOM d) Fd.PWR_DOM_STATE st

/-- Fence, or unfence, the ports of a domain (R369). -/
def setFence (c : Chip) (d : Nat) (b : Bool) : Chip := c.setF (Reg.PWR_DOM d) Fd.PWR_DOM_FENCED (b2n b)

/-- The lane-quad domains. -/
def quads : List Nat := (List.range 72).filter (fun d => d % 9 != 8)

/-- TRANS shows an entry, an exit or a level change (R373). -/
def showTrans (c : Chip) : Chip :=
  c.setF Reg.PWR_STATUS Fd.PWR_STATUS_TRANS (b2n (c.pwr.entry.isSome || c.pwr.exiting || c.pwr.change.isSome))

/-- The running operation of the PWR mailbox ends, if it is op. -/
def pwrEnd (c : Chip) (op code : Nat) : Chip :=
  if c.mbx.any (fun o => decide (o.mbx = .pwr) && o.op == op && o.ready.isNone) then c.mbxEnd .pwr code [] else c

/-- The running operation of the PWR mailbox on domain d ends, if it is op (R374). -/
def pwrEndDom (c : Chip) (op d code : Nat) : Chip :=
  if c.mbx.any (fun o => decide (o.mbx = .pwr) && o.op == op && o.ready.isNone && o.args.headD 0 % 128 == d) then
    c.mbxEnd .pwr code [] else c

/-- PWR_LAST_REFUSE of a request kind (R371). -/
def lastRefuse (c : Chip) (k : Nat) (abort : Bool) (unit reason : Nat) : Chip :=
  c.wrN (Reg.PWR_LAST_REFUSE k) (b2n abort * 2 ^ 31 + unit * 2 ^ 16 + reason * 2 ^ 8)

/-- A refusal or abort of ENTER t or DOMAIN_OFF (kind 3) is accounted (R371). -/
def account (c : Chip) (k : Nat) (abort : Bool) (unit reason : Nat) : Chip :=
  let c1 := (c.bump (Reg.PWR_CNT (2 * k + b2n abort)) 1).lastRefuse k abort unit reason
  if k < 3 then c1.report 0x03 0 0x19 outReported else c1

/-! What a domain that goes off takes with it. -/

/-- Registers of domain d, with the copies of them that packets use. -/
def loseRegs (c : Chip) (d : Nat) : Chip :=
  let f := fun (m : NMap Word) => m.filter (fun x => domOfAddr x.1 != some d)
  { c with regs := f c.regs, active := f c.active, prev := f c.prev,
           ctrs := if 72 ≤ d ∧ d < 80 then c.ctrs.filter (fun x => domOfAddr x.1 != some d) else c.ctrs }

/-- What the host interface holds beside registers (R356). -/
def hostLost (c : Chip) : Chip :=
  { c with hif := Hif.reset, upd.hist := [],
           mbx := c.mbx.filter (fun o => match o.mbx with
             | .vf _ _ => false
             | _ => true),
           latches := c.latches.filter (fun x => x.rq.priv) }

/-- State beside registers that lies in domain d. -/
def loseState (c : Chip) (d : Nat) : Chip :=
  if 72 ≤ d ∧ d < 80 then
    { c with pnl.ports := c.pnl.ports.filter (fun x => x.1 / 32 != d - 72),
             pnl.txEnd := c.pnl.txEnd.filter (fun x => x.1 / 32 != d - 72),
             pnl.spares := c.pnl.spares.filter (fun x => x.1 / 2 != d - 72) }
  else if d < 72 ∧ d % 9 = 8 then { c with pnl.spares := c.pnl.spares.filter (fun x => x.1 / 2 != d / 9) }
  else if 80 ≤ d ∧ d < 89 then c.flushSlice (d - 80)
  else if d = 102 then { c with tm := { Tm.reset with polAt := c.tm.polAt } }
  else if 104 ≤ d ∧ d < 108 then
    { c with hbm.backed := c.hbm.backed.erase (d - 104), hbm.backQ := mdel c.hbm.backQ (d - 104) }.dropBanks (d - 104)
  else if d = 114 then c.hostLost
  else if d = 116 then { c with dtm := Dtm.reset }
  else c

/-- Domain d is switched off. -/
def switchOff (c : Chip) (d : Nat) : Chip := ((c.loseState d).loseRegs d).setDom d domOff

/-- Every record in HBM is lost (R347). -/
def loseRecords (c : Chip) : Chip := (c.bpm.copies.filter (fun x => decide (x.place = .hbm))).foldl (loseRecord 0) c

/-- What follows for the function of domain d (R347); the domain is still in the state in which the fault met it. -/
def powerFault (c : Chip) (d : Nat) : Chip :=
  if d < 72 then
    if d % 9 = 8 then c
    else
      (List.range 32).foldl (fun c j =>
        let n := 32 * (d / 9) + j
        (List.range (c.pWidth n)).foldl (fun c l => if (j + l) / 4 = d % 9 then c.opFailureTrigger n l else c) c) c
  else if d < 80 then (List.range 32).foldl (fun c j => c.linkDown (32 * (d - 72) + j) 0x0C outReported) c
  else if d < 88 then c.sliceFaults [⟨d - 80, 0, false, false⟩]
  else if d = 88 then if (c.panelOf 8).isSome then c.sliceFaults [⟨8, 0, false, false⟩] else c
  else if d < 93 then c.storeFail (d - 89)
  else if d = 93 then if (c.panelOf 8).isSome then c.sliceFaults [⟨8, 3, true, false⟩] else c
  else if d < 102 then c.setFBit Reg.BPM_CELL_CFG Fd.BPM_CELL_CFG_GROUP_EN (d - 94) false
  else if d < 104 then { c.startQuench.assertFaultn true with boot.plainHold := true }
  else if d < 108 then c.loseRecords
  else if 112 ≤ d ∧ d < 114 then c.xmLinkDown (d - 112)
  else c

/-- A domain's rail fails, or its current limit trips: recorded, handled, switched off (R347). -/
def domainFault (c : Chip) (d st : Nat) : Chip :=
  (((c.collect 0x03 0 0x10 (domOutcome d) d).powerFault d).switchOff d).setDom d st

/-! Soft start (R366, R367). -/

/-- Domains that are ramping. -/
def ramping (c : Chip) : Nat := ((List.range 117).filter (fun d => c.domState d == domRamping)).length

/-- A request may start now. -/
def mayStart (c : Chip) : Bool :=
  decide (c.ramping < c.fld Reg.PWR_CFG Fd.PWR_CFG_INRUSH_MAX)
    && (c.pwr.lastStart == 0 || decide (c.pwr.lastStart + c.fld Reg.PWR_CFG Fd.PWR_CFG_INRUSH_GAP * usPs ≤ c.now))

/-- Domain d is requested; a request that has to wait is counted. -/
def request (c : Chip) (d : Nat) : Chip :=
  let waits := !c.pwr.queue.isEmpty || !c.mayStart
  let c1 := if waits then c.bump (Reg.PWR_CNT 11) 1 else c
  { c1.setDom d domQueued with pwr.queue := c1.pwr.queue ++ [(⟨d, waits⟩ : DomReq)] }

/-- RAMP_START (R366). -/
def opRampStart (c : Chip) : Chip :=
  match c.pwr.queue with
  | [] => c
  | r :: l => if c.mayStart then { c.setDom r.dom domRamping with pwr.queue := l, pwr.lastStart := c.now } else c

/-! Entry into a state (R357 to R361). -/

/-- Some software slot is OPEN, CLOSED, FAILED or ABORTING (R359). -/
def softSlotBusy (c : Chip) : Bool :=
  (List.range 252).any (fun s => [sOpen, sClosed, sFailed, sAborting].contains (c.slotState s))

/-- The block whose migration, rehash or load runs (R359, R371). -/
def busyUnit (c : Chip) : Option Nat :=
  match (List.range 4).find? (fun k => c.on (Reg.MEM_STATUS k) Fd.MEM_STATUS_MIGRATING) with
  | some k => some (0x0C + k)
  | none =>
    if c.upd.rehash.isSome then some 0x3E
    else
      match c.upd.loads with
      | [] => none
      | l :: _ => match l.pat with | (e, _) :: _ => some (0x38 + e) | [] => some 0x3E

/-- Why ENTER t is refused: reason and unit (R359, R371). -/
def enterCheck (c : Chip) (t : Nat) : Option (Nat × Nat) :=
  if c.boot.phase ≠ 7 ∨ c.pwr.entry.isSome = true ∨ c.pwr.exiting = true ∨ ¬ (c.pwrState = 0 ∨ (c.pwrState = 1 ∧ t ≠ 1)) then some (0x01, 0x03)
  else if c.softSlotBusy then some (0x02, 0x3E)
  else if c.on Reg.FLT_TKO_STATUS Fd.FLT_TKO_STATUS_ACTIVE then some (0x03, 0x04)
  else
    match c.busyUnit with
    | some u => some (0x05, u)
    | none =>
      if c.pwr.change.isSome then some (0x06, 0x03)
      else if c.pagesFree < (Config.saveAreaPages t).val then some (0x0C, 0x12)
      else none

/-- The ENTER operation: refused, or every port is fenced and the entry runs (R359, R360). -/
def actEnter (c : Chip) (args : List Nat) : Chip × Option (Nat × List Nat) :=
  let t := args.getD 0 0 % 4
  if t = 0 then (c, some (1, []))
  else
    match c.enterCheck t with
    | some (reason, unit) => (c.account (t - 1) false unit reason, some (2, []))
    | none =>
      let c1 := quads.foldl (fun c d => c.setFence d true) c
      ({ c1 with pwr.entry := some ⟨t, args.getD 1 0 % 2 == 1, c.now, c.pwrState == 1, false⟩ }.showTrans, none)

/-- ENTER (R360, R374). -/
def opEnter (rq : Req) (tag : BitVec 16) (c : Chip) : Chip := c.mbxRun rq tag .pwr 1 actEnter

/-- Nothing is queued or in a slice any more (R360 steps 1 to 3). -/
def drained (c : Chip) : Bool :=
  c.pipe.bridle.isEmpty && c.pipe.heads.isEmpty && c.pipe.injQ.isEmpty && c.pipe.recircQ.isEmpty && c.pipe.patQ.isEmpty && c.pipe.replQ.isEmpty
    && c.bpm.copies.isEmpty && c.bpm.txq.isEmpty

/-- Every learn slot is FREE. -/
def learnIdle (c : Chip) : Bool := [252, 253, 254, 255].all (fun s => c.slotState s == sFree)

/-- Ports with EN 1 are disabled; EN is kept for the exit (R360). -/
def parkPorts (c : Chip) : Chip :=
  (List.range 256).foldl (fun c n =>
    if c.on (Reg.PORT_CTRL n) Fd.PORT_CTRL_EN then (c.portDisable n).setF (Reg.PORT_CTRL n) Fd.PORT_CTRL_EN 1 else c) c

/-- Ports whose EN is 1 are enabled (R362). -/
def unparkPorts (c : Chip) : Chip :=
  (List.range 256).foldl (fun c n =>
    if c.on (Reg.PORT_CTRL n) Fd.PORT_CTRL_EN then (c.setF (Reg.PORT_CTRL n) Fd.PORT_CTRL_EN 0).portEnable n else c) c

/-- The fences are lifted; a domain that is off keeps its own (R362, R369). -/
def liftFences (c : Chip) : Chip := quads.foldl (fun c d => if c.domOn d then c.setFence d false else c) c

/-- Head cells waiting in the slices' caches go back (R360: the packet SRAM goes off). -/
def emptyCaches (c : Chip) : Chip :=
  let l := c.pipe.headCache.flatMap (·.2)
  { l.foldl freeCell c with pipe.headCache := [] }

/-- Registers of the domains of a list go to the register save area (R360, R361). -/
def saveRegs (c : Chip) (ds : List Nat) : Chip :=
  let mine := fun (x : Nat × Word) => match domOfAddr x.1 with | some d => ds.contains d | none => false
  let a := c.pwr.save.getD ⟨[], [], []⟩
  { c with pwr.save := some { a with regs := (c.regs.filter mine).foldl (fun m x => mput m x.1 x.2) a.regs },
           regs := c.regs.filter (fun x => !mine x) }

/-- The save area takes n pages (R360). -/
def takeSave (c : Chip) (n : Nat) : Chip :=
  let r := takePages n c 0 (c.ownerOf 0x03 0) []
  let a := c.pwr.save.getD ⟨[], [], []⟩
  { r.1 with pwr.save := some { a with pages := a.pages ++ r.2 } }

/-- The save area's pages are freed. -/
def freeSave (c : Chip) : Chip :=
  match c.pwr.save with
  | some a => { a.pages.foldl freePage c with pwr.save := none }
  | none => c

/-- Domains of a list that are on go off, remembered for the exit (R360, R362). -/
def offForState (c : Chip) (ds : List Nat) : Chip :=
  let up := ds.filter c.domOn
  { up.foldl (fun c d => c.setDom d domOff) c with pwr.entryOff := c.pwr.entryOff ++ up }

/-! Leaving a state (R362, R363). -/

/-- Registers and counters come back for the domains that are on (R362, R363). -/
def restoreRegs (c : Chip) : Chip :=
  match c.pwr.save with
  | none => c
  | some a =>
    let keep := fun (k : Nat) => match domOfAddr k with | some d => c.domOn d | none => true
    { c with regs := (a.regs.filter (fun x => keep x.1)).foldl (fun m x => mset regDefault m x.1 x.2) c.regs,
             ctrs := a.ctrs.foldl (fun m x => mset ctrDefault m x.1 x.2) c.ctrs }

/-- Microcode banks, rule rows and automata come back from the backing region, free of errors (R362). -/
def reloadBacked (c : Chip) : Chip := c.renewLocs false (fun l => decide (l.space < 6))

/-- Aloft again. -/
def nowAloft (c : Chip) : Chip :=
  { (c.setF Reg.PWR_STATUS Fd.PWR_STATUS_STATE 0) with
    pwr.exiting := false, pwr.exitWait := [], pwr.entryOff := [] }.showTrans

/-- The exit from Moored ends once every domain it asked for has ramped or failed (R362). -/
def endExit (c : Chip) : Chip :=
  let c1 := [104, 105, 106, 107].foldl (fun c d => if c.domState d = domRetained then c.setDom d domUp else c) c
  (c1.restoreRegs.reloadBacked.freeSave.liftFences.unparkPorts.nowAloft).pwrEnd 2 0

/-- A domain of an exit has come on or failed; the last ends the exit. In the exit form of boot, B4 looks itself (R363). -/
def exitStep (c : Chip) (d : Nat) : Chip :=
  let c1 := { c with pwr.exitWait := c.pwr.exitWait.filter (fun e => e != d) }
  if c.pwr.exiting && !c.boot.exitForm && c1.pwr.exitWait.isEmpty then c1.endExit else c1

/-- The exit from Moored starts: one wake-up burst in ascending order, the stores at full voltage (R362, R366). -/
def startExit (c : Chip) : Chip :=
  let l := (List.range 117).filter (fun d => c.pwr.entryOff.contains d || (d == 103 && c.domState d == domRetained))
  let c1 := [89, 90, 91, 92, 93].foldl (fun c d => if c.domState d = domRetained then c.setDom d domUp else c) c
  let c2 := { l.foldl request c1 with pwr.exiting := true, pwr.exitWait := l }.showTrans
  if l.isEmpty then c2.endExit else c2

/-- The EXIT operation (R374). -/
def actExit (c : Chip) (_ : List Nat) : Chip × Option (Nat × List Nat) :=
  if c.pwrState = 1 ∧ c.pwr.entry.isNone = true ∧ c.pwr.exiting = false then
    if (c.startExit).pwr.exiting then (c.startExit, none) else (c.startExit, some (0, []))
  else (c, some (2, []))

/-- EXIT (R362). -/
def opExitState (rq : Req) (tag : BitVec 16) (c : Chip) : Chip := c.mbxRun rq tag .pwr 2 actExit

/-- The exit from Deflated: the boot phases run in their exit form (R363). -/
def startDeflatedExit (c : Chip) : Chip := { c.startB1 with boot.exitForm := true, pwr.exiting := true }.showTrans

/-- DEFLATED_EXIT (R357, R363): the rising edge of PERST_N. -/
def opDeflatedExit (c : Chip) : Chip :=
  let c1 := { c with pins.perstN := true }
  if c.pwrState = 2 ∧ c.pwr.exiting = false then c1.startDeflatedExit else c1

/-! The end of an entry. -/

/-- An alarm that the entry held acts (R358). -/
def heldAlarm (c : Chip) (alarm : Bool) : Chip :=
  if !alarm then c
  else if c.pwrState = 1 then c.startExit
  else if c.pwrState = 2 then { c.startDeflatedExit with pins.wakeOut := c.pins.vbat }
  else { c with pins.wakeOut := c.pins.vbat }

/-- The entry ends without the state: every step is undone (R358, R371). From the Moored point the engine leaves Moored. -/
def abortEntry (c : Chip) (e : Entry) (unit reason : Nat) (ports : Bool) : Chip :=
  let c1 := { (c.account (e.target - 1) true unit reason).pwrEnd 1 3 with pwr.entry := none }
  if e.fromMoored then c1.showTrans.startExit
  else if ports then c1.parkPorts.unparkPorts.liftFences.showTrans
  else c1.liftFences.showTrans

/-- Step 4 of R360 for an entry from Aloft. -/
def moor (c : Chip) : Chip :=
  let c1 := ((c.parkPorts.emptyCaches).saveRegs mooredOff).offForState mooredOff
  mooredKept.foldl (fun c d => if c.domOn d then c.setDom d domRetained else c)
    { c1.loseState 102 with pnl := Pnl.reset }

/-- ENTRY_DRAIN_DONE (R360, R361). -/
def opEntryDrainDone (c : Chip) : Chip :=
  match c.pwr.entry with
  | none => c
  | some e =>
    if c.pwr.offAt.isSome || !(e.fromMoored || (c.drained && c.learnIdle && decide (e.start + 4 * usPs ≤ c.now))) then c
    else if c.pagesFree < (Config.saveAreaPages e.target).val then c.abortEntry e 0x12 0x0C false
    else
      let c1 := (if e.fromMoored then c else c.moor).takeSave (Config.saveAreaPages e.target).val
      if e.target = 1 then
        ({ (c1.setF Reg.PWR_STATUS Fd.PWR_STATUS_STATE 1).pwrEnd 1 0 with pwr.entry := none }.showTrans).heldAlarm e.alarm
      else { (c1.saveRegs deflatedOff).pwrEnd 1 0 with pwr.offAt := some c.now }

/-- Counters that lie in the AON domain itself and not in the central counter store. -/
def aonCounter (k : Nat) : Bool := decide (0x30300 ≤ k) && decide (k < 0x30380)

/-- The central counter store goes into the save area and off (R356, R361). -/
def saveCtrs (c : Chip) : Chip :=
  let a := c.pwr.save.getD ⟨[], [], []⟩
  { c with pwr.save := some { a with ctrs := c.ctrs.filter (fun x => !aonCounter x.1) },
           ctrs := c.ctrs.filter (fun x => aonCounter x.1), snapC := [], pmc.copy := none }

/-- DEFLATE_POWER_OFF (R361). -/
def opDeflatePowerOff (c : Chip) : Chip :=
  match c.pwr.entry, c.pwr.offAt with
  | some e, some t =>
    if c.now < t + 10 * msPs then c
    else
      let up := deflatedOff.filter (fun d => c.domOn d || c.domState d == domRetained)
      let c1 := up.foldl (fun c d => c.setDom d domOff) c.saveCtrs.hostLost
      let c2 := { c1.wrN Reg.TET_STATUS 0 with dtm := Dtm.reset, tet := Tet.reset, pwr.entryOff := c.pwr.entryOff ++ up, pwr.entry := none, pwr.offAt := none }
      let c3 := if e.target = 3 then flushJournal c2.flt.jrnQ.length c2 else c2
      ((c3.setF Reg.PWR_STATUS Fd.PWR_STATUS_STATE e.target).showTrans).heldAlarm e.alarm
  | _, _ => c

/-- ENTRY_ABORT (R358, R360): stack k has not confirmed self-refresh, or the queues have not drained in time. -/
def opEntryAbort (k : Option (Fin 4)) (c : Chip) : Chip :=
  match c.pwr.entry with
  | none => c
  | some e =>
    if c.pwr.offAt.isSome || e.fromMoored then c
    else
      match k with
      | some k => if c.drained && c.learnIdle && decide (e.start + 4 * usPs ≤ c.now) then c.abortEntry e (0x0C + k.val) 0x0B true else c
      | none =>
        if !c.drained && decide (e.start + c.fld Reg.PWR_CFG Fd.PWR_CFG_DRAIN_MS * msPs ≤ c.now) then c.abortEntry e 0x13 0x04 false
        else c

/-! RTC (R372, R373). -/

/-- The alarm tick and its enable, as BKP holds them. -/
def alarmTick (c : Chip) : Nat := (c.inBkp Reg.PWR_RTC_ALARM_LO).toNat + (c.inBkp Reg.PWR_RTC_ALARM_HI).toNat % 2 ^ 16 * 2 ^ 32

/-- RTC_ALARM (R38, R358, R372). In Stowed, with VDD_AON off, BKP drives WAKE_OUT; the B1 of an exit from Deflated drives it low again
in BOOT_B1. -/
def opRtcAlarm (c : Chip) : Chip :=
  if bfGet Fd.PWR_RTC_CTRL_ALARM_EN (c.inBkp Reg.PWR_RTC_CTRL) = 1 ∧ c.time.rtc = c.alarmTick then
    let c1 := c.setBkpF Reg.PWR_RTC_CTRL Fd.PWR_RTC_CTRL_ALARM_HIT 1
    match c.pwr.entry with
    | some e => { c1 with pwr.entry := some { e with alarm := true } }
    | none =>
      if c.pwr.stowed then { c1 with pins.wakeOut := c.pins.vbat }
      else if c.pwr.exiting || c.pwrState == 0 then c1
      else c1.heldAlarm true
  else c

/-- RTC_COUNT_WRITE (R372, R373): the count goes to BKP with the last HI written. -/
def opRtcCountWrite (rq : Req) (v : Word) (c : Chip) : Chip :=
  c.regCmd rq Reg.PWR_RTC_LO (fun c =>
    (c.postBkp Reg.PWR_RTC_HI (BitVec.ofNat 32 c.pwr.rtcHi)).postBkp Reg.PWR_RTC_LO v)

/-! Performance levels (R364, R365). -/

/-- The sequencer commands the regulator to a level's setpoint (R40, R364). -/
def setpoint (c : Chip) (l : Nat) : Chip :=
  c.emit (.vout (c.fld (Reg.MBUS_CFG 3) Fd.MBUS_CFG_VRM_ADDR) (levelMv l - 5 * Config.voltOffset.val))

/-- The SET_LEVEL operation: a raise commands the setpoint first (R365). -/
def actSetLevel (c : Chip) (args : List Nat) : Chip × Option (Nat × List Nat) :=
  let new := args.getD 0 0 % 4
  let old := c.fld Reg.PWR_STATUS Fd.PWR_STATUS_LEVEL
  if new = old then (c, some (0, []))
  else if c.pwrState ≠ 0 ∨ c.pwr.entry.isSome = true ∨ c.pwr.change.isSome = true then (c, some (2, []))
  else
    let c1 := { c.setF Reg.PWR_STATUS Fd.PWR_STATUS_TARGET new with pwr.change := some ⟨old, new, c.now⟩ }.showTrans
    (if new < old then c1.setpoint new else c1, none)

/-- SET_LEVEL (R365). -/
def opSetLevel (rq : Req) (tag : BitVec 16) (c : Chip) : Chip := c.mbxRun rq tag .pwr 3 actSetLevel

/-- LEVEL_SWITCH (R365): the clock switches, and a lower setpoint follows; or the regulator does not settle. -/
def opLevelSwitch (settled : Bool) (c : Chip) : Chip :=
  match c.pwr.change with
  | none => c
  | some x =>
    if c.now < x.start + 50 * usPs then c
    else if settled then
      let c1 := ((c.setF Reg.PWR_STATUS Fd.PWR_STATUS_LEVEL x.new).bump (Reg.PWR_CNT 10) 1)
      let c2 := if x.old < x.new then c1.setpoint x.new else c1
      ({ c2 with pwr.change := none }.showTrans).pwrEnd 3 0
    else
      let c1 := (c.setF Reg.PWR_STATUS Fd.PWR_STATUS_TARGET x.old).setpoint x.old
      (({ c1 with pwr.change := none }.showTrans).report 0x03 0 0x10 outReported).pwrEnd 3 3

/-! Domains (R366 to R370). -/

/-- The ports with a lane in quad domain d. -/
def portsIn (c : Chip) (d : Nat) : List Nat :=
  ((List.range 32).filter (fun j =>
    c.on (Reg.PORT_CTRL (32 * (d / 9) + j)) Fd.PORT_CTRL_EN
      && (List.range (c.pWidth (32 * (d / 9) + j))).any (fun l => (j + l) / 4 == d % 9))).map (fun j => 32 * (d / 9) + j)

/-- A drain has emptied what it drains (R369, R370). -/
def drainReady (c : Chip) (x : Drain) : Bool :=
  if x.dom < 72 then
    (c.portsIn x.dom).all (fun n => !c.bpm.copies.any (·.port == n) && !c.bpm.txq.any (·.port == n))
  else c.groupIdle (x.dom - 94)

/-- A drained domain goes off, its ports disabled (R369). -/
def endDrain (c : Chip) (x : Drain) : Chip :=
  let c1 := if x.dom < 72 then (c.portsIn x.dom).foldl portDisable c else c
  { (c1.switchOff x.dom).pwrEndDom 4 x.dom 0 with pwr.drains := c1.pwr.drains.filter (fun y => y.dom != x.dom) }

/-- Drains that are ready end. -/
def drainTry (c : Chip) : Chip := c.pwr.drains.foldl (fun c x => if c.drainReady x then c.endDrain x else c) c

/-- The extension port that the first record of ring r lies behind. -/
def ringPort (c : Chip) (r : Nat) : Option Nat :=
  match c.xltFind (c.fld (Reg.FBK_RING_CFG r) Fd.FBK_RING_CFG_PARCEL) (c.fbkAddr r 0) with
  | some i => some (c.act (Reg.XM_XLT_CFG i) Fd.XM_XLT_CFG_PORT)
  | none => none

/-- Why domain d, which needs no drain, may not go off: reason and refuser (R368). -/
def offCheck (c : Chip) (d : Nat) : Option (Nat × Nat) :=
  if d < 72 then
    let k := fun i => Reg.PNL_SPARE_STATUS (d / 9) i
    if (List.range 2).any (fun i => c.on (k i) Fd.PNL_SPARE_STATUS_RX_USED || c.on (k i) Fd.PNL_SPARE_STATUS_TX_USED) then
      some (0x08, 0x18 + d / 9) else none
  else if d < 80 then
    if (List.range 9).any (fun q => c.domOn (9 * (d - 72) + q)) then some (0x0A, 0x18 + (d - 72)) else none
  else if d < 89 then if (c.panelOf (d - 80)).isSome then some (0x0A, 0x20 + (d - 80)) else none
  else if d < 94 then if (storeSlices (d - 89)).any (fun s => c.domOn (80 + s)) then some (0x0A, 0x30 + (d - 89)) else none
  else if 108 ≤ d ∧ d < 112 then
    if c.on (Reg.PAT_CTRL (d - 108)) ⟨0, 1⟩ || c.pipe.patQ.any (·.engine == d - 108) then some (0x08, 0x38 + (d - 108)) else none
  else if d = 112 ∨ d = 113 then
    if c.on (Reg.XM_CTRL (d - 112)) ⟨0, 1⟩
        || (List.range 16).any (fun i => c.on (Reg.BPM_XP_CFG i) Fd.BPM_XP_CFG_EN
              && c.fld (Reg.BPM_XP_CFG i) Fd.BPM_XP_CFG_PORT == d - 112)
        || (List.range 64).any (fun r => c.on (Reg.FBK_RING_CFG r) Fd.FBK_RING_CFG_EN && c.fbkExt r
              && c.ringPort r == some (d - 112)) then
      some (0x09, 0x10 + (d - 112)) else none
  else if d = 116 then if c.on Reg.DTM_CTRL ⟨0, 1⟩ then some (0x08, 0x05) else none
  else none

/-- A drain of domain d starts: its ports are fenced, or its group stops allocating (R369, R370). -/
def startDrain (c : Chip) (d : Nat) (discard host : Bool) : Chip :=
  let c1 := if d < 72 then c.setFence d true else c.setFBit Reg.BPM_CELL_CFG Fd.BPM_CELL_CFG_GROUP_EN (d - 94) false
  { c1.setDom d domDraining with
    pwr.drains := c1.pwr.drains ++ [(⟨d, if d < 72 then discard else c.groupEn (d - 94), c.now, host⟩ : Drain)] }.drainTry

/-- A request to switch domain d off (R368); code 0 once off, none while it drains. -/
def domainOff (c : Chip) (d : Nat) (discard host : Bool) : Chip × Option (Nat × List Nat) :=
  if 117 ≤ d then (c, some (1, []))
  else if stateDom d then (c, some (5, []))
  else if c.domState d = domOff then (c, some (0, []))
  else if c.domState d ≠ domUp ∨ c.pwrState ≠ 0 ∨ c.pwr.entry.isSome = true then (c.account 3 false 0x03 0x01, some (2, []))
  else if (d < 72 ∧ d % 9 < 8) ∨ (94 ≤ d ∧ d < 102) then
    let c1 := c.startDrain d discard host
    (c1, if c1.domState d = domOff then some (0, []) else none)
  else
    match c.offCheck d with
    | some (reason, unit) => (c.account 3 false unit reason, some (2, []))
    | none => (c.switchOff d, some (0, []))

/-- The DOMAIN_OFF operation. -/
def actDomainOff (c : Chip) (args : List Nat) : Chip × Option (Nat × List Nat) :=
  c.domainOff (args.getD 0 0 % 128) (args.getD 1 0 % 2 == 1) true

/-- DOMAIN_OFF (R368). -/
def opDomainOff (rq : Req) (tag : BitVec 16) (c : Chip) : Chip := c.mbxRun rq tag .pwr 4 actDomainOff

/-- DOMAIN_DRAIN_TIMEOUT (R369 step 5, R370). -/
def opDomainDrainTimeout (d : Nat) (c : Chip) : Chip :=
  match c.pwr.drains.find? (fun x => x.dom == d) with
  | none => c
  | some x =>
    if c.drainReady x then c.endDrain x
    else if c.now < x.start + c.fld Reg.PWR_CFG Fd.PWR_CFG_DRAIN_MS * msPs then c
    else
      let c1 := if d < 72 then c.setFence d false else c.setFBit Reg.BPM_CELL_CFG Fd.BPM_CELL_CFG_GROUP_EN (d - 94) x.discard
      let c2 := { c1.setDom d domUp with pwr.drains := c1.pwr.drains.filter (fun y => y.dom != d) }
      (c2.account 3 true (if d < 72 then 0x13 else 0x12) 0x04).pwrEndDom 4 d 3

/-- The DOMAIN_ON operation (R366, R367). -/
def actDomainOn (c : Chip) (args : List Nat) : Chip × Option (Nat × List Nat) :=
  let d := args.getD 0 0 % 128
  if 117 ≤ d then (c, some (1, []))
  else if stateDom d then (c, some (5, []))
  else if c.domState d = domFailed then (c.lastRefuse 3 false 0x03 0x07, some (2, []))
  else if c.domOn d then (c, some (0, []))
  else if c.domState d ≠ domOff ∨ c.pwrState ≠ 0 ∨ c.pwr.entry.isSome = true then (c.lastRefuse 3 false 0x03 0x01, some (2, []))
  else (c.request d, none)

/-- DOMAIN_ON (R366). -/
def opDomainOn (rq : Req) (tag : BitVec 16) (c : Chip) : Chip := c.mbxRun rq tag .pwr 5 actDomainOn

/-- The DOMAIN_CLEAR operation (R367). -/
def actDomainClear (c : Chip) (args : List Nat) : Chip × Option (Nat × List Nat) :=
  let d := args.getD 0 0 % 128
  if 117 ≤ d ∨ c.domState d ≠ domFailed ∨ c.pwr.stuck.contains d = true then (c, some (1, []))
  else (c.setDom d domOff, some (0, []))

/-- DOMAIN_CLEAR (R367). -/
def opDomainClear (rq : Req) (tag : BitVec 16) (c : Chip) : Chip := c.mbxRun rq tag .pwr 6 actDomainClear

/-- RAMP_DONE (R366): the domain is on, its fence cleared (R369). -/
def opRampDone (d : Nat) (c : Chip) : Chip :=
  if c.domState d = domRamping then
    let c1 := c.setDom d domUp
    let c2 := if c.pwr.exiting then c1 else c1.setFence d false
    (c2.pwrEndDom 5 d 0).exitStep d
  else c

/-- SOFTSTART_TRIP (R367). -/
def opSoftstartTrip (d : Nat) (c : Chip) : Chip :=
  if c.domState d = domRamping then
    let again := (mfind c.pwr.tripAt d).any (fun t => decide (c.now < t + sPs))
    let c1 := (c.satF (Reg.PWR_DOM d) Fd.PWR_DOM_TRIPS 1).bump (Reg.PWR_CNT 12) 1
    let c2 := { c1 with pwr.tripAt := mput c1.pwr.tripAt d c.now,
                        pwr.stuck := if again then c1.pwr.stuck ++ [d] else c1.pwr.stuck }
    ((c2.domainFault d domFailed).pwrEndDom 5 d 4).exitStep d
  else c

/-- RAIL_OUT_OF_RANGE (R42, R347). -/
def opRailOutOfRange (d : Nat) (c : Chip) : Chip :=
  if c.pins.supplyGood && [domRamping, domUp, domDraining, domRetained].contains (c.domState d) then
    let c1 := c.domainFault d domOff
    let c2 := { c1 with pwr.drains := c1.pwr.drains.filter (fun x => x.dom != d) }
    (((c2.pwrEndDom 4 d 0).pwrEndDom 5 d 4)).exitStep d
  else c

/-- An act by which domain d may lose its power: a stack that does loses what it holds (R347). -/
def withStack (d : Nat) (act : Chip → Chip) (m : Store) (c : Chip) : Store × Chip :=
  (if 104 ≤ d ∧ d < 108 ∧ (act c).domState d ≠ c.domState d then m.lostStack (d - 104) else m, act c)

end Chip

/-! The meanings. -/

/-- ENTER. -/
def execEnter (rq : Req) (tag : BitVec 16) (s : State) : Host.Outcome State Fault Refusal := runChip s (Chip.opEnter rq tag)

/-- ENTRY_DRAIN_DONE. -/
def execEntryDrainDone (s : State) : Host.Outcome State Fault Refusal := runChip s Chip.opEntryDrainDone

/-- ENTRY_ABORT. -/
def execEntryAbort (noSelfRefresh : Option (Fin 4)) (s : State) : Host.Outcome State Fault Refusal :=
  runChip s (Chip.opEntryAbort noSelfRefresh)

/-- DEFLATE_POWER_OFF. -/
def execDeflatePowerOff (s : State) : Host.Outcome State Fault Refusal := runChip s Chip.opDeflatePowerOff

/-- EXIT. -/
def execExitState (rq : Req) (tag : BitVec 16) (s : State) : Host.Outcome State Fault Refusal :=
  runChip s (Chip.opExitState rq tag)

/-- DEFLATED_EXIT. -/
def execDeflatedExit (s : State) : Host.Outcome State Fault Refusal := runChip s Chip.opDeflatedExit

/-- RTC_ALARM. -/
def execRtcAlarm (s : State) : Host.Outcome State Fault Refusal := runChip s Chip.opRtcAlarm

/-- RTC_COUNT_WRITE. -/
def execRtcCountWrite (rq : Req) (value : BitVec 32) (s : State) : Host.Outcome State Fault Refusal :=
  runChip s (Chip.opRtcCountWrite rq value)

/-- SET_LEVEL. -/
def execSetLevel (rq : Req) (tag : BitVec 16) (s : State) : Host.Outcome State Fault Refusal :=
  runChip s (Chip.opSetLevel rq tag)

/-- LEVEL_SWITCH. -/
def execLevelSwitch (settled : Bool) (s : State) : Host.Outcome State Fault Refusal := runChip s (Chip.opLevelSwitch settled)

/-- DOMAIN_OFF. -/
def execDomainOff (rq : Req) (tag : BitVec 16) (s : State) : Host.Outcome State Fault Refusal :=
  runChip s (Chip.opDomainOff rq tag)

/-- DOMAIN_ON. -/
def execDomainOn (rq : Req) (tag : BitVec 16) (s : State) : Host.Outcome State Fault Refusal :=
  runChip s (Chip.opDomainOn rq tag)

/-- DOMAIN_CLEAR. -/
def execDomainClear (rq : Req) (tag : BitVec 16) (s : State) : Host.Outcome State Fault Refusal :=
  runChip s (Chip.opDomainClear rq tag)

/-- RAMP_START. -/
def execRampStart (s : State) : Host.Outcome State Fault Refusal := runChip s Chip.opRampStart

/-- RAMP_DONE. -/
def execRampDone (dom : Fin 117) (s : State) : Host.Outcome State Fault Refusal := runChip s (Chip.opRampDone dom.val)

/-- SOFTSTART_TRIP. -/
def execSoftstartTrip (dom : Fin 117) (s : State) : Host.Outcome State Fault Refusal :=
  runBoth s (Chip.withStack dom.val (Chip.opSoftstartTrip dom.val))

/-- DOMAIN_DRAIN_TIMEOUT. -/
def execDomainDrainTimeout (dom : Fin 117) (s : State) : Host.Outcome State Fault Refusal :=
  runChip s (Chip.opDomainDrainTimeout dom.val)

/-- RAIL_OUT_OF_RANGE. -/
def execRailOutOfRange (dom : Fin 117) (s : State) : Host.Outcome State Fault Refusal :=
  runBoth s (Chip.withStack dom.val (Chip.opRailOutOfRange dom.val))

end Sys2Proof.Machine
end

