-- ==== Sys2Proof/Machine/Pins.lean ====
section
/-!
DEFINITION. Supply, reset and clock inputs (R34, R42 to R44, R348), the temperature sensors (R49, R50, R279), and the reset sources
that are not commands of software (R75).
-/

namespace Sys2Proof.Machine

namespace Chip

/-- A low level of RESET_N of so many picoseconds is taken as a reset (R34): the bounds after the AON trim, and before it; between
them a free choice (log 16). -/
def resetTaken (c : Chip) (held : Nat) : Bool :=
  let b := if c.boot.trimmed then (1000000, 900000) else (1100000, 850000)
  decide (b.1 ≤ held) || (decide (b.2 ≤ held) && c.free.toNat % 2 == 1)

/-- A sample in 0.125 °C as a signed number. -/
def tempOf (v : Nat) : Int := signedOf 12 v

/-- The level register of sensor n (R49). -/
def tempCfg (n : Nat) : Nat := if 24 ≤ n ∧ n < 28 then Reg.PWR_TEMP_HBM_CFG else Reg.PWR_TEMP_CFG

/-- The WARN level has been reached, or left by 2 °C (R50). -/
def warnCheck (c : Chip) (n : Nat) (t : Int) : Chip :=
  let warn := tempOf (c.fld (tempCfg n) Fd.PWR_TEMP_CFG_WARN)
  if warn ≤ t then
    if c.pwr.warned.contains n then c
    else
      { (c.setFBit Reg.PWR_TEMP_STATUS Fd.PWR_TEMP_STATUS_WARN_HIT n true).report 0x03 0 0x13 outReported with
        pwr.warned := c.pwr.warned ++ [n] }
  else if t ≤ warn - 16 then { c with pwr.warned := c.pwr.warned.filter (fun m => m != n) }
  else c

/-- The TRIP level: quench, FAULT_N, THERMTRIP_N and the journal (R50, R327). -/
def tripCheck (c : Chip) (n : Nat) (t : Int) : Chip :=
  if tempOf (c.fld (tempCfg n) Fd.PWR_TEMP_CFG_TRIP) ≤ t then
    { c.report 0x03 0 0x14 outCritical with pins.thermtrip := true }
  else c

/-- An HBM stack doubles its refresh rate above 85 °C until it reads 83 °C or less (R279). -/
def hotCheck (c : Chip) (n : Nat) (t : Int) : Chip :=
  if 24 ≤ n ∧ n < 28 ∧ c.domOn (104 + (n - 24)) = true then
    if 0x2A8 < t then c.setF (Reg.MEM_STATUS (n - 24)) Fd.MEM_STATUS_HOT 1
    else if t ≤ 0x298 then c.setF (Reg.MEM_STATUS (n - 24)) Fd.MEM_STATUS_HOT 0
    else c
  else c

/-- TEMP_SAMPLE (R48 to R50); there is no sensor 29, 30 or 31. -/
def opTempSample (n : Nat) (t : BitVec 12) (c : Chip) : Chip :=
  if 29 ≤ n then c
  else
    let v := tempOf t.toNat
    (((c.wrN (Reg.PWR_TEMP n) (2 ^ 31 + t.toNat)).hotCheck n v).warnCheck n v).tripCheck n v

/-- REFCLK_LOSS (R52, R348): quench, FAULT_N held. B0 has nothing to report it with; from B1 on it is reported (log 118). -/
def opRefclkLoss (c : Chip) : Chip :=
  if !c.pins.refclk then c
  else if c.boot.phase = 0 then { c with pins.refclk := false }
  else { c.report 0x01 0 0x11 outCritical with pins.refclk := false }

/-- VBAT_LOSS (R38, R44): while VDD_AON is off, BKP loses its contents and drives WAKE_OUT no longer. -/
def opVbatLoss (c : Chip) : Chip :=
  if c.pins.vddAon then c else { c with pins.vbat := false, pins.wakeOut := false, boot.bkpLost := true }

/-- RESET_N is high again: a B1 that waited for it starts (R42). -/
def resetNHigh (c : Chip) : Chip := { c with pins.resetN := true }.tryB1

/-- RESET_N_LOW (R34, R42, R75): held low for so many picoseconds, and then high again, or still low; a low level that was taken
before goes on, and counts once. -/
def opResetNLow (held : Nat) (rises : Bool) (straps : Straps) (m : Store) (c : Chip) : Store × Chip :=
  let c1 := { c.tick with pins.straps := straps }
  if c.pins.resetN = false then (m, if rises then c1.resetNHigh else c1)
  else if c.pins.vddAon = true ∧ c.asBefore.resetTaken held = true then
    let r := resetSource 1 m { c1 with pins.resetN := false }
    (r.1, if rises then r.2.resetNHigh else r.2)
  else (m, c1)

/-- SUPPLY_GOOD_HIGH (R42): high for so many picoseconds. From Stowed it is a power-on (R358). -/
def opSupplyGoodHigh (held : Nat) (straps : Straps) (m : Store) (c : Chip) : Store × Chip :=
  if held < 100 * usPs ∨ c.pins.supplyGood = true then (m, c)
  else
    let r := if c.pwrState = 3 then resetSource 0 m c else (m, c)
    (r.1, { r.2 with pins.supplyGood := true, pins.vddAon := true, pins.straps := straps, pwr.stowed := false }.tryB1)

/-- Stacks that are on, or in self-refresh already. -/
def liveStacks (c : Chip) : List Nat := [104, 105, 106, 107].filter (fun d => c.domOn d || c.domState d == domRetained)

/-- SUPPLY_GOOD_LOW (R42, R43, R358): low for so many AON cycles: a quench, and the stacks enter self-refresh. In Stowed-ready it
completes the entry into Stowed. -/
def opSupplyGoodLow (cycles : Nat) (m : Store) (c : Chip) : Store × Chip :=
  if cycles < 10 ∨ c.pins.supplyGood = false then (m, c)
  else
    let c1 := { c with pins.supplyGood := false }
    if c.pwrState = 3 then (m, { c1 with pwr.stowed := true })
    else
      let r := resetSource 0 m c1.startQuench
      (r.1, c.liveStacks.foldl (fun c d => c.setDom d domRetained) r.2)

/-- The value of a journal slot that supplies have left half-written: free, but no valid record (R43, log 119). -/
def tornWord (c : Chip) : BitVec 256 :=
  let w := BitVec.ofNat 256 ((List.range 4).foldl (fun n i => n * 2 ^ 64 + (Config.freeWord (c.freeCtr + i)).toNat) 0)
  if recordValid (leBytes 32 w.toNat) then w ^^^ 1 else w

/-- Rails that go with SUPPLY_GOOD still high meet a journal write in progress: it completes, is left half-written, or has not begun
(R43, log 119). -/
def tearJournal (c : Chip) : Chip :=
  if c.flt.jrnQ.isEmpty || c.free.toNat % 3 == 0 then c
  else if c.free.toNat % 3 == 1 then
    { c with flt.journal := mset jrnSlotDefault c.flt.journal c.flt.jrnNext c.tornWord, flt.jrnQ := [], freeCtr := c.freeCtr + 4 }
  else { c with flt.jrnQ := [] }

/-- VDD_AON_LOSS (R43, R44, R50, R75): a power-on reset; BKP runs from VBAT. -/
def opVddAonLoss (m : Store) (c : Chip) : Store × Chip :=
  if c.pins.vddAon then
    let c1 := if c.pins.supplyGood then c.tearJournal.tick else c
    resetSource 0 m { c1 with pins.vddAon := false, pins.supplyGood := false, pins.thermtrip := false }
  else (m, c)

/-- The safety core runs: from the end of B2 on (R83). -/
def safetyRuns (c : Chip) : Bool := decide (3 ≤ c.boot.phase) && decide (c.boot.phase ≠ 6)

/-- REFCLK_RESTORED (R348): under the native profile the safety core writes a software cold reset. -/
def opRefclkRestored (m : Store) (c : Chip) : Store × Chip :=
  if c.pins.refclk then (m, c)
  else
    let c1 := { c with pins.refclk := true }
    if c.plain || c.safetyHalted || !c.safetyRuns then (m, c1) else resetSource 5 m c1

/-- SAFETY_WATCHDOG_EXPIRY (R75). -/
def opSafetyWatchdogExpiry (m : Store) (c : Chip) : Store × Chip :=
  if c.asBefore.safetyRuns then resetSource 3 m c else (m, c)

/-- CRITICAL_STATE_ERROR (R75, R327): the event is recorded, and the reset follows. -/
def opCriticalStateError (m : Store) (c : Chip) : Store × Chip :=
  resetSource 6 m (if c.plain then c else c.report 0x01 0 0x15 outCritical)

end Chip

/-! The meanings. -/

/-- TEMP_SAMPLE. -/
def execTempSample (n : Fin 32) (t : BitVec 12) (s : State) : Host.Outcome State Fault Refusal :=
  runChip s (Chip.opTempSample n.val t)

/-- REFCLK_LOSS. -/
def execRefclkLoss (s : State) : Host.Outcome State Fault Refusal := runChip s Chip.opRefclkLoss

/-- VBAT_LOSS. -/
def execVbatLoss (s : State) : Host.Outcome State Fault Refusal := runChip s Chip.opVbatLoss

/-- RESET_N_LOW. -/
def execResetNLow (pulse : ResetPulse) (s : State) : Host.Outcome State Fault Refusal :=
  runBoth s (Chip.opResetNLow pulse.heldPs pulse.rises pulse.straps)

/-- SUPPLY_GOOD_HIGH. -/
def execSupplyGoodHigh (rise : SupplyRise) (s : State) : Host.Outcome State Fault Refusal :=
  runBoth s (Chip.opSupplyGoodHigh rise.heldPs rise.straps)

/-- SUPPLY_GOOD_LOW. -/
def execSupplyGoodLow (aonCycles : Nat) (s : State) : Host.Outcome State Fault Refusal :=
  runBoth s (Chip.opSupplyGoodLow aonCycles)

/-- VDD_AON_LOSS. -/
def execVddAonLoss (s : State) : Host.Outcome State Fault Refusal := runBoth s Chip.opVddAonLoss

/-- REFCLK_RESTORED. -/
def execRefclkRestored (s : State) : Host.Outcome State Fault Refusal := runBoth s Chip.opRefclkRestored

/-- SAFETY_WATCHDOG_EXPIRY. -/
def execSafetyWatchdogExpiry (s : State) : Host.Outcome State Fault Refusal := runBoth s Chip.opSafetyWatchdogExpiry

/-- CRITICAL_STATE_ERROR. -/
def execCriticalStateError (s : State) : Host.Outcome State Fault Refusal := runBoth s Chip.opCriticalStateError

end Sys2Proof.Machine
end

