-- ==== Sys2Proof/Machine/View.lean ====
section
/-!
DEFINITION. What a register read shows: the stored register, with the fields that show state held elsewhere (idle and depth bits,
free counts, clocks) laid over it.
-/

namespace Sys2Proof.Machine

/-- The element that key k reaches in a row of n elements from base with a stride. -/
def rowIx (k base stride n : Nat) : Option Nat :=
  if base ≤ k ∧ (k - base) % stride = 0 ∧ (k - base) / stride < n then some ((k - base) / stride) else none

/-- Lay fields over a value. -/
def overlay (w : Word) (l : List (BF × Nat)) : Word := l.foldl (fun w x => bfSet x.1 w x.2) w

/-- A signed value in units of 2^-32 ns as a saturating 32-bit field in 2^-16 ns (R302, R324). -/
def q16 (v : Int) : Nat := wrapTo 32 (max (-(2 ^ 31 : Int)) (min (2 ^ 31 - 1) (v.tdiv 65536)))

namespace Chip

/-- The RTC count as software reads it: the last one written, until BKP has it (R372, R373). -/
def rtcRead (c : Chip) : Nat :=
  match (c.bkpPend.filter (fun x => x.1 == Reg.PWR_RTC_LO)).getLast?, (c.bkpPend.filter (fun x => x.1 == Reg.PWR_RTC_HI)).getLast? with
  | some l, some h => h.2.toNat % 2 ^ 16 * 2 ^ 32 + l.2.toNat
  | _, _ => c.time.rtc

/-- RST, BOOT, PWR and FLT. -/
def viewAon (c : Chip) (k : Nat) : List (BF × Nat) :=
  if k = Reg.BOOT_STATUS then [(Fd.BOOT_STATUS_PHASE, max 1 c.boot.phase)]
  else if k = Reg.FLT_CTRL then [(Fd.FLT_CTRL_FAULTN_RELEASE, b2n c.flt.relPending)]
  else if k = Reg.PWR_RTC_LO then [(⟨0, 32⟩, c.rtcRead)]
  else if k = Reg.PWR_RTC_HI then [(⟨0, 16⟩, c.rtcRead / 2 ^ 32)]
  else []

/-- A Datum clock's group: NS, SEC_LO, SEC_HI, FRAC. -/
def clkWords (k : Clk) : List Nat := [k.ns, k.sec % 2 ^ 32, k.sec / 2 ^ 32 % 2 ^ 16, k.frac]

/-- Datum. -/
def viewDtm (c : Chip) (k : Nat) : List (BF × Nat) :=
  if k = Reg.DTM_STATUS then
    [(Fd.DTM_STATUS_SLEWING, b2n (c.datumRun && clkDiff (c.clk c.serveSrc) c.dtm.clkS != 0)), (Fd.DTM_STATUS_SERVED, c.serveSrc),
      (Fd.DTM_STATUS_IDLE, b2n (!c.on Reg.DTM_CTRL ⟨0, 1⟩))]
  else if k = Reg.DTM_SRV_OFF_A then [(⟨0, 32⟩, q16 (clkDiff c.dtm.clkA c.dtm.clkS))]
  else if k = Reg.DTM_SRV_OFF_B then [(⟨0, 32⟩, q16 (clkDiff c.dtm.clkB c.dtm.clkS))]
  else
    match rowIx k Reg.DTM_SRV_NOW_NS 4 4 with
    | some i => [(⟨0, 32⟩, (clkWords c.dtm.clkS).getD i 0)]
    | none =>
      match [0, 1].find? (fun x => (rowIx k (Reg.DTM_CLK_NOW_NS x) 4 4).isSome || k == Reg.DTM_CLK_ADJ x) with
      | some x =>
        if k = Reg.DTM_CLK_ADJ x then [(⟨0, 32⟩, q16 (c.adj x))]
        else [(⟨0, 32⟩, (clkWords (c.clk x)).getD ((k - Reg.DTM_CLK_NOW_NS x) / 4) 0)]
      | none => []

/-- PAR, TET, MGT and MBUS. -/
def viewMgmt (c : Chip) (k : Nat) : List (BF × Nat) :=
  if k = Reg.TET_STATUS then [(Fd.TET_STATUS_IDLE, b2n (!c.on Reg.TET_CTRL ⟨0, 1⟩ && !c.on Reg.TET_STATUS Fd.TET_STATUS_LINK))]
  else
    match rowIx k (Reg.PAR_USED 0) 0x80 64 with
    | some p => [(Fd.PAR_USED_KEYED, c.keyedUsed p)]
    | none =>
      match rowIx k (Reg.MGT_CORE_STATUS 0) 4 4 with
      | some n => [(Fd.MGT_CORE_STATUS_HALTED, b2n (c.dbg.halted.contains n))]
      | none =>
        match rowIx k (Reg.MBUS_STATUS 0) 0x100 4 with
        | some m => [(Fd.MBUS_STATUS_RECOVERING, 0), (Fd.MBUS_STATUS_IDLE, b2n (!c.on (Reg.MBUS_CTRL m) ⟨0, 1⟩))]
        | none => []

/-- MEM, XM, BPM and TM global. -/
def viewMem (c : Chip) (k : Nat) : List (BF × Nat) :=
  if k = Reg.BPM_STATUS then
    [(Fd.BPM_STATUS_IDLE, b2n c.bpmIdle),
      (Fd.BPM_STATUS_GROUP_IDLE, (List.range 8).foldl (fun v g => v + b2n (c.groupIdle g) * 2 ^ g) 0)]
  else if k = Reg.BPM_CELL_FREE then [(⟨0, 20⟩, c.cellsFree)]
  else if k = Reg.BPM_SHARED_AVAIL then [(⟨0, 20⟩, if c.on Reg.BPM_CTRL Fd.BPM_CTRL_EN then c.sharedAvail.toNat else 0)]
  else if k = Reg.BPM_REFILL_FREE then [(⟨0, 19⟩, if c.on Reg.BPM_CTRL Fd.BPM_CTRL_EN then c.refillFree else 0)]
  else if k = Reg.BPM_PAGE_TOTAL then [(⟨0, 25⟩, if c.on Reg.BPM_CTRL Fd.BPM_CTRL_EN then c.pageTotal else 0)]
  else if k = Reg.BPM_PAGE_FREE then [(⟨0, 25⟩, if c.on Reg.BPM_CTRL Fd.BPM_CTRL_EN then c.pagesFree else 0)]
  else if k = Reg.TM_STATUS then [(⟨0, 1⟩, b2n (c.bpm.copies.isEmpty && c.bpm.txq.isEmpty))]
  else
    match rowIx k (Reg.BPM_PORT_USE 0) 4 256 with
    | some n => [(⟨0, 20⟩, c.portUsed n true + c.portUsed n false)]
    | none => match rowIx k (Reg.MEM_STATUS 0) 0x4000 4 with
      | some j => [(Fd.MEM_STATUS_IDLE, b2n (c.memIdle j))]
      | none => if (rowIx k (Reg.XM_STATUS 0) 0x100 2).isSome then [(⟨0, 1⟩, 1)] else []

/-- The slices and panels. -/
def viewSlices (c : Chip) (k : Nat) : List (BF × Nat) :=
  if k < 0x200000 then
    if k % 0x20000 < 0x1000 then []
    else
      match rowIx (k % 0x20000) 0x1008 0x40 32 with
      | some j => [(Fd.PORT_STATUS_IDLE, b2n (c.portIdle (32 * ((k - 0x100000) / 0x20000) + j)))]
      | none => []
  else if k = Reg.FBK_STATUS then
    [(Fd.FBK_STATUS_STAGED, c.fbk.staged.length), (Fd.FBK_STATUS_IDLE, b2n (!c.on Reg.FBK_CTRL ⟨0, 1⟩ && c.fbk.staged.isEmpty))]
  else
    let s := (k - 0x200000) / 0x100000
    if k = Reg.PRS_STATUS s then
      [(Fd.PRS_STATUS_ACTIVE, c.act (Reg.PRS_BANK_SEL s) Fd.PRS_BANK_SEL_BANK),
        (Fd.PRS_STATUS_IDLE, b2n (!c.pipe.heads.any (·.slice == s) && !c.otherWaits s))]
    else if k = Reg.FWD_STATUS s then [(⟨0, 1⟩, 1)]
    else if k = Reg.CLS_STATUS s then [(⟨0, 1⟩, b2n (!c.pipe.patQ.any (·.pkt.head.slice == s)))]
    else if k = Reg.RWR_STATUS s then
      let n := (c.pipe.replQ.filter (·.pkt.head.slice == s)).length
      [(Fd.RWR_STATUS_REPL_QDEPTH, n), (Fd.RWR_STATUS_ACTIVE, c.act (Reg.RWR_BANK_SEL s) Fd.RWR_BANK_SEL_BANK), (Fd.RWR_STATUS_IDLE, b2n (n == 0))]
    else []

/-- Table stores, pattern engines, update and learn engines. -/
def viewUpd (c : Chip) (k : Nat) : List (BF × Nat) :=
  if k = Reg.UPD_STATUS then [(Fd.UPD_STATUS_FREE_SW, c.freeSw), (Fd.UPD_STATUS_IDLE, b2n c.updIdle)]
  else if k = Reg.UPD_EPOCH then [(⟨16, 16⟩, c.oldest)]
  else if k = Reg.LRN_STATUS then [(Fd.LRN_STATUS_IDLE, b2n c.pipe.learnQ.isEmpty)]
  else
    match rowIx k (Reg.TS_STATUS 0) 0x10000 5 with
    | some t => [(⟨0, 1⟩, b2n (!c.on (Reg.TS_CTRL t) ⟨0, 1⟩))]
    | none =>
      match rowIx k (Reg.PAT_STATUS 0) 0x100000 4 with
      | some n =>
        let d := (c.pipe.patQ.filter (·.engine == n)).length
        [(Fd.PAT_STATUS_QDEPTH, d), (Fd.PAT_STATUS_ACTIVE, c.act (Reg.PAT_REGION_SEL n) Fd.PAT_REGION_SEL_REGION), (Fd.PAT_STATUS_IDLE, b2n (d == 0))]
      | none => []

/-- Parcel windows. -/
def viewWin (c : Chip) (p o : Nat) : List (BF × Nat) :=
  if o = 8 then [(Fd.VF_PARCEL_STATE, c.fld (Reg.PAR_STATUS p) Fd.PAR_STATUS_STATE)]
  else
    match rowIx o 0x401C 0x40 16 with
    | some r => [(Fd.RING_STATUS_IDLE, b2n (!c.ringOn p r))]
    | none => []

/-- Queue entries. -/
def viewQueue (c : Chip) (k : Nat) : List (BF × Nat) :=
  match rowIx k (Reg.TM_Q_STATUS 0) 0x40 131072 with
  | some q =>
    let n := c.queuePort q
    [(Fd.TM_Q_STATUS_SPILL, b2n (c.q q).spill), (Fd.TM_Q_STATUS_PAUSED, b2n (c.qPaused q n)), (Fd.TM_Q_STATUS_WD, b2n (c.wdActive q n)),
      (Fd.TM_Q_STATUS_DEPTH, c.totalDepth q)]
  | none => []

/-- The fields that a read of key k takes from elsewhere. -/
def viewOver (c : Chip) (k : Nat) : List (BF × Nat) :=
  if k < 0x50000 then c.viewAon k
  else if k < 0x60000 then c.viewDtm k
  else if k < 0x70000 then c.viewWin 0 (k - 0x60000)
  else if k < 0xC0000 then c.viewMgmt k
  else if k < 0x100000 then c.viewMem k
  else if k < 0xB00000 then c.viewSlices k
  else if k < 0x10000000 then c.viewUpd k
  else if k < 0x20000000 then c.viewWin (k / 0x10000 % 64) (k % 0x10000)
  else c.viewQueue k

/-- What a read of the register at key k shows. -/
def view (c : Chip) (k : Nat) : Word := overlay (c.reg k) (c.viewOver k)

end Chip

end Sys2Proof.Machine
end

