-- ==== Sys2Proof/Machine/Read.lean ====
section
/-!
DEFINITION. Register reads (R53 to R57, R66, R72, R275, R324, R351, R390, R419, R420): which register an address reaches for a
requester, what the read answers, and the latches it holds or uses.
-/

namespace Sys2Proof

open Machine

/-- Index of a requester in the registers held for each requester (R58). -/
def Req.ix (rq : Req) : Nat := rq.code

end Sys2Proof

namespace Sys2Proof.Machine

/-- Elements of a kind of the TM queue state window (R275). -/
def winCount (kind : Nat) : Nat := [131072, 32768, 4096, 256, 262144].getD kind 0

/-- The key of element e of a kind, at offset o in its entry. -/
def winKey (kind e o : Nat) : Nat := 0x20000000 + kind * 0x02000000 + 0x40 * e + o

namespace Chip

/-- The key that an offset in a parcel window reaches: offsets 0x4440 to 0x447F show the element that VF_TM_SEL names, if it lies
in the parcel's range (R390). -/
def winOffset (c : Chip) (p o : Nat) : Option Nat :=
  if 0x4440 ≤ o ∧ o < 0x4480 then
    let kind := c.fld (Reg.VF_TM_SEL p) Fd.VF_TM_SEL_KIND
    let i := c.fld (Reg.VF_TM_SEL p) Fd.VF_TM_SEL_INDEX
    let k := if kind = 4 then 7 else 6
    let base := c.act (Reg.PAR_RANGE_BASE p k) Fd.PAR_RANGE_BASE_BASE
    let mine := p == 0 || (decide (base ≤ i) && decide (i < base + c.act (Reg.PAR_RANGE_CNT p k) Fd.PAR_RANGE_CNT_COUNT))
    if mine && decide (i < winCount kind) then some (winKey kind i (o - 0x4440)) else none
  else some (Reg.winBase p + o)

/-- The key that an address reaches for a requester; none where no address of its map lies (R53, R54, R275). The field
book's registers are reached through the RWR block of any slice (R225). -/
def keyOf (c : Chip) (rq : Req) (a : Nat) : Option Nat :=
  match rq with
  | .vf n => if a < 0x10000 then c.winOffset n.val a else none
  | _ =>
    if a = 0xF0010 then some (Reg.TM_WIN_SEL rq.ix)
    else if a = 0xA0010 then some (Reg.PMC_VIEW rq.ix)
    else if 0x60000 ≤ a ∧ a < 0x70000 then c.winOffset 0 (a - 0x60000)
    else if 0x1000000 ≤ a ∧ a < 0x1100000 then
      let kind := c.fld (Reg.TM_WIN_SEL rq.ix) Fd.TM_WIN_SEL_KIND
      let e := c.fld (Reg.TM_WIN_SEL rq.ix) Fd.TM_WIN_SEL_BLOCK * 16384 + (a - 0x1000000) / 0x40
      if e < winCount kind then some (winKey kind e (a % 0x40)) else none
    else if 0x200000 ≤ a ∧ a < 0xB00000 ∧ 0xC8000 ≤ (a - 0x200000) % 0x100000 ∧ (a - 0x200000) % 0x100000 < 0xD0000 then
      some (0x200000 + (a - 0x200000) % 0x100000)
    else if a < 0x2000000 then some a
    else none

/-- The register row and key that an address reaches; none where nothing is listed (R56). -/
def target (c : Chip) (rq : Req) (a : Nat) : Option (Nat × RegDesc × List Nat) :=
  match c.keyOf rq a with
  | none => none
  | some k =>
    match descOf k with
    | some (d, ix) => some (k, d, ix)
    | none => none

/-! Latches. -/

/-- The latch of a kind that a requester holds. -/
def latchOf (c : Chip) (rq : Req) (kind : Nat) : List (Nat × Nat) :=
  match c.latches.find? (fun x => decide (x.rq = rq) && x.kind == kind) with
  | some x => x.vals
  | none => []

/-- A latch is replaced. -/
def setLatch (c : Chip) (rq : Req) (kind : Nat) (vals : List (Nat × Nat)) : Chip :=
  let l := c.latches.filter (fun x => !(decide (x.rq = rq) && x.kind == kind))
  { c with latches := if vals.isEmpty then l else l ++ [⟨rq, kind, vals⟩] }

/-- The latched value of a key, which the read uses up (R66), or v. -/
def useLatch (c : Chip) (rq : Req) (kind k v : Nat) : Chip × Nat :=
  match (c.latchOf rq kind).find? (fun x => x.1 == k) with
  | some x => (c.setLatch rq kind ((c.latchOf rq kind).filter (fun y => y.1 != k)), x.2)
  | none => (c, v)

/-- Latches: 0 the high words of R66, 1 Datum groups, 2 history entries. -/
def latCtr : Nat := 0
def latDtm : Nat := 1
def latHist : Nat := 2

/-- A 64-bit counter as a requester sees it: the snapshot's, when it has asked for that (R419). -/
def ctrView (c : Chip) (rq : Req) (k : Nat) : Nat :=
  if c.on (Reg.PMC_VIEW rq.ix) Fd.PMC_VIEW_SNAP && snapLatched k then (mget ctrDefault c.snapC k).toNat else (c.cnt k).toNat

/-- A word of a 64-bit counter (R66); the first word of PMC_BW latches the port's other seven (R420). -/
def readCtr (c : Chip) (rq : Req) (k : Nat) : Chip × Nat :=
  let low := k / 8 * 8
  if k = low then
    let more := if 0xA1000 ≤ k ∧ k < 0xA3000 ∧ k % 0x20 = 0 then
      [1, 2, 3].flatMap (fun i => [(k + 8 * i, (c.cnt (k + 8 * i)).toNat % 2 ^ 32), (k + 8 * i + 4, (c.cnt (k + 8 * i)).toNat / 2 ^ 32)]) else []
    match (c.latchOf rq latCtr).find? (fun x => x.1 == k) with
    | some x => (c.setLatch rq latCtr ((c.latchOf rq latCtr).filter (fun y => y.1 != k)), x.2)
    | none => (c.setLatch rq latCtr ((k + 4, c.ctrView rq k / 2 ^ 32) :: more), c.ctrView rq k % 2 ^ 32)
  else c.useLatch rq latCtr k (c.ctrView rq low / 2 ^ 32)

/-- The other registers of the group of a Datum NS register (R324). -/
def dtmGroup (k : Nat) : List Nat :=
  if k = Reg.DTM_SRV_NOW_NS then [4, 8, 12, 16, 20].map (k + ·)
  else if k = Reg.DTM_SRV_PPS_NS then [4, 8].map (k + ·)
  else if k = Reg.DTM_CLK_NOW_NS 0 ∨ k = Reg.DTM_CLK_NOW_NS 1 then [4, 8, 12].map (k + ·)
  else if k = Reg.DTM_CLK_PPS_NS 0 ∨ k = Reg.DTM_CLK_PPS_NS 1 then [4, 8].map (k + ·)
  else []

/-- A read of Datum: an NS register latches its group (R324). -/
def readDtm (c : Chip) (rq : Req) (k : Nat) : Chip × Nat :=
  let v := (c.view k).toNat
  match dtmGroup k with
  | [] => c.useLatch rq latDtm k v
  | l => (c.setLatch rq latDtm (l.map (fun j => (j, (c.view j).toNat))), v)

/-- A word of a history entry: word 0 latches words 1 to 7 (R351). -/
def readHist (c : Chip) (rq : Req) (k : Nat) : Chip × Nat :=
  if k % 0x20 = 0 then
    (c.setLatch rq latHist ((List.range 7).map (fun i => (k + 4 * (i + 1), c.rd (k + 4 * (i + 1))))), c.rd k)
  else c.useLatch rq latHist k (c.rd k)

/-- Registers read as R66, low word first: the RTC (R373), RING_SEQ (R379), SAMPLE_DEPTH with SAMPLE_DELAY (R268). -/
def pairHigh (k : Nat) : Option Nat :=
  if k = Reg.PWR_RTC_LO then some (k + 4)
  else if (0x64000 ≤ k ∧ k < 0x64400 ∧ k % 0x40 = 0x14) ∨ (0x10000000 ≤ k ∧ k < 0x20000000 ∧ (rowIx (k % 0x10000) 0x4014 0x40 16).isSome) then
    some (k + 4)
  else if 0x20000000 ≤ k ∧ k < 0x22000000 ∧ k % 0x40 = 0x20 then some (k + 4)
  else none

/-- The mailbox whose result a register holds. -/
def mbxAt (k : Nat) : Bool :=
  k == Reg.RST_BLK_RESULT || k == Reg.BOOT_MBX_RESULT || k == Reg.PWR_MBX_RESULT || k == Reg.FLT_MBX_RESULT
    || k == Reg.DTM_MBX_RESULT 0 || k == Reg.DTM_MBX_RESULT 1 || k == Reg.PAR_MBX_RESULT || k == Reg.TET_MBX_RESULT
    || (List.range 4).any (fun m => k == Reg.MBUS_MBX_RESULT m || k == Reg.PAT_MBX_RESULT m)
    || k == Reg.BPM_MBX_RESULT 0 || k == Reg.BPM_MBX_RESULT 1 || k == Reg.FBK_MBX_RESULT || k == Reg.UPD_MBX_RESULT
    || k == Reg.VF_MBX_RESULT 0 0 || k == Reg.VF_MBX_RESULT 0 1
    || (decide (0x10000000 ≤ k) && decide (k < 0x20000000) && (k % 0x10000 == 0x2030 || k % 0x10000 == 0x2430))

/-- A result register: DONE is answered once, DONE_REREAD from then on (R72). -/
def readResult (c : Chip) (k : Nat) : Chip × Nat :=
  (if c.fld k ⟨14, 2⟩ = 2 then c.setF k ⟨14, 2⟩ 3 else c, c.rd k)

/-- What a read of the register at key k answers, and what it does. A WO field reads as 0 (R60). -/
def readKey (c : Chip) (rq : Req) (k : Nat) (d : RegDesc) : Chip × Nat :=
  if d.width ≠ .w32 then c.readCtr rq k
  else if mbxAt k then c.readResult k
  else if 0x50000 ≤ k ∧ k < 0x60000 then c.readDtm rq k
  else if 0x40400 ≤ k ∧ k < 0x40800 then c.readHist rq k
  else
    match pairHigh k with
    | some h => (c.setLatch rq latCtr [(h, (c.view h).toNat)], (c.view k).toNat)
    | none =>
      if (pairHigh (k - 4)).isSome then c.useLatch rq latCtr k (c.view k).toNat
      else (c, (c.view k).toNat)

/-- A 32-bit read (R55 to R57). -/
def read32 (c : Chip) (rq : Req) (a : Nat) : Chip × Nat :=
  if a % 4 ≠ 0 then (c.err rq errBadAccess a, 0)
  else
    match c.target rq a with
    | none => (c.err rq errBadAccess a, 0)
    | some (k, d, _) => if c.addrOff k then (c.err rq errOffAccess a, 0) else c.readKey rq k d

/-- A read of 32 or 64 bits: a 64-bit read is one of the low word, then one of the high word (R55). -/
def readReg (c : Chip) (rq : Req) (a : Nat) (w64 : Bool) : Chip × Nat :=
  if w64 then
    if a % 8 ≠ 0 then (c.err rq errBadAccess a, 0)
    else
      let lo := c.read32 rq a
      let hi := lo.1.read32 rq (a + 4)
      (hi.1, lo.2 + hi.2 * 2 ^ 32)
  else c.read32 rq a

/-- The read is answered. -/
def answerRead (rq : Req) (a : Nat) (r : Chip × Nat) : Chip := r.1.emit (.readData rq a r.2)

/-- BAD_READ (R55 to R57): a read that may be refused. -/
def opBadRead (rq : Req) (a : Nat) (w64 : Bool) (c : Chip) : Chip := answerRead rq a (c.readReg rq a w64)

/-- LATCHING_READ (R66, R72, R268, R351, R420): a read that latches, or that marks a result as read. -/
def opLatchingRead (rq : Req) (a : Nat) (w64 : Bool) (c : Chip) : Chip := answerRead rq a (c.readReg rq a w64)

/-- The NS register of a clock's group, or of its PPS capture: clock A, clock B, the served clock. -/
def nsReg (clk : Nat) (pps : Bool) : Nat :=
  if clk = 2 then if pps then Reg.DTM_SRV_PPS_NS else Reg.DTM_SRV_NOW_NS
  else if pps then Reg.DTM_CLK_PPS_NS clk else Reg.DTM_CLK_NOW_NS clk

/-- DATUM_NS_READ (R324). -/
def opDatumNsRead (rq : Req) (clk : Nat) (pps : Bool) (c : Chip) : Chip := answerRead rq (nsReg clk pps) (c.read32 rq (nsReg clk pps))

end Chip

/-! The meanings. -/

/-- BAD_READ. -/
def execBadRead (rq : Req) (addr : Nat) (w64 : Bool) (s : State) : Host.Outcome State Fault Refusal :=
  runChip s (Chip.opBadRead rq addr w64)

/-- LATCHING_READ. -/
def execLatchingRead (rq : Req) (addr : Nat) (w64 : Bool) (s : State) : Host.Outcome State Fault Refusal :=
  runChip s (Chip.opLatchingRead rq addr w64)

/-- DATUM_NS_READ. -/
def execDatumNsRead (rq : Req) (clk : Fin 3) (pps : Bool) (s : State) : Host.Outcome State Fault Refusal :=
  runChip s (Chip.opDatumNsRead rq clk.val pps)

end Sys2Proof.Machine
end

