-- ==== Sys2Proof/Machine/UnitReset.lean ====
section
/-!
DEFINITION. Reset of one unit (R87 to R89, R428): which units can be reset alone, when a unit is disabled, and what a reset does to
its registers, its memories and the copies it takes.
-/

namespace Sys2Proof.Machine

/-- A unit that can be reset alone: first address, end, and power domain (R53, R88). -/
def unitRange (u : Nat) : Option (Nat × Nat × Option Nat) :=
  if u = 0x05 then some (0x50000, 0x60000, some 116)
  else if u = 0x08 then some (0x80000, 0x90000, none)
  else if u = 0x0B then some (0xB0000, 0xC0000, none)
  else if 0x0C ≤ u ∧ u ≤ 0x0F then some (0xC0000 + 0x4000 * (u - 0x0C), 0xC4000 + 0x4000 * (u - 0x0C), some (104 + (u - 0x0C)))
  else if 0x10 ≤ u ∧ u ≤ 0x11 then some (0xD0000 + 0x100 * (u - 0x10), 0xD0100 + 0x100 * (u - 0x10), some (112 + (u - 0x10)))
  else if 0x18 ≤ u ∧ u ≤ 0x1F then some (0x100000 + 0x20000 * (u - 0x18), 0x120000 + 0x20000 * (u - 0x18), some (72 + (u - 0x18)))
  else if 0x20 ≤ u ∧ u ≤ 0x28 then some (0x200000 + 0x100000 * (u - 0x20), 0x300000 + 0x100000 * (u - 0x20), some (80 + (u - 0x20)))
  else if 0x30 ≤ u ∧ u ≤ 0x34 then some (0xB00000 + 0x10000 * (u - 0x30), 0xB10000 + 0x10000 * (u - 0x30), some (89 + (u - 0x30)))
  else if 0x38 ≤ u ∧ u ≤ 0x3B then some (0xC00000 + 0x100000 * (u - 0x38), 0xD00000 + 0x100000 * (u - 0x38), some (108 + (u - 0x38)))
  else if u = 0x3C then some (0x2C8000, 0x2D0000, none)
  else if u = 0x3D then some (0x1110000, 0x1120000, none)
  else if u = 0x3E then some (0x1100000, 0x1110000, none)
  else none

namespace Chip

/-- A control register's EN is 0 and its status register's IDLE is 1 (R67). -/
def quiet (c : Chip) (ctrl status : Nat) : Bool := !c.on ctrl ⟨0, 1⟩ && bfGet ⟨0, 1⟩ (c.view status) == 1

/-- The unit is disabled (R89). -/
def unitDisabled (c : Chip) (u : Nat) : Bool :=
  if u = 0x05 then c.quiet Reg.DTM_CTRL Reg.DTM_STATUS
  else if u = 0x08 then c.quiet Reg.TET_CTRL Reg.TET_STATUS
  else if u = 0x0B then (List.range 4).all (fun m => c.quiet (Reg.MBUS_CTRL m) (Reg.MBUS_STATUS m))
  else if u < 0x10 then c.quiet (Reg.MEM_CTRL (u - 0x0C)) (Reg.MEM_STATUS (u - 0x0C))
  else if u < 0x18 then c.quiet (Reg.XM_CTRL (u - 0x10)) (Reg.XM_STATUS (u - 0x10))
  else if u < 0x20 then (List.range 32).all (fun j => c.quiet (Reg.PORT_CTRL (32 * (u - 0x18) + j)) (Reg.PORT_STATUS (32 * (u - 0x18) + j)))
  else if u < 0x30 then
    let s := u - 0x20
    c.quiet (Reg.PRS_CTRL s) (Reg.PRS_STATUS s) && c.quiet (Reg.FWD_CTRL s) (Reg.FWD_STATUS s)
      && c.quiet (Reg.CLS_CTRL s) (Reg.CLS_STATUS s) && c.quiet (Reg.RWR_CTRL s) (Reg.RWR_STATUS s) && (c.panelOf s).isNone
  else if u < 0x38 then c.quiet (Reg.TS_CTRL (u - 0x30)) (Reg.TS_STATUS (u - 0x30))
  else if u < 0x3C then c.quiet (Reg.PAT_CTRL (u - 0x38)) (Reg.PAT_STATUS (u - 0x38))
  else if u = 0x3C then c.quiet Reg.FBK_CTRL Reg.FBK_STATUS
  else if u = 0x3D then c.quiet Reg.LRN_CTRL Reg.LRN_STATUS
  else c.quiet Reg.UPD_CTRL Reg.UPD_STATUS

/-- The counters that lie in the unit itself return to 0; those in the central counter store keep their values (R428). -/
def resetCtrs (c : Chip) (lo hi : Nat) (panel : Bool) : Chip :=
  { c with ctrs := c.ctrs.filter (fun x => !(decide (lo ≤ x.1) && decide (x.1 < hi)) || (!panel && snapLatched x.1)) }

/-- The mailboxes of the unit lose their operations, but for those at addresses that keep names. -/
def dropMbx (c : Chip) (lo hi : Nat) (keep : Nat → Bool) : Chip :=
  { c with mbx := c.mbx.filter (fun o => !(decide (lo ≤ o.mbx.cmd) && decide (o.mbx.cmd < hi)) || keep o.mbx.cmd) }

/-- Everything in an address range that a reset of its unit clears. -/
def clearUnit (c : Chip) (lo hi : Nat) (panel : Bool) (keep : Nat → Bool) : Chip :=
  ((c.resetRegs lo hi keep).resetCtrs lo hi panel).dropMbx lo hi keep

/-- A register that a write applies to all nine slices (R141, R176, R202, R225). -/
def isBcast (k : Nat) : Bool :=
  match descOf k with
  | some (d, _) => d.scope == .bcast
  | none => false

/-- Copy the common registers of slice t into slice s: one copy of the maps (R88). -/
def copyCommon (t s : Nat) (m : NMap Word) : NMap Word :=
  (m.filter (fun x => decide (0x200000 + 0x100000 * t ≤ x.1) && decide (x.1 < 0x300000 + 0x100000 * t) && isBcast x.1)).foldl
    (fun m x => mset regDefault m (x.1 - 0x100000 * t + 0x100000 * s) x.2) m

/-- Slice s has its common registers from another slice that is on, and that does not itself wait for its reset after a failure (R88). -/
def takeCommon (c : Chip) (s : Nat) : Chip :=
  match (List.range 9).find? (fun t => t != s && c.domOn (80 + t) && !c.sliceFailed t) with
  | some t =>
    let c1 := { c with regs := copyCommon t s c.regs, active := copyCommon t s c.active, prev := copyCommon t s c.prev }
    let c2 := (c1.setF (Reg.PRS_STATUS s) Fd.PRS_STATUS_VALID (c1.fld (Reg.PRS_STATUS t) Fd.PRS_STATUS_VALID)).setF (Reg.RWR_STATUS s)
      Fd.RWR_STATUS_VALID (c1.fld (Reg.RWR_STATUS t) Fd.RWR_STATUS_VALID)
    [0, 1].foldl (fun c b => (c.wr (Reg.PRS_UCODE_VERSION s b) (c.reg (Reg.PRS_UCODE_VERSION t b))).wr (Reg.RWR_UCODE_VERSION s b)
      (c.reg (Reg.RWR_UCODE_VERSION t b))) c2
  | none => c

/-- A reload brings words of unit u in the spaces from a to b back, free of errors (R88). -/
def reloadWords (c : Chip) (a b u : Nat) : Chip :=
  c.renewLocs false (fun l => decide (a ≤ l.space) && decide (l.space ≤ b) && l.unit == u)

/-- The cells that wait in a slice's head-cell cache go back. -/
def emptyCache (c : Chip) (s : Nat) : Chip :=
  let l := (c.pipe.headCache.filter (fun x => x.1 == s)).flatMap (·.2)
  let c1 := l.foldl freeCell c
  { c1 with pipe.headCache := c1.pipe.headCache.filter (fun x => x.1 != s) }

/-- Reset of slice s (R88, R339, R340). -/
def resetSlice (c : Chip) (s lo hi : Nat) : Chip :=
  let c1 := ((c.flushSlice s).emptyCache s).clearUnit lo hi false isFbk
  let c2 := ((c1.takeCommon s).reloadWords 0 4 s).genUp s
  { c2.setFailed s false with pipe.learnQ := c2.pipe.learnQ.filter (fun r => r.slice != s) }

/-- Reset of panel p (R88): its ports, its spares and what its queues hold. -/
def resetPanel (c : Chip) (p lo hi : Nat) : Chip :=
  let lost := c.bpm.txq.filter (fun x => x.port / 32 == p)
  let c1 := (lost.foldl releaseCopy c).clearUnit lo hi true (fun _ => false)
  { c1 with
    pnl.ports := c1.pnl.ports.filter (fun x => x.1 / 32 != p), pnl.txEnd := c1.pnl.txEnd.filter (fun x => x.1 / 32 != p), pnl.spares := c1.pnl.spares.filter (fun x => x.1 / 2 != p),
    pipe.bridle := c1.pipe.bridle.filter (fun f => f.port / 32 != p), bpm.txq := c1.bpm.txq.filter (fun x => x.port / 32 != p) }

/-- Reset of HBM controller k (R88): the stack is trained again, its contents are lost. -/
def resetHbm (c : Chip) (k lo hi : Nat) : Chip :=
  let c1 := (c.loseRecords.clearUnit lo hi false (fun _ => false)).setF (Reg.MEM_STATUS k) Fd.MEM_STATUS_TRAINED 1
  { c1.dropBanks k with
    hbm.refAt := c1.hbm.refAt.filter (fun x => x.1 / 32 != k), hbm.stepAt := c1.hbm.stepAt.filter (fun x => x.1 / 32 != k),
    hbm.chans := c1.hbm.chans.filter (fun x => x.1 / 32 != k), hbm.due := c1.hbm.due.filter (fun x => x.1 != k),
    hbm.migAt := c1.hbm.migAt.filter (fun x => x.1 != k), hbm.backQ := mdel c1.hbm.backQ k, hbm.backed := c1.hbm.backed.erase k }

/-- Reset of extension port n (R88, R295): the link trains again. -/
def resetXm (c : Chip) (n lo hi : Nat) : Chip :=
  let cap := c.fld (Reg.XM_STATUS n) Fd.XM_STATUS_CAP_GIB
  let c1 := c.clearUnit lo hi false (fun _ => false)
  { (c1.setF (Reg.XM_STATUS n) Fd.XM_STATUS_CAP_GIB cap).setF (Reg.XM_STATUS n) Fd.XM_STATUS_LINK_UP (b2n (cap != 0)) with
    hbm.timeouts := mdel c1.hbm.timeouts n, hbm.timedOut := mdel c1.hbm.timedOut n }

/-- Reset of table store k (R88, R178, R343): reloaded from its backing copy, then enabled. -/
def resetStore (c : Chip) (k lo hi : Nat) : Chip :=
  let c1 := c.opStoreReloadComplete k true
  let c2 := (c1.clearUnit lo hi false (fun _ => false)).setF (Reg.TS_CTRL k) Fd.TS_CTRL_EN 1
  { c2.renewStore k with flt.storeErr := c2.flt.storeErr.filter (fun e => e.1 != k) }

/-- Reset of pattern engine n (R88): VALID, WIDE and VERSION describe the automaton memory, which is reloaded. -/
def resetPat (c : Chip) (n lo hi : Nat) : Chip :=
  let c1 := c.clearUnit lo hi false (fun k => k == Reg.PAT_VERSION n 0 || k == Reg.PAT_VERSION n 1)
  let c2 := (c1.setF (Reg.PAT_STATUS n) Fd.PAT_STATUS_VALID (c.fld (Reg.PAT_STATUS n) Fd.PAT_STATUS_VALID)).setF (Reg.PAT_STATUS n)
    Fd.PAT_STATUS_WIDE (c.fld (Reg.PAT_STATUS n) Fd.PAT_STATUS_WIDE)
  c2.reloadWords 5 5 n

/-- What the reset of the update engine leaves: the transactions, and the registers that say what the tables hold: epoch, slots,
partition map and seeds (R88, log 121). -/
def updKept (k : Nat) : Bool :=
  k == Reg.UPD_EPOCH || k == Reg.UPD_STATUS || (decide (Reg.UPD_SLOT 0 ≤ k) && decide (k < Reg.UPD_CNT 0))

/-- What the reset of unit u does. -/
def resetUnitDo (c : Chip) (u lo hi : Nat) : Chip :=
  let all := c.clearUnit lo hi false (fun _ => false)
  if u = 0x05 then { all with dtm := Dtm.reset }
  else if u = 0x08 then { all with tet := { Tet.reset with aloneAt := c.now } }
  else if u = 0x0B then all
  else if u < 0x10 then c.resetHbm (u - 0x0C) lo hi
  else if u < 0x18 then c.resetXm (u - 0x10) lo hi
  else if u < 0x20 then c.resetPanel (u - 0x18) lo hi
  else if u < 0x30 then c.resetSlice (u - 0x20) lo hi
  else if u < 0x38 then c.resetStore (u - 0x30) lo hi
  else if u < 0x3C then c.resetPat (u - 0x38) lo hi
  else if u = 0x3C then { all with fbk := Fbk.reset }
  else if u = 0x3D then { all with pipe.learnQ := [], upd.lrnFilter := [], upd.lrnChanges := 0, upd.lrnPeriod := 100 }
  else c.clearUnit lo hi false updKept

/-- A unit whose reset did not end within its bound (R87): reported failed; a table store's slices fail with it (R343). -/
def resetUnitFail (c : Chip) (u : Nat) : Chip :=
  if 0x30 ≤ u ∧ u ≤ 0x34 then
    let k := u - 0x30
    let c1 := (c.opStoreReloadComplete k false).setF (Reg.TS_STATUS k) Fd.TS_STATUS_FAILED 1
    (if c.flt.reloads.any (fun r => r.1 == k) then c1 else (storeSlices k).foldl slicePowerOff c1).report u 0 0x0E outDegraded
  else c.report u 0 0x19 outReported

/-- So many write bursts of which the unit is master or target have not had their last beat: they are discarded whole (R90). -/
def abortBursts (c : Chip) (n : Nat) : Chip :=
  c.setF Reg.RST_BURST_ABORT Fd.RST_BURST_ABORT_COUNT (min (c.fld Reg.RST_BURST_ABORT Fd.RST_BURST_ABORT_COUNT + n) 0xFFFFFFFF)

/-- The RESET_UNIT operation: codes of R87; ok says whether the reset ended within its bound. -/
def actResetUnit (ok : Bool) (bursts : Nat) (args : List Nat) (m : Store) (c : Chip) : Store × Chip × Option (Nat × List Nat) :=
  let u := args.headD 0 % 256
  match unitRange u with
  | none => (m, c, some (1, []))
  | some (lo, hi, dom) =>
    if (match dom with | some d => !c.domOn d | none => false) then (m, c, some (3, []))
    else if !c.unitDisabled u then (m, c, some (2, []))
    else if ok then (if 0x0C ≤ u ∧ u ≤ 0x0F then m.lostStack (u - 0x0C) else m, (c.resetUnitDo u lo hi).abortBursts bursts, some (0, []))
    else (m, (c.resetUnitFail u).abortBursts bursts, some (4, []))

/-- RESET_UNIT (R87, R90): write bursts that the reset meets before their last beat are an operand. -/
def opResetUnit (rq : Req) (tag : BitVec 16) (ok : Bool) (bursts : Nat) (m : Store) (c : Chip) : Store × Chip :=
  c.mbxRunBoth rq tag .rstBlk 1 m (actResetUnit ok bursts)

end Chip

/-! The meanings. -/

/-- RESET_UNIT. -/
def execResetUnit (rq : Req) (tag : BitVec 16) (x : BlockReset) (s : State) : Host.Outcome State Fault Refusal :=
  runBoth s (Chip.opResetUnit rq tag x.ok x.bursts)

end Sys2Proof.Machine
end

