-- ==== Sys2Proof/Machine/Critical.lean ====
section
/-!
DEFINITION. Events at the fault collector's wire pairs, received or injected (R328, R355); one of class 0x15 is reset source 6
(R327).
-/

namespace Sys2Proof.Machine

namespace Chip

/-- A recorded event of class 0x15 is reset source 6, or holds the engine under the Plain profile (R75, R76, R327). -/
def criticalEvent (on : Bool) (m : Store) (c : Chip) : Store × Chip :=
  if !on then (m, c)
  else if c.plain then (m, { c with boot.plainHold := true })
  else resetSource 6 m c

/-- FAULT_EVENT (R328, R329): one AON cycle. The events of the cycle enter the fault queues of their dies, and the collector takes one
event of each die. -/
def opFaultEvent (evs : List FaultEv) (m : Store) (c : Chip) : Store × Chip :=
  let r := (evs.foldl arrive c).takeDies
  (r.1.faultEvents r.2).criticalEvent (r.2.any (fun ev => ev.cls == 0x15)) m

/-- Arguments with which INJECT raises an event of class 0x15 (R355). -/
def injectCritical (c : Chip) (args : List Nat) : Bool :=
  let a := args.getD 0 0
  c.on Reg.FLT_CTRL Fd.FLT_CTRL_INJECT_EN && decide (a < 65536) && args.getD 1 0 == 0 && unitListed (bitsOf a 7 0)
    && bitsOf a 15 11 == 0x15 && !c.flt.wires.any (fun w => w.unit == bitsOf a 7 0 && w.line == bitsOf a 10 8)

/-- INJECT (R355). -/
def opInject (rq : Req) (tag : BitVec 16) (m : Store) (c : Chip) : Store × Chip :=
  (c.mbxRun rq tag .flt 3 actInject).criticalEvent (c.mbxStarts rq .flt 3 && c.injectCritical (c.mbxArgs .flt)) m

end Chip

/-! The meanings. -/

/-- FAULT_EVENT. -/
def execFaultEvent (evs : List FaultEv) (s : State) : Host.Outcome State Fault Refusal := runBoth s (Chip.opFaultEvent evs)

/-- INJECT. -/
def execInject (rq : Req) (tag : BitVec 16) (s : State) : Host.Outcome State Fault Refusal := runBoth s (Chip.opInject rq tag)

end Sys2Proof.Machine
end

