-- ==== Sys2Proof/Machine/RegWrite.lean ====
section
/-!
DEFINITION. Register writes (R55 to R62, R67 to R70, R73, R81): which register a write reaches, the values that are reserved only in
combination with other fields or other state, what a VF may not change (R390), and what the write of a register sets off.
-/

namespace Sys2Proof.Machine

/-- A row has an epoch-class field. -/
def hasEpoch (fs : List FieldDesc) : Bool := fs.any (fun f => f.cls == .epoch)

/-- Fields that a write from a VF leaves unchanged (R390): their lowest bits, by register. -/
def vfKept (name : String) : List Nat :=
  if name = "TM_Q_CFG0" then [0]
  else if name = "TM_Q_CFG1" then [21, 20, 17]
  else if name = "TM_Q_SHARE" then [0]
  else if name = "TM_Q_POL" then [31, 0]
  else if name = "TM_POL_CFG" then [24]
  else []

/-- The fields of a register that exist in element ix: VRM_ADDR belongs to master 3 (R426), selector 39 is reserved (R181), and J, Q,
F and H of the critical classes are fixed (R354), as is V of owner 255 (R250). -/
def fieldsOf (d : RegDesc) (ix : List Nat) : List FieldDesc :=
  if d.name = "MBUS_CFG" ∧ ix.headD 0 ≠ 3 then d.fields.filter (fun f => f.lo != 24)
  else if d.name = "CLS_KSEL" ∧ ix.getD 2 0 = 9 then [⟨0, 24, .rw, .epoch, 0, .any⟩]
  else if d.name = "FLT_CLASS_CFG" ∧ (ix.headD 0 = 0x11 ∨ ix.headD 0 = 0x14 ∨ ix.headD 0 = 0x15) then d.fields.filter (fun f => f.lo == 0)
  else if d.name = "BPM_OWNER_CFG" ∧ ix.headD 0 = 255 then d.fields.filter (fun f => f.lo != 31)
  else d.fields

/-- Width of a lookup step's key in bytes, by table (R172). -/
def stepKeyBytes (t : Nat) : Nat := [4, 16, 3, 8, 4, 16].getD t 0

/-- Blocks of a kind of the TM window (R274). -/
def winBlocks (kind : Nat) : Nat := [8, 2, 1, 1, 16].getD kind 0

/-- A combination of MODE, UNIT and EVENT that R415 defines. -/
def pmcDefined (mode unit ev : Nat) : Bool :=
  let slice := decide (0x20 ≤ unit) && decide (unit ≤ 0x28)
  let listed := slice || (decide (0x18 ≤ unit) && decide (unit ≤ 0x1F)) || (decide (0x38 ≤ unit) && decide (unit ≤ 0x3E))
    || (decide (0x0C ≤ unit) && decide (unit ≤ 0x0F)) || unit == 0x12 || unit == 0x13 || unit == 0x06
  listed && (if mode = 0 then decide (ev ≤ 3) else ev == 0x80 || (ev == 0x81 && slice))

namespace Chip

/-! Values that are reserved in combination (R62). -/

/-- Ring r of parcel p is within its grant (R377, R388); parcel 0 is held to capacity only. upd, punt, inj: the grant. -/
def ringGranted (p r upd punt inj : Nat) : Bool :=
  p == 0 || r == 8 || (decide (r < 4) && decide (r < upd)) || (decide (4 ≤ r) && decide (r < 8) && decide (r - 4 < upd))
    || (decide (9 ≤ r) && decide (r < 12) && decide (r - 9 < punt)) || (decide (12 ≤ r) && decide (r - 12 < inj))

/-- Ranges of kind k of two parcels other than 0 overlap, with the range of p at base and count (R389). -/
def rangeClash (c : Chip) (p k base count : Nat) : Bool :=
  p != 0 && (List.range 64).any (fun q =>
    let b := c.fld (Reg.PAR_RANGE_BASE q k) Fd.PAR_RANGE_BASE_BASE
    let n := c.fld (Reg.PAR_RANGE_CNT q k) Fd.PAR_RANGE_CNT_COUNT
    q != 0 && q != p && decide (base < b + n) && decide (b < base + count) && decide (0 < n) && decide (0 < count))

/-- Field-book ring r fits within its memory (R221), its BASE registers as they are. -/
def fbkFits (c : Chip) (r : Nat) (w : Word) : Bool :=
  let base := c.rd (Reg.FBK_RING_BASE_LO r) + c.rd (Reg.FBK_RING_BASE_HI r) * 2 ^ 32
  let top := base + recordLen * 2 ^ bfGet Fd.FBK_RING_CFG_SIZE w
  decide (top ≤ if bfGet Fd.FBK_RING_CFG_LOC w = 1 then 2 ^ 52 else 4096 * c.fld Reg.FBK_HBM_CFG Fd.FBK_HBM_CFG_PAGES)

/-- The three reserves, with that of every port, exceed the cells of the enabled groups (R229). -/
def reservesExceed (c : Chip) : Bool :=
  let ports := (List.range 256).foldl (fun t n => t + c.fld (Reg.BPM_PORT_RSV n) Fd.BPM_PORT_RSV_RSV) 0
  let groups := ((List.range 8).filter (fun g => c.groupEn g)).length
  decide (65536 * groups < ports + c.fld Reg.BPM_HEAD_CFG Fd.BPM_HEAD_CFG_RSV + c.fld Reg.BPM_REFILL_CFG Fd.BPM_REFILL_CFG_CELLS)

/-- Enabling pool k breaks the bound of R242, or it has no leaves. -/
def poolExceeds (c : Chip) (k : Nat) : Bool :=
  let others := (List.range 16).foldl (fun t j => if j ≠ k ∧ c.on (Reg.BPM_XP_CFG j) Fd.BPM_XP_CFG_EN then t + c.poolLeaves j else t) 0
  c.poolLeaves k == 0 || decide (67108864 < others + c.poolLeaves k)

/-- Combinations within the parcel, ring and pool registers. -/
def comboHost (c : Chip) (k : Nat) (name : String) (ix : List Nat) (w : Word) : Bool :=
  let i := ix.headD 0
  if name = "PAR_RINGS" then
    (List.range 8).all (fun j => bfGet Fd.PAR_RINGS_PUNT_MAP w / 4 ^ j % 4 != 3)
      && (List.range 16).all (fun r => !c.ringOn i r
        || ringGranted i r (bfGet Fd.PAR_RINGS_UPD w) (bfGet Fd.PAR_RINGS_PUNT w) (bfGet Fd.PAR_RINGS_INJ w))
  else if name = "PAR_RANGE_BASE" then
    !c.rangeClash i (ix.getD 1 0) (bfGet Fd.PAR_RANGE_BASE_BASE w) (c.fld (Reg.PAR_RANGE_CNT i (ix.getD 1 0)) Fd.PAR_RANGE_CNT_COUNT)
  else if name = "PAR_RANGE_CNT" then
    !c.rangeClash i (ix.getD 1 0) (c.fld (Reg.PAR_RANGE_BASE i (ix.getD 1 0)) Fd.PAR_RANGE_BASE_BASE) (bfGet Fd.PAR_RANGE_CNT_COUNT w)
  else if name = "RING_CFG" then
    let p := if k < 0x10000000 then 0 else k / 0x10000 % 64
    bfGet Fd.RING_CFG_EN w == 0 || ringGranted p (k % 0x400 / 0x40) (c.act (Reg.PAR_RINGS p) Fd.PAR_RINGS_UPD)
      (c.act (Reg.PAR_RINGS p) Fd.PAR_RINGS_PUNT) (c.act (Reg.PAR_RINGS p) Fd.PAR_RINGS_INJ)
  else if name = "FBK_RING_CFG" then bfGet Fd.FBK_RING_CFG_EN w == 0 || c.fbkFits i w
  else if name = "BPM_CTRL" then bfGet Fd.BPM_CTRL_EN w == 0 || c.on Reg.BPM_CTRL Fd.BPM_CTRL_EN || !c.reservesExceed
  else if name = "BPM_XP_CFG" then
    bfGet Fd.BPM_XP_CFG_EN w == 0 || c.on (Reg.BPM_XP_CFG i) Fd.BPM_XP_CFG_EN || !c.poolExceeds i
  else true

/-- The values that the register would hold after the write are allowed together (R62). -/
def comboOk (c : Chip) (k : Nat) (name : String) (ix : List Nat) (w : Word) : Bool :=
  let i := ix.headD 0
  if name = "PRS_BANK_SEL" then bitOf (c.fld (Reg.PRS_STATUS i) Fd.PRS_STATUS_VALID) (bfGet Fd.PRS_BANK_SEL_BANK w)
  else if name = "RWR_BANK_SEL" then bitOf (c.fld (Reg.RWR_STATUS i) Fd.RWR_STATUS_VALID) (bfGet Fd.RWR_BANK_SEL_BANK w)
  else if name = "PAT_REGION_SEL" then bitOf (c.fld (Reg.PAT_STATUS i) Fd.PAT_STATUS_VALID) (bfGet Fd.PAT_REGION_SEL_REGION w)
  else if name = "FWD_PROG_STEP" then
    let t := bfGet Fd.FWD_PROG_STEP_TABLE w
    decide (bfGet Fd.FWD_PROG_STEP_KEY_OFF w + stepKeyBytes t ≤ 96) && (bfGet Fd.FWD_PROG_STEP_ROLE w == 0 || t == 3)
  else if name = "CLS_KSEL" then (List.range 4).all (fun j => decide (w.toNat / 256 ^ j % 128 ≤ 95) || (j == 3 && ix.getD 2 0 == 9))
  else if name = "LB_FIELD" then decide (bfGet Fd.LB_FIELD_KEY_OFF w + bfGet Fd.LB_FIELD_LEN w + 1 ≤ 96)
  else if name = "TM_WIN_SEL" then decide (bfGet Fd.TM_WIN_SEL_BLOCK w < winBlocks (bfGet Fd.TM_WIN_SEL_KIND w))
  else if name = "PMC_CTR_CFG" then
    pmcDefined (bfGet Fd.PMC_CTR_CFG_MODE w) (bfGet Fd.PMC_CTR_CFG_UNIT w) (bfGet Fd.PMC_CTR_CFG_EVENT w)
  else if name = "TS_CTRL" then bfGet Fd.TS_CTRL_EN w == 1 || !(storeSlices i).any (fun s => (c.panelOf s).isSome)
  else c.comboHost k name ix w

/-! What a write sets off. -/

/-- A bucket of a policer whose size has been written is set to that size (R255). -/
def sizeBucket (c : Chip) (name : String) (i : Nat) : Chip :=
  let fr := mget (fun _ => ((0, 0) : Nat × Nat)) c.tm.polFrac i
  let c1 := if name = "TM_POL_CBS" then c.wrN (Reg.TM_POL_TC i) (c.fld (Reg.TM_POL_CBS i) Fd.TM_POL_CBS_SIZE)
    else c.wrN (Reg.TM_POL_TX i) (c.fld (Reg.TM_POL_XBS i) Fd.TM_POL_XBS_SIZE)
  { c1 with tm.polFrac := mset (fun _ => (0, 0)) c1.tm.polFrac i (if name = "TM_POL_CBS" then (0, fr.2) else (fr.1, 0)) }

/-- A shaper's credit is brought up to date before its rate or its burst changes (R266), and a policer's buckets before a size does
(R255, log 52). -/
def settleShaper (c : Chip) (name : String) (ix : List Nat) : Chip :=
  let i := ix.headD 0
  if name = "TM_Q_RATE" ∨ name = "TM_Q_BURST" then c.setShaper (elQueue i) (c.shaper (elQueue i))
  else if name = "TM_N_RATE" ∨ name = "TM_N_BURST" then c.setShaper (elSub i) (c.shaper (elSub i))
  else if name = "TM_G_RATE" ∨ name = "TM_G_BURST" then c.setShaper (elGroup i) (c.shaper (elGroup i))
  else if name = "TM_P_RATE" ∨ name = "TM_P_BURST" then c.setShaper (elPort i) (c.shaper (elPort i))
  else if name = "TM_POL_CBS" ∨ name = "TM_POL_XBS" then c.refillPolicer i
  else c

/-- The MSI-X mask bit of a vector is cleared while it is pending: the message goes out. -/
def msixUnmask (c : Chip) (k : Nat) : Chip :=
  let p := if k < 0x10000000 then 0 else k / 0x10000 % 64
  let v := k % 0x400 / 0x10
  if k % 0x10 = 12 ∧ c.rd k % 2 = 0 ∧ bitOf (c.rd (Reg.MSIX_PBA p (v / 32))) (v % 32) = true then
    (c.wrN (Reg.MSIX_PBA p (v / 32)) (setBit (c.rd (Reg.MSIX_PBA p (v / 32))) (v % 32) false)).sendMsix p v
  else c

/-- A write of PROFILE empties the tables of the stores, with the bit errors in them (R161, R162). The classifier's rules and the
pattern engines' sets lie in memories of their own (R183, R193). -/
def emptyTables (c : Chip) : Chip :=
  { c.renewLocs true (fun l => l.space == 6) with
    tbl.em := [], tbl.emHit := [], tbl.lpm4 := [], tbl.lpm6 := [], tbl.idx := [],
    tbl.staleEm := [], tbl.staleLpm4 := [], tbl.staleLpm6 := [], tbl.staleIdx := [] }

/-- A traffic-manager entry has been written: a new sampling profile or FC_MODE counts from now, and a child that is not eligible any
more ends its visit (R265, R268, R269). -/
def tmWritten (c : Chip) (k : Nat) (name : String) (i : Nat) (old : Word) : Chip :=
  let c1 :=
    if name = "TM_Q_CFG0" then
      if bfGet Fd.TM_Q_CFG0_SAMP_PROF old = c.fld k Fd.TM_Q_CFG0_SAMP_PROF then c
      else { c with tm.sampAt := mset (fun _ => 0) c.tm.sampAt i c.tbUs }
    else if name = "TM_P_CFG" then
      if bfGet Fd.TM_P_CFG_FC_MODE old = c.fld k Fd.TM_P_CFG_FC_MODE then c else c.newFcMode i
    else if name = "TM_POL_CBS" ∨ name = "TM_POL_XBS" then c.sizeBucket name i
    else c
  c1.settleDrr

/-- Effects of a register whose fields have been stored; old: what it held. -/
def afterWrite (c : Chip) (k : Nat) (name : String) (ix : List Nat) (old : Word) (v : Nat) : Chip :=
  let i := ix.headD 0
  if isBkp k then c.postBkp k (c.reg k)
  else if name = "FLT_STATUS" then if bitOf v 4 && bfGet Fd.FLT_STATUS_FIRST_V old == 1 then c.keepFirst else c
  else if name = "GLB_LOCK" then if c.locked then c.lockPort else c
  else if name = "DTM_CTRL" then if c.on k Fd.DTM_CTRL_EN then c else c.datumStop
  else if name = "DTM_CFG" then if c.on k Fd.DTM_CFG_PPS_EN then c else c.ppsLow
  else if name = "MGT_DBG_CTRL" then if v % 2 = 1 then c.lockPort else c
  else if name = "MGT_DBG_CFG" then if c.on k Fd.MGT_DBG_CFG_BOOT_OPEN then c else c.lockPort
  else if name = "PMC_SNAP_CTRL" then if c.on k Fd.PMC_SNAP_CTRL_GO then c.snapTake else c
  else if name = "TET_CTRL" then
    if c.on k Fd.TET_CTRL_EN then if bfGet Fd.TET_CTRL_EN old = 1 then c else { c with tet.aloneAt := c.now }
    else (c.setF Reg.TET_STATUS Fd.TET_STATUS_LINK 0).setF Reg.TET_STATUS Fd.TET_STATUS_PARTNER 0
  else if name = "MEM_RANK" then
    if v / 2 ^ 31 = 1 then
      if c.retirable i (ix.getD 1 0) then c.retire i (ix.getD 1 0) else c.setF k Fd.MEM_RANK_RETIRE_REQ 0
    else c
  else if name = "BPM_XP_CFG" then
    if bfGet Fd.BPM_XP_CFG_EN old = 1 ∧ c.on k Fd.BPM_XP_CFG_EN = true then c else c.setF (Reg.BPM_XP_STATUS i) Fd.BPM_XP_STATUS_READY 0
  else if name = "BPM_AUDIT_CFG" then
    if bfGet Fd.BPM_AUDIT_CFG_EN old = 0 ∧ c.on k Fd.BPM_AUDIT_CFG_EN = true then { c with bpm.auditAt := c.now } else c
  else if name = "MSIX_TABLE" then c.msixUnmask k
  else if Reg.TM_Q_CFG0 0 ≤ k ∧ k < 0x30000000 then c.tmWritten k name i old
  else if name = "TM_SAMP_PROF" then
    if bfGet Fd.TM_SAMP_PROF_PERIOD_US old = c.fld k Fd.TM_SAMP_PROF_PERIOD_US then c
    else { c with tm.sampFrom := mset (fun _ => 0) c.tm.sampFrom i c.tbUs }
  else if name = "FBK_PORT_SAMPLE" then { c with fbk.samples := mset (fun _ => 0) c.fbk.samples i 0 }
  else if name = "UPD_CFG" then if c.running k then c else c.emptyTables
  else c

/-- The keys that a write of key k stores to: the same register of every slice that is on, for the common ones (R141, R176, R202,
R225). -/
def storeKeys (c : Chip) (d : RegDesc) (k : Nat) : List Nat :=
  if d.scope = .bcast then
    let s := (k - 0x200000) / 0x100000
    ((List.range 9).filter (fun t => t == s || c.domOn (80 + t))).map (fun t => k - 0x100000 * s + 0x100000 * t)
  else [k]

/-- A write of fields fs to the register at key k: R62 with the combinations, then field by field (R68), and what follows. -/
def storeReg (c : Chip) (rq : Req) (a k : Nat) (d : RegDesc) (ix : List Nat) (fs : List FieldDesc) (v : Nat) : Chip :=
  let old := c.reg k
  let run := c.running k
  let new := fieldsNew c.locked run fs old v
  if !fieldsOk fs v || !c.comboOk k d.name ix new then c.err rq errBadValue a
  else
    let c0 := c.settleShaper d.name ix
    let c1 := if heldDiffers (fun f => f.type == .rwl && c.locked) fs old v then c0.err rq errLockWrite a else c0
    let c2 := if heldDiffers (fun f => f.cls == .static && run) fs old v then c1.err rq errCfgIgnored a else c1
    let c3 := (c.storeKeys d k).foldl (fun c j => c.wr j (fieldsNew (c2.locked) run fs (c.reg j) v)) c2
    let c4 := if hasEpoch fs then c3.setF Reg.GLB_STATUS Fd.GLB_STATUS_SHADOW_PENDING 1 else c3
    c4.afterWrite k d.name ix old v

/-- FLT_CTRL: INJECT_EN is a field, the other bits act and read 0 once applied; a release in the write that sets FAULT_N meets that
event in its cycle (R332, R333, R354). -/
def writeFltCtrl (c : Chip) (rq : Req) (a : Nat) (d : RegDesc) (v : Nat) : Chip :=
  let c1 := c.storeReg rq a Reg.FLT_CTRL d [] (d.fields.filter (fun f => f.type == .rwl)) v
  let c2 := if bitOf v 2 then c1.setFaultn rq else c1
  let c3 := if bitOf v 0 then c2.releaseQuench else c2
  if bitOf v 1 then c3.releaseFaultn else c3

/-- PORT_CTRL of port n: EN, then RESTART, then RELEASE (R101, R109, R122, R123). -/
def writePortCtrl (c : Chip) (n v : Nat) : Chip :=
  let c1 := if bitOf v 0 then c.portEnable n else if c.on (Reg.PORT_CTRL n) Fd.PORT_CTRL_EN then c.portDisable n else c
  let c2 := if bitOf v 1 then c1.portRestart n else c1
  if bitOf v 2 then c2.portRelease n else c2

/-- A write of a 64-bit counter that software may set, one word of it (R64, R419). -/
def writeCtr (c : Chip) (k v : Nat) : Chip :=
  let low := k / 8 * 8
  let cur := (c.cnt low).toNat
  c.setCnt low (BitVec.ofNat 64 (if k = low then cur / 2 ^ 32 * 2 ^ 32 + v else cur % 2 ^ 32 + v * 2 ^ 32))

/-- A register that a write reaches as a register: every one but mailbox commands and RST_SWRESET. -/
def writeKey (c : Chip) (rq : Req) (a k : Nat) (d : RegDesc) (ix : List Nat) (v : Nat) : Chip :=
  let i := ix.headD 0
  if d.width = .ctr64 then c
  else if d.width = .rw64 then c.writeCtr k v
  else if d.name = "FLT_CTRL" then c.writeFltCtrl rq a d v
  else if d.name = "FLT_WDT_KICK" then if v / 2 ^ 16 = 0x6B1C then c.kick i else c.err rq errBadValue a
  else if d.name = "PWR_RTC_HI" then { c with pwr.rtcHi := v % 2 ^ 16 }
  else if d.name = "PWR_RTC_LO" then
    (c.postBkp Reg.PWR_RTC_HI (BitVec.ofNat 32 c.pwr.rtcHi)).postBkp Reg.PWR_RTC_LO (BitVec.ofNat 32 v)
  else if d.name = "DTM_CLK_INC_HI" then c.incHiWrite i v
  else if d.name = "DTM_CLK_INC_LO" then c.incLoWrite i v
  else if d.name = "DTM_CLK_ADJ" then c.adjWrite i v
  else if d.name = "PORT_CTRL" then c.writePortCtrl (32 * i + ix.getD 1 0) v
  else if d.name = "PRS_RD_ADDR" then c.prsRdWrite rq i v
  else if d.name = "RWR_RD_ADDR" then c.rwrRdWrite rq a v
  else if d.name = "CLS_RD_ADDR" then c.clsRdWrite rq a v
  else if d.name = "PAR_CTRL" then
    if v % 2 = 1 ∧ c.parState i = 0 then (c.setF (Reg.PAR_CTRL i) Fd.PAR_CTRL_EN 1).setPar i 1 else c
  else if d.name = "VF_DOORBELL" then
    let p := if k < 0x10000000 then 0 else k / 0x10000 % 64
    let r := k % 0x40 / 4
    if c.doorbellBad p r v then c.err rq errBadValue a else c.wrN (Reg.RING_HOST p r) v
  else
    match rq with
    | .vf _ =>
      if (vfKept d.name).isEmpty || !fieldsOk (fieldsOf d ix) v then c.storeReg rq a k d ix (fieldsOf d ix) v
      else (c.err rq errBadAccess a).storeReg rq a k d ix ((fieldsOf d ix).filter (fun f => !(vfKept d.name).contains f.lo)) v
    | _ => c.storeReg rq a k d ix (fieldsOf d ix) v

/-- The mailbox whose command register lies at a key. -/
def mbxOfCmd (k : Nat) : Option Mbx :=
  if k < 0xC00000 then
    ([.rstBlk, .boot, .pwr, .flt, .dtm 0, .dtm 1, .par, .tet, .mbus 0, .mbus 1, .mbus 2, .mbus 3, .bpm 0, .bpm 1, .fbk,
      .vf 0 0, .vf 0 1] : List Mbx).find? (fun m => m.cmd == k)
  else if k < 0x10000000 then ([.pat 0, .pat 1, .pat 2, .pat 3, .upd] : List Mbx).find? (fun m => m.cmd == k)
  else if k < 0x20000000 then
    let p : Fin 64 := Fin.ofNat 64 (k / 0x10000)
    ([.vf p 0, .vf p 1] : List Mbx).find? (fun m => m.cmd == k)
  else none

/-- A register whose write acts outside the registers: RST_SWRESET and the mailbox commands. -/
def isAction (k : Nat) : Bool := k == Reg.RST_SWRESET || (mbxOfCmd k).isSome

/-- The error flag that a write of an acting register sets: the key and KIND of RST_SWRESET, which the Plain profile refuses (R76,
R80); an OP that RST_BLK_CMD reserves (R80); a mailbox that the requester may not command, or that is PENDING (R71, R374). -/
def actionErr (c : Chip) (rq : Req) (k v : Nat) : Option Nat :=
  match mbxOfCmd k with
  | none => if c.plain || v / 2 ^ 16 != 0x5A17 || !(v % 4 == 1 || v % 4 == 2) then some errBadValue else none
  | some m =>
    if m = .rstBlk ∧ v % 2 ^ 16 ≠ 1 then some errBadValue
    else if !m.allows rq || (c.mbxFind m).isSome then some errBadAccess
    else none

/-- A 32-bit register write, but for what the acting registers set off (R55 to R68). -/
def write32 (c : Chip) (rq : Req) (a v : Nat) : Chip :=
  if a % 4 ≠ 0 then c.err rq errBadAccess a
  else
    match c.target rq a with
    | none => c.err rq errBadAccess a
    | some (k, d, ix) =>
      if c.addrOff k then c.err rq errOffAccess a
      else if isAction k then
        match c.actionErr rq k v with
        | some bit => c.err rq bit a
        | none => c
      else c.writeKey rq a k d ix v

/-- A write would set no error flag (R95). -/
def writeOk (c : Chip) (rq : Req) (a v : Nat) : Bool := ((c.wrN Reg.GLB_STATUS 0).write32 rq a v).rd Reg.GLB_STATUS % 32 == 0

end Chip

end Sys2Proof.Machine
end

