-- ==== Sys2Proof/Machine/Flash.lean ====
section
/-!
DEFINITION. The boot image's checks and records (R91 to R98) and the BOOT mailbox (R100).
-/

namespace Sys2Proof.Machine

/-- Where slot s lies, in areas of 256 MiB: the first device holds areas 0 and 1, the second area 2. Slot B lies in the second area of
the first device when the second does not answer (R91). -/
def areaOf (cs1 : Bool) (s : Nat) : Nat := if s = 0 then 0 else if cs1 then 2 else 1

/-- A slot as an image is read from its area. -/
def slotImg (m : Store) (area : Nat) : ImgR := fun o n => m.flashRd area o n

/-- The device that holds a slot answers (R91). -/
def slotAnswers (e : FlashEnv) (s : Nat) : Bool := if s = 0 then e.cs0 else e.cs1 || e.cs0

/-- Reading a slot times out. -/
def slotTimeout (e : FlashEnv) (s : Nat) : Bool := if s = 0 then e.timeoutA else e.timeoutB

/-- A configuration record (R95). -/
structure BootRec where
  off : Nat
  mask : Nat
  value : Nat
  deriving DecidableEq, Repr

/-- Records of 12 bytes. -/
def bootRecs : Nat → List Byte → List BootRec
  | 0, _ => []
  | n + 1, l => ⟨leNat (slice l 0 4), leNat (slice l 4 4), leNat (slice l 8 4)⟩ :: bootRecs n (l.drop 12)

/-- The records of a section's bytes; none where the length is not a whole number of records. -/
def recsOf (l : List Byte) : Option (List BootRec) := if l.length % 12 = 0 then some (bootRecs (l.length / 12) l) else none

/-- Early records may address these blocks only: GLB, RST, BOOT, PWR, FLT and MBUS (R95). -/
def earlyBlock (off : Nat) : Bool := decide (off < 0x50000) || (decide (0xB0000 ≤ off) && decide (off < 0xC0000))

namespace Chip

/-- What a record writes: new = (old AND NOT MASK) OR (VALUE AND MASK) (R95). -/
def recValue (c : Chip) (r : BootRec) : Nat :=
  let old := match c.target .boot r.off with
    | some (k, _, _) => c.rd k
    | none => 0
  (old &&& (2 ^ 32 - 1 - r.mask)) ||| (r.value &&& r.mask)

/-- A record's write sets no error flag. -/
def recOk (c : Chip) (r : BootRec) : Bool := c.writeOk .boot r.off (c.recValue r)

/-- The early records of an image are valid: each is checked before any is applied (R95). -/
def earlyOk (c : Chip) (R : ImgR) : Bool :=
  match recsOf (sectBytes R (sectAt R 0)) with
  | none => false
  | some l => l.all (fun r => earlyBlock r.off && c.recOk r)

/-- The header and the section table pass, so that the sections can be read: a later check of an image for which they do not is never
the first to fail. -/
def readable (R : ImgR) : Bool := headerOk R 1 && bootTableOk R

/-- A change of the flash that is not complete lies in an area from lo up to hi (R96). -/
def tornIn (c : Chip) (area lo hi : Nat) : Bool :=
  c.boot.torn.any (fun x => x.1 == area && decide (x.2.1 < hi) && decide (lo < x.2.1 + x.2.2))

/-- The early section's digest matches, and no change of it or of the header was interrupted (R96). -/
def earlyDigestOk (c : Chip) (m : Store) (area : Nat) : Bool :=
  let R := slotImg m area
  digestOk R 0x030 (sectBytes R (sectAt R 0)) && !c.tornIn area 0 (bodyStart R)

/-- The body's digest matches, and no change of the slot was interrupted (R96). -/
def bodyDigestOk (c : Chip) (m : Store) (area : Nat) : Bool :=
  let R := slotImg m area
  bodyOk R (bodyStart R) && !c.tornIn area 0 (2 ^ 28)

/-- The checks 0x01 to 0x0C of a slot (R96). -/
def b1Checks (c : Chip) (e : FlashEnv) (m : Store) (s : Nat) : List (Nat × Bool) :=
  let area := areaOf e.cs1 s
  let R := slotImg m area
  [(0x01, slotAnswers e s && imgU R 0 4 == 0x4D495A41), (0x02, headerOk R 1)] ++ c.keyChecks R ++
    [(0x08, decide (imgHbm R ≤ if Config.isH96 then 0x18 else 0x0C)), (0x09, bootTableOk R),
     (0x0A, readable R && c.earlyDigestOk m area), (0x0B, readable R && c.earlyOk R), (0x0C, !slotTimeout e s)]

/-- BOOT_SLOT_STATUS: the reason, and the low byte of the header's SVN where a device answered (R99). -/
def slotStatus (c : Chip) (e : FlashEnv) (m : Store) (s reason : Nat) : Chip :=
  c.wrN (Reg.BOOT_SLOT_STATUS s) ((if slotAnswers e s then imgSvn (slotImg m (areaOf e.cs1 s)) % 256 else 0xFF) * 2 ^ 16 + reason)

/-! The BOOT mailbox (R100). -/

/-- The slot of the running image. -/
def runningSlot (c : Chip) : Option Nat :=
  if 3 ≤ c.boot.phase ∧ c.boot.phase ≠ 6 then some (c.fld Reg.BOOT_STATUS Fd.BOOT_STATUS_SLOT) else none

/-- n free bytes: what a flash operation that failed leaves (log 47). -/
def freeBytes (c : Chip) (n : Nat) : List Byte := (List.range n).map (fun i => BitVec.ofNat 8 (Config.freeWord (c.freeCtr + i)).toNat)

/-- ARG0 to ARG2 name a part of a slot, aligned to al, with a length that is a multiple of al in the bounds. -/
def flashArgsOk (args : List Nat) (al lo hi : Nat) : Bool :=
  let off := args.getD 1 0
  let len := args.getD 2 0
  decide (args.getD 0 0 ≤ 1) && off % al == 0 && len % al == 0 && decide (lo ≤ len) && decide (len ≤ hi) && decide (off + len ≤ 0x10000000)

/-- Area of the slot that ARG0 names. -/
def argArea (c : Chip) (args : List Nat) : Nat := areaOf c.pins.cs1 (args.getD 0 0)

/-- Bytes of the flash from offset o on: those of a change that a reset interrupted are free (R96, log 47). -/
def flashBytes (c : Chip) (m : Store) (area o n : Nat) : List Byte :=
  (m.flashRd area o n).mapIdx (fun i b => if c.tornIn area (o + i) (o + i + 1) then BitVec.ofNat 8 (Config.freeWord (c.freeCtr + i)).toNat else b)

/-- What remains of a part of the flash outside the n bytes at o. -/
def tornLess (area o n : Nat) (x : Nat × Nat × Nat) : List (Nat × Nat × Nat) :=
  if x.1 ≠ area then [x]
  else
    [(area, x.2.1, min (x.2.1 + x.2.2) o - x.2.1), (area, max x.2.1 (o + n), x.2.1 + x.2.2 - max x.2.1 (o + n))].filter
      (fun y => y.2.2 != 0)

/-- The flash change that the BOOT mailbox has made is complete (R96, R100). -/
def flashDone (c : Chip) (o : MbxOp) : Chip :=
  if o.mbx = .boot ∧ (o.op = 2 ∨ o.op = 3) then
    { c with boot.torn := c.boot.torn.flatMap (tornLess (c.argArea o.args) (o.args.getD 1 0) (o.args.getD 2 0)) }
  else c

/-- FLASH_READ: err, a flash error or timeout. -/
def actFlashRead (err : Bool) (args : List Nat) (m : Store) (c : Chip) : Store × Chip × Option (Nat × List Nat) :=
  if !flashArgsOk args 4 4 4096 then (m, c, some (1, []))
  else if err then (m, c, some (3, []))
  else
    let n := args.getD 2 0
    (m, { c with freeCtr := c.freeCtr + n }, some (0, dataWords (n / 4) (leNat (c.flashBytes m (c.argArea args) (args.getD 1 0) n))))

/-- A change of a slot's bytes: refused in the running slot, free bytes after an error. Until the operation completes, a reset
interrupts it (R96). -/
def flashChange (err : Bool) (args : List Nat) (m : Store) (c : Chip) (new : Store → Store) : Store × Chip × Option (Nat × List Nat) :=
  if c.runningSlot = some (args.getD 0 0) then (m, c, some (2, []))
  else if err then
    let n := args.getD 2 0
    (m.flashWr (c.argArea args) (args.getD 1 0) (c.freeBytes n), { c with freeCtr := c.freeCtr + n }, some (3, []))
  else (new m, { c with boot.torn := (c.argArea args, args.getD 1 0, args.getD 2 0) :: c.boot.torn }, some (0, []))

/-- FLASH_ERASE; a length of 0 erases nothing (log 120). -/
def actFlashErase (err : Bool) (args : List Nat) (m : Store) (c : Chip) : Store × Chip × Option (Nat × List Nat) :=
  if !flashArgsOk args 65536 0 0x10000000 then (m, c, some (1, []))
  else flashChange err args m c (fun m => m.flashErase (c.argArea args) (args.getD 1 0) (args.getD 2 0))

/-- FLASH_WRITE, from the data window (log 48). -/
def actFlashWrite (err : Bool) (args : List Nat) (m : Store) (c : Chip) : Store × Chip × Option (Nat × List Nat) :=
  if !flashArgsOk args 256 256 4096 then (m, c, some (1, []))
  else
    let data := (List.range (args.getD 2 0 / 4)).flatMap (fun j => leBytes 4 (c.rd (Reg.BOOT_MBX_DATA j)))
    flashChange err args m c (fun m => m.flashWr (c.argArea args) (args.getD 1 0) data)

/-- SLOT_CHECK: the checks of R96 as at B1, and the body digest. -/
def actSlotCheck (e : FlashEnv) (args : List Nat) (m : Store) (c : Chip) : Store × Chip × Option (Nat × List Nat) :=
  let s := args.getD 0 0
  if 2 ≤ s then (m, c, some (1, []))
  else
    let area := areaOf e.cs1 s
    let reason := firstFail ((c.wiped 1).b1Checks e m s ++ [(0x0D, readable (slotImg m area) && c.bodyDigestOk m area)])
    (m, { c with pins.cs1 := e.cs1 }.slotStatus e m s reason, some (0, [reason]))

/-- ADVANCE_SVN (R98): blown, the fuses verify after programming. -/
def actAdvanceSvn (blown : Bool) (args : List Nat) (m : Store) (c : Chip) : Store × Chip × Option (Nat × List Nat) :=
  let v := args.getD 0 0
  if v ≤ c.fld Reg.BOOT_FUSE Fd.BOOT_FUSE_SVN_MIN ∨ c.fld Reg.BOOT_STATUS Fd.BOOT_STATUS_SVN < v then (m, c, some (4, []))
  else if blown then (m, c.setF Reg.BOOT_FUSE Fd.BOOT_FUSE_SVN_MIN v, some (0, []))
  else (m, c, some (6, []))

/-- REVOKE_KEY (R97). -/
def actRevokeKey (blown : Bool) (args : List Nat) (m : Store) (c : Chip) : Store × Chip × Option (Nat × List Nat) :=
  let k := args.getD 0 0
  let rev := c.fld Reg.BOOT_FUSE Fd.BOOT_FUSE_REVOKED
  if 3 ≤ k then (m, c, some (1, []))
  else if (c.runningSlot.isSome && c.fld Reg.BOOT_STATUS Fd.BOOT_STATUS_KEY == k) || [0, 1, 2].all (fun j => j == k || bitOf rev j) then
    (m, c, some (5, []))
  else if blown then (m, c.setFBit Reg.BOOT_FUSE Fd.BOOT_FUSE_REVOKED k true, some (0, []))
  else (m, c, some (6, []))

/-- FLASH_READ. -/
def opFlashRead (rq : Req) (tag : BitVec 16) (err : Bool) (m : Store) (c : Chip) : Store × Chip :=
  c.mbxRunBoth rq tag .boot 1 m (actFlashRead err)

/-- FLASH_ERASE. -/
def opFlashErase (rq : Req) (tag : BitVec 16) (err : Bool) (m : Store) (c : Chip) : Store × Chip :=
  c.mbxRunBoth rq tag .boot 2 m (actFlashErase err)

/-- FLASH_WRITE. -/
def opFlashWrite (rq : Req) (tag : BitVec 16) (err : Bool) (m : Store) (c : Chip) : Store × Chip :=
  c.mbxRunBoth rq tag .boot 3 m (actFlashWrite err)

/-- SLOT_CHECK. -/
def opSlotCheck (rq : Req) (tag : BitVec 16) (dev : FlashEnv) (m : Store) (c : Chip) : Store × Chip :=
  c.mbxRunBoth rq tag .boot 4 m (actSlotCheck dev)

/-- ADVANCE_SVN. -/
def opAdvanceSvn (rq : Req) (tag : BitVec 16) (blown : Bool) (m : Store) (c : Chip) : Store × Chip :=
  c.mbxRunBoth rq tag .boot 0x10 m (actAdvanceSvn blown)

/-- REVOKE_KEY. -/
def opRevokeKey (rq : Req) (tag : BitVec 16) (blown : Bool) (m : Store) (c : Chip) : Store × Chip :=
  c.mbxRunBoth rq tag .boot 0x11 m (actRevokeKey blown)

end Chip

/-! The meanings. -/

/-- FLASH_READ. -/
def execFlashRead (rq : Req) (tag : BitVec 16) (err : Bool) (s : State) : Host.Outcome State Fault Refusal :=
  runBoth s (Chip.opFlashRead rq tag err)

/-- FLASH_ERASE. -/
def execFlashErase (rq : Req) (tag : BitVec 16) (err : Bool) (s : State) : Host.Outcome State Fault Refusal :=
  runBoth s (Chip.opFlashErase rq tag err)

/-- FLASH_WRITE. -/
def execFlashWrite (rq : Req) (tag : BitVec 16) (err : Bool) (s : State) : Host.Outcome State Fault Refusal :=
  runBoth s (Chip.opFlashWrite rq tag err)

/-- SLOT_CHECK. -/
def execSlotCheck (rq : Req) (tag : BitVec 16) (dev : FlashEnv) (s : State) : Host.Outcome State Fault Refusal :=
  runBoth s (Chip.opSlotCheck rq tag dev)

/-- ADVANCE_SVN. -/
def execAdvanceSvn (rq : Req) (tag : BitVec 16) (blown : Bool) (s : State) : Host.Outcome State Fault Refusal :=
  runBoth s (Chip.opAdvanceSvn rq tag blown)

/-- REVOKE_KEY. -/
def execRevokeKey (rq : Req) (tag : BitVec 16) (blown : Bool) (s : State) : Host.Outcome State Fault Refusal :=
  runBoth s (Chip.opRevokeKey rq tag blown)

end Sys2Proof.Machine
end

