-- ==== Sys2Proof/Machine/Commands.lean ====
section
/-!
DEFINITION. Writes as a whole: registers, mailbox commands and RST_SWRESET (R55, R68, R71, R75); completion of mailbox operations
(R71, R72); the BKP handshake (R81); GLB_LOCK (R61); the restart of a control core (R346); the debug module's system bus (R413).
-/

namespace Sys2Proof.Machine

/-- The flash devices answer: what a SLOT_CHECK finds that was not started by its own command (log 49). -/
def FlashEnv.ready : FlashEnv := ⟨true, true, false, false⟩

/-- A target that acknowledges, with the bytes it answers. -/
def BusEnv.acks (l : List Byte) : BusEnv := ⟨false, [], true, true, false, false, true, l⟩

/-- Run a chip operation where the byte memories may change too. -/
def chipAct (f : Chip → List Nat → Chip × Option (Nat × List Nat)) (args : List Nat) (m : Store) (c : Chip) :
    Store × Chip × Option (Nat × List Nat) := (m, f c args)

namespace Chip

/-! What a mailbox operation does when it was not started by its own command: nothing outside disturbs it, and what a bus target
answers is free (log 49). -/

/-- The management-bus operations. -/
def busAct (m op : Nat) (c : Chip) (args : List Nat) : Chip × Option (Nat × List Nat) :=
  let b := BusEnv.acks (c.freeBytes 32)
  let c1 := { c with freeCtr := c.freeCtr + 32 }
  match op with
  | 1 => ((c1.busRun m b true false args).1, some (c1.busRun m b true false args).2)
  | 2 => ((c1.busRun m b false true args).1, some (c1.busRun m b false true args).2)
  | 3 => ((c1.busRun m b true true args).1, some (c1.busRun m b true true args).2)
  | 4 => ((c1.busCheck m b).1, some (if (c1.busCheck m b).2 then 0 else 7, []))
  | _ => (c, some (1, []))

/-- The BOOT operations (R100). -/
def bootAct (op : Nat) : List Nat → Store → Chip → Store × Chip × Option (Nat × List Nat) :=
  match op with
  | 1 => actFlashRead false
  | 2 => actFlashErase false
  | 3 => actFlashWrite false
  | 4 => actSlotCheck FlashEnv.ready
  | 0x10 => actAdvanceSvn true
  | 0x11 => actRevokeKey true
  | _ => fun _ m c => (m, c, some (1, []))

/-- The PWR operations (R374). -/
def pwrAct (op : Nat) : Chip → List Nat → Chip × Option (Nat × List Nat) :=
  match op with
  | 1 => actEnter
  | 2 => actExit
  | 3 => actSetLevel
  | 4 => actDomainOff
  | 5 => actDomainOn
  | 6 => actDomainClear
  | _ => fun c _ => (c, some (1, []))

/-- The PAR operations (R397). -/
def parAct (op : Nat) : List Nat → Store → Chip → Store × Chip × Option (Nat × List Nat) :=
  match op with
  | 1 => chipAct actQuiesce
  | 2 => chipAct actResume
  | 3 => chipAct actFreeze
  | 4 => fun args m c => actSave m c args
  | 5 => fun args m c => chipAct (actRestore m) args m c
  | 6 => chipAct actParcelReset
  | 7 => chipAct actRemove
  | _ => fun _ m c => (m, c, some (1, []))

/-- The pool operations of a BPM mailbox (R244). -/
def bpmAct (mb op : Nat) : List Nat → Store → Chip → Store × Chip × Option (Nat × List Nat) :=
  match op with
  | 1 => fun args m c =>
    let r := actXalloc mb false args m c
    (r.1, r.2.1, some r.2.2)
  | 2 => fun args m c =>
    let r := actXfree false args m c
    (r.1, r.2.1, some r.2.2)
  | 3 => chipAct actCellInfo
  | _ => fun _ m c => (m, c, some (1, []))

/-- An operation by its mailbox and OP; a code 0x01 for an OP that the mailbox does not list. -/
def mbxAct (mb : Mbx) (op : Nat) (args : List Nat) (m : Store) (c : Chip) : Store × Chip × Option (Nat × List Nat) :=
  let bad := chipAct (fun c _ => (c, some (1, [])))
  let f := match mb, op with
    | .rstBlk, 1 => actResetUnit true 0
    | .boot, n => bootAct n
    | .pwr, n => chipAct (pwrAct n)
    | .flt, 1 => chipAct actReadJournal
    | .flt, 2 => chipAct actGiveback
    | .flt, 3 => chipAct actInject
    | .dtm _, 1 => chipAct actServoMode
    | .dtm _, 2 => chipAct actSample
    | .dtm _, 3 => chipAct actServoStatus
    | .par, n => parAct n
    | .tet, 1 => chipAct actTetSwap
    | .tet, 2 => chipAct actTetResync
    | .mbus k, n => chipAct (busAct k.val n)
    | .bpm k, n => bpmAct k.val n
    | .fbk, 1 => fun a m c => chipAct (actReadRecord none [] m) a m c
    | .pat e, 1 => chipAct (fun c a => scanTestAct [] e.val a c)
    | .pat e, 2 => chipAct (fun c a => readRuleAct [] e.val a c)
    | .upd, 1 => chipAct (fun c a => probeAct [] none a c)
    | .upd, 2 => chipAct (fun c a => readRawAct [] a c)
    | .upd, 0x10 => chipAct (fun c a => rehashAct a c)
    | .vf p 0, 1 => chipAct (fun c a => probeAct [] (if p.val = 0 then none else some p.val) a c)
    | .vf p 1, 1 => fun a m c => chipAct (actReadRecord (if p.val = 0 then none else some p.val) [] m) a m c
    | _, _ => bad
  f args m c

/-! Writes. -/

/-- A write of the register at key k, with all that it sets off. -/
def writeAct (c : Chip) (rq : Req) (a k : Nat) (d : RegDesc) (ix : List Nat) (v : Nat) (m : Store) : Store × Chip :=
  match mbxOfCmd k with
  | some mb =>
    if c.actionErr rq k v = some errBadValue then (m, c.err rq errBadValue a)
    else
      let r := c.mbxRunBoth rq (BitVec.ofNat 16 (v / 2 ^ 16)) mb (v % 2 ^ 16) m (mbxAct mb (v % 2 ^ 16))
      r.2.criticalEvent (mb = .flt && v % 2 ^ 16 == 3 && c.mbxStarts rq mb 3 && c.injectCritical (c.mbxArgs mb)) r.1
  | none =>
    if k = Reg.RST_SWRESET then
      match c.actionErr rq k v with
      | some bit => (m, c.err rq bit a)
      | none => c.resetSource (if v % 4 = 1 then 4 else 5) m
    else (m, c.writeKey rq a k d ix v)

/-- A 32-bit write (R55 to R57). -/
def writeFull (c : Chip) (rq : Req) (a v : Nat) (m : Store) : Store × Chip :=
  if a % 4 ≠ 0 then (m, c.err rq errBadAccess a)
  else
    match c.target rq a with
    | none => (m, c.err rq errBadAccess a)
    | some (k, d, ix) => if c.addrOff k then (m, c.err rq errOffAccess a) else c.writeAct rq a k d ix v m

/-- A write of 32 or 64 bits: 64 bits are a write of the low word, then one of the high word; be: every byte is enabled (R55). -/
def writeReg (c : Chip) (rq : Req) (a : Nat) (v : BitVec 64) (w64 be : Bool) (m : Store) : Store × Chip :=
  if !be then (m, c.err rq errBadAccess a)
  else if w64 then
    if a % 8 ≠ 0 then (m, c.err rq errBadAccess a)
    else
      let r := c.writeFull rq a (v.toNat % 2 ^ 32) m
      r.2.writeFull rq (a + 4) (v.toNat / 2 ^ 32) r.1
  else c.writeFull rq a (v.toNat % 2 ^ 32) m

/-- REGISTER_WRITE. -/
def opRegisterWrite (rq : Req) (a : Nat) (v : BitVec 64) (w64 be : Bool) (m : Store) (c : Chip) : Store × Chip :=
  c.writeReg rq a v w64 be m

/-- GLB_LOCK_SET (R61): every RWL field is locked, and the debug port with it (R411). -/
def opGlbLockSet (rq : Req) (c : Chip) : Chip :=
  c.regCmd rq Reg.GLB_LOCK (fun c => (c.setF Reg.GLB_LOCK Fd.GLB_LOCK_LOCK 1).lockPort)

/-- RST_SWRESET with its key and a KIND (R75, R76). -/
def swReset (rq : Req) (code : Nat) (m : Store) (c : Chip) : Store × Chip :=
  if !rq.priv then (m, c.err rq errBadAccess Reg.RST_SWRESET)
  else if c.plain then (m, c.err rq errBadValue Reg.RST_SWRESET)
  else c.resetSource code m

/-- SW_WARM_RESET. -/
def opSwWarmReset (rq : Req) (m : Store) (c : Chip) : Store × Chip := swReset rq 4 m c

/-- SW_COLD_RESET. -/
def opSwColdReset (rq : Req) (m : Store) (c : Chip) : Store × Chip := swReset rq 5 m c

/-- BKP_WRITE (R81): the oldest write on its way reaches the BKP domain whole; the two words of the RTC count go together (R373). -/
def opBkpWrite (c : Chip) : Chip :=
  match c.bkpPend with
  | [] => c
  | (k, v) :: l =>
    if k = Reg.PWR_RTC_HI then
      match l with
      | (_, lo) :: l' => { c with bkpPend := l', time.rtc := v.toNat % 2 ^ 16 * 2 ^ 32 + lo.toNat }
      | [] => { c with bkpPend := [] }
    else { c with bkpPend := l, bkp := mset regDefault c.bkp k v }

/-! Completion of mailbox operations. -/

/-- An operation that was taken while its core did not run begins. -/
def beginOp (c : Chip) (o : MbxOp) (m : Store) : Store × Chip :=
  let r := mbxAct o.mbx o.op o.args m c
  (r.1, { r.2.1 with mbx := r.2.1.mbx.map (fun x =>
    if x.mbx = o.mbx then { x with begun := true, ready := match r.2.2 with
      | some y => some y
      | none => x.ready } else x) })

/-- What hardware or firmware does to bring a running operation to its end: the give-back once slice 8 is empty (R340), a swap that
exceeds 10 ms (R406), a drain (R369). Other operations end with their own commands. -/
def pushOp (c : Chip) (o : MbxOp) : Chip :=
  match o.mbx, o.op with
  | .flt, 2 => c.finishGiveback
  | .tet, 1 =>
    match c.tet.swap with
    | some t => if t + 10 * msPs < c.now then c.swapFail 3 else c
    | none => c
  | .pwr, 4 => c.drainTry
  | _, _ => c

/-- MAILBOX_COMPLETE (R71, R72): nothing while the core that serves the mailbox does not run (R409). -/
def opMailboxComplete (mb : Mbx) (m : Store) (c : Chip) : Store × Chip :=
  match c.mbxFind mb with
  | none => (m, c)
  | some o =>
    if !c.mbxServed mb o.op then (m, c)
    else
      let r := if o.begun then (m, if o.ready.isSome then c.flashDone o else c.pushOp o) else c.beginOp o m
      (r.2.mbxPublish mb).criticalEvent (mb = .flt && o.op == 3 && !o.begun && c.injectCritical o.args) r.1

/-! Control-core watchdogs (R346). -/

/-- The transaction of a REMOVE or RESTORE is aborted, and the grants that it wrote are as they are in force. -/
def abortParTx (c : Chip) : Chip :=
  match c.hif.parTx with
  | some x =>
    let k := (List.range 8).flatMap (fun i => [Reg.PAR_RANGE_BASE x.parcel i, Reg.PAR_RANGE_CNT x.parcel i])
      ++ [Reg.PAR_QUOTA x.parcel, Reg.PAR_RINGS x.parcel]
    let c1 := match x.slot with
      | some s => k.foldl (fun (c : Chip) j => c.wr j (mget regDefault c.active j)) ((c.removeSlot s).wrN (Reg.UPD_SLOT s) 0)
      | none => c
    { c1 with hif.parTx := none }
  | none => c

/-- The unit of an operation that the core had accepted and not completed returns to its state before the command. A REMOVE whose
transaction has committed has ended with its flip. -/
def undoOp (c : Chip) (o : MbxOp) : Chip :=
  match o.mbx, o.op with
  | .par, 1 | .par, 3 => { c with hif.quiesce := c.hif.quiesce.filter (fun w => !w.host) }
  | .par, 5 | .par, 7 => c.abortParTx
  | .upd, 0x10 =>
    match c.upd.rehash with
    | some r => c.rehashFail r.phys
    | none => c
  | .flt, 2 => (c.setF Reg.FLT_TKO_STATUS Fd.FLT_TKO_STATUS_ACTIVE 0).nextUnserved
  | .tet, 1 => c.swapFail 0xFF
  | .tet, 2 => c.dropResync
  | _, _ => c

/-- An operation not yet completed ends with 0xFF, its unit as it was. -/
def dropOp (c : Chip) (o : MbxOp) : Chip :=
  let c1 := { c with mbx := c.mbx.map (fun x => if x.mbx = o.mbx then { x with ready := some (0xFF, []), begun := true } else x) }
  if o.begun then c1.undoOp o else c1

/-- The safety core restarts core n: CORE_RESTARTS, the operations that it had not completed, and its watchdog anew; after the third
restart in 10 s the core is held. -/
def restartCore (c : Chip) (n : Nat) : Chip :=
  let mine := c.mbx.filter (fun o => (mbxCores o.mbx o.op).contains n && o.ready.isNone)
  let c1 := (mine.foldl dropOp (c.bump (Reg.FLT_CNT 44) 1)).kick n
  let recent := (c1.flt.restarts.filter (fun x => x.1 == n && decide (c.now < x.2 + 10 * sPs))).length + 1
  let c2 := { c1 with flt.restarts := (n, c.now) :: c1.flt.restarts.filter (fun x => decide (c.now < x.2 + 10 * sPs)) }
  if 3 ≤ recent then
    (((c2.setF (Reg.MGT_CORE_STATUS n) Fd.MGT_CORE_STATUS_HELD 1).setF (Reg.MGT_CORE_STATUS n) Fd.MGT_CORE_STATUS_RUN 0).setFBit
      Reg.FLT_WDT_STATUS Fd.FLT_WDT_STATUS_HELD n true).report 0x09 0 0x0F outReported
  else
    let c3 := c2.report 0x09 0 0x0F outDegraded
    if n = 3 then c3.servosEnter else c3

/-- CORE_WATCHDOG_EXPIRY (R346): no kick for TIMEOUT ms, of a core that runs and is not halted (R414). -/
def opCoreWatchdogExpiry (n : Nat) (c : Chip) : Chip :=
  let t := c.fld (Reg.FLT_WDT n) Fd.FLT_WDT_TIMEOUT
  if t ≠ 0 ∧ c.coreServes n = true ∧ mget (fun _ => 0) c.flt.kicks n + t * msPs ≤ c.now then c.restartCore n else c

/-! The system bus of the debug module (R413). -/

/-- SYSTEM_BUS_ACCESS: locked, it captures zeros and changes nothing (R411). -/
def opSystemBusAccess (acc : SbAccess) (m : Store) (c : Chip) : Store × Chip :=
  let ok := c.granted 4
  match acc with
  | .memRead h a =>
    if ok && (h.val == 5 || c.domOn 115) then (m, (c.hartMem h.val a).1.emit (.debug 0x12 (c.hartMem h.val a).2.toNat))
    else (m, c.emit (.debug 0x12 0))
  | .memWrite h a v => (m, if ok && (h.val == 5 || c.domOn 115) then c.setHartMem h.val a v else c)
  | .regRead a w64 => if ok then (m, answerRead .debug a (c.readReg .debug a w64)) else (m, c.emit (.debug 0x12 0))
  | .regWrite a v w64 => if ok then c.writeReg .debug a v w64 true m else (m, c)

end Chip

/-! The meanings. -/

/-- REGISTER_WRITE. -/
def execRegisterWrite (rq : Req) (addr : Nat) (value : BitVec 64) (w64 be : Bool) (s : State) : Host.Outcome State Fault Refusal :=
  runBoth s (Chip.opRegisterWrite rq addr value w64 be)

/-- MAILBOX_COMPLETE. -/
def execMailboxComplete (m : Mbx) (s : State) : Host.Outcome State Fault Refusal := runBoth s (Chip.opMailboxComplete m)

/-- GLB_LOCK_SET. -/
def execGlbLockSet (rq : Req) (s : State) : Host.Outcome State Fault Refusal := runChip s (Chip.opGlbLockSet rq)

/-- BKP_WRITE. -/
def execBkpWrite (s : State) : Host.Outcome State Fault Refusal := runChip s Chip.opBkpWrite

/-- SW_WARM_RESET. -/
def execSwWarmReset (rq : Req) (s : State) : Host.Outcome State Fault Refusal := runBoth s (Chip.opSwWarmReset rq)

/-- SW_COLD_RESET. -/
def execSwColdReset (rq : Req) (s : State) : Host.Outcome State Fault Refusal := runBoth s (Chip.opSwColdReset rq)

/-- CORE_WATCHDOG_EXPIRY. -/
def execCoreWatchdogExpiry (c : Fin 4) (s : State) : Host.Outcome State Fault Refusal :=
  runChip s (Chip.opCoreWatchdogExpiry c.val)

/-- SYSTEM_BUS_ACCESS. -/
def execSystemBusAccess (acc : SbAccess) (s : State) : Host.Outcome State Fault Refusal :=
  runBoth s (Chip.opSystemBusAccess acc)

end Sys2Proof.Machine
end

