-- ==== Sys2Proof/Machine/Boot.lean ====
section
/-!
DEFINITION. The boot phases (R82 to R86, R91 to R97), their exit form (R363), and the boot watchdog.
-/

namespace Sys2Proof.Machine

/-- The SEQ of a journal record (R349). -/
def recSeq (l : List Byte) : Nat := leNat (slice l 0 4)

/-- The newest of slots: the greatest SEQ by signed 32-bit difference (R352). -/
def newestSlot : List (Nat × Nat) → Option (Nat × Nat)
  | [] => none
  | x :: l =>
    match newestSlot l with
    | none => some x
    | some y => if timeDiff x.2 y.2 < 0 then some y else some x

/-- The boot phase in which a configuration record is written: keys of enables name B3 or B5, all others belong to B2 (log 50). -/
def recPhase (name : String) : Nat :=
  if name = "PORT_CTRL" ∨ name = "PAT_CTRL" ∨ name = "FBK_CTRL" ∨ name = "TM_CTRL" ∨ name = "TET_CTRL" then 5
  else if name = "XM_CTRL" ∨ name = "DTM_CTRL" ∨ name = "BPM_XP_CFG" then 3
  else 2

/-- Digests of the firmware in an image: control core i, and 4 for the safety core (R94, R363). -/
def imgFirmware (R : ImgR) : List (Nat × BitVec 384) :=
  (sections R).flatMap (fun x =>
    if x.typ = stCore then ((List.range 4).filter (bitOf x.target)).map (fun i => (i, fwDigest R x))
    else if x.typ = stSafety then [(4, fwDigest R x)] else [])

/-- The bytes of an image's configuration sections. -/
def imgConfig (R : ImgR) : List Byte := ((sections R).filter (fun x => x.typ == stConfig)).flatMap (sectBytes R)

/-- Time to read n bytes at the header's XSPI setting: octal, at one or two bytes a clock (R84, R91, R92). -/
def streamPs (xspi n : Nat) : Nat :=
  let hz := if xspi % 128 = 0 then 50000000 else xspi % 128 * 2000000 * (if 128 ≤ xspi then 2 else 1)
  n * sPs / hz

namespace Chip

/-- The phase begins. -/
def setPhase (c : Chip) (n : Nat) : Chip := { c with boot.phase := n, boot.phaseStart := c.now }

/-! B0. -/

/-- Lost BKP contents (R44, R82): the RTC, every BKP-held field, and the writes on their way. -/
def bkpLoss (c : Chip) : Chip :=
  let c1 := { c with bkp := [], bkpPend := [], regs := c.regs.filter (fun x => !isBkp x.1), time.rtc := 0, boot.bkpLost := false }
  (c1.setBkpF Reg.RST_CAUSE Fd.RST_CAUSE_BKP_LOST 1).report 0x01 0 0x19 outReported

/-- The scan of the journal: invalid slots that are not all zero are counted, and the newest record found (R352). -/
def scanJournal (c : Chip) : Chip :=
  let seq := fun (i : Nat) => if recordValid (c.jrnSlot i) then some (recSeq (c.jrnSlot i)) else none
  let bad := (c.flt.journal.filter (fun x => !recordValid (c.jrnSlot x.1))).length
  let last := c.flt.journal.filterMap (fun x =>
    match seq x.1 with
    | some q => if seq ((x.1 + 1) % 4096) = some ((q + 1) % 2 ^ 32) then none else some (x.1, q)
    | none => none)
  let c1 := c.bump (Reg.FLT_CNT 34) bad
  match newestSlot last with
  | some (i, q) =>
    { c1.wrN Reg.FLT_JRN_STATUS (2 ^ 31 + i) with flt.jrnNext := (i + 1) % 4096, flt.jrnSeq := q }
  | none => { c1.wrN Reg.FLT_JRN_STATUS 0 with flt.jrnNext := 0, flt.jrnSeq := 0 }

/-- The resets that wait for B0 are recorded, oldest first (R81). -/
def recordCauses (c : Chip) : Chip := { c.boot.causes.foldl recordReset c with boot.causes := [] }

/-- BOOT_B0 (R82, R83, R352): VDD_AON is in range (and VBAT with it, log 115), and REFCLK is there to trim the oscillator (R52). -/
def opBootB0 (c : Chip) : Chip :=
  if c.boot.phase ≠ 0 ∨ c.boot.trimmed = true ∨ c.pins.refclk = false then c
  else
    let c1 := { c with boot.trimmed := true, pins.vddAon := true, pins.vbat := true }
    let c2 := if c1.boot.bkpLost then c1.bkpLoss else c1
    c2.recordCauses.scanJournal.tryB1

/-! B1. -/

/-- Every domain comes on, but one that tripped twice (R367, log 19). -/
def domainsUp (c : Chip) (ds : List Nat) : Chip :=
  ds.foldl (fun c d => if c.pwr.stuck.contains d then c.setDom d domFailed else c.setDom d domUp) c

/-- What B1 brings up: the boot core, the debug port with every scope (R411), both slots not examined (R99), the domains. -/
def b1Start (c : Chip) : Chip :=
  let c1 := (c.wrN (Reg.BOOT_SLOT_STATUS 0) 0xFF00FF).wrN (Reg.BOOT_SLOT_STATUS 1) 0xFF00FF
  let c2 := (c1.setF Reg.MGT_DBG_STATUS Fd.MGT_DBG_STATUS_STATE 3).setF Reg.MGT_DBG_STATUS Fd.MGT_DBG_STATUS_SCOPE 0x1F
  { (c2.domainsUp (List.range 117)).setF (Reg.MGT_CORE_STATUS 4) Fd.MGT_CORE_STATUS_RUN 1 with boot.failedSlot := none }

/-- Write records one after the other, as far as the phase lasts (a record may reset the chip); false at the first that sets an error
flag, when check is set. -/
def writeRecs (phase : Nat) (check : Bool) : List BootRec → Store × Chip × Bool → Store × Chip × Bool
  | [], r => r
  | x :: l, (m, c, ok) =>
    if !ok || c.boot.phase != phase then (m, c, ok)
    else if check && !c.recOk x then (m, c, false)
    else
      let w := c.writeFull .boot x.off (c.recValue x) m
      writeRecs phase check l (w.1, w.2, true)

/-- Slot s is accepted: its early records are applied, and B2 starts (R96). -/
def acceptSlot (c : Chip) (m : Store) (s : Nat) : Store × Chip :=
  let R := slotImg m (areaOf c.pins.cs1 s)
  let r := writeRecs 1 false ((recsOf (sectBytes R (sectAt R 0))).getD []) (m, c, true)
  if r.2.1.boot.phase = 1 then (r.1, (r.2.1.setF Reg.BOOT_STATUS Fd.BOOT_STATUS_SLOT s).setPhase 2) else (r.1, r.2.1)

/-- Slot selection (R96): both slots once, s first. -/
def selectSlot (c : Chip) (e : FlashEnv) (m : Store) (s : Nat) : Store × Chip :=
  let a := firstFail (c.b1Checks e m s)
  let c1 := c.slotStatus e m s a
  if a = 0 then c1.acceptSlot m s
  else
    let b := firstFail (c1.b1Checks e m (1 - s))
    let c2 := c1.slotStatus e m (1 - s) b
    if b = 0 then c2.acceptSlot m (1 - s) else (m, c2.startB1)

/-- BOOT_B1 (R35 to R38, R83, R96): the flash leaves its reset; the straps were sampled when B1 began, and a change of theirs waits for
the next B1. With TESTMODE high nothing is loaded. In the exit from Deflated no slot is selected (R363). -/
def opBootB1 (straps : Straps) (e : FlashEnv) (m : Store) (c : Chip) : Store × Chip :=
  if c.boot.phase ≠ 1 then (m, c)
  else
    let c1 := { c with pins.straps := straps, pins.xspiReset := true, pins.cs1 := e.cs1, pins.wakeOut := false }
    if c1.pins.testmode then (m, c1)
    else if c.boot.exitForm then (m, (c1.domainsUp (c1.pwr.entryOff.filter (fun d => !(decide (104 ≤ d) && decide (d ≤ 107))))).setPhase 2)
    else
      let s := match c.boot.failedSlot with
        | some f => 1 - f
        | none => c.fld Reg.BOOT_SLOT_PREF Fd.BOOT_SLOT_PREF_PREF
      c1.b1Start.selectSlot e m s

/-! B2. -/

/-- Bit i of a target names a unit that is off. -/
def targetOff (c : Chip) (n dom target : Nat) : Bool := (List.range n).any (fun i => bitOf target i && !c.domOn (dom + i))

/-- A microcode section into bank 0 of every slice (R138, R139, R217). -/
def loadUcode (c : Chip) (R : ImgR) (x : Sect) : Option Chip :=
  let rewrite := x.typ == stRewrite
  if x.target ≠ 0x1FF ∨ (rewrite = true ∧ 65536 < x.len) ∨ c.targetOff 9 80 x.target = true then none
  else
    match ucRecords rewrite x.len (sectBytes R x) with
    | none => none
    | some l =>
      let c1 := l.foldl (fun c r => (r.entries.mapIdx (fun i v => (r.first + i, v))).foldl
        (if rewrite then putRewrite 0 r.space else putParser 0 r.space) c) c
      let c2 := if rewrite then c1.rwrValid 0 1 else c1.prsValid 0 1
      some (if l.any (fun r => r.space == 4) then
          c2.eachSlice (fun c s => c.wrN (if rewrite then Reg.RWR_UCODE_VERSION s 0 else Reg.PRS_UCODE_VERSION s 0) (ucVersion l))
        else c2)

/-- A pattern set into each target engine (R193). -/
def loadPatterns (c : Chip) (R : ImgR) (x : Sect) : Option Chip :=
  if 16 ≤ x.target ∨ c.targetOff 4 108 x.target = true then none
  else
    match patSet (sectBytes R x) with
    | none => none
    | some p => some (((List.range 4).filter (bitOf x.target)).foldl (fun c e => (c.loadPat e 0 p).patValid e 0 p.wide p.version) c)

/-- The descriptors of an update stream, staged in slot 0 for parcel 0 up to its CLOSE (R83, R142, log 51). -/
def stageTables (l : List Byte) : Nat → Nat → Chip → Option Chip
  | 0, _, c => some c
  | n + 1, i, c =>
    if l.length < 64 * (i + 1) then some c
    else
      let d := descBack (slice l (64 * i) 64)
      if d.op = 1 then stageTables l n (i + 1) c
      else if d.op = 4 then some c
      else if (d.op ≠ 2 ∧ d.op ≠ 3) ∨ d.rsv = true then none
      else
        match targetOf d (slice l d.addr.toNat 136) (d.op == 3) with
        | none => none
        | some t =>
          let r := c.change 0 0 d.table.val (d.op == 3) t
          if r.2 = cOk then stageTables l n (i + 1) r.1 else none

/-- The records of configuration sections that belong to a phase, in order. -/
def phaseRecs (c : Chip) (phase : Nat) (l : List BootRec) : List BootRec :=
  l.filter (fun x => (match c.target .boot x.off with
    | some (_, d, _) => recPhase d.name
    | none => 2) == phase)

/-- All configuration records of an image. -/
def imgRecs (R : ImgR) : List BootRec := (recsOf (imgConfig R)).getD []

/-- Load one section (R94); false is a load failure, code 0x0E. -/
def loadSect (R : ImgR) (r : Store × Chip × Bool) (x : Sect) : Store × Chip × Bool :=
  let m := r.1
  let c := r.2.1
  let take := fun (o : Option Chip) => match o with
    | some c1 => (m, c1, true)
    | none => (m, c, false)
  if !r.2.2 || c.boot.phase != 2 then r
  else if x.typ = stConfig then
    match recsOf (sectBytes R x) with
    | some l => writeRecs 2 true (c.phaseRecs 2 l) (m, c, true)
    | none => (m, c, false)
  else if x.typ = stParser ∨ x.typ = stRewrite then take (c.loadUcode R x)
  else if x.typ = stPattern then take (c.loadPatterns R x)
  else if x.typ = stTables then take (stageTables (sectBytes R x) (x.len / 64 + 1) 0 c)
  else if x.typ = stCore then (m, c, decide (x.target < 16) && c.domOn 115)
  else r

/-- B2 has refused the image (R96): the reason is recorded, all loaded content discarded, and B1 starts with the other slot first. -/
def refuseB2 (c : Chip) (e : FlashEnv) (m : Store) (s reason : Nat) : Store × Chip :=
  let c1 := (flushJournal c.flt.jrnQ.length c).wiped 1
  let c2 := { c1 with boot.lastReset := c.boot.lastReset, boot.arrived := c.boot.arrived, boot.failedSlot := some s }
  (m, (c2.slotStatus e m s reason).startB1)

/-- A core's firmware runs. -/
def coreRuns (c : Chip) (n : Nat) : Chip :=
  let c1 := c.setF (Reg.MGT_CORE_STATUS n) Fd.MGT_CORE_STATUS_RUN 1
  if n < 4 then c1.kick n else c1

/-- The cores that have firmware are released; C3 starts its servos in the mode of their keys (R83, R321). -/
def releaseCores (c : Chip) (fw : List (Nat × BitVec 384)) : Chip :=
  let c1 := fw.foldl (fun c x => c.coreRuns (if x.1 = 4 then 5 else x.1)) c
  if fw.any (fun x => x.1 == 3) then
    [0, 1].foldl (fun c x => c.servoModeSet x (Config.servoMode x).val) c1
  else c1

/-- The image is accepted (R83, R99). -/
def acceptB2 (c : Chip) (R : ImgR) : Chip :=
  let fw := imgFirmware R
  let c1 := (c.setF Reg.BOOT_STATUS Fd.BOOT_STATUS_SVN (imgSvn R)).setF Reg.BOOT_STATUS Fd.BOOT_STATUS_KEY (imgKey R)
  let l := (Config.imageLevel (imgConfig R)).val
  { c1.releaseCores fw with boot.firmware := fw, boot.fwDigests := fw, boot.level := l, boot.offDoms := Config.imageDomOff (imgConfig R) }.setPhase 3

/-- What B2 enables before it stages the tables: the update engine and the stores (R177, R178), with the boot transaction OPEN in slot 0
(R142). -/
def b2Tables (c : Chip) : Chip :=
  let c1 := (List.range 5).foldl (fun c k => if c.domOn (89 + k) then c.setF (Reg.TS_CTRL k) ⟨0, 1⟩ 1 else c) (c.setF Reg.UPD_CTRL ⟨0, 1⟩ 1)
  (c1.wrN (Reg.UPD_SLOT 0) 0).setSlot 0 sOpen

/-- The sections are loaded: those of tables after the configuration that they depend on (R162). -/
def loadBody (c : Chip) (m : Store) (R : ImgR) : Store × Chip × Bool :=
  let l := (sections R).drop 1
  let r := (l.filter (fun x => x.typ != stTables)).foldl (loadSect R) (m, c, true)
  (l.filter (fun x => x.typ == stTables)).foldl (loadSect R) (r.1, if r.2.1.boot.phase = 2 then r.2.1.b2Tables else r.2.1, r.2.2)

/-- The body is streamed, loaded and checked. -/
def streamBody (c : Chip) (e : FlashEnv) (m : Store) (s : Nat) : Store × Chip :=
  let area := areaOf e.cs1 s
  let R := slotImg m area
  if !slotAnswers e s || slotTimeout e s then c.refuseB2 e m s 0x0C
  else
    let r := c.loadBody m R
    let c1 := r.2.1
    if c1.boot.phase ≠ 2 then (r.1, c1)
    else
      let later := c1.phaseRecs 3 (imgRecs R) ++ c1.phaseRecs 5 (imgRecs R)
      if !c1.bodyDigestOk r.1 area then c1.refuseB2 e r.1 s 0x0D
      else if !r.2.2 || !(writeRecs 2 true later (r.1, c1, true)).2.2 then c1.refuseB2 e r.1 s 0x0E
      else (r.1, c1.acceptB2 R)

/-- The exit's B2: the firmware in the slot that booted has the digests that the loader kept, else reset source 2 (R363). -/
def exitB2 (c : Chip) (e : FlashEnv) (m : Store) (s : Nat) : Store × Chip :=
  let fw := imgFirmware (slotImg m (areaOf e.cs1 s))
  if slotAnswers e s && !slotTimeout e s && decide (fw = c.boot.fwDigests) then (m, (c.releaseCores fw).setPhase 3)
  else c.resetSource 2 m

/-- BOOT_B2 (R83, R96). -/
def opBootB2 (e : FlashEnv) (m : Store) (c : Chip) : Store × Chip :=
  let s := c.fld Reg.BOOT_STATUS Fd.BOOT_STATUS_SLOT
  let c1 := { c with pins.cs1 := e.cs1 }
  if c.boot.phase ≠ 2 then (m, c) else if c.boot.exitForm then c1.exitB2 e m s else c1.streamBody e m s

/-! B3. -/

/-- Training failed rank r of controller k: a spare that fails is fenced; another rank maps to the lowest spare, or is fenced when none
is left (R276, R291). -/
def trainFail (k : Nat) (c : Chip) (r : Nat) : Chip :=
  if 126 ≤ r then c.setF (Reg.MEM_RANK k r) Fd.MEM_RANK_FENCED 1
  else
    match c.freeSpares k with
    | d :: _ => (c.setF (Reg.MEM_RANK k r) Fd.MEM_RANK_RETIRED 1).setF (Reg.MEM_RANK k r) Fd.MEM_RANK_MAP d
    | [] => c.fenceRank k r

/-- Stack k is trained, the spares that failed first. -/
def trainStack (failed : List (Nat × Nat)) (c : Chip) (k : Nat) : Chip :=
  if c.domOn (104 + k) then
    let bad := (List.range 128).filter (fun r => failed.contains (k, r))
    let c1 := ((bad.filter (fun r => decide (126 ≤ r))) ++ (bad.filter (fun r => decide (r < 126)))).foldl (trainFail k) c
    ((c1.countSpares k).setF (Reg.MEM_STATUS k) Fd.MEM_STATUS_TRAINED 1).setF (Reg.MEM_CTRL k) ⟨0, 1⟩ 1
  else c

/-- Extension port n: the device found, with its capacity in GiB, 0 for none (R294). -/
def trainPort (gib : List Nat) (c : Chip) (n : Nat) : Chip :=
  if c.domOn (112 + n) then
    let cap := gib.getD n 0 % 2 ^ 16
    ((c.setF (Reg.XM_STATUS n) Fd.XM_STATUS_CAP_GIB cap).setF (Reg.XM_STATUS n) Fd.XM_STATUS_LINK_UP (b2n (cap != 0))).setF
      (Reg.XM_CTRL n) ⟨0, 1⟩ 1
  else c

/-- The slot that is booting, as an image. -/
def bootImg (c : Chip) (m : Store) : ImgR := slotImg m (areaOf c.pins.cs1 (c.fld Reg.BOOT_STATUS Fd.BOOT_STATUS_SLOT))

/-- B3 but for the exit's part. BPM_CTRL.EN is written as any requester writes it: reserves that do not fit refuse it (R229). -/
def firstB3 (failed : List (Nat × Nat)) (gib : List Nat) (m : Store) (c : Chip) : Store × Chip :=
  let c1 := [0, 1].foldl (trainPort gib) ((List.range 4).foldl (trainStack failed) c)
  let w := (c1.setF Reg.DTM_CTRL ⟨0, 1⟩ 1).writeFull .boot Reg.BPM_CTRL 1 m
  let r := writeRecs 3 false (w.2.phaseRecs 3 (imgRecs (w.2.bootImg w.1))) (w.1, w.2, true)
  (r.1, r.2.1.setPhase 4)

/-- The exit's B3: the stacks leave self-refresh, the extension ports train again (R363). -/
def exitB3 (gib : List Nat) (c : Chip) : Chip :=
  let c1 := [104, 105, 106, 107].foldl (fun c d => if c.domState d = domRetained then c.setDom d domUp else c) c
  ([0, 1].foldl (trainPort gib) c1).setPhase 4

/-- BOOT_B3 (R37, R83, R276, R294, R325). -/
def opBootB3 (failedRanks : List (Nat × Nat)) (cxlGib : List Nat) (m : Store) (c : Chip) : Store × Chip :=
  if c.boot.phase ≠ 3 then (m, c)
  else
    let c1 := { c with pins.cxlPerst0 := true, pins.cxlPerst1 := true }
    if c.boot.exitForm then (m, c1.exitB3 cxlGib) else c1.firstB3 failedRanks cxlGib m

/-! B4. -/

/-- What the exit's B4 brings back; the extension ports keep what B3 found (R363). -/
def exitB4 (c : Chip) : Chip :=
  let xs := [0, 1].map (fun n => (c.reg (Reg.XM_STATUS n)))
  let c1 := c.restoreRegs.reloadBacked.freeSave
  ((c1.wr (Reg.XM_STATUS 0) (xs.getD 0 0)).wr (Reg.XM_STATUS 1) (xs.getD 1 0)).setPhase 5

/-- BOOT_B4 (R83): the backing copies are written and hold what the tables hold (R292); the boot transaction is committed as the first
epoch. -/
def opBootB4 (c : Chip) : Chip :=
  if c.boot.phase ≠ 4 then c
  else if c.boot.exitForm then c.exitB4
  else ({ c.setSlot 0 sClosed with hbm.backed := [0, 1, 2, 3], hbm.backAt := c.now }.flip).setPhase 5

/-! B5. -/

/-- The engine enters Aloft (R83, R86). -/
def b5Done (c : Chip) : Chip := ((c.setBkpF Reg.RST_RESTART Fd.RST_RESTART_RUN 0).nowAloft).setPhase 7

/-- What the loader enables at B5: the slices, the pattern engines, the traffic manager and the Tether (R83). -/
def b5Enable (c : Chip) : Chip :=
  let c1 := (List.range 9).foldl (fun c s =>
    if c.domOn (80 + s) then
      (((c.setF (Reg.PRS_CTRL s) ⟨0, 1⟩ 1).setF (Reg.FWD_CTRL s) ⟨0, 1⟩ 1).setF (Reg.CLS_CTRL s) ⟨0, 1⟩ 1).setF (Reg.RWR_CTRL s) ⟨0, 1⟩ 1
    else c) c
  let c2 := (List.range 4).foldl (fun c e => if c.domOn (108 + e) then c.setF (Reg.PAT_CTRL e) ⟨0, 1⟩ 1 else c) c1
  { (c2.setF Reg.TM_CTRL ⟨0, 1⟩ 1).setF Reg.TET_CTRL ⟨0, 1⟩ 1 with tet.aloneAt := c.now }

/-- The level that the image asks for (R83, R364). -/
def b5Level (c : Chip) : Chip :=
  let l := c.boot.level
  ((c.setF Reg.PWR_STATUS Fd.PWR_STATUS_LEVEL l).setF Reg.PWR_STATUS Fd.PWR_STATUS_TARGET l).setpoint l

/-- B5 but for the exit's part: enables, level and domains, the records of the image, and GLB_LOCK, which locks the debug port
(R61, R83, R411). -/
def firstB5 (m : Store) (c : Chip) : Store × Chip :=
  let c1 := (c.boot.offDoms.filter (fun d => decide (d < 117))).foldl (fun c d => (c.domainOff d false false).1) c.b5Enable.b5Level
  let r := writeRecs 5 false (c1.phaseRecs 5 (imgRecs (c1.bootImg m))) (m, c1, true)
  (r.1, (r.2.1.setF Reg.GLB_LOCK Fd.GLB_LOCK_LOCK 1).lockPort.b5Done)

/-- The exit's B5: ports enabled at the level in use at entry (R363). -/
def exitB5 (c : Chip) : Chip := { c.liftFences.unparkPorts.b5Done with boot.exitForm := false, tet.aloneAt := c.now }

/-- BOOT_B5 (R83). -/
def opBootB5 (m : Store) (c : Chip) : Store × Chip :=
  if c.boot.phase ≠ 5 then (m, c) else if c.boot.exitForm then (m, c.exitB5) else c.firstB5 m

/-! The boot watchdog and the restart wait. -/

/-- The limit of a phase (R85). -/
def phaseLimit (c : Chip) (m : Store) : Nat :=
  let R := c.bootImg m
  match c.boot.phase with
  | 1 => 200 * msPs
  | 2 => max (3 * sPs) (sPs + 2 * streamPs (imgXspi R) (imgLen R))
  | 3 => 6 * sPs
  | 4 => 2 * sPs
  | _ => sPs

/-- BOOT_WATCHDOG_EXPIRY (R85): reset source 2. Manufacturing test is no boot (R36). -/
def opBootWatchdogExpiry (m : Store) (c : Chip) : Store × Chip :=
  let b := c.asBefore
  if 1 ≤ b.boot.phase ∧ b.boot.phase ≤ 5 ∧ b.pins.testmode = false ∧ b.boot.phaseStart + b.phaseLimit m ≤ b.now then c.resetSource 2 m
  else (m, c)

/-- BOOT_BACKOFF_END (R86): after 100 ms BACKOFF clears and B1 starts, which drives WAKE_OUT low (R38). -/
def opBootBackoffEnd (c : Chip) : Chip :=
  if c.boot.phase = 6 ∧ c.boot.waitEnd ≤ c.now then c.enterB1 else c

end Chip

/-! The meanings. -/

/-- BOOT_B0. -/
def execBootB0 (s : State) : Host.Outcome State Fault Refusal := runChip s Chip.opBootB0

/-- BOOT_B1. -/
def execBootB1 (rstprof testmode : Bool) (slotId : Fin 16) (dev : FlashEnv) (s : State) : Host.Outcome State Fault Refusal :=
  runBoth s (Chip.opBootB1 ⟨rstprof, testmode, slotId⟩ dev)

/-- BOOT_B2. -/
def execBootB2 (dev : FlashEnv) (s : State) : Host.Outcome State Fault Refusal := runBoth s (Chip.opBootB2 dev)

/-- BOOT_B3. -/
def execBootB3 (failedRanks : List (Nat × Nat)) (cxlGib : List Nat) (s : State) : Host.Outcome State Fault Refusal :=
  runBoth s (Chip.opBootB3 failedRanks cxlGib)

/-- BOOT_B4. -/
def execBootB4 (s : State) : Host.Outcome State Fault Refusal := runChip s Chip.opBootB4

/-- BOOT_B5. -/
def execBootB5 (s : State) : Host.Outcome State Fault Refusal := runBoth s Chip.opBootB5

/-- BOOT_WATCHDOG_EXPIRY. -/
def execBootWatchdogExpiry (s : State) : Host.Outcome State Fault Refusal := runBoth s Chip.opBootWatchdogExpiry

/-- BOOT_BACKOFF_END. -/
def execBootBackoffEnd (s : State) : Host.Outcome State Fault Refusal := runChip s Chip.opBootBackoffEnd

end Sys2Proof.Machine
end

