-- ==== Sys2Proof/Machine/Dispatch.lean ====
section
/-!
DEFINITION. Dispatch: one arm per command, each one direct call of its meaning.
-/

namespace Sys2Proof.Machine

/-- The effect of a command on everything but the queue. -/
def exec (i : Instr) (s : State) : Host.Outcome State Fault Refusal :=
  match i with
  | .resetNLow pulse => Sys2Proof.Machine.execResetNLow pulse s
  | .supplyGoodHigh rise => Sys2Proof.Machine.execSupplyGoodHigh rise s
  | .supplyGoodLow aonCycles => Sys2Proof.Machine.execSupplyGoodLow aonCycles s
  | .vddAonLoss => Sys2Proof.Machine.execVddAonLoss s
  | .railOutOfRange dom => Sys2Proof.Machine.execRailOutOfRange dom s
  | .tempSample n t => Sys2Proof.Machine.execTempSample n t s
  | .refclkLoss => Sys2Proof.Machine.execRefclkLoss s
  | .refclkRestored => Sys2Proof.Machine.execRefclkRestored s
  | .registerWrite rq addr value w64 be => Sys2Proof.Machine.execRegisterWrite rq addr value w64 be s
  | .badRead rq addr w64 => Sys2Proof.Machine.execBadRead rq addr w64 s
  | .latchingRead rq addr w64 => Sys2Proof.Machine.execLatchingRead rq addr w64 s
  | .datumNsRead rq clk pps => Sys2Proof.Machine.execDatumNsRead rq clk pps s
  | .mailboxComplete m => Sys2Proof.Machine.execMailboxComplete m s
  | .glbLockSet rq => Sys2Proof.Machine.execGlbLockSet rq s
  | .bkpWrite => Sys2Proof.Machine.execBkpWrite s
  | .swWarmReset rq => Sys2Proof.Machine.execSwWarmReset rq s
  | .swColdReset rq => Sys2Proof.Machine.execSwColdReset rq s
  | .safetyWatchdogExpiry => Sys2Proof.Machine.execSafetyWatchdogExpiry s
  | .criticalStateError => Sys2Proof.Machine.execCriticalStateError s
  | .resetUnit rq tag x => Sys2Proof.Machine.execResetUnit rq tag x s
  | .bootB0 => Sys2Proof.Machine.execBootB0 s
  | .bootB1 rstprof testmode slotId dev => Sys2Proof.Machine.execBootB1 rstprof testmode slotId dev s
  | .bootB2 dev => Sys2Proof.Machine.execBootB2 dev s
  | .bootB3 failedRanks cxlGib => Sys2Proof.Machine.execBootB3 failedRanks cxlGib s
  | .bootB4 => Sys2Proof.Machine.execBootB4 s
  | .bootB5 => Sys2Proof.Machine.execBootB5 s
  | .bootWatchdogExpiry => Sys2Proof.Machine.execBootWatchdogExpiry s
  | .bootBackoffEnd => Sys2Proof.Machine.execBootBackoffEnd s
  | .flashRead rq tag err => Sys2Proof.Machine.execFlashRead rq tag err s
  | .flashErase rq tag err => Sys2Proof.Machine.execFlashErase rq tag err s
  | .flashWrite rq tag err => Sys2Proof.Machine.execFlashWrite rq tag err s
  | .slotCheck rq tag dev => Sys2Proof.Machine.execSlotCheck rq tag dev s
  | .advanceSvn rq tag blown => Sys2Proof.Machine.execAdvanceSvn rq tag blown s
  | .revokeKey rq tag blown => Sys2Proof.Machine.execRevokeKey rq tag blown s
  | .perstAssert => Sys2Proof.Machine.execPerstAssert s
  | .pfFlr => Sys2Proof.Machine.execPfFlr s
  | .vfFlr n => Sys2Proof.Machine.execVfFlr n s
  | .receiveFrame port f => Sys2Proof.Machine.execReceiveFrame port f s
  | .bridleIngress panel => Sys2Proof.Machine.execBridleIngress panel s
  | .pfcRefresh port => Sys2Proof.Machine.execPfcRefresh port s
  | .parseHead slice hits => Sys2Proof.Machine.execParseHead slice hits s
  | .residenceOverrun slice => Sys2Proof.Machine.execResidenceOverrun slice s
  | .patternScan engine hits => Sys2Proof.Machine.execPatternScan engine hits s
  | .replicationCopy slice hits => Sys2Proof.Machine.execReplicationCopy slice hits s
  | .headCacheRefill slice => Sys2Proof.Machine.execHeadCacheRefill slice s
  | .spillWriteComplete w => Sys2Proof.Machine.execSpillWriteComplete w s
  | .readback q errs desc accs => Sys2Proof.Machine.execReadback q errs desc accs s
  | .dequeue port => Sys2Proof.Machine.execDequeue port s
  | .ageSweep q => Sys2Proof.Machine.execAgeSweep q s
  | .transmitCopy port hits => Sys2Proof.Machine.execTransmitCopy port hits s
  | .portEnable rq port => Sys2Proof.Machine.execPortEnable rq port s
  | .portDisable rq port => Sys2Proof.Machine.execPortDisable rq port s
  | .portRestart rq port => Sys2Proof.Machine.execPortRestart rq port s
  | .portRelease rq port below => Sys2Proof.Machine.execPortRelease rq port below s
  | .autonegComplete port partner nextPages => Sys2Proof.Machine.execAutonegComplete port partner nextPages s
  | .trainingComplete port => Sys2Proof.Machine.execTrainingComplete port s
  | .trainingTimeout port => Sys2Proof.Machine.execTrainingTimeout port s
  | .linkUp port => Sys2Proof.Machine.execLinkUp port s
  | .portFault port kind => Sys2Proof.Machine.execPortFault port kind s
  | .faultClear port => Sys2Proof.Machine.execFaultClear port s
  | .holdExpiry port => Sys2Proof.Machine.execHoldExpiry port s
  | .degradeTrigger port lane => Sys2Proof.Machine.execDegradeTrigger port lane s
  | .failureTrigger port lane => Sys2Proof.Machine.execFailureTrigger port lane s
  | .degradeRetry port x => Sys2Proof.Machine.execDegradeRetry port x s
  | .hello panel spare msg => Sys2Proof.Machine.execHello panel spare msg s
  | .bridgeReq panel spare msg => Sys2Proof.Machine.execBridgeReq panel spare msg s
  | .bridgeAck panel spare msg => Sys2Proof.Machine.execBridgeAck panel spare msg s
  | .bridgeNak panel spare msg => Sys2Proof.Machine.execBridgeNak panel spare msg s
  | .swapDone panel spare msg => Sys2Proof.Machine.execSwapDone panel spare msg s
  | .releaseReq panel spare msg => Sys2Proof.Machine.execReleaseReq panel spare msg s
  | .releaseAck panel spare msg => Sys2Proof.Machine.execReleaseAck panel spare msg s
  | .bridgeAckTimeout panel spare => Sys2Proof.Machine.execBridgeAckTimeout panel spare s
  | .swapSwitch panel spare => Sys2Proof.Machine.execSwapSwitch panel spare s
  | .sparePartnerTimeout panel spare => Sys2Proof.Machine.execSparePartnerTimeout panel spare s
  | .spareTrainRetry panel spare => Sys2Proof.Machine.execSpareTrainRetry panel spare s
  | .pauseFrameRx port pfc enable quanta => Sys2Proof.Machine.execPauseFrameRx port pfc enable quanta s
  | .pauseExpiry port pri => Sys2Proof.Machine.execPauseExpiry port pri s
  | .pfcWatchdogTick => Sys2Proof.Machine.execPfcWatchdogTick s
  | .queueSample q => Sys2Proof.Machine.execQueueSample q s
  | .openSlot parcel ring d => Sys2Proof.Machine.execOpenSlot parcel ring d s
  | .write parcel ring d row => Sys2Proof.Machine.execWrite parcel ring d row s
  | .delete parcel ring d => Sys2Proof.Machine.execDelete parcel ring d s
  | .close parcel ring d => Sys2Proof.Machine.execClose parcel ring d s
  | .closeComplete slot => Sys2Proof.Machine.execCloseComplete slot s
  | .abort parcel ring d => Sys2Proof.Machine.execAbort parcel ring d s
  | .abortDone slot => Sys2Proof.Machine.execAbortDone slot s
  | .commit parcel ring d => Sys2Proof.Machine.execCommit parcel ring d s
  | .nop parcel ring d => Sys2Proof.Machine.execNop parcel ring d s
  | .patch parcel ring d image => Sys2Proof.Machine.execPatch parcel ring d image s
  | .loadComplete => Sys2Proof.Machine.execLoadComplete s
  | .flip => Sys2Proof.Machine.execFlip s
  | .sweepStart slot => Sys2Proof.Machine.execSweepStart slot s
  | .sweepDone slot => Sys2Proof.Machine.execSweepDone slot s
  | .learnRequest => Sys2Proof.Machine.execLearnRequest s
  | .learnTick => Sys2Proof.Machine.execLearnTick s
  | .agingPass => Sys2Proof.Machine.execAgingPass s
  | .probe rq tag hits => Sys2Proof.Machine.execProbe rq tag hits s
  | .readRaw rq tag hits => Sys2Proof.Machine.execReadRaw rq tag hits s
  | .rehash rq tag => Sys2Proof.Machine.execRehash rq tag s
  | .rehashCopyDone => Sys2Proof.Machine.execRehashCopyDone s
  | .rehashCleanup => Sys2Proof.Machine.execRehashCleanup s
  | .prsTraverse slice hits => Sys2Proof.Machine.execPrsTraverse slice hits s
  | .repairComplete loc copyA copyB sibling => Sys2Proof.Machine.execRepairComplete loc copyA copyB sibling s
  | .prsRdAddrWrite rq slice value hits => Sys2Proof.Machine.execPrsRdAddrWrite rq slice value hits s
  | .rwrRdAddrWrite rq slice value hits => Sys2Proof.Machine.execRwrRdAddrWrite rq slice value hits s
  | .clsRdAddrWrite rq slice value hits => Sys2Proof.Machine.execClsRdAddrWrite rq slice value hits s
  | .ruleTraverse slice hits => Sys2Proof.Machine.execRuleTraverse slice hits s
  | .patternTraverse engine hits passEnd => Sys2Proof.Machine.execPatternTraverse engine hits passEnd s
  | .scanTest rq tag engine hits => Sys2Proof.Machine.execScanTest rq tag engine hits s
  | .readRule rq tag engine hits => Sys2Proof.Machine.execReadRule rq tag engine hits s
  | .fbkRecordWrite w => Sys2Proof.Machine.execFbkRecordWrite w s
  | .readRecord rq tag bad => Sys2Proof.Machine.execReadRecord rq tag bad s
  | .poolInit rq pool => Sys2Proof.Machine.execPoolInit rq pool s
  | .poolInitDone pool => Sys2Proof.Machine.execPoolInitDone pool s
  | .xalloc rq tag m ue => Sys2Proof.Machine.execXalloc rq tag m ue s
  | .xfree rq tag m ue => Sys2Proof.Machine.execXfree rq tag m ue s
  | .cellInfo rq tag m => Sys2Proof.Machine.execCellInfo rq tag m s
  | .auditPass => Sys2Proof.Machine.execAuditPass s
  | .hbmRefresh k ch => Sys2Proof.Machine.execHbmRefresh k ch s
  | .hbmRetrainStep k ch => Sys2Proof.Machine.execHbmRetrainStep k ch s
  | .parityAlert k ch => Sys2Proof.Machine.execParityAlert k ch s
  | .retireReq rq k r => Sys2Proof.Machine.execRetireReq rq k r s
  | .migrationBlock x => Sys2Proof.Machine.execMigrationBlock x s
  | .backingTraverse oneBad rest => Sys2Proof.Machine.execBackingTraverse oneBad rest s
  | .cxlTimeout n => Sys2Proof.Machine.execCxlTimeout n s
  | .cxlLinkDown n => Sys2Proof.Machine.execCxlLinkDown n s
  | .cxlLinkUp n => Sys2Proof.Machine.execCxlLinkUp n s
  | .clkIncWrite rq x value => Sys2Proof.Machine.execClkIncWrite rq x value s
  | .clkAdj rq x value => Sys2Proof.Machine.execClkAdj rq x value s
  | .clkSet rq x atPps => Sys2Proof.Machine.execClkSet rq x atPps s
  | .serveSwitch rq value => Sys2Proof.Machine.execServeSwitch rq value s
  | .snap rq => Sys2Proof.Machine.execSnap rq s
  | .datumLock => Sys2Proof.Machine.execDatumLock s
  | .ppsInEdge => Sys2Proof.Machine.execPpsInEdge s
  | .ppsOutPulse => Sys2Proof.Machine.execPpsOutPulse s
  | .timeRefLoss => Sys2Proof.Machine.execTimeRefLoss s
  | .timeRefReturn => Sys2Proof.Machine.execTimeRefReturn s
  | .servoMode rq tag m => Sys2Proof.Machine.execServoMode rq tag m s
  | .servoSample rq tag m => Sys2Proof.Machine.execServoSample rq tag m s
  | .servoStatus rq tag m => Sys2Proof.Machine.execServoStatus rq tag m s
  | .servoHoldover x => Sys2Proof.Machine.execServoHoldover x s
  | .faultEvent evs => Sys2Proof.Machine.execFaultEvent evs s
  | .storeReloadComplete k ok => Sys2Proof.Machine.execStoreReloadComplete k ok s
  | .wireFault unit line level => Sys2Proof.Machine.execWireFault unit line level s
  | .wireFaultPersist unit line => Sys2Proof.Machine.execWireFaultPersist unit line s
  | .quenchRelease rq => Sys2Proof.Machine.execQuenchRelease rq s
  | .faultnRelease rq => Sys2Proof.Machine.execFaultnRelease rq s
  | .faultnSet rq => Sys2Proof.Machine.execFaultnSet rq s
  | .faultnPulseEnd => Sys2Proof.Machine.execFaultnPulseEnd s
  | .journalWrite => Sys2Proof.Machine.execJournalWrite s
  | .readJournal rq tag => Sys2Proof.Machine.execReadJournal rq tag s
  | .giveback rq tag => Sys2Proof.Machine.execGiveback rq tag s
  | .inject rq tag => Sys2Proof.Machine.execInject rq tag s
  | .wdtKick rq c key => Sys2Proof.Machine.execWdtKick rq c key s
  | .coreWatchdogExpiry c => Sys2Proof.Machine.execCoreWatchdogExpiry c s
  | .scrubTraverse hits => Sys2Proof.Machine.execScrubTraverse hits s
  | .enter rq tag => Sys2Proof.Machine.execEnter rq tag s
  | .entryDrainDone => Sys2Proof.Machine.execEntryDrainDone s
  | .entryAbort noSelfRefresh => Sys2Proof.Machine.execEntryAbort noSelfRefresh s
  | .deflatePowerOff => Sys2Proof.Machine.execDeflatePowerOff s
  | .exitState rq tag => Sys2Proof.Machine.execExitState rq tag s
  | .deflatedExit => Sys2Proof.Machine.execDeflatedExit s
  | .rtcAlarm => Sys2Proof.Machine.execRtcAlarm s
  | .rtcCountWrite rq value => Sys2Proof.Machine.execRtcCountWrite rq value s
  | .setLevel rq tag => Sys2Proof.Machine.execSetLevel rq tag s
  | .levelSwitch settled => Sys2Proof.Machine.execLevelSwitch settled s
  | .domainOff rq tag => Sys2Proof.Machine.execDomainOff rq tag s
  | .domainOn rq tag => Sys2Proof.Machine.execDomainOn rq tag s
  | .domainClear rq tag => Sys2Proof.Machine.execDomainClear rq tag s
  | .rampStart => Sys2Proof.Machine.execRampStart s
  | .rampDone dom => Sys2Proof.Machine.execRampDone dom s
  | .softstartTrip dom => Sys2Proof.Machine.execSoftstartTrip dom s
  | .doorbell rq parcel ring value => Sys2Proof.Machine.execDoorbell rq parcel ring value s
  | .ringError parcel ring => Sys2Proof.Machine.execRingError parcel ring s
  | .msixInterrupt parcel ring => Sys2Proof.Machine.execMsixInterrupt parcel ring s
  | .injectFetch parcel ring entry => Sys2Proof.Machine.execInjectFetch parcel ring entry s
  | .parcelCreate rq p => Sys2Proof.Machine.execParcelCreate rq p s
  | .quiesce rq tag => Sys2Proof.Machine.execQuiesce rq tag s
  | .resume rq tag => Sys2Proof.Machine.execResume rq tag s
  | .freeze rq tag => Sys2Proof.Machine.execFreeze rq tag s
  | .save rq tag => Sys2Proof.Machine.execSave rq tag s
  | .restore rq tag => Sys2Proof.Machine.execRestore rq tag s
  | .parcelReset rq tag => Sys2Proof.Machine.execParcelReset rq tag s
  | .remove rq tag => Sys2Proof.Machine.execRemove rq tag s
  | .vfProbe rq tag p hits => Sys2Proof.Machine.execVfProbe rq tag p hits s
  | .vfReadRecord rq tag p bad => Sys2Proof.Machine.execVfReadRecord rq tag p bad s
  | .heartbeat msg => Sys2Proof.Machine.execHeartbeat msg s
  | .heartbeatSend => Sys2Proof.Machine.execHeartbeatSend s
  | .tetUpdate msg rows => Sys2Proof.Machine.execTetUpdate msg rows s
  | .tetAck msg => Sys2Proof.Machine.execTetAck msg s
  | .tetherRetransmit => Sys2Proof.Machine.execTetherRetransmit s
  | .tetSwapReq msg => Sys2Proof.Machine.execTetSwapReq msg s
  | .tetSwapGo msg => Sys2Proof.Machine.execTetSwapGo msg s
  | .tetherSwapDone msg => Sys2Proof.Machine.execTetherSwapDone msg s
  | .tetResyncChunk msg rows => Sys2Proof.Machine.execTetResyncChunk msg rows s
  | .partnerLoss => Sys2Proof.Machine.execPartnerLoss s
  | .aloneTimeout => Sys2Proof.Machine.execAloneTimeout s
  | .tetSwap rq tag => Sys2Proof.Machine.execTetSwap rq tag s
  | .tetResync rq tag => Sys2Proof.Machine.execTetResync rq tag s
  | .snapshotGo rq periodic => Sys2Proof.Machine.execSnapshotGo rq periodic s
  | .snapshotComplete => Sys2Proof.Machine.execSnapshotComplete s
  | .bwWindow => Sys2Proof.Machine.execBwWindow s
  | .loadWindow loads => Sys2Proof.Machine.execLoadWindow loads s
  | .challenge => Sys2Proof.Machine.execChallenge s
  | .response data => Sys2Proof.Machine.execResponse data s
  | .authVerdict => Sys2Proof.Machine.execAuthVerdict s
  | .relock => Sys2Proof.Machine.execRelock s
  | .idcode => Sys2Proof.Machine.execIdcode s
  | .samplePreload sampled shifted => Sys2Proof.Machine.execSamplePreload sampled shifted s
  | .extest => Sys2Proof.Machine.execExtest s
  | .clamp => Sys2Proof.Machine.execClamp s
  | .highz => Sys2Proof.Machine.execHighz s
  | .bypass => Sys2Proof.Machine.execBypass s
  | .debugHalt hart => Sys2Proof.Machine.execDebugHalt hart s
  | .debugResume hart => Sys2Proof.Machine.execDebugResume hart s
  | .debugStep hart => Sys2Proof.Machine.execDebugStep hart s
  | .abstractCommand hart cmd => Sys2Proof.Machine.execAbstractCommand hart cmd s
  | .systemBusAccess acc => Sys2Proof.Machine.execSystemBusAccess acc s
  | .mbusWrite rq tag m bus => Sys2Proof.Machine.execMbusWrite rq tag m bus s
  | .mbusRead rq tag m bus => Sys2Proof.Machine.execMbusRead rq tag m bus s
  | .writeRead rq tag m bus => Sys2Proof.Machine.execWriteRead rq tag m bus s
  | .recover rq tag m bus => Sys2Proof.Machine.execRecover rq tag m bus s
  | .spareTrainingDone panel spare ok => Sys2Proof.Machine.execSpareTrainingDone panel spare ok s
  | .perstNRelease => Sys2Proof.Machine.execPerstNRelease s
  | .domainDrainTimeout dom => Sys2Proof.Machine.execDomainDrainTimeout dom s
  | .vbatLoss => Sys2Proof.Machine.execVbatLoss s
  | .alertNChange m low => Sys2Proof.Machine.execAlertNChange m low s

end Sys2Proof.Machine
end

