-- ==== Sys2Proof/Machine/Tick.lean ====
section
/-!
DEFINITION. One tick of the DATUM clock, 1.25 ns, which is what passes when no command waits (log 3): the Datum clocks (R300 to R305),
the time base (R251), the RTC (R372), and what the programmable counters count in CORE cycles (R415).
-/

namespace Sys2Proof.Machine

/-- A DATUM tick in picoseconds (R300). -/
def tickPs : Nat := 1250

/-- CORE cycles of a tick at a performance level, in sixteenths (R364). -/
def coreSixteenths (level : Nat) : Nat := [32, 26, 20, 12].getD level 32

/-- An address in the block of a unit that R415 lists. -/
def pmcBlock (u : Nat) : Nat :=
  if u = 0x06 then 0x60000
  else if u = 0x12 then 0xE0000
  else if u = 0x13 then 0xF0000
  else if u < 0x10 then 0xC0000 + 0x4000 * (u - 0x0C)
  else if u < 0x20 then 0x100000 + 0x20000 * (u - 0x18)
  else if u < 0x30 then 0x200000 + 0x100000 * (u - 0x20)
  else if u < 0x3C then 0xC00000 + 0x100000 * (u - 0x38)
  else if u = 0x3C then 0x2C8000
  else if u = 0x3D then 0x1110000 else 0x1100000

namespace Chip

/-- The occupancies 0x80 and 0x81 of R415. Host DMA reads are never outstanding between commands (log 2). -/
def occupancy (c : Chip) (u : Nat) (second : Bool) : Nat :=
  if 0x18 ≤ u ∧ u < 0x20 then (c.pipe.bridle.filter (fun f => f.port / 32 == u - 0x18)).length
  else if 0x20 ≤ u ∧ u ≤ 0x28 then
    if second then (c.pipe.injQ.filter (fun h => h.slice == u - 0x20)).length
    else (c.pipe.replQ.filter (fun r => r.pkt.head.slice == u - 0x20)).length
  else if 0x38 ≤ u ∧ u ≤ 0x3B then (c.pipe.patQ.filter (fun r => r.engine == u - 0x38)).length
  else if 0x0C ≤ u ∧ u ≤ 0x0F then
    c.hbm.banks.foldl (fun t x => if x.1 / 65536 == u - 0x0C then t + x.2.queue.length else t) 0
  else if u = 0x12 then (c.bpm.cells.filter (fun x => x.2.kind != 4)).length
  else if u = 0x13 then c.bpm.txq.length
  else if u = 0x3C then c.fbk.staged.length
  else if u = 0x3D then c.pipe.learnQ.length
  else if u = 0x3E then c.upd.commits.length + c.upd.closing.length + c.upd.aborts.length + (c.upd.loads.filter (fun l => l.compl.isSome)).length
  else 0

/-- The domain of a unit is on. -/
def unitPowered (c : Chip) (u : Nat) : Bool :=
  match domOfAddr (pmcBlock u) with
  | some d => c.domOn d
  | none => true

/-- Programmable counter i over n CORE cycles: cycles with the domain on, cycles with input waiting and output blocked, of which the
spec fixes no number (a free value up to n, log 44), and cycles with an occupancy above THR. -/
def pmcCycles (n : Nat) (c : Chip) (i : Nat) : Chip :=
  let k := Reg.PMC_CTR_CFG i
  let u := c.fld k Fd.PMC_CTR_CFG_UNIT
  let ev := c.fld k Fd.PMC_CTR_CFG_EVENT
  if !c.on k Fd.PMC_CTR_CFG_EN then c
  else if c.fld k Fd.PMC_CTR_CFG_MODE = 1 then
    if c.rd (Reg.PMC_CTR_THR i) < c.occupancy u (ev == 0x81) then pmcUp n c i else c
  else if ev = 0 then if c.unitPowered u then pmcUp n c i else c
  else if ev = 3 then pmcUp (c.free.toNat % (n + 1)) c.tick i
  else c

/-- The programmable counters over n CORE cycles. -/
def pmcTick (c : Chip) (n : Nat) : Chip :=
  if c.on Reg.PMC_CTRL Fd.PMC_CTRL_EN then (List.range 64).foldl (pmcCycles n) c else c

/-- The RTC: 32,768 ticks a second (R372). -/
def rtcTick (c : Chip) : Chip :=
  let a := c.time.rtcAcc + 4096
  if 100000000 ≤ a then { c with time.rtc := (c.time.rtc + 1) % 2 ^ 48, time.rtcAcc := a - 100000000 }
  else { c with time.rtcAcc := a }

/-- Controller k completes some of the backing writes that wait, oldest first; one that is off holds none (R292, log 131). -/
def backTick (c : Chip) (k : Nat) : Chip :=
  let q := c.backQ k
  if q.isEmpty then c
  else
    let set := fun (c : Chip) (l : List Loc) => { c with hbm.backQ := mset noWrites c.hbm.backQ k l }
    if c.memUp k then if Config.backDone k c.now = 0 then c else set (memUsed 1 c k) (q.drop (Config.backDone k c.now))
    else set c []

/-- Banks whose controllers serve requests serve some of those that wait (R281, log 139). -/
def bankTick (c : Chip) : Chip :=
  ((c.hbm.banks.filter (fun x => !x.2.queue.isEmpty && c.memUp (x.1 / 65536))).map (·.1)).foldl (fun c key =>
    serveSome (min (Config.bankDone key c.now) (mget noBank c.hbm.banks key).queue.length) c key) c

/-- What HBM does in a DATUM tick. -/
def hbmTick (c : Chip) : Chip := ((List.range 4).foldl backTick c).bankTick

/-- What the control cores and the boot core count in a DATUM tick, one and a half cycles of MGMT at 1.2 GHz (R22, R417). -/
def mgmtTick (c : Chip) : Chip :=
  let a := c.time.mgmtAcc + 3
  { c with time.mgmtAcc := a % 2 }.mgmtCycles (a / 2)

/-- One DATUM tick. -/
def datumTick (c : Chip) : Chip :=
  let a := c.time.coreAcc + coreSixteenths (c.fld Reg.PWR_STATUS Fd.PWR_STATUS_LEVEL)
  let c1 := { c with now := c.now + tickPs, time.coreAcc := a % 16, time.coreCyc := c.time.coreCyc + a / 16 }.clocksTick
  ({ c1 with time.tmBase := c1.time.tmBase + 5368709120 }.rtcTick.hbmTick.mgmtTick).pmcTick (a / 16)

end Chip

end Sys2Proof.Machine
end

