-- ==== Sys2Proof/Safety.lean ====
section
/-!
DEFINITION. What counts as a safe run: every step answers a next state, and the byte memories keep their canonical form. And the
words that statements are made of: a mailbox that has taken an operation, a reset source alone in its AON cycle.
-/

namespace Sys2Proof

open Machine

/-- The byte memories are in canonical form. -/
def Canonical (s : State) : Prop := s.store.wf = true

/-- The step goes on: it answers neither a fault nor a refusal. -/
def GoesOn (s : State) : Prop := ∃ t, step s = .next t

/-- A safe step: it goes on to a canonical state. -/
def SafeStep (s : State) : Prop := ∃ t, step s = .next t ∧ Canonical t

/-- A command completes: exec answers a next state. -/
def Completes (i : Instr) (s : State) : Prop := ∃ t, exec i s = .next t

/-- A mailbox command: who writes it, its TAG, its mailbox and its OP (R71). -/
def mailboxOf : Instr → Option (Req × BitVec 16 × Mbx × Nat)
  | .resetUnit rq tag _ => some (rq, tag, .rstBlk, 1)
  | .flashRead rq tag _ => some (rq, tag, .boot, 1)
  | .flashErase rq tag _ => some (rq, tag, .boot, 2)
  | .flashWrite rq tag _ => some (rq, tag, .boot, 3)
  | .slotCheck rq tag _ => some (rq, tag, .boot, 4)
  | .advanceSvn rq tag _ => some (rq, tag, .boot, 0x10)
  | .revokeKey rq tag _ => some (rq, tag, .boot, 0x11)
  | .probe rq tag _ => some (rq, tag, .upd, 1)
  | .readRaw rq tag _ => some (rq, tag, .upd, 2)
  | .rehash rq tag => some (rq, tag, .upd, 0x10)
  | .scanTest rq tag engine _ => some (rq, tag, .pat engine, 1)
  | .readRule rq tag engine _ => some (rq, tag, .pat engine, 2)
  | .readRecord rq tag _ => some (rq, tag, .fbk, 1)
  | .xalloc rq tag m _ => some (rq, tag, .bpm m, 1)
  | .xfree rq tag m _ => some (rq, tag, .bpm m, 2)
  | .cellInfo rq tag m => some (rq, tag, .bpm m, 3)
  | .servoMode rq tag m => some (rq, tag, .dtm m, 1)
  | .servoSample rq tag m => some (rq, tag, .dtm m, 2)
  | .servoStatus rq tag m => some (rq, tag, .dtm m, 3)
  | .readJournal rq tag => some (rq, tag, .flt, 1)
  | .giveback rq tag => some (rq, tag, .flt, 2)
  | .inject rq tag => some (rq, tag, .flt, 3)
  | .enter rq tag => some (rq, tag, .pwr, 1)
  | .exitState rq tag => some (rq, tag, .pwr, 2)
  | .setLevel rq tag => some (rq, tag, .pwr, 3)
  | .domainOff rq tag => some (rq, tag, .pwr, 4)
  | .domainOn rq tag => some (rq, tag, .pwr, 5)
  | .domainClear rq tag => some (rq, tag, .pwr, 6)
  | .quiesce rq tag => some (rq, tag, .par, 1)
  | .resume rq tag => some (rq, tag, .par, 2)
  | .freeze rq tag => some (rq, tag, .par, 3)
  | .save rq tag => some (rq, tag, .par, 4)
  | .restore rq tag => some (rq, tag, .par, 5)
  | .parcelReset rq tag => some (rq, tag, .par, 6)
  | .remove rq tag => some (rq, tag, .par, 7)
  | .vfProbe rq tag p _ => some (rq, tag, .vf p 0, 1)
  | .vfReadRecord rq tag p _ => some (rq, tag, .vf p 1, 1)
  | .tetSwap rq tag => some (rq, tag, .tet, 1)
  | .tetResync rq tag => some (rq, tag, .tet, 2)
  | .mbusWrite rq tag m _ => some (rq, tag, .mbus m, 1)
  | .mbusRead rq tag m _ => some (rq, tag, .mbus m, 2)
  | .writeRead rq tag m _ => some (rq, tag, .mbus m, 3)
  | .recover rq tag m _ => some (rq, tag, .mbus m, 4)
  | _ => none

/-- A command that is a write of a register with an effect of its own: who writes it, and the register. -/
def registerOf : Instr → Option (Req × Nat)
  | .glbLockSet rq => some (rq, Reg.GLB_LOCK)
  | .portEnable rq n => some (rq, Reg.PORT_CTRL n)
  | .portDisable rq n => some (rq, Reg.PORT_CTRL n)
  | .portRestart rq n => some (rq, Reg.PORT_CTRL n)
  | .portRelease rq n _ => some (rq, Reg.PORT_CTRL n)
  | .poolInit rq k => some (rq, Reg.BPM_XP_CFG k)
  | .retireReq rq k r => some (rq, Reg.MEM_RANK k r)
  | .clkIncWrite rq x _ => some (rq, Reg.DTM_CLK_INC_LO x)
  | .clkAdj rq x _ => some (rq, Reg.DTM_CLK_ADJ x)
  | .clkSet rq x _ => some (rq, Reg.DTM_CLK_SET_CMD x)
  | .serveSwitch rq _ => some (rq, Reg.DTM_SERVE)
  | .snap rq => some (rq, Reg.DTM_SERVE)
  | .quenchRelease rq => some (rq, Reg.FLT_CTRL)
  | .faultnRelease rq => some (rq, Reg.FLT_CTRL)
  | .faultnSet rq => some (rq, Reg.FLT_CTRL)
  | .wdtKick rq n _ => some (rq, Reg.FLT_WDT_KICK n)
  | .rtcCountWrite rq _ => some (rq, Reg.PWR_RTC_LO)
  | .parcelCreate rq p => some (rq, Reg.PAR_CTRL p)
  | .snapshotGo rq false => some (rq, Reg.PMC_SNAP_CTRL)
  | _ => none

/-- The status register that a requester's access errors set: its own for a VF, GLB_STATUS for any other (R73, R74). -/
def statusOf : Req → Nat
  | .vf n => Reg.VF_STATUS n.val
  | _ => Reg.GLB_STATUS

/-- The register that holds the address of a requester's first access error (R73, R74). -/
def errAddrOf : Req → Nat
  | .vf n => Reg.VF_ERR_ADDR n.val
  | _ => Reg.GLB_ERR_ADDR

/-- What that register holds for an error of a kind at an address (R73, R74). -/
def errWord (rq : Req) (bit a : Nat) : Nat :=
  match rq with
  | .vf _ => bit * 2 ^ 16 + a % 2 ^ 16
  | _ => rq.code * 2 ^ 28 + bit * 2 ^ 25 + a % 2 ^ 25

/-- An update descriptor's command: its parcel, its ring and the descriptor (R380). -/
def descriptorOf : Instr → Option (Nat × Nat × Desc)
  | .openSlot p r d => some (p.val, r.val, d)
  | .write p r d _ => some (p.val, r.val, d)
  | .delete p r d => some (p.val, r.val, d)
  | .close p r d => some (p.val, r.val, d)
  | .abort p r d => some (p.val, r.val, d)
  | .commit p r d => some (p.val, r.val, d)
  | .nop p r d => some (p.val, r.val, d)
  | .patch p r d _ => some (p.val, r.val, d)
  | _ => none

/-- A spare-lane message: its panel, its spare, the OP it is taken for, and the block (R118). -/
def spareMsgOf : Instr → Option (Nat × Nat × Nat × SpareMsg)
  | .hello p i m => some (p.val, i.val, msgHello, m)
  | .bridgeReq p i m => some (p.val, i.val, msgBridgeReq, m)
  | .bridgeAck p i m => some (p.val, i.val, msgBridgeAck, m)
  | .bridgeNak p i m => some (p.val, i.val, msgBridgeNak, m)
  | .swapDone p i m => some (p.val, i.val, msgSwapDone, m)
  | .releaseReq p i m => some (p.val, i.val, msgReleaseReq, m)
  | .releaseAck p i m => some (p.val, i.val, msgReleaseAck, m)
  | _ => none

/-- A received Tether message (R399). -/
def tetMsgOf : Instr → Option TetMsg
  | .heartbeat m => some m
  | .tetUpdate m _ => some m
  | .tetAck m => some m
  | .tetSwapReq m => some m
  | .tetSwapGo m => some m
  | .tetherSwapDone m => some m
  | .tetResyncChunk m _ => some m
  | _ => none

/-- n steps, one after the other; none where one of them stops. -/
def run : Nat → Machine.State → Option Machine.State
  | 0, s => some s
  | n + 1, s =>
    match step s with
    | .next t => run n t
    | _ => none

/-- The commands that may change a byte of memory: resets and boot phases, which lose or load HBM, the flash operations, a record of
the field book, pool operations, a save of a parcel, and the writes that may start one of these. -/
def changesBytes : Instr → Bool
  | .resetNLow _ => true
  | .supplyGoodHigh _ => true
  | .supplyGoodLow _ => true
  | .vddAonLoss  => true
  | .refclkRestored  => true
  | .registerWrite _ _ _ _ _ => true
  | .mailboxComplete _ => true
  | .swWarmReset _ => true
  | .swColdReset _ => true
  | .safetyWatchdogExpiry  => true
  | .criticalStateError  => true
  | .resetUnit _ _ _ => true
  | .bootB1 _ _ _ _ => true
  | .bootB2 _ => true
  | .bootB3 _ _ => true
  | .bootB5  => true
  | .bootWatchdogExpiry  => true
  | .flashErase _ _ _ => true
  | .flashWrite _ _ _ => true
  | .fbkRecordWrite _ => true
  | .poolInitDone _ => true
  | .xalloc _ _ _ _ => true
  | .xfree _ _ _ _ => true
  | .auditPass  => true
  | .faultEvent _ => true
  | .inject _ _ => true
  | .save _ _ => true
  | .systemBusAccess _ => true
  | .softstartTrip _ => true
  | .railOutOfRange _ => true
  | _ => false

/-- The commands that may change a byte of flash: the flash operations, and the register writes and boot records that may start them. -/
def changesFlash : Instr → Bool
  | .bootB1 _ _ _ _ => true
  | .bootB2 _ => true
  | .bootB3 _ _ => true
  | .bootB5 => true
  | .flashErase _ _ _ => true
  | .flashWrite _ _ _ => true
  | .registerWrite _ _ _ _ _ => true
  | .systemBusAccess _ => true
  | .mailboxComplete _ => true
  | _ => false

end Sys2Proof

namespace Sys2Proof.Machine

/-- The state with another chip: the queue and the byte memories are as they were. -/
def State.withChip (s : State) (c : Chip) : State := { s with chip := c }

/-- The state with another chip and other byte memories. -/
def State.withBoth (s : State) (m : Store) (c : Chip) : State := { s with chip := c, store := m }

end Sys2Proof.Machine

namespace Sys2Proof.Machine.Chip

/-- No reset source has become active in the present AON cycle (R77). -/
def firstInCycle (c : Chip) : Bool := c.sameCycle.isNone

/-- RESULT.STATE of a mailbox reads PENDING (R71). -/
def pendingIn (c : Chip) (m : Mbx) : Chip := c.setF m.result ⟨14, 2⟩ 1

/-- A mailbox holds an operation that has begun: its tag, OP and arguments, and, where it has come to its end, its code and data. -/
def mbxTaken (c : Chip) (m : Mbx) (tag : BitVec 16) (op : Nat) (args : List Nat) (r : Option (Nat × List Nat)) : Chip :=
  { c with mbx := c.mbx ++ [⟨m, tag.toNat, op, args, r, true⟩] }

/-- A spare-lane message that spare i of panel p takes as an OP: the spare is not bridged in both directions (R118, R119, R121). -/
def spareMsgOk (c : Chip) (p i op : Nat) (m : SpareMsg) : Bool :=
  decide (3 ≤ m.slots) && crc8 m.d1 m.d2 == m.d3.toNat && m.d2.toNat / 128 == i && m.d1.toNat / 16 == op && (c.spare p i).trained
    && !c.spareSilent p i

/-- A valid message has come on spare i of panel p: the partner is present (R118). -/
def spareHeard (c : Chip) (p i : Nat) : Chip :=
  (c.setSpare p i { c.spare p i with heard := some c.now }).setF (Reg.PNL_SPARE_STATUS p i) Fd.PNL_SPARE_STATUS_PARTNER 1

/-- An update descriptor at the head of ring r of parcel p is taken and acts: the ring can be served, this chip is no standby, the
number is the next one, and no reserved field is set (R382, R383). -/
def descAccepts (c : Chip) (p r : Nat) (d : Desc) : Bool :=
  c.ringReady p r && !(c.ringAdvance p r).standby && d.seq.toNat == (c.ringAdvance p r).ringLast p r + 1 && !d.rsv

/-- The chip on which a taken descriptor acts: the ring has advanced, LAST holds its number, and it is mirrored (R379, R383, R402). -/
def descChip (c : Chip) (p r : Nat) (d : Desc) : Chip :=
  (((c.ringAdvance p r).setLast p r d.seq.toNat).mirror d p r).1

/-- The completion that a taken descriptor starts from: code OK, its slot, result 0 (R382). -/
def descCompl (c : Chip) (p r : Nat) (d : Desc) : Compl :=
  ⟨p, r, d.seq.toNat, d.op.toNat, cOk, d.slot.val, 0, (((c.ringAdvance p r).setLast p r d.seq.toNat).mirror d p r).2, false⟩

end Sys2Proof.Machine.Chip
end

