-- ==== Sys2Proof/Certificates/Slice0/Obligations.lean ====
section
/-!
DEFINITION. Statements about the model, for the provers.
-/

open Sys2Proof Sys2Proof.Machine Sys2Proof.Machine.Chip

/-- RESET_N, SUPPLY_GOOD, VDD_AON, the rails, the temperature sensors, REFCLK, VBAT, PERST_N, the safety watchdog and the critical-state
error complete with the effect the spec gives them: the next state is written out, so nothing else changes. -/
def Obligations.SuppliesAct : Prop :=
  (∀ (s : State) (held : Nat) (rises : Bool) (straps : Straps), s.chip.pins.resetN = true → s.chip.pins.vddAon = true → ((if
    s.chip.boot.trimmed then 1000000 else 1100000) ≤ held) → s.chip.firstInCycle = true → 
    let r := ({ s.chip.tick with pins.straps := straps, pins.resetN := false }.cutFrames (fun _ => true)).restarted 1
    exec (.resetNLow ⟨held, rises, straps⟩) s = .next (s.withBoth (s.store.lostHbm) (if rises then r.resetNHigh else r))) ∧
  (∀ (s : State) (held : Nat) (rises : Bool) (straps : Straps), s.chip.pins.resetN = true → (held < (if s.chip.boot.trimmed then
    900000 else 850000)) → s.chip.firstInCycle = true → exec (.resetNLow ⟨held, rises, straps⟩) s = .next (s.withChip
    ({ s.chip.tick with pins.straps := straps }))) ∧
  (∀ (s : State) (held : Nat) (rises : Bool) (straps : Straps), s.chip.pins.resetN = false → exec (.resetNLow ⟨held, rises, straps⟩) s
    = .next (s.withChip (if rises then ({ s.chip.tick with pins.straps := straps } : Chip).resetNHigh else
    { s.chip.tick with pins.straps := straps }))) ∧
  (∀ (s : State) (held : Nat) (straps : Straps), 100 * usPs ≤ held → s.chip.pins.supplyGood = false → s.chip.pwrState ≠ 3 → exec
    (.supplyGoodHigh ⟨held, straps⟩) s = .next (s.withChip
    ({ s.chip with pins.supplyGood := true, pins.vddAon := true, pins.straps := straps, pwr.stowed := false }.tryB1))) ∧
  (∀ (s : State) (held : Nat) (straps : Straps), 100 * usPs ≤ held → s.chip.pins.supplyGood = false → s.chip.pwrState = 3 →
    s.chip.firstInCycle = true → exec (.supplyGoodHigh ⟨held, straps⟩) s = .next (s.withBoth (s.store.lostHbm)
    ({ (s.chip.cutFrames (fun _ => true)).restarted 0 with pins.supplyGood := true, pins.vddAon := true, pins.straps := straps, pwr.stowed := false }.tryB1))) ∧
  (∀ (s : State) (n : Nat), 10 ≤ n → s.chip.pins.supplyGood = true → s.chip.pwrState ≠ 3 → s.chip.firstInCycle = true → exec
    (.supplyGoodLow n) s = .next (s.withBoth (s.store.lostHbm) (s.chip.liveStacks.foldl (fun c d => c.setDom d domRetained)
    ((({ s.chip with pins.supplyGood := false } : Chip).startQuench.cutFrames (fun _ => true)).restarted 0)))) ∧
  (∀ (s : State) (n : Nat), 10 ≤ n → s.chip.pins.supplyGood = true → s.chip.pwrState = 3 → exec (.supplyGoodLow n) s = .next
    (s.withChip ({ s.chip with pins.supplyGood := false, pwr.stowed := true }))) ∧
  (∀ (s : State), s.chip.pins.vddAon = true → s.chip.firstInCycle = true → 
    let c1 := if s.chip.pins.supplyGood then s.chip.tearJournal.tick else s.chip
    exec (.vddAonLoss) s = .next (s.withBoth (s.store.lostHbm)
      (({ c1 with pins.vddAon := false, pins.supplyGood := false, pins.thermtrip := false }.cutFrames (fun _ => true)).restarted
      0))) ∧
  (∀ (s : State) (dom : Fin 117), s.chip.pins.supplyGood = true → s.chip.domState dom ∈ [domRamping, domUp, domDraining, domRetained]
    → (dom.val < 104 ∨ 108 ≤ dom.val) → exec (.railOutOfRange dom) s = .next (s.withChip
    (((({ s.chip.domainFault dom domOff with pwr.drains := (s.chip.domainFault dom domOff).pwr.drains.filter (fun x => x.dom != dom.val) }.pwrEndDom
    4 dom 0).pwrEndDom 5 dom 4)).exitStep dom))) ∧
  (∀ (s : State) (dom : Fin 117), s.chip.pins.supplyGood = true → s.chip.domState dom ∈ [domRamping, domUp, domDraining, domRetained]
    → (104 ≤ dom.val ∧ dom.val < 108) → 
    let c1 :=
      ((({ s.chip.domainFault dom domOff with pwr.drains := (s.chip.domainFault dom domOff).pwr.drains.filter (fun x => x.dom != dom.val) }.pwrEndDom
      4 dom 0).pwrEndDom 5 dom 4)).exitStep dom
    exec (.railOutOfRange dom) s = .next (s.withBoth (if c1.domState dom ≠ s.chip.domState dom then s.store.lostStack (dom - 104) else
      s.store) (c1))) ∧
  (∀ (s : State) (n : Fin 32) (t : BitVec 12), n.val < 29 → exec (.tempSample n t) s = .next (s.withChip ((((s.chip.wrN (Reg.PWR_TEMP
    n) (2 ^ 31 + t.toNat)).hotCheck n (Chip.tempOf t.toNat)).warnCheck n (Chip.tempOf t.toNat)).tripCheck n (Chip.tempOf t.toNat)))) ∧
  (∀ (s : State), s.chip.pins.refclk = true → s.chip.boot.phase ≠ 0 → exec (.refclkLoss) s = .next (s.withChip
    ({ s.chip.report 0x01 0 0x11 outCritical with pins.refclk := false }))) ∧
  (∀ (s : State), s.chip.pins.refclk = true → s.chip.boot.phase = 0 → exec (.refclkLoss) s = .next (s.withChip
    ({ s.chip with pins.refclk := false }))) ∧
  (∀ (s : State), s.chip.pins.refclk = false → s.chip.plain = false → s.chip.safetyHalted = false → s.chip.safetyRuns = true →
    s.chip.firstInCycle = true → exec (.refclkRestored) s = .next (s.withBoth (s.store.lostHbm)
    (({ s.chip with pins.refclk := true }.cutFrames (fun _ => true)).restarted 5))) ∧
  (∀ (s : State), s.chip.pins.refclk = false → (s.chip.plain = true ∨ s.chip.safetyHalted = true ∨ s.chip.safetyRuns = false) → exec
    (.refclkRestored) s = .next (s.withChip ({ s.chip with pins.refclk := true }))) ∧
  (∀ (s : State), s.chip.pins.vddAon = false → exec (.vbatLoss) s = .next (s.withChip
    ({ s.chip with pins.vbat := false, pins.wakeOut := false, boot.bkpLost := true }))) ∧
  (∀ (s : State), s.chip.pins.perstN = true → exec (.perstAssert) s = .next (s.withChip
    ({ s.chip.clearHost with pins.perstN := false, pwr.save := s.chip.clearHost.pwr.save.map (fun a => { a with regs := a.regs.filter (fun x => domOfAddr x.1 != some 114) }) }))) ∧
  (∀ (s : State), exec (.perstNRelease) s = .next (s.withChip ({ s.chip with pins.perstN := true }))) ∧
  (∀ (s : State), s.chip.safetyRuns = true → s.chip.plain = false → s.chip.firstInCycle = true → exec (.safetyWatchdogExpiry) s =
    .next (s.withBoth (s.store.lostHbm) ((s.chip.cutFrames (fun _ => true)).restarted 3))) ∧
  (∀ (s : State), s.chip.safetyRuns = true → s.chip.plain = true → s.chip.firstInCycle = true → exec (.safetyWatchdogExpiry) s = .next
    (s.withChip (s.chip.holdPlain))) ∧
  (∀ (s : State), s.chip.plain = false → s.chip.firstInCycle = true → exec (.criticalStateError) s = .next (s.withBoth
    (s.store.lostHbm) (((s.chip.report 0x01 0 0x15 outCritical).cutFrames (fun _ => true)).restarted 6))) ∧
  (∀ (s : State), s.chip.plain = true → s.chip.firstInCycle = true → exec (.criticalStateError) s = .next (s.withChip
    (s.chip.holdPlain)))

/-- A write of a listed register stores it; reads answer their requester; GLB_LOCK locks; a BKP write reaches its domain; RST_SWRESET
resets. The next state is written out. -/
def Obligations.RegisterAccessActs : Prop :=
  (∀ (s : State) (rq : Req) (a : Nat) (v : BitVec 64) (k : Nat) (d : RegDesc) (ix : List Nat), a % 4 = 0 → s.chip.target rq a = some
    (k, d, ix) → s.chip.addrOff k = false → Chip.mbxOfCmd k = none → k ≠ Reg.RST_SWRESET → exec (.registerWrite rq a v false true) s
    = .next (s.withChip (s.chip.writeKey rq a k d ix (v.toNat % 2 ^ 32)))) ∧
  (∀ (s : State) (rq : Req) (a : Nat), (a % 4 ≠ 0 ∨ s.chip.target rq a = none) → exec (.badRead rq a false) s = .next (s.withChip
    ((s.chip.err rq errBadAccess a).emit (.readData rq a 0)))) ∧
  (∀ (s : State) (rq : Req) (a k : Nat) (d : RegDesc) (ix : List Nat), a % 4 = 0 → s.chip.target rq a = some (k, d, ix) →
    s.chip.addrOff k = true → exec (.badRead rq a false) s = .next (s.withChip ((s.chip.err rq errOffAccess a).emit (.readData rq a
    0)))) ∧
  (∀ (s : State) (rq : Req) (a k : Nat) (d : RegDesc) (ix : List Nat), a % 4 = 0 → s.chip.target rq a = some (k, d, ix) →
    s.chip.addrOff k = false → exec (.latchingRead rq a false) s = .next (s.withChip ((s.chip.readKey rq k d).1.emit (.readData rq a
    (s.chip.readKey rq k d).2)))) ∧
  (∀ (s : State) (rq : Req) (clk : Fin 3) (pps : Bool) (k : Nat) (d : RegDesc) (ix : List Nat), Chip.nsReg clk pps % 4 = 0 →
    s.chip.target rq (Chip.nsReg clk pps) = some (k, d, ix) → s.chip.addrOff k = false → exec (.datumNsRead rq clk pps) s = .next
    (s.withChip ((s.chip.readKey rq k d).1.emit (.readData rq (Chip.nsReg clk pps) (s.chip.readKey rq k d).2)))) ∧
  (∀ (s : State) (rq : Req), rq.priv = true → s.chip.addrOff Reg.GLB_LOCK = false → exec (.glbLockSet rq) s = .next (s.withChip
    ((s.chip.setF Reg.GLB_LOCK Fd.GLB_LOCK_LOCK 1).lockPort))) ∧
  (∀ (s : State) (k : Nat) (v : Word) (l : List (Nat × Word)), s.chip.bkpPend = (k, v) :: l → k ≠ Reg.PWR_RTC_HI → exec (.bkpWrite) s
    = .next (s.withChip ({ s.chip with bkpPend := l, bkp := mset regDefault s.chip.bkp k v }))) ∧
  (∀ (s : State) (v lo : Word) (j : Nat) (l : List (Nat × Word)), s.chip.bkpPend = (Reg.PWR_RTC_HI, v) :: (j, lo) :: l → exec
    (.bkpWrite) s = .next (s.withChip ({ s.chip with bkpPend := l, time.rtc := v.toNat % 2 ^ 16 * 2 ^ 32 + lo.toNat }))) ∧
  (∀ (s : State) (rq : Req), rq.priv = true → s.chip.plain = false → s.chip.firstInCycle = true → exec (.swWarmReset rq) s = .next
    (s.withBoth (s.store.lostHbm) ((s.chip.cutFrames (fun _ => true)).restarted 4))) ∧
  (∀ (s : State) (rq : Req), rq.priv = true → s.chip.plain = false → s.chip.firstInCycle = true → exec (.swColdReset rq) s = .next
    (s.withBoth (s.store.lostHbm) ((s.chip.cutFrames (fun _ => true)).restarted 5)))

/-- Each boot phase, its watchdog and the end of the backoff complete from the phase they belong to, with the next state written out; in
the exit from Deflated the phases take their exit form. -/
def Obligations.BootPhasesAct : Prop :=
  (∀ (s : State), s.chip.boot.phase = 0 → s.chip.boot.trimmed = false → s.chip.pins.refclk = true → s.chip.boot.bkpLost = false → exec
    (.bootB0) s = .next (s.withChip ((({ s.chip with boot.trimmed := true, pins.vddAon := true, pins.vbat := true } :
    Chip).recordCauses.scanJournal).tryB1))) ∧
  (∀ (s : State), s.chip.boot.phase = 0 → s.chip.boot.trimmed = false → s.chip.pins.refclk = true → s.chip.boot.bkpLost = true → exec
    (.bootB0) s = .next (s.withChip ((({ s.chip with boot.trimmed := true, pins.vddAon := true, pins.vbat := true } :
    Chip).bkpLoss.recordCauses.scanJournal).tryB1))) ∧
  (∀ (s : State) (straps : Straps) (e : FlashEnv), s.chip.boot.phase = 1 → s.chip.pins.testmode = false → s.chip.boot.exitForm = false
    → s.chip.boot.failedSlot = none → 
    let c1 := ({ s.chip with pins.straps := straps, pins.xspiReset := true, pins.cs1 := e.cs1, pins.wakeOut := false } : Chip)
    exec (.bootB1 straps.rstprof straps.testmode straps.slotId e) s = .next (s.withBoth ((c1.b1Start.selectSlot e s.store (s.chip.fld
      Reg.BOOT_SLOT_PREF Fd.BOOT_SLOT_PREF_PREF)).1) ((c1.b1Start.selectSlot e s.store (s.chip.fld Reg.BOOT_SLOT_PREF
      Fd.BOOT_SLOT_PREF_PREF)).2))) ∧
  (∀ (s : State) (straps : Straps) (e : FlashEnv) (n : Nat), s.chip.boot.phase = 1 → s.chip.pins.testmode = false →
    s.chip.boot.exitForm = false → s.chip.boot.failedSlot = some n → 
    let c1 := ({ s.chip with pins.straps := straps, pins.xspiReset := true, pins.cs1 := e.cs1, pins.wakeOut := false } : Chip)
    exec (.bootB1 straps.rstprof straps.testmode straps.slotId e) s = .next (s.withBoth ((c1.b1Start.selectSlot e s.store (1 - n)).1)
      ((c1.b1Start.selectSlot e s.store (1 - n)).2))) ∧
  (∀ (s : State) (straps : Straps) (e : FlashEnv), s.chip.boot.phase = 1 → s.chip.pins.testmode = true → exec (.bootB1 straps.rstprof
    straps.testmode straps.slotId e) s = .next (s.withChip
    (({ s.chip with pins.straps := straps, pins.xspiReset := true, pins.cs1 := e.cs1, pins.wakeOut := false } : Chip)))) ∧
  (∀ (s : State) (e : FlashEnv), s.chip.boot.phase = 2 → s.chip.boot.exitForm = true → slotAnswers e (s.chip.fld Reg.BOOT_STATUS
    Fd.BOOT_STATUS_SLOT) = true → slotTimeout e (s.chip.fld Reg.BOOT_STATUS Fd.BOOT_STATUS_SLOT) = false → imgFirmware (slotImg
    s.store (areaOf e.cs1 (s.chip.fld Reg.BOOT_STATUS Fd.BOOT_STATUS_SLOT))) = s.chip.boot.fwDigests → exec (.bootB2 e) s = .next
    (s.withChip ((({ s.chip with pins.cs1 := e.cs1 } : Chip).releaseCores s.chip.boot.fwDigests).setPhase 3))) ∧
  (∀ (s : State) (e : FlashEnv), s.chip.boot.phase = 2 → s.chip.boot.exitForm = false → exec (.bootB2 e) s = .next (s.withBoth
    ((({ s.chip with pins.cs1 := e.cs1 } : Chip).streamBody e s.store (s.chip.fld Reg.BOOT_STATUS Fd.BOOT_STATUS_SLOT)).1)
    ((({ s.chip with pins.cs1 := e.cs1 } : Chip).streamBody e s.store (s.chip.fld Reg.BOOT_STATUS Fd.BOOT_STATUS_SLOT)).2))) ∧
  (∀ (s : State) (ranks : List (Nat × Nat)) (gib : List Nat), s.chip.boot.phase = 3 → s.chip.boot.exitForm = true → exec (.bootB3
    ranks gib) s = .next (s.withChip (({ s.chip with pins.cxlPerst0 := true, pins.cxlPerst1 := true } : Chip).exitB3 gib))) ∧
  (∀ (s : State) (ranks : List (Nat × Nat)) (gib : List Nat), s.chip.boot.phase = 3 → s.chip.boot.exitForm = false → exec (.bootB3
    ranks gib) s = .next (s.withBoth ((({ s.chip with pins.cxlPerst0 := true, pins.cxlPerst1 := true } : Chip).firstB3 ranks gib
    s.store).1) ((({ s.chip with pins.cxlPerst0 := true, pins.cxlPerst1 := true } : Chip).firstB3 ranks gib s.store).2))) ∧
  (∀ (s : State), s.chip.boot.phase = 4 → s.chip.boot.exitForm = false → exec (.bootB4) s = .next (s.withChip
    (({ s.chip.setSlot 0 sClosed with hbm.backed := [0, 1, 2, 3], hbm.backAt := s.chip.now }.flip).setPhase 5))) ∧
  (∀ (s : State), s.chip.boot.phase = 5 → s.chip.boot.exitForm = false → exec (.bootB5) s = .next (s.withBoth ((s.chip.firstB5
    s.store).1) ((s.chip.firstB5 s.store).2))) ∧
  (∀ (s : State), s.chip.boot.phase = 5 → s.chip.boot.exitForm = true → exec (.bootB5) s = .next (s.withChip
    ({ s.chip.liftFences.unparkPorts.b5Done with boot.exitForm := false, tet.aloneAt := s.chip.now }))) ∧
  (∀ (s : State), 1 ≤ s.chip.boot.phase → s.chip.boot.phase ≤ 5 → s.chip.pins.testmode = false → s.chip.boot.phaseStart +
    s.chip.phaseLimit s.store ≤ s.chip.now → s.chip.plain = false → s.chip.firstInCycle = true → exec (.bootWatchdogExpiry) s =
    .next (s.withBoth (s.store.lostHbm) ((s.chip.cutFrames (fun _ => true)).restarted 2))) ∧
  (∀ (s : State), s.chip.boot.phase = 6 → s.chip.boot.waitEnd ≤ s.chip.now → exec (.bootBackoffEnd) s = .next (s.withChip
    (s.chip.enterB1)))

/-- FLASH_READ answers the bytes of the slot, FLASH_ERASE and FLASH_WRITE change the slot bytes they name, SLOT_CHECK records the result
of the checks, ADVANCE_SVN and REVOKE_KEY change the fuse shadow, RESET_UNIT resets a disabled unit and counts the write bursts that
it met, MAILBOX_COMPLETE publishes RESULT and data, a function-level reset resets its window. -/
def Obligations.FlashMailboxActs : Prop :=
  (∀ (s : State) (rq : Req) (tag : BitVec 16), s.chip.mbxStarts rq .boot 1 = true → Chip.flashArgsOk (s.chip.mbxArgs .boot) 4 4 4096 =
    true → exec (.flashRead rq tag false) s = .next (s.withChip
    (({ s.chip.pendingIn .boot with freeCtr := (s.chip.pendingIn .boot).freeCtr + (s.chip.mbxArgs .boot).getD 2 0 }).mbxTaken .boot
    tag 1 (s.chip.mbxArgs .boot) (some (0, Chip.dataWords ((s.chip.mbxArgs .boot).getD 2 0 / 4) (leNat ((s.chip.pendingIn
    .boot).flashBytes s.store ((s.chip.pendingIn .boot).argArea (s.chip.mbxArgs .boot)) ((s.chip.mbxArgs .boot).getD 1 0)
    ((s.chip.mbxArgs .boot).getD 2 0)))))))) ∧
  (∀ (s : State) (rq : Req) (tag : BitVec 16), s.chip.mbxStarts rq .boot 2 = true → Chip.flashArgsOk (s.chip.mbxArgs .boot) 65536 0
    0x10000000 = true → (s.chip.pendingIn .boot).runningSlot ≠ some ((s.chip.mbxArgs .boot).getD 0 0) → exec (.flashErase rq tag
    false) s = .next (s.withBoth (s.store.flashErase (((s.chip.pendingIn .boot).argArea (s.chip.mbxArgs .boot))) ((s.chip.mbxArgs
    .boot).getD 1 0) ((s.chip.mbxArgs .boot).getD 2 0))
    (({ s.chip.pendingIn .boot with boot.torn := (((s.chip.pendingIn .boot).argArea (s.chip.mbxArgs .boot)), (s.chip.mbxArgs .boot).getD 1 0, (s.chip.mbxArgs .boot).getD 2 0) :: (s.chip.pendingIn .boot).boot.torn }).mbxTaken
    .boot tag 2 (s.chip.mbxArgs .boot) (some (0, []))))) ∧
  (∀ (s : State) (rq : Req) (tag : BitVec 16), s.chip.mbxStarts rq .boot 3 = true → Chip.flashArgsOk (s.chip.mbxArgs .boot) 256 256
    4096 = true → (s.chip.pendingIn .boot).runningSlot ≠ some ((s.chip.mbxArgs .boot).getD 0 0) → exec (.flashWrite rq tag false) s
    = .next (s.withBoth (s.store.flashWr (((s.chip.pendingIn .boot).argArea (s.chip.mbxArgs .boot))) ((s.chip.mbxArgs .boot).getD 1
    0) ((List.range ((s.chip.mbxArgs .boot).getD 2 0 / 4)).flatMap (fun j => leBytes 4 ((s.chip.pendingIn .boot).rd
    (Reg.BOOT_MBX_DATA j)))))
    (({ s.chip.pendingIn .boot with boot.torn := (((s.chip.pendingIn .boot).argArea (s.chip.mbxArgs .boot)), (s.chip.mbxArgs .boot).getD 1 0, (s.chip.mbxArgs .boot).getD 2 0) :: (s.chip.pendingIn .boot).boot.torn }).mbxTaken
    .boot tag 3 (s.chip.mbxArgs .boot) (some (0, []))))) ∧
  (∀ (s : State) (rq : Req) (tag : BitVec 16) (dev : FlashEnv) (reason : Nat), s.chip.mbxStarts rq .boot 4 = true → (s.chip.mbxArgs
    .boot).getD 0 0 < 2 → reason = firstFail (((s.chip.pendingIn .boot).wiped 1).b1Checks dev s.store ((s.chip.mbxArgs .boot).getD 0
    0) ++ [(0x0D, Chip.readable (slotImg s.store (areaOf dev.cs1 ((s.chip.mbxArgs .boot).getD 0 0))) && (s.chip.pendingIn
    .boot).bodyDigestOk s.store (areaOf dev.cs1 ((s.chip.mbxArgs .boot).getD 0 0)))]) → exec (.slotCheck rq tag dev) s = .next
    (s.withChip ((({ s.chip.pendingIn .boot with pins.cs1 := dev.cs1 } : Chip).slotStatus dev s.store ((s.chip.mbxArgs .boot).getD 0
    0) reason).mbxTaken .boot tag 4 (s.chip.mbxArgs .boot) (some (0, [reason]))))) ∧
  (∀ (s : State) (rq : Req) (tag : BitVec 16), s.chip.mbxStarts rq .boot 0x10 = true → (s.chip.pendingIn .boot).fld Reg.BOOT_FUSE
    Fd.BOOT_FUSE_SVN_MIN < (s.chip.mbxArgs .boot).getD 0 0 → (s.chip.mbxArgs .boot).getD 0 0 ≤ (s.chip.pendingIn .boot).fld
    Reg.BOOT_STATUS Fd.BOOT_STATUS_SVN → exec (.advanceSvn rq tag true) s = .next (s.withChip (((s.chip.pendingIn .boot).setF
    Reg.BOOT_FUSE Fd.BOOT_FUSE_SVN_MIN ((s.chip.mbxArgs .boot).getD 0 0)).mbxTaken .boot tag 0x10 (s.chip.mbxArgs .boot) (some (0,
    []))))) ∧
  (∀ (s : State) (rq : Req) (tag : BitVec 16), s.chip.mbxStarts rq .boot 0x11 = true → (s.chip.mbxArgs .boot).getD 0 0 < 3 →
    ((s.chip.pendingIn .boot).runningSlot.isSome && (s.chip.pendingIn .boot).fld Reg.BOOT_STATUS Fd.BOOT_STATUS_KEY ==
    (s.chip.mbxArgs .boot).getD 0 0) = false → ([0, 1, 2].all (fun j => j == (s.chip.mbxArgs .boot).getD 0 0 || bitOf
    ((s.chip.pendingIn .boot).fld Reg.BOOT_FUSE Fd.BOOT_FUSE_REVOKED) j) = false) → exec (.revokeKey rq tag true) s = .next
    (s.withChip (((s.chip.pendingIn .boot).setFBit Reg.BOOT_FUSE Fd.BOOT_FUSE_REVOKED ((s.chip.mbxArgs .boot).getD 0 0)
    true).mbxTaken .boot tag 0x11 (s.chip.mbxArgs .boot) (some (0, []))))) ∧
  (∀ (s : State) (rq : Req) (tag : BitVec 16) (bursts u lo hi : Nat) (dom : Option Nat), s.chip.mbxStarts rq .rstBlk 1 = true → u =
    (s.chip.mbxArgs .rstBlk).headD 0 % 256 → unitRange u = some (lo, hi, dom) → (dom.all (fun d => (s.chip.pendingIn .rstBlk).domOn
    d) = true) → (s.chip.pendingIn .rstBlk).unitDisabled u = true → exec (.resetUnit rq tag ⟨true, bursts⟩) s = .next (s.withBoth
    (if 0x0C ≤ u ∧ u ≤ 0x0F then s.store.lostStack (u - 0x0C) else s.store) ((((s.chip.pendingIn .rstBlk).resetUnitDo u lo
    hi).abortBursts bursts).mbxTaken .rstBlk tag 1 (s.chip.mbxArgs .rstBlk) (some (0, []))))) ∧
  (∀ (s : State) (rq : Req) (tag : BitVec 16) (bursts u lo hi : Nat) (dom : Option Nat), s.chip.mbxStarts rq .rstBlk 1 = true → u =
    (s.chip.mbxArgs .rstBlk).headD 0 % 256 → unitRange u = some (lo, hi, dom) → (dom.all (fun d => (s.chip.pendingIn .rstBlk).domOn
    d) = true) → (s.chip.pendingIn .rstBlk).unitDisabled u = true → exec (.resetUnit rq tag ⟨false, bursts⟩) s = .next (s.withChip
    ((((s.chip.pendingIn .rstBlk).resetUnitFail u).abortBursts bursts).mbxTaken .rstBlk tag 1 (s.chip.mbxArgs .rstBlk) (some (4,
    []))))) ∧
  (∀ (s : State) (m : Mbx) (tag op code : Nat) (args data : List Nat), s.chip.mbxFind m = some ⟨m, tag, op, args, some (code, data),
    true⟩ → s.chip.mbxServed m op = true → 
    let d := s.chip.flashDone ⟨m, tag, op, args, some (code, data), true⟩
    exec (.mailboxComplete m) s = .next (s.withChip
      ({ (d.wrList m.data 0 data).wrN m.result (tag * 2 ^ 16 + 2 * 2 ^ 14 + code) with mbx := ((d.wrList m.data 0 data).wrN m.result (tag * 2 ^ 16 + 2 * 2 ^ 14 + code)).mbx.filter (fun o => !decide (o.mbx = m)) }))) ∧
  (∀ (s : State), exec (.pfFlr) s = .next (s.withChip ((s.chip.resetWindow 0 (fun k => decide (k < 0x61000))).forgetParcel 0))) ∧
  (∀ (s : State) (n : Fin 64), n.val ≠ 0 → s.chip.parState n ≠ 0 → exec (.vfFlr n) s = .next (s.withChip (s.chip.startQuiesce ⟨n, 2,
    true, false⟩)))

/-- RECEIVE_FRAME counts a frame and what its FEC found, delivers a good one to the receive queue of its panel, discards it when 64 wait
there, and hands a pause or PFC frame to flow control, BRIDLE_INGRESS admits or discards the oldest waiting frame of its panel,
PARSE_HEAD runs the oldest head of its slice, and in the slot reserved for them a recirculated or injected one, PATTERN_SCAN
resolves the oldest queued window of its engine, REPLICATION_COPY makes the next copy, RESIDENCE_OVERRUN drops a packet that waited
4 µs, HEAD_CACHE_REFILL fills the head-cell cache; where there is nothing to take, nothing changes. -/
def Obligations.FramePathActs : Prop :=
  (∀ (s : State) (port : Fin 256) (f : RxFrame) (k : Nat), s.chip.rxLocked port = true → f.noFrame = false → s.chip.pState port ≠
    pFault → rxCounter (f.bytes.length + 4) ((s.chip.countFec port f).fld (Reg.PORT_CFG port) Fd.PORT_CFG_MAXFRAME) (f.codeErr ||
    decide (0 < f.uncorrCw)) f.fcsGood (etherType f.bytes == 0x8808) = k → (k ≠ 0 ∧ k ≠ 8) → 
    let c1 := ((List.range 8).foldl (fun c i => c.bump (Reg.PORT_CNT port (16 + i)) (f.syms.getD i 0)) ((s.chip.bump (Reg.PORT_CNT port
      12) f.corrCw).bump (Reg.PORT_CNT port 13) f.uncorrCw))
    exec (.receiveFrame port f) s = .next (s.withChip (c1.bump (Reg.PORT_CNT port k) 1))) ∧
  (∀ (s : State) (port : Fin 256) (f : RxFrame), s.chip.rxLocked port = true → f.noFrame = false → s.chip.pState port ≠ pFault →
    rxCounter (f.bytes.length + 4) ((s.chip.countFec port f).fld (Reg.PORT_CFG port) Fd.PORT_CFG_MAXFRAME) (f.codeErr || decide (0 <
    f.uncorrCw)) f.fcsGood (etherType f.bytes == 0x8808) = 8 → beNat (slice f.bytes 14 2) = 0x0101 → 
    let c1 := ((List.range 8).foldl (fun c i => c.bump (Reg.PORT_CNT port (16 + i)) (f.syms.getD i 0)) ((s.chip.bump (Reg.PORT_CNT port
      12) f.corrCw).bump (Reg.PORT_CNT port 13) f.uncorrCw))
    exec (.receiveFrame port f) s = .next (s.withChip ((c1.bump (Reg.PORT_CNT port 8) 1).flowFrame port true (byteAt f.bytes 17)
      ((List.range 8).map (fun p => beNat (slice f.bytes (18 + 2 * p) 2)))))) ∧
  (∀ (s : State) (port : Fin 256) (f : RxFrame), s.chip.rxLocked port = true → f.noFrame = false → s.chip.pState port ≠ pFault →
    rxCounter (f.bytes.length + 4) ((s.chip.countFec port f).fld (Reg.PORT_CFG port) Fd.PORT_CFG_MAXFRAME) (f.codeErr || decide (0 <
    f.uncorrCw)) f.fcsGood (etherType f.bytes == 0x8808) = 8 → beNat (slice f.bytes 14 2) = 0x0001 → 
    let c1 := ((List.range 8).foldl (fun c i => c.bump (Reg.PORT_CNT port (16 + i)) (f.syms.getD i 0)) ((s.chip.bump (Reg.PORT_CNT port
      12) f.corrCw).bump (Reg.PORT_CNT port 13) f.uncorrCw))
    exec (.receiveFrame port f) s = .next (s.withChip ((c1.bump (Reg.PORT_CNT port 8) 1).flowFrame port false 0 [beNat (slice f.bytes 16
      2)]))) ∧
  (∀ (s : State) (port : Fin 256) (f : RxFrame), s.chip.rxLocked port = true → f.noFrame = false → s.chip.pState port ≠ pFault →
    rxCounter (f.bytes.length + 4) ((s.chip.countFec port f).fld (Reg.PORT_CFG port) Fd.PORT_CFG_MAXFRAME) (f.codeErr || decide (0 <
    f.uncorrCw)) f.fcsGood (etherType f.bytes == 0x8808) = 8 → (beNat (slice f.bytes 14 2) ≠ 0x0101 ∧ beNat (slice f.bytes 14 2) ≠
    0x0001) → 
    let c1 := ((List.range 8).foldl (fun c i => c.bump (Reg.PORT_CNT port (16 + i)) (f.syms.getD i 0)) ((s.chip.bump (Reg.PORT_CNT port
      12) f.corrCw).bump (Reg.PORT_CNT port 13) f.uncorrCw))
    exec (.receiveFrame port f) s = .next (s.withChip ((c1.bump (Reg.PORT_CNT port 8) 1)))) ∧
  (∀ (s : State) (port : Fin 256) (f : RxFrame), s.chip.rxLocked port = true → f.noFrame = false → s.chip.pState port ≠ pFault →
    rxCounter (f.bytes.length + 4) ((s.chip.countFec port f).fld (Reg.PORT_CFG port) Fd.PORT_CFG_MAXFRAME) (f.codeErr || decide (0 <
    f.uncorrCw)) f.fcsGood (etherType f.bytes == 0x8808) = 0 → ((((((s.chip.countFec port f).bump (Reg.PORT_CNT port 0) 1).bump
    (Reg.PORT_CNT port 1) (f.bytes.length + 4)).pmcEvent (0x18 + port / 32) 1 1).bridleWaits (port / 32) && decide (64 ≤
    (((((s.chip.countFec port f).bump (Reg.PORT_CNT port 0) 1).bump (Reg.PORT_CNT port 1) (f.bytes.length + 4)).pmcEvent (0x18 +
    port / 32) 1 1).pipe.bridle.filter (fun g => g.port / 32 == port.val / 32)).length)) = false) → 
    let c1 := ((List.range 8).foldl (fun c i => c.bump (Reg.PORT_CNT port (16 + i)) (f.syms.getD i 0)) ((s.chip.bump (Reg.PORT_CNT port
      12) f.corrCw).bump (Reg.PORT_CNT port 13) f.uncorrCw))
    let c2 := (((c1.bump (Reg.PORT_CNT port 0) 1).bump (Reg.PORT_CNT port 1) (f.bytes.length + 4)).pmcEvent (0x18 + port / 32) 1 1)
    exec (.receiveFrame port f) s = .next (s.withChip
      ({ c2 with pipe.bridle := c2.pipe.bridle ++ [⟨port, f.bytes, (s.chip.ingressTime port).1, (s.chip.ingressTime port).2⟩] }))) ∧
  (∀ (s : State) (port : Fin 256) (f : RxFrame), s.chip.rxLocked port = true → f.noFrame = false → s.chip.pState port ≠ pFault →
    rxCounter (f.bytes.length + 4) ((s.chip.countFec port f).fld (Reg.PORT_CFG port) Fd.PORT_CFG_MAXFRAME) (f.codeErr || decide (0 <
    f.uncorrCw)) f.fcsGood (etherType f.bytes == 0x8808) = 0 → ((((((s.chip.countFec port f).bump (Reg.PORT_CNT port 0) 1).bump
    (Reg.PORT_CNT port 1) (f.bytes.length + 4)).pmcEvent (0x18 + port / 32) 1 1).bridleWaits (port / 32) && decide (64 ≤
    (((((s.chip.countFec port f).bump (Reg.PORT_CNT port 0) 1).bump (Reg.PORT_CNT port 1) (f.bytes.length + 4)).pmcEvent (0x18 +
    port / 32) 1 1).pipe.bridle.filter (fun g => g.port / 32 == port.val / 32)).length)) = true) → 
    let c1 := ((List.range 8).foldl (fun c i => c.bump (Reg.PORT_CNT port (16 + i)) (f.syms.getD i 0)) ((s.chip.bump (Reg.PORT_CNT port
      12) f.corrCw).bump (Reg.PORT_CNT port 13) f.uncorrCw))
    let c2 := (((c1.bump (Reg.PORT_CNT port 0) 1).bump (Reg.PORT_CNT port 1) (f.bytes.length + 4)).pmcEvent (0x18 + port / 32) 1 1)
    exec (.receiveFrame port f) s = .next (s.withChip (c2.bump (Reg.PWR_PANEL_DISCARD (port / 32) 0) 1))) ∧
  (∀ (s : State) (port : Fin 256) (f : RxFrame), s.chip.rxLocked port = true → f.noFrame = true → exec (.receiveFrame port f) s =
    .next (s.withChip (((List.range 8).foldl (fun c i => c.bump (Reg.PORT_CNT port (16 + i)) (f.syms.getD i 0)) ((s.chip.bump
    (Reg.PORT_CNT port 12) f.corrCw).bump (Reg.PORT_CNT port 13) f.uncorrCw))))) ∧
  (∀ (s : State) (port : Fin 256) (f : RxFrame), s.chip.rxLocked port = true → f.noFrame = false → s.chip.pState port = pFault → exec
    (.receiveFrame port f) s = .next (s.withChip (((List.range 8).foldl (fun c i => c.bump (Reg.PORT_CNT port (16 + i)) (f.syms.getD
    i 0)) ((s.chip.bump (Reg.PORT_CNT port 12) f.corrCw).bump (Reg.PORT_CNT port 13) f.uncorrCw)).bump (Reg.PORT_CNT port 3) 1))) ∧
  (∀ (s : State) (port : Fin 256) (f : RxFrame), s.chip.rxLocked port = false → exec (.receiveFrame port f) s = .next (s.withChip
    (s.chip))) ∧
  (∀ (s : State) (panel : Fin 8), (s.chip.pipe.bridle.find? (fun f => f.port / 32 == panel.val) = none) → exec (.bridleIngress panel)
    s = .next (s.withChip (s.chip))) ∧
  (∀ (s : State) (panel : Fin 8) (f : BFrame), (s.chip.pipe.bridle.find? (fun f => f.port / 32 == panel.val) = some f) →
    s.chip.forwards = true → s.chip.standby = true → exec (.bridleIngress panel) s = .next (s.withChip
    (({ s.chip with pipe.bridle := s.chip.pipe.bridle.erase f }).bump (Reg.TET_CNT 7) 1))) ∧
  (∀ (s : State) (panel : Fin 8) (f : BFrame), (s.chip.pipe.bridle.find? (fun f => f.port / 32 == panel.val) = some f) →
    s.chip.forwards = true → s.chip.standby = false → s.chip.pwr.entry.isSome = true → exec (.bridleIngress panel) s = .next
    (s.withChip (({ s.chip with pipe.bridle := s.chip.pipe.bridle.erase f }).bump (Reg.PWR_PANEL_DISCARD panel 1) 1))) ∧
  (∀ (s : State) (panel : Fin 8) (f : BFrame), (s.chip.pipe.bridle.find? (fun f => f.port / 32 == panel.val) = some f) →
    s.chip.forwards = true → s.chip.standby = false → s.chip.pwr.entry.isSome = false → (s.chip).bridleStopped panel = true → exec
    (.bridleIngress panel) s = .next (s.withChip (({ s.chip with pipe.bridle := s.chip.pipe.bridle.erase f }).bump
    (Reg.FLT_PANEL_CNT panel 0) 1))) ∧
  (∀ (s : State) (panel : Fin 8) (f : BFrame), (s.chip.pipe.bridle.find? (fun f => f.port / 32 == panel.val) = some f) →
    s.chip.forwards = true → s.chip.standby = false → s.chip.pwr.entry.isSome = false → s.chip.bridleStopped panel = false → exec
    (.bridleIngress panel) s = .next (s.withChip (({ s.chip with pipe.bridle := s.chip.pipe.bridle.erase f }).admitHead f
    ((s.chip.serving panel).getD panel)))) ∧
  (∀ (s : State) (slice : Fin 9) (hits : List Hit) (h : Head), ((s.chip.strike hits).pipe.heads.find? (fun h => h.slice == slice.val)
    = some h) → (mget (fun _ => 0) (s.chip.strike hits).pipe.slotNo slice ≠ 383 ∨ (s.chip.strike hits).otherWaits slice = false) → 
    let c1 := (s.chip.strike hits).slotUp slice
    exec (.parseHead slice hits) s = .next (s.withChip ({ c1 with pipe.heads := c1.pipe.heads.erase h }.runHead slice h))) ∧
  (∀ (s : State) (slice : Fin 9) (hits : List Hit) (h : Head), ((s.chip.strike hits).pipe.heads.find? (fun h => h.slice == slice.val)
    = some h) → (mget (fun _ => 0) (s.chip.strike hits).pipe.slotNo slice = 383) → (s.chip.strike hits).otherWaits slice = true →
    exec (.parseHead slice hits) s = .next (s.withChip (((s.chip.strike hits).slotUp slice).runOther slice))) ∧
  (∀ (s : State) (slice : Fin 9) (hits : List Hit), ((s.chip.strike hits).pipe.heads.find? (fun h => h.slice == slice.val) = none) →
    (s.chip.strike hits).otherWaits slice = true → exec (.parseHead slice hits) s = .next (s.withChip (((s.chip.strike hits).slotUp
    slice).runOther slice))) ∧
  (∀ (s : State) (slice : Fin 9) (hits : List Hit), ((s.chip.strike hits).pipe.heads.find? (fun h => h.slice == slice.val) = none) →
    (s.chip.strike hits).otherWaits slice = false → exec (.parseHead slice hits) s = .next (s.withChip ((s.chip.strike hits)))) ∧
  (∀ (s : State) (slice : Fin 9) (x : PatReq), (s.chip.pipe.patQ.find? (fun x => x.pkt.md.slice == slice.val && x.pkt.gen ==
    s.chip.gen slice && s.chip.overdue x.pkt.stampAt) = some x) → exec (.residenceOverrun slice) s = .next (s.withChip
    (s.chip.scanLate x))) ∧
  (∀ (s : State) (slice : Fin 9) (x : ReplReq), (s.chip.pipe.patQ.find? (fun x => x.pkt.md.slice == slice.val && x.pkt.gen ==
    s.chip.gen slice && s.chip.overdue x.pkt.stampAt) = none) → (s.chip.pipe.replQ.find? (fun x => x.pkt.md.slice == slice.val &&
    s.chip.overdue x.pkt.stampAt) = some x) → exec (.residenceOverrun slice) s = .next (s.withChip (s.chip.replLate x))) ∧
  (∀ (s : State) (engine : Fin 4) (hits : List Hit) (x : PatReq), ((s.chip.strike hits).pipe.patQ.find? (fun x => x.engine ==
    engine.val) = some x) → x.pkt.gen ≠ (s.chip.strike hits).gen x.pkt.md.slice → exec (.patternScan engine hits) s = .next
    (s.withChip (({ s.chip.strike hits with pipe.patQ := (s.chip.strike hits).pipe.patQ.erase x }).bump (Reg.FLT_CNT 37) 1))) ∧
  (∀ (s : State) (engine : Fin 4) (hits : List Hit) (x : PatReq), ((s.chip.strike hits).pipe.patQ.find? (fun x => x.engine ==
    engine.val) = some x) → x.pkt.gen = (s.chip.strike hits).gen x.pkt.md.slice → (s.chip.strike hits).overdue x.pkt.stampAt = true
    → exec (.patternScan engine hits) s = .next (s.withChip ((s.chip.strike hits).scanLate x))) ∧
  (∀ (s : State) (engine : Fin 4) (hits : List Hit) (x : PatReq), ((s.chip.strike hits).pipe.patQ.find? (fun x => x.engine ==
    engine.val) = some x) → x.pkt.gen = (s.chip.strike hits).gen x.pkt.md.slice → (s.chip.strike hits).overdue x.pkt.stampAt = false
    → ((s.chip.strike hits).readCells ((s.chip.strike hits).cellsOfBytes x.pkt.head.chain x.first x.last)).2 = false → exec
    (.patternScan engine hits) s = .next (s.withChip (((((s.chip.strike hits).readCells ((s.chip.strike hits).cellsOfBytes
    x.pkt.head.chain x.first x.last)).1.scanReq x).1).scanned x (((s.chip.strike hits).readCells ((s.chip.strike hits).cellsOfBytes
    x.pkt.head.chain x.first x.last)).1.scanReq x).2))) ∧
  (∀ (s : State) (engine : Fin 4) (hits : List Hit) (x : PatReq), ((s.chip.strike hits).pipe.patQ.find? (fun x => x.engine ==
    engine.val) = some x) → x.pkt.gen = (s.chip.strike hits).gen x.pkt.md.slice → (s.chip.strike hits).overdue x.pkt.stampAt = false
    → ((s.chip.strike hits).readCells ((s.chip.strike hits).cellsOfBytes x.pkt.head.chain x.first x.last)).2 = true → exec
    (.patternScan engine hits) s = .next (s.withChip (((s.chip.strike hits).readCells ((s.chip.strike hits).cellsOfBytes
    x.pkt.head.chain x.first x.last)).1.scanned x (poison (applyAction x.pkt x.act 0x40))))) ∧
  (∀ (s : State) (slice : Fin 9) (hits : List Hit) (x : ReplReq), ((s.chip.strike hits).pipe.replQ.find? (fun x => x.pkt.head.slice ==
    slice.val) = some x) → (s.chip.strike hits).overdue x.pkt.stampAt = false → exec (.replicationCopy slice hits) s = .next
    (s.withChip ((s.chip.strike hits).replStep x))) ∧
  (∀ (s : State) (slice : Fin 9) (hits : List Hit) (x : ReplReq), ((s.chip.strike hits).pipe.replQ.find? (fun x => x.pkt.head.slice ==
    slice.val) = some x) → (s.chip.strike hits).overdue x.pkt.stampAt = true → exec (.replicationCopy slice hits) s = .next
    (s.withChip ((s.chip.strike hits).replLate x))) ∧
  (∀ (s : State) (slice : Fin 9), s.chip.on Reg.BPM_CTRL Fd.BPM_CTRL_EN = true → s.chip.domOn (80 + slice) = true → exec
    (.headCacheRefill slice) s = .next (s.withChip ((s.chip.allocCells (min (64 - (s.chip.cache slice).length) (min (s.chip.fld
    Reg.BPM_HEAD_CFG Fd.BPM_HEAD_CFG_RSV - s.chip.kindUsed 2 + (max 0 s.chip.sharedAvail).toNat) s.chip.cellsFree)) 2
    (s.chip.ownerOf (0x20 + slice) 0)).1.setCache slice (s.chip.cache slice ++ (s.chip.allocCells (min (64 - (s.chip.cache
    slice).length) (min (s.chip.fld Reg.BPM_HEAD_CFG Fd.BPM_HEAD_CFG_RSV - s.chip.kindUsed 2 + (max 0 s.chip.sharedAvail).toNat)
    s.chip.cellsFree)) 2 (s.chip.ownerOf (0x20 + slice) 0)).2))))

/-- PORT_ENABLE brings up a port that may be enabled and else sets CFG_ERR, PORT_DISABLE and PORT_RESTART take the link down,
PORT_RELEASE sends RELEASE_REQ, AUTONEG_COMPLETE chooses the highest common type, training and lock move a port on to up, a fault
that outlasts the hold time takes the link down. -/
def Obligations.PortActs : Prop :=
  (∀ (s : State) (rq : Req) (port : Fin 256), rq.priv = true → s.chip.addrOff (Reg.PORT_CTRL port) = false → s.chip.on (Reg.PORT_CTRL
    port) Fd.PORT_CTRL_EN = true → exec (.portEnable rq port) s = .next (s.withChip (s.chip.setF (Reg.PORT_CTRL port)
    Fd.PORT_CTRL_EN 1))) ∧
  (∀ (s : State) (rq : Req) (port : Fin 256), rq.priv = true → s.chip.addrOff (Reg.PORT_CTRL port) = false → s.chip.on (Reg.PORT_CTRL
    port) Fd.PORT_CTRL_EN = false → s.chip.enableRefused port = false → exec (.portEnable rq port) s = .next (s.withChip
    ((s.chip.setF (Reg.PORT_CTRL port) Fd.PORT_CTRL_EN 1).bringUp port))) ∧
  (∀ (s : State) (rq : Req) (port : Fin 256), rq.priv = true → s.chip.addrOff (Reg.PORT_CTRL port) = false → s.chip.on (Reg.PORT_CTRL
    port) Fd.PORT_CTRL_EN = false → s.chip.enableRefused port = true → exec (.portEnable rq port) s = .next (s.withChip
    (((s.chip.setF (Reg.PORT_CTRL port) Fd.PORT_CTRL_EN 1).setF (Reg.PORT_STATUS port) Fd.PORT_STATUS_CFG_ERR 1).toState port
    pCfgErr))) ∧
  (∀ (s : State) (rq : Req) (port : Fin 256), rq.priv = true → s.chip.addrOff (Reg.PORT_CTRL port) = false → exec (.portDisable rq
    port) s = .next (s.withChip (((((((s.chip.setF (Reg.PORT_CTRL port) Fd.PORT_CTRL_EN 0).setF (Reg.PORT_STATUS port)
    Fd.PORT_STATUS_CFG_ERR 0).toState port pDisabled).linkDown port 0x19 outMasked).endSwaps port true).setF (Reg.PORT_STATUS port)
    Fd.PORT_STATUS_FALLEN 0).setF (Reg.PORT_STATUS port) Fd.PORT_STATUS_TYPE 0x1F))) ∧
  (∀ (s : State) (rq : Req) (port : Fin 256), rq.priv = true → s.chip.addrOff (Reg.PORT_CTRL port) = false → s.chip.pEnabled port =
    true → exec (.portRestart rq port) s = .next (s.withChip (((((((s.chip.setF (Reg.PORT_CTRL port) Fd.PORT_CTRL_RESTART 0).toState
    port (if s.chip.pRate port = 0 then pAn else pLock)).linkDown port 0x19 outMasked).endSwaps port false).setF (Reg.PORT_STATUS
    port) Fd.PORT_STATUS_FALLEN 0)).bringUp port))) ∧
  (∀ (s : State) (rq : Req) (port : Fin 256), rq.priv = true → s.chip.addrOff (Reg.PORT_CTRL port) = false → s.chip.pEnabled port =
    false → exec (.portRestart rq port) s = .next (s.withChip (s.chip.setF (Reg.PORT_CTRL port) Fd.PORT_CTRL_RESTART 0))) ∧
  (∀ (s : State) (rq : Req) (port : Fin 256) (below : List Nat), rq.priv = true → s.chip.addrOff (Reg.PORT_CTRL port) = false → exec
    (.portRelease rq port below) s = .next (s.withChip ((s.chip.markGood port below).portRelease port))) ∧
  (∀ (s : State) (port : Fin 256) (partner : AnPage) (pages t : Nat) (fc : Nat), s.chip.pState port = pAn → (typePrio.find? (fun t =>
    bitOf (s.chip.advTypes port (s.chip.fallenType port)) t && bitOf (partnerTypes partner) t) = some t) → s.chip.pFec port t
    (s.chip.resolveFec port t partner) = some fc → exec (.autonegComplete port partner pages) s = .next (s.withChip
    (((((s.chip.answerPages port pages).setF (Reg.PORT_STATUS port) Fd.PORT_STATUS_TYPE t).toState port pTrain)).setPort port
    { (((s.chip.answerPages port pages).setF (Reg.PORT_STATUS port) Fd.PORT_STATUS_TYPE t).toState port pTrain).port port with fec := fc }))) ∧
  (∀ (s : State) (port : Fin 256) (partner : AnPage) (pages : Nat), s.chip.pState port = pAn → (typePrio.find? (fun t => bitOf
    (s.chip.advTypes port (s.chip.fallenType port)) t && bitOf (partnerTypes partner) t) = none) → exec (.autonegComplete port
    partner pages) s = .next (s.withChip ((s.chip.answerPages port pages)))) ∧
  (∀ (s : State) (port : Fin 256) (partner : AnPage) (pages t : Nat), s.chip.pState port = pAn → (typePrio.find? (fun t => bitOf
    (s.chip.advTypes port (s.chip.fallenType port)) t && bitOf (partnerTypes partner) t) = some t) → s.chip.pFec port t
    (s.chip.resolveFec port t partner) = none → exec (.autonegComplete port partner pages) s = .next (s.withChip
    (((s.chip.answerPages port pages).setF (Reg.PORT_STATUS port) Fd.PORT_STATUS_CFG_ERR 1).toState port pCfgErr))) ∧
  (∀ (s : State) (port : Fin 256), s.chip.pState port = pTrain → s.chip.now < (s.chip.port port).since + 4 * sPs → exec
    (.trainingComplete port) s = .next (s.withChip (s.chip.toState port pLock))) ∧
  (∀ (s : State) (port : Fin 256), s.chip.pState port = pTrain → (s.chip.port port).since + 4 * sPs ≤ s.chip.now → exec
    (.trainingTimeout port) s = .next (s.withChip (s.chip.startAn port (s.chip.advTypes port (s.chip.fallenType port))))) ∧
  (∀ (s : State) (port : Fin 256), s.chip.pState port = pLock → exec (.linkUp port) s = .next (s.withChip (((((s.chip.toState port
    pUp).setF (Reg.PORT_STATUS port) Fd.PORT_STATUS_LINK 1).setF (Reg.PORT_STATUS port) Fd.PORT_STATUS_FEC_ACT (s.chip.port
    port).fec).loadLatency port).linkEvent port ((((s.chip.toState port pUp).setF (Reg.PORT_STATUS port) Fd.PORT_STATUS_LINK 1).setF
    (Reg.PORT_STATUS port) Fd.PORT_STATUS_FEC_ACT (s.chip.port port).fec).swapIn port) ((((s.chip.toState port pUp).setF
    (Reg.PORT_STATUS port) Fd.PORT_STATUS_LINK 1).setF (Reg.PORT_STATUS port) Fd.PORT_STATUS_FEC_ACT (s.chip.port port).fec).fallen
    port) 0x19 outMasked))) ∧
  (∀ (s : State) (port : Fin 256) (kind : Fin 3), s.chip.pState port = pUp → exec (.portFault port kind) s = .next (s.withChip
    ((s.chip.toState port pFault).setPort port
    { (s.chip.toState port pFault).port port with faultAt := s.chip.now, lockLost := kind.val == 0, hold := none }))) ∧
  (∀ (s : State) (port : Fin 256), s.chip.pState port = pFault → s.chip.holdOver port = false → exec (.faultClear port) s = .next
    (s.withChip ((s.chip.toState port pUp).setPort port
    { (s.chip.toState port pUp).port port with lockLost := false, hold := none }))) ∧
  (∀ (s : State) (port : Fin 256), s.chip.pState port = pFault → s.chip.holdOver port = true → exec (.holdExpiry port) s = .next
    (s.withChip (((s.chip.toState port (if s.chip.pRate port = 0 then pAn else pLock)).linkDown port 0x0C outReported).bringUp
    port)))

/-- DEGRADE_TRIGGER, FAILURE_TRIGGER and DEGRADE_RETRY start a swap; a message that a trained spare takes marks the partner present and
acts by its OP; a swap that is acknowledged switches at SWAP_SWITCH, an unanswered one ends after 2 ms. -/
def Obligations.SpareLaneActs : Prop :=
  (∀ (s : State) (port : Fin 256) (lane : Fin 8), s.chip.linkOn port = true → s.chip.laneOk port lane = true → (((s.chip.markBad port
    lane).swapPossible port && (s.chip.markBad port lane).pState port == pUp && (s.chip.markBad port lane).laneOk port lane &&
    !(s.chip.markBad port lane).laneSwapped port lane && !(s.chip.markBad port lane).laneTrying port lane && (s.chip.markBad port
    lane).fld (Reg.PORT_CFG port) Fd.PORT_CFG_SWAP_SER != 0 && !((s.chip.markBad port lane).port port).retry.any (fun r => r.1 ==
    lane.val)) = true) → exec (.degradeTrigger port lane) s = .next (s.withChip ((s.chip.markBad port lane).startSwap port lane
    true))) ∧
  (∀ (s : State) (port : Fin 256) (lane : Fin 8), s.chip.linkOn port = true → s.chip.laneOk port lane = true → (((s.chip.markBad port
    lane).swapPossible port && (s.chip.markBad port lane).pState port == pUp && (s.chip.markBad port lane).laneOk port lane &&
    !(s.chip.markBad port lane).laneSwapped port lane && !(s.chip.markBad port lane).laneTrying port lane && (s.chip.markBad port
    lane).fld (Reg.PORT_CFG port) Fd.PORT_CFG_SWAP_SER != 0 && !((s.chip.markBad port lane).port port).retry.any (fun r => r.1 ==
    lane.val)) = false) → exec (.degradeTrigger port lane) s = .next (s.withChip ((s.chip.markBad port lane)))) ∧
  (∀ (s : State) (port : Fin 256) (lane : Fin 8), s.chip.linkOn port = true → s.chip.laneOk port lane = true → s.chip.laneSwapped port
    lane = true → exec (.failureTrigger port lane) s = .next (s.withChip ((s.chip.markBad port lane)))) ∧
  (∀ (s : State) (port : Fin 256) (lane : Fin 8), s.chip.linkOn port = true → s.chip.laneOk port lane = true → s.chip.laneSwapped port
    lane = false → s.chip.laneTrying port lane = true → exec (.failureTrigger port lane) s = .next (s.withChip (s.chip.laneFailed
    port lane))) ∧
  (∀ (s : State) (port : Fin 256) (lane : Fin 8), s.chip.linkOn port = true → s.chip.laneOk port lane = true → s.chip.laneSwapped port
    lane = false → s.chip.laneTrying port lane = false → s.chip.swapPossible port = true → exec (.failureTrigger port lane) s =
    .next (s.withChip ((s.chip.laneFailed port lane).startSwap port lane false))) ∧
  (∀ (s : State) (port : Fin 256) (lane : Fin 8), s.chip.linkOn port = true → s.chip.laneOk port lane = true → s.chip.laneSwapped port
    lane = false → s.chip.laneTrying port lane = false → s.chip.swapPossible port = false → exec (.failureTrigger port lane) s =
    .next (s.withChip ((s.chip.laneFailed port lane).swapLost port lane false))) ∧
  (∀ (s : State) (port : Fin 256) (lane : Fin 8), exec (.degradeRetry port ⟨lane, false⟩) s = .next (s.withChip (s.chip.markGood port
    [lane.val]))) ∧
  (∀ (s : State) (port : Fin 256) (lane : Fin 8) (r : Nat × Nat), ((s.chip.port port).retry.find? (fun r => r.1 == lane.val) = some r)
    → r.2 + sPs ≤ s.chip.now → (((s.chip.setPort port
    { s.chip.port port with retry := (s.chip.port port).retry.filter (fun r => r.1 != lane.val) }).swapPossible port &&
    (s.chip.setPort port { s.chip.port port with retry := (s.chip.port port).retry.filter (fun r => r.1 != lane.val) }).fld
    (Reg.PORT_CFG port) Fd.PORT_CFG_SWAP_SER != 0 && (s.chip.setPort port
    { s.chip.port port with retry := (s.chip.port port).retry.filter (fun r => r.1 != lane.val) }).laneOk port lane &&
    !(s.chip.setPort port { s.chip.port port with retry := (s.chip.port port).retry.filter (fun r => r.1 != lane.val) }).laneSwapped
    port lane) = true) → exec (.degradeRetry port ⟨lane, true⟩) s = .next (s.withChip ((s.chip.setPort port
    { s.chip.port port with retry := (s.chip.port port).retry.filter (fun r => r.1 != lane.val) }).startSwap port lane true))) ∧
  (∀ (s : State) (panel : Fin 8) (spare : Fin 2) (msg : SpareMsg) (n : Nat), s.chip.sparePort panel spare = some n → s.chip.spareMsgOk
    panel spare msgHello msg = true → exec (.hello panel spare msg) s = .next (s.withChip ((s.chip.spareHeard panel spare)))) ∧
  (∀ (s : State) (panel : Fin 8) (spare : Fin 2) (msg : SpareMsg) (n : Nat), s.chip.sparePort panel spare = some n → s.chip.spareMsgOk
    panel spare msgSwapDone msg = true → exec (.swapDone panel spare msg) s = .next (s.withChip ((s.chip.spareHeard panel spare)))) ∧
  (∀ (s : State) (panel : Fin 8) (spare : Fin 2) (msg : SpareMsg) (n : Nat) (d : Nat × Nat), s.chip.sparePort panel spare = some n →
    s.chip.spareMsgOk panel spare msgBridgeReq msg = true → (s.chip.spareHeard panel spare).repeated panel spare msgBridgeReq
    (msg.d1.toNat % 16) = some d → exec (.bridgeReq panel spare msg) s = .next (s.withChip ((s.chip.spareHeard panel spare).place
    panel spare d.1 d.2))) ∧
  (∀ (s : State) (panel : Fin 8) (spare : Fin 2) (msg : SpareMsg) (n : Nat) (arg : Nat), s.chip.sparePort panel spare = some n →
    s.chip.spareMsgOk panel spare msgBridgeReq msg = true → (s.chip.spareHeard panel spare).repeated panel spare msgBridgeReq
    (msg.d1.toNat % 16) = none → (s.chip.spareHeard panel spare).nakArg n panel spare (msg.d2.toNat % 8) = some arg → exec
    (.bridgeReq panel spare msg) s = .next (s.withChip ((s.chip.spareHeard panel spare).answer panel spare msgBridgeReq
    (msg.d1.toNat % 16) (msgD1 msgBridgeNak (msg.d1.toNat % 16)) (msgD2 spare arg (msg.d2.toNat % 8))))) ∧
  (∀ (s : State) (panel : Fin 8) (spare : Fin 2) (msg : SpareMsg) (n : Nat), s.chip.sparePort panel spare = some n → s.chip.spareMsgOk
    panel spare msgBridgeReq msg = true → (s.chip.spareHeard panel spare).repeated panel spare msgBridgeReq (msg.d1.toNat % 16) =
    none → (s.chip.spareHeard panel spare).nakArg n panel spare (msg.d2.toNat % 8) = none → ((s.chip.spareHeard panel spare).spare
    panel spare).attempt = none → exec (.bridgeReq panel spare msg) s = .next (s.withChip (((((s.chip.spareHeard panel spare).answer
    panel spare msgBridgeReq (msg.d1.toNat % 16) (msgD1 msgBridgeAck (msg.d1.toNat % 16)) (msgD2 spare 0 (msg.d2.toNat % 8))).setF
    (Reg.PNL_SPARE_STATUS panel spare) Fd.PNL_SPARE_STATUS_TX_USED 1).setF (Reg.PNL_SPARE_STATUS panel spare)
    Fd.PNL_SPARE_STATUS_TX_LANE (msg.d2.toNat % 8)).setFBit (Reg.PORT_STATUS n) Fd.PORT_STATUS_SWAP_TX spare true))) ∧
  (∀ (s : State) (panel : Fin 8) (spare : Fin 2) (msg : SpareMsg) (n : Nat) (a : SwapTry), s.chip.sparePort panel spare = some n →
    s.chip.spareMsgOk panel spare msgBridgeReq msg = true → (s.chip.spareHeard panel spare).repeated panel spare msgBridgeReq
    (msg.d1.toNat % 16) = none → (s.chip.spareHeard panel spare).nakArg n panel spare (msg.d2.toNat % 8) = none →
    ((s.chip.spareHeard panel spare).spare panel spare).attempt = some a → a.acked = false → exec (.bridgeReq panel spare msg) s =
    .next (s.withChip ((((((s.chip.spareHeard panel spare).answer panel spare msgBridgeReq (msg.d1.toNat % 16) (msgD1 msgBridgeAck
    (msg.d1.toNat % 16)) (msgD2 spare 0 (msg.d2.toNat % 8))).setF (Reg.PNL_SPARE_STATUS panel spare) Fd.PNL_SPARE_STATUS_TX_USED
    1).setF (Reg.PNL_SPARE_STATUS panel spare) Fd.PNL_SPARE_STATUS_TX_LANE (msg.d2.toNat % 8)).setFBit (Reg.PORT_STATUS n)
    Fd.PORT_STATUS_SWAP_TX spare true).endAttempt panel spare a))) ∧
  (∀ (s : State) (panel : Fin 8) (spare : Fin 2) (msg : SpareMsg) (n : Nat) (a : SwapTry), s.chip.sparePort panel spare = some n →
    s.chip.spareMsgOk panel spare msgBridgeReq msg = true → (s.chip.spareHeard panel spare).repeated panel spare msgBridgeReq
    (msg.d1.toNat % 16) = none → (s.chip.spareHeard panel spare).nakArg n panel spare (msg.d2.toNat % 8) = none →
    ((s.chip.spareHeard panel spare).spare panel spare).attempt = some a → a.acked = true → exec (.bridgeReq panel spare msg) s =
    .next (s.withChip (((((s.chip.spareHeard panel spare).answer panel spare msgBridgeReq (msg.d1.toNat % 16) (msgD1 msgBridgeAck
    (msg.d1.toNat % 16)) (msgD2 spare 0 (msg.d2.toNat % 8))).setF (Reg.PNL_SPARE_STATUS panel spare) Fd.PNL_SPARE_STATUS_TX_USED
    1).setF (Reg.PNL_SPARE_STATUS panel spare) Fd.PNL_SPARE_STATUS_TX_LANE (msg.d2.toNat % 8)).setFBit (Reg.PORT_STATUS n)
    Fd.PORT_STATUS_SWAP_TX spare true))) ∧
  (∀ (s : State) (panel : Fin 8) (spare : Fin 2) (msg : SpareMsg) (n : Nat) (a : SwapTry), s.chip.sparePort panel spare = some n →
    s.chip.spareMsgOk panel spare msgBridgeAck msg = true → ((s.chip.spareHeard panel spare).spare panel spare).attempt = some a →
    (msg.d1.toNat % 16) = ((s.chip.spareHeard panel spare).spare panel spare).seq → (msg.d2.toNat % 8) = a.lane → (a.acked = true ∨
    (s.chip.spareHeard panel spare).now < a.start + 2 * msPs) → exec (.bridgeAck panel spare msg) s = .next (s.withChip
    ((s.chip.spareHeard panel spare).setSpare panel spare
    { (s.chip.spareHeard panel spare).spare panel spare with attempt := some { a with acked := true } }))) ∧
  (∀ (s : State) (panel : Fin 8) (spare : Fin 2) (msg : SpareMsg) (n : Nat) (a : SwapTry), s.chip.sparePort panel spare = some n →
    s.chip.spareMsgOk panel spare msgBridgeNak msg = true → ((s.chip.spareHeard panel spare).spare panel spare).attempt = some a →
    (msg.d1.toNat % 16) = ((s.chip.spareHeard panel spare).spare panel spare).seq → a.acked = false → exec (.bridgeNak panel spare
    msg) s = .next (s.withChip ((((s.chip.spareHeard panel spare).setF (Reg.PNL_SPARE_STATUS panel spare) Fd.PNL_SPARE_STATUS_NAK
    (msg.d2.toNat / 8 % 16)).placeHello panel spare).endAttempt panel spare a))) ∧
  (∀ (s : State) (panel : Fin 8) (spare : Fin 2) (msg : SpareMsg) (n : Nat), s.chip.sparePort panel spare = some n → s.chip.spareMsgOk
    panel spare msgBridgeNak msg = true → ((s.chip.spareHeard panel spare).spare panel spare).attempt = none → exec (.bridgeNak
    panel spare msg) s = .next (s.withChip ((s.chip.spareHeard panel spare).setF (Reg.PNL_SPARE_STATUS panel spare)
    Fd.PNL_SPARE_STATUS_NAK (msg.d2.toNat / 8 % 16)))) ∧
  (∀ (s : State) (panel : Fin 8) (spare : Fin 2) (msg : SpareMsg) (n : Nat) (d : Nat × Nat), s.chip.sparePort panel spare = some n →
    s.chip.spareMsgOk panel spare msgReleaseReq msg = true → (s.chip.spareHeard panel spare).repeated panel spare msgReleaseReq
    (msg.d1.toNat % 16) = some d → exec (.releaseReq panel spare msg) s = .next (s.withChip ((s.chip.spareHeard panel spare).place
    panel spare d.1 d.2))) ∧
  (∀ (s : State) (panel : Fin 8) (spare : Fin 2) (msg : SpareMsg) (n : Nat), s.chip.sparePort panel spare = some n → s.chip.spareMsgOk
    panel spare msgReleaseReq msg = true → (s.chip.spareHeard panel spare).repeated panel spare msgReleaseReq (msg.d1.toNat % 16) =
    none → ((s.chip.spareHeard panel spare).spFlag panel spare Fd.PNL_SPARE_STATUS_TX_USED && (s.chip.spareHeard panel spare).fld
    (Reg.PNL_SPARE_STATUS panel spare) Fd.PNL_SPARE_STATUS_TX_LANE == (msg.d2.toNat % 8)) = true → exec (.releaseReq panel spare
    msg) s = .next (s.withChip (((((s.chip.spareHeard panel spare).setF (Reg.PNL_SPARE_STATUS panel spare)
    Fd.PNL_SPARE_STATUS_TX_USED 0).setF (Reg.PNL_SPARE_STATUS panel spare) Fd.PNL_SPARE_STATUS_TX_LANE 0).setFBit (Reg.PORT_STATUS
    n) Fd.PORT_STATUS_SWAP_TX spare false).answer panel spare msgReleaseReq (msg.d1.toNat % 16) (msgD1 msgReleaseAck (msg.d1.toNat %
    16)) (msgD2 spare 0 (msg.d2.toNat % 8))))) ∧
  (∀ (s : State) (panel : Fin 8) (spare : Fin 2) (msg : SpareMsg) (n : Nat), s.chip.sparePort panel spare = some n → s.chip.spareMsgOk
    panel spare msgReleaseAck msg = true → (msg.d1.toNat % 16) = ((s.chip.spareHeard panel spare).spare panel spare).seq →
    ((s.chip.spareHeard panel spare).spare panel spare).msg.1 / 16 = msgReleaseReq → exec (.releaseAck panel spare msg) s = .next
    (s.withChip ((s.chip.spareHeard panel spare).placeHello panel spare))) ∧
  (∀ (s : State) (panel : Fin 8) (spare : Fin 2) (a : SwapTry), (s.chip.spare panel spare).attempt = some a → a.acked = false →
    a.start + 2 * msPs ≤ s.chip.now → exec (.bridgeAckTimeout panel spare) s = .next (s.withChip ((s.chip.placeHello panel
    spare).endAttempt panel spare a))) ∧
  (∀ (s : State) (panel : Fin 8) (spare : Fin 2) (a : SwapTry) (c : Chip), (s.chip.spare panel spare).attempt = some a → a.acked =
    true → (c = (((((s.chip.setSpare panel spare { s.chip.spare panel spare with attempt := none }).setF (Reg.PNL_SPARE_STATUS panel
    spare) Fd.PNL_SPARE_STATUS_RX_USED 1).setF (Reg.PNL_SPARE_STATUS panel spare) Fd.PNL_SPARE_STATUS_RX_LANE a.lane).setFBit
    (Reg.PORT_STATUS a.port) Fd.PORT_STATUS_SWAP_RX spare true).bump (Reg.PORT_CNT a.port 15) 1).linkEvent a.port true
    ((((((s.chip.setSpare panel spare { s.chip.spare panel spare with attempt := none }).setF (Reg.PNL_SPARE_STATUS panel spare)
    Fd.PNL_SPARE_STATUS_RX_USED 1).setF (Reg.PNL_SPARE_STATUS panel spare) Fd.PNL_SPARE_STATUS_RX_LANE a.lane).setFBit
    (Reg.PORT_STATUS a.port) Fd.PORT_STATUS_SWAP_RX spare true).bump (Reg.PORT_CNT a.port 15) 1).fallen a.port) 0x0B (if a.degrade
    then outMasked else outDegraded)) → c.spFlag panel spare Fd.PNL_SPARE_STATUS_TX_USED = true → exec (.swapSwitch panel spare) s =
    .next (s.withChip (c))) ∧
  (∀ (s : State) (panel : Fin 8) (spare : Fin 2) (a : SwapTry) (c : Chip), (s.chip.spare panel spare).attempt = some a → a.acked =
    true → (c = (((((s.chip.setSpare panel spare { s.chip.spare panel spare with attempt := none }).setF (Reg.PNL_SPARE_STATUS panel
    spare) Fd.PNL_SPARE_STATUS_RX_USED 1).setF (Reg.PNL_SPARE_STATUS panel spare) Fd.PNL_SPARE_STATUS_RX_LANE a.lane).setFBit
    (Reg.PORT_STATUS a.port) Fd.PORT_STATUS_SWAP_RX spare true).bump (Reg.PORT_CNT a.port 15) 1).linkEvent a.port true
    ((((((s.chip.setSpare panel spare { s.chip.spare panel spare with attempt := none }).setF (Reg.PNL_SPARE_STATUS panel spare)
    Fd.PNL_SPARE_STATUS_RX_USED 1).setF (Reg.PNL_SPARE_STATUS panel spare) Fd.PNL_SPARE_STATUS_RX_LANE a.lane).setFBit
    (Reg.PORT_STATUS a.port) Fd.PORT_STATUS_SWAP_RX spare true).bump (Reg.PORT_CNT a.port 15) 1).fallen a.port) 0x0B (if a.degrade
    then outMasked else outDegraded)) → c.spFlag panel spare Fd.PNL_SPARE_STATUS_TX_USED = false → exec (.swapSwitch panel spare) s
    = .next (s.withChip (c.place panel spare (msgD1 msgSwapDone (c.spare panel spare).seq) (msgD2 spare 0 a.lane)))) ∧
  (∀ (s : State) (panel : Fin 8) (spare : Fin 2) (t : Nat), (s.chip.spare panel spare).heard = some t → t + 10 * msPs ≤ s.chip.now →
    exec (.sparePartnerTimeout panel spare) s = .next (s.withChip (s.chip.setF (Reg.PNL_SPARE_STATUS panel spare)
    Fd.PNL_SPARE_STATUS_PARTNER 0))) ∧
  (∀ (s : State) (panel : Fin 8) (spare : Fin 2) (t : Nat), (s.chip.spare panel spare).retryAt = some t → t ≤ s.chip.now → exec
    (.spareTrainRetry panel spare) s = .next (s.withChip (s.chip.setSpare panel spare
    { s.chip.spare panel spare with retryAt := none })))

/-- DEQUEUE sends the copy that the scheduler chooses or discards one that the watchdog, a drain or its age condemns, AGE_SWEEP discards
aged head copies, TRANSMIT_COPY sends or discards the copy at the MAC, received and expiring pause, the PFC watchdog and the queue
samples act as their rules say. -/
def Obligations.TrafficManagerActs : Prop :=
  (∀ (s : State) (port : Fin 256) (ch : Choice) (x : Copy), s.chip.forwards = true → s.chip.on Reg.TM_CTRL ⟨0, 1⟩ = true →
    s.chip.domOn 103 = true → ((s.chip.bpm.txq.filter (fun x => x.port == port.val)).length < 2) → s.chip.choicePort port = some ch
    → s.chip.qHead ch.queue = some x → s.chip.wdDrops ch.queue port = true → exec (.dequeue port) s = .next (s.withChip
    (s.chip.dequeueDrop x ch 0x93))) ∧
  (∀ (s : State) (port : Fin 256) (ch : Choice) (x : Copy), s.chip.forwards = true → s.chip.on Reg.TM_CTRL ⟨0, 1⟩ = true →
    s.chip.domOn 103 = true → ((s.chip.bpm.txq.filter (fun x => x.port == port.val)).length < 2) → s.chip.choicePort port = some ch
    → s.chip.qHead ch.queue = some x → s.chip.wdDrops ch.queue port = false → s.chip.drainDiscards port = true → exec (.dequeue
    port) s = .next (s.withChip ((s.chip.bump (Reg.PWR_CNT 9) 1).dequeueDrop x ch 0x95))) ∧
  (∀ (s : State) (port : Fin 256) (ch : Choice) (x : Copy), s.chip.forwards = true → s.chip.on Reg.TM_CTRL ⟨0, 1⟩ = true →
    s.chip.domOn 103 = true → ((s.chip.bpm.txq.filter (fun x => x.port == port.val)).length < 2) → s.chip.choicePort port = some ch
    → s.chip.qHead ch.queue = some x → s.chip.wdDrops ch.queue port = false → s.chip.drainDiscards port = false → s.chip.aged x =
    true → exec (.dequeue port) s = .next (s.withChip (s.chip.dequeueDrop x ch 0x94))) ∧
  (∀ (s : State) (port : Fin 256) (ch : Choice) (x : Copy), s.chip.forwards = true → s.chip.on Reg.TM_CTRL ⟨0, 1⟩ = true →
    s.chip.domOn 103 = true → ((s.chip.bpm.txq.filter (fun x => x.port == port.val)).length < 2) → s.chip.choicePort port = some ch
    → s.chip.qHead ch.queue = some x → s.chip.wdDrops ch.queue port = false → s.chip.drainDiscards port = false → s.chip.aged x =
    false → exec (.dequeue port) s = .next (s.withChip (s.chip.dequeueCopy port x ch))) ∧
  (∀ (s : State) (q : Fin 131072), exec (.ageSweep q) s = .next (s.withChip ((s.chip.sweepAged (s.chip.qCopies q)).settleDrr))) ∧
  (∀ (s : State) (port : Fin 256) (hits : List Hit) (x : Copy) (c : Chip), c = s.chip.strike hits → (c.bpm.txq.find? (fun x => x.port
    == port.val) = some x) → c.quenched (port / 32) = true → exec (.transmitCopy port hits) s = .next (s.withChip (c))) ∧
  (∀ (s : State) (port : Fin 256) (hits : List Hit) (x : Copy) (c : Chip), c = s.chip.strike hits → (c.bpm.txq.find? (fun x => x.port
    == port.val) = some x) → c.quenched (port / 32) = false → (({ c with bpm.txq := c.bpm.txq.erase x } : Chip).staleCopy x = true)
    → exec (.transmitCopy port hits) s = .next (s.withChip ((({ c with bpm.txq := c.bpm.txq.erase x } : Chip).bump (Reg.FLT_CNT 40)
    1).releaseCopy x))) ∧
  (∀ (s : State) (port : Fin 256) (hits : List Hit) (x : Copy) (c : Chip), c = s.chip.strike hits → (c.bpm.txq.find? (fun x => x.port
    == port.val) = some x) → c.quenched (port / 32) = false → (({ c with bpm.txq := c.bpm.txq.erase x } : Chip).staleCopy x = false)
    → ((!({ c with bpm.txq := c.bpm.txq.erase x } : Chip).linkOn port || ({ c with bpm.txq := c.bpm.txq.erase x } : Chip).pState
    port == pFault) = true) → exec (.transmitCopy port hits) s = .next (s.withChip ((({ c with bpm.txq := c.bpm.txq.erase x } :
    Chip).bump (Reg.PORT_CNT port 11) 1).releaseCopy x))) ∧
  (∀ (s : State) (port : Fin 256) (hits : List Hit) (x : Copy) (c : Chip), c = s.chip.strike hits → (c.bpm.txq.find? (fun x => x.port
    == port.val) = some x) → c.quenched (port / 32) = false → (({ c with bpm.txq := c.bpm.txq.erase x } : Chip).staleCopy x = false)
    → ((!({ c with bpm.txq := c.bpm.txq.erase x } : Chip).linkOn port || ({ c with bpm.txq := c.bpm.txq.erase x } : Chip).pState
    port == pFault) = false) → exec (.transmitCopy port hits) s = .next (s.withChip (({ c with bpm.txq := c.bpm.txq.erase x } :
    Chip).sendCopy port x))) ∧
  (∀ (s : State) (port : Fin 256), s.chip.fld (Reg.TM_P_STATUS port) Fd.TM_P_STATUS_XOFF_SENT ≠ 0 → (mget (fun _ => 0) s.chip.tm.fcAt
    port + s.chip.fld (Reg.TM_P_QUANTA port) Fd.TM_P_QUANTA_REFRESH_US * 1000 * tbNs ≤ s.chip.tb) → exec (.pfcRefresh port) s =
    .next (s.withChip (s.chip.sendXoff port))) ∧
  (∀ (s : State) (port : Fin 256) (pfc : Bool) (enable : BitVec 8) (quanta : List Nat), s.chip.rxLocked port = true → s.chip.pState
    port ≠ pFault → ((((s.chip.bump (Reg.PORT_CNT port 8) 1).fld (Reg.TM_P_CFG port) Fd.TM_P_CFG_FC_MODE = 1 ∧ pfc = false) ∨
    ((s.chip.bump (Reg.PORT_CNT port 8) 1).fld (Reg.TM_P_CFG port) Fd.TM_P_CFG_FC_MODE = 2 ∧ pfc = true))) → 
    let r := (if pfc then (List.range 8).filter (fun p => bitOf enable.toNat p) else [0]).foldl (fun r p => pausePri port (quanta.getD p
      0 % 65536) p r) ((s.chip.bump (Reg.PORT_CNT port 8) 1).bump (Reg.TM_CNT 6) 1, false)
    exec (.pauseFrameRx port pfc enable quanta) s = .next (s.withChip ((if r.2 then r.1.bump (Reg.TM_CNT 7) 1 else r.1).settleDrr))) ∧
  (∀ (s : State) (port : Fin 256) (pfc : Bool) (enable : BitVec 8) (quanta : List Nat), s.chip.rxLocked port = true → s.chip.pState
    port ≠ pFault → (¬ (((s.chip.bump (Reg.PORT_CNT port 8) 1).fld (Reg.TM_P_CFG port) Fd.TM_P_CFG_FC_MODE = 1 ∧ pfc = false) ∨
    ((s.chip.bump (Reg.PORT_CNT port 8) 1).fld (Reg.TM_P_CFG port) Fd.TM_P_CFG_FC_MODE = 2 ∧ pfc = true))) → exec (.pauseFrameRx
    port pfc enable quanta) s = .next (s.withChip ((s.chip.bump (Reg.PORT_CNT port 8) 1).bump (Reg.TM_CNT 7) 1))) ∧
  (∀ (s : State) (port : Fin 256) (pfc : Bool) (enable : BitVec 8) (quanta : List Nat), s.chip.rxLocked port = true → s.chip.pState
    port = pFault → exec (.pauseFrameRx port pfc enable quanta) s = .next (s.withChip (s.chip.bump (Reg.PORT_CNT port 3) 1))) ∧
  (∀ (s : State) (port : Fin 256) (pri : Fin 8) (p : Nat), (p = if s.chip.fld (Reg.TM_P_CFG port) Fd.TM_P_CFG_FC_MODE = 1 then 0 else
    pri.val) → bitOf (s.chip.fld (Reg.TM_P_STATUS port) Fd.TM_P_STATUS_PAUSED) p = true → (s.chip.pause port p).ends ≤ s.chip.tb →
    exec (.pauseExpiry port pri) s = .next (s.withChip (s.chip.setPri port Fd.TM_P_STATUS_PAUSED p false))) ∧
  (∀ (s : State), s.chip.tm.wdAt < s.chip.tb / tbMs → exec (.pfcWatchdogTick) s = .next (s.withChip (((s.chip.tm.pauses.map
    (·.1)).foldl wdCheck { s.chip with tm.wdAt := s.chip.tb / tbMs }).settleDrr))) ∧
  (∀ (s : State) (q : Fin 131072), s.chip.fld (Reg.TM_SAMP_PROF (s.chip.fld (Reg.TM_Q_CFG0 q) Fd.TM_Q_CFG0_SAMP_PROF))
    Fd.TM_SAMP_PROF_PERIOD_US ≠ 0 → ((max (mget (fun _ => 0) s.chip.tm.sampAt q) (mget (fun _ => 0) s.chip.tm.sampFrom (s.chip.fld
    (Reg.TM_Q_CFG0 q) Fd.TM_Q_CFG0_SAMP_PROF))) / s.chip.fld (Reg.TM_SAMP_PROF (s.chip.fld (Reg.TM_Q_CFG0 q)
    Fd.TM_Q_CFG0_SAMP_PROF)) Fd.TM_SAMP_PROF_PERIOD_US < s.chip.tbUs / s.chip.fld (Reg.TM_SAMP_PROF (s.chip.fld (Reg.TM_Q_CFG0 q)
    Fd.TM_Q_CFG0_SAMP_PROF)) Fd.TM_SAMP_PROF_PERIOD_US) → 
    let c1 := (s.chip.wrN (Reg.TM_Q_SAMPLE_DEPTH q) (s.chip.totalDepth q)).wrN (Reg.TM_Q_SAMPLE_DELAY q) (s.chip.q q).sojourn
    let c2 := (c1.setQ q { c1.q q with sojourn := 0 }).bump (Reg.TM_CNT 3) (s.chip.tbUs / s.chip.fld (Reg.TM_SAMP_PROF (s.chip.fld
      (Reg.TM_Q_CFG0 q) Fd.TM_Q_CFG0_SAMP_PROF)) Fd.TM_SAMP_PROF_PERIOD_US - (max (mget (fun _ => 0) s.chip.tm.sampAt q) (mget (fun
      _ => 0) s.chip.tm.sampFrom (s.chip.fld (Reg.TM_Q_CFG0 q) Fd.TM_Q_CFG0_SAMP_PROF))) / s.chip.fld (Reg.TM_SAMP_PROF (s.chip.fld
      (Reg.TM_Q_CFG0 q) Fd.TM_Q_CFG0_SAMP_PROF)) Fd.TM_SAMP_PROF_PERIOD_US - 1)
    exec (.queueSample q) s = .next (s.withChip ({ c2 with tm.sampAt := mset (fun _ => 0) c2.tm.sampAt q (s.chip.tbUs) })))

/-- SPILL_WRITE_COMPLETE moves the oldest marked copy to HBM pages or drops it when none is free, READBACK brings the oldest HBM record
into refill cells or loses it, POOL_INIT and its completion prepare a buffer pool, XALLOC and XFREE take and return a buffer,
CELL_INFO reports a cell, AUDIT_PASS audits. -/
def Obligations.BufferActs : Prop :=
  (∀ (s : State) (q : Fin 131072) (accs : List MemAcc) (x : Copy), s.chip.oldestAt q .marked = some x → ((List.range 4).all (fun k =>
    s.chip.memUp k) = true) → s.chip.capAdmits s.chip.hbm.spillAt Fd.MEM_SPILL_CAP_WR_GBPS = false → exec (.spillWriteComplete ⟨q,
    accs⟩) s = .next (s.withChip (s.chip))) ∧
  (∀ (s : State) (q : Fin 131072) (accs : List MemAcc) (x : Copy), s.chip.oldestAt q .marked = some x → ((List.range 4).all (fun k =>
    s.chip.memUp k) = true) → s.chip.capAdmits s.chip.hbm.spillAt Fd.MEM_SPILL_CAP_WR_GBPS = true → (s.chip.pagesFree < ceilDiv
    (spillLen x.len - (if (s.chip.q q).pages.isEmpty then 0 else pageBytes - (s.chip.q q).tail)) pageBytes) → exec
    (.spillWriteComplete ⟨q, accs⟩) s = .next (s.withChip ((((s.chip.delCopy x).bump (Reg.BPM_CNT 5) 1).countDrop x.slice
    0x82).releaseCopy x))) ∧
  (∀ (s : State) (q : Fin 131072) (accs : List MemAcc) (x : Copy), s.chip.oldestAt q .marked = some x → ((List.range 4).all (fun k =>
    s.chip.memUp k) = true) → s.chip.capAdmits s.chip.hbm.spillAt Fd.MEM_SPILL_CAP_WR_GBPS = true → (ceilDiv (spillLen x.len - (if
    (s.chip.q q).pages.isEmpty then 0 else pageBytes - (s.chip.q q).tail)) pageBytes ≤ s.chip.pagesFree) → 
    let e := (s.chip.memAccs 2 true accs).readCells (s.chip.copyCells x)
    let t := takePages (ceilDiv (spillLen x.len - (if (s.chip.q q).pages.isEmpty then 0 else pageBytes - (s.chip.q q).tail)) pageBytes)
      e.1 q (e.1.ownerOf 0x13 x.parcel) []
    let pages := (s.chip.q q).pages ++ t.2
    let span := pageBytes * ((s.chip.q q).pages.length - 1) + (s.chip.q q).tail + spillLen x.len
    let o := span - spillLen x.len
    let c0 := t.1.setQ q { t.1.q q with pages := pages, tail := span - pageBytes * (pages.length - 1) }
    let c1 :=
      { c0 with hbm.spillAt := c0.capAfter c0.hbm.spillAt Fd.MEM_SPILL_CAP_WR_GBPS o (spillLen x.len), hbm.badWords := c0.hbm.badWords.filter (fun w => c0.markIn q o (spillLen x.len) w == 0) }
    let c2 := (c1.setCopy x
      { x with head := e.1.copyBytes x, headCells := [], chain := 0, bodyOff := 0, bodyLen := 0, place := .hbm, poisoned := x.poisoned || e.2 }).freeCells
      x.headCells
    exec (.spillWriteComplete ⟨q, accs⟩) s = .next (s.withChip (((c2.releaseRef x.chain).bump (Reg.BPM_CNT 6) 1).memTouched 1))) ∧
  (∀ (s : State) (q : Fin 131072) (errs : List (Fin 4 × Fin 128)) (desc : DescErrs) (accs : List MemAcc) (x : Copy) (k : Nat),
    s.chip.oldestAt q .hbm = some x → ((List.range 4).all (fun k => s.chip.memUp k) = true) → s.chip.capAdmits s.chip.hbm.fillAt
    Fd.MEM_SPILL_CAP_RD_GBPS = true → s.chip.refillUsed q + cellsOf x.len ≤ (s.chip.q q).claim → s.chip.dieDepth q < s.chip.fld
    (Reg.BPM_SPILL_PROF (s.chip.fld (Reg.TM_Q_CFG1 q) Fd.TM_Q_CFG1_SPILL_PROF)) Fd.BPM_SPILL_PROF_SPILL_ON → s.chip.recordFenced q
    (s.chip.recordAt q) (spillLen x.len) = some k → exec (.readback q errs desc accs) s = .next (s.withChip (loseRecord k s.chip
    x))) ∧
  (∀ (s : State) (q : Fin 131072) (errs : List (Fin 4 × Fin 128)) (desc : DescErrs) (accs : List MemAcc) (x : Copy) (y : Nat × Nat) (l
    : List (Nat × Nat)), s.chip.oldestAt q .hbm = some x → ((List.range 4).all (fun k => s.chip.memUp k) = true) → s.chip.capAdmits
    s.chip.hbm.fillAt Fd.MEM_SPILL_CAP_RD_GBPS = true → s.chip.refillUsed q + cellsOf x.len ≤ (s.chip.q q).claim → s.chip.dieDepth q
    < s.chip.fld (Reg.BPM_SPILL_PROF (s.chip.fld (Reg.TM_Q_CFG1 q) Fd.TM_Q_CFG1_SPILL_PROF)) Fd.BPM_SPILL_PROF_SPILL_ON →
    s.chip.recordFenced q (s.chip.recordAt q) (spillLen x.len) = none → ((desc.both.map (fun y => (y.1.val, y.2.val)) ++
    (s.chip.marksIn q (s.chip.recordAt q) (spillLen x.len) 2).map (fun w => (w.1, w.2.1))) = y :: l) → 
    let c1 := ((desc.both.map (fun y => (y.1.val, y.2.val)) ++ (s.chip.marksIn q (s.chip.recordAt q) (spillLen x.len) 2).map (fun w =>
      (w.1, w.2.1))) ++ (errs.map (fun y => (y.1.val, y.2.val)) ++ (s.chip.marksIn q (s.chip.recordAt q) (spillLen x.len) 1).map
      (fun w => (w.1, w.2.1)))).foldl (fun c y => c.rankUe y.1 y.2)
      (((({ s.chip with hbm.fillAt := s.chip.capAfter s.chip.hbm.fillAt Fd.MEM_SPILL_CAP_RD_GBPS (s.chip.recordAt q) (spillLen x.len) }
      : Chip).memAccs 1 false accs).memTouched 0).ranksUe desc.half)
    exec (.readback q errs desc accs) s = .next (s.withChip (((c1.qCopies q).filter (fun z => decide (z.place = .hbm))).foldl
      (loseRecord y.1) c1))) ∧
  (∀ (s : State) (q : Fin 131072) (errs : List (Fin 4 × Fin 128)) (desc : DescErrs) (accs : List MemAcc) (x : Copy) (y : Nat × Nat) (l
    : List (Nat × Nat)), s.chip.oldestAt q .hbm = some x → ((List.range 4).all (fun k => s.chip.memUp k) = true) → s.chip.capAdmits
    s.chip.hbm.fillAt Fd.MEM_SPILL_CAP_RD_GBPS = true → s.chip.refillUsed q + cellsOf x.len ≤ (s.chip.q q).claim → s.chip.dieDepth q
    < s.chip.fld (Reg.BPM_SPILL_PROF (s.chip.fld (Reg.TM_Q_CFG1 q) Fd.TM_Q_CFG1_SPILL_PROF)) Fd.BPM_SPILL_PROF_SPILL_ON →
    s.chip.recordFenced q (s.chip.recordAt q) (spillLen x.len) = none → ((desc.both.map (fun y => (y.1.val, y.2.val)) ++
    (s.chip.marksIn q (s.chip.recordAt q) (spillLen x.len) 2).map (fun w => (w.1, w.2.1))) = []) → ((errs.map (fun y => (y.1.val,
    y.2.val)) ++ (s.chip.marksIn q (s.chip.recordAt q) (spillLen x.len) 1).map (fun w => (w.1, w.2.1))) = y :: l) → 
    let c1 := ((desc.both.map (fun y => (y.1.val, y.2.val)) ++ (s.chip.marksIn q (s.chip.recordAt q) (spillLen x.len) 2).map (fun w =>
      (w.1, w.2.1))) ++ (errs.map (fun y => (y.1.val, y.2.val)) ++ (s.chip.marksIn q (s.chip.recordAt q) (spillLen x.len) 1).map
      (fun w => (w.1, w.2.1)))).foldl (fun c y => c.rankUe y.1 y.2)
      (((({ s.chip with hbm.fillAt := s.chip.capAfter s.chip.hbm.fillAt Fd.MEM_SPILL_CAP_RD_GBPS (s.chip.recordAt q) (spillLen x.len) }
      : Chip).memAccs 1 false accs).memTouched 0).ranksUe desc.half)
    exec (.readback q errs desc accs) s = .next (s.withChip ((((c1.bump (Reg.MEM_CNT y.1 12) 1).delCopy x).countDrop x.slice
      0xB0).releaseCopy x))) ∧
  (∀ (s : State) (q : Fin 131072) (errs : List (Fin 4 × Fin 128)) (desc : DescErrs) (accs : List MemAcc) (x : Copy) (c1 : Chip),
    s.chip.oldestAt q .hbm = some x → ((List.range 4).all (fun k => s.chip.memUp k) = true) → s.chip.capAdmits s.chip.hbm.fillAt
    Fd.MEM_SPILL_CAP_RD_GBPS = true → s.chip.refillUsed q + cellsOf x.len ≤ (s.chip.q q).claim → s.chip.dieDepth q < s.chip.fld
    (Reg.BPM_SPILL_PROF (s.chip.fld (Reg.TM_Q_CFG1 q) Fd.TM_Q_CFG1_SPILL_PROF)) Fd.BPM_SPILL_PROF_SPILL_ON → s.chip.recordFenced q
    (s.chip.recordAt q) (spillLen x.len) = none → ((desc.both.map (fun y => (y.1.val, y.2.val)) ++ (s.chip.marksIn q
    (s.chip.recordAt q) (spillLen x.len) 2).map (fun w => (w.1, w.2.1))) = []) → ((errs.map (fun y => (y.1.val, y.2.val)) ++
    (s.chip.marksIn q (s.chip.recordAt q) (spillLen x.len) 1).map (fun w => (w.1, w.2.1))) = []) → (c1 = ((desc.both.map (fun y =>
    (y.1.val, y.2.val)) ++ (s.chip.marksIn q (s.chip.recordAt q) (spillLen x.len) 2).map (fun w => (w.1, w.2.1))) ++ (errs.map (fun
    y => (y.1.val, y.2.val)) ++ (s.chip.marksIn q (s.chip.recordAt q) (spillLen x.len) 1).map (fun w => (w.1, w.2.1)))).foldl (fun c
    y => c.rankUe y.1 y.2)
    (((({ s.chip with hbm.fillAt := s.chip.capAfter s.chip.hbm.fillAt Fd.MEM_SPILL_CAP_RD_GBPS (s.chip.recordAt q) (spillLen x.len) }
    : Chip).memAccs 1 false accs).memTouched 0).ranksUe desc.half)) → cellsOf x.len ≤ (c1.allocCells (cellsOf x.len) 3 (c1.ownerOf
    0x13 x.parcel)).2.length → 
    let a := c1.allocCells (cellsOf x.len) 3 (c1.ownerOf 0x13 x.parcel)
    exec (.readback q errs desc accs) s = .next (s.withChip (((((a.1.setCopy x { x with place := .refill, refill := a.2 }).bump
      (Reg.BPM_CNT 7) 1)).trimPages q).settleSpill q))) ∧
  (∀ (s : State) (rq : Req) (pool : Fin 16), rq.priv = true → s.chip.addrOff (Reg.BPM_XP_CFG pool) = false → s.chip.on (Reg.BPM_XP_CFG
    pool) Fd.BPM_XP_CFG_EN = false → (¬ (s.chip.poolLeaves pool = 0 ∨ 67108864 < (List.range 16).foldl (fun t j => if j ≠ pool.val ∧
    s.chip.on (Reg.BPM_XP_CFG j) Fd.BPM_XP_CFG_EN then t + s.chip.poolLeaves j else t) 0 + s.chip.poolLeaves pool)) → exec
    (.poolInit rq pool) s = .next (s.withChip ((s.chip.setF (Reg.BPM_XP_CFG pool) Fd.BPM_XP_CFG_EN 1).setF (Reg.BPM_XP_STATUS pool)
    Fd.BPM_XP_STATUS_READY 0))) ∧
  (∀ (s : State) (rq : Req) (pool : Fin 16), rq.priv = true → s.chip.addrOff (Reg.BPM_XP_CFG pool) = false → s.chip.on (Reg.BPM_XP_CFG
    pool) Fd.BPM_XP_CFG_EN = false → (s.chip.poolLeaves pool = 0 ∨ 67108864 < (List.range 16).foldl (fun t j => if j ≠ pool.val ∧
    s.chip.on (Reg.BPM_XP_CFG j) Fd.BPM_XP_CFG_EN then t + s.chip.poolLeaves j else t) 0 + s.chip.poolLeaves pool) → exec (.poolInit
    rq pool) s = .next (s.withChip (s.chip.err rq errBadValue (Reg.BPM_XP_CFG pool)))) ∧
  (∀ (s : State) (pool : Fin 16), s.chip.on (Reg.BPM_XP_CFG pool) Fd.BPM_XP_CFG_EN = true → s.chip.on (Reg.BPM_XP_STATUS pool)
    Fd.BPM_XP_STATUS_READY = false → ((poolFill pool 8 (2 ^ 64 - 1) ((List.range (s.chip.poolLeaves pool)).map (s.chip.leafAddr
    pool)) s.store s.chip).2.2 && (poolFill pool 2 0 ((List.range (64 * s.chip.poolLeaves pool)).map (s.chip.auditAddr pool))
    (poolFill pool 8 (2 ^ 64 - 1) ((List.range (s.chip.poolLeaves pool)).map (s.chip.leafAddr pool)) s.store s.chip).1 (poolFill
    pool 8 (2 ^ 64 - 1) ((List.range (s.chip.poolLeaves pool)).map (s.chip.leafAddr pool)) s.store s.chip).2.1).2.2) = true → 
    let a := poolFill pool 8 (2 ^ 64 - 1) ((List.range (s.chip.poolLeaves pool)).map (s.chip.leafAddr pool)) s.store s.chip
    let b := poolFill pool 2 0 ((List.range (64 * s.chip.poolLeaves pool)).map (s.chip.auditAddr pool)) a.1 a.2.1
    let c1 := (b.2.1.wrN (Reg.BPM_XP_FREE pool) (64 * s.chip.poolLeaves pool)).setF (Reg.BPM_XP_STATUS pool) Fd.BPM_XP_STATUS_READY 1
    exec (.poolInitDone pool) s = .next (s.withBoth (b.1) ({ c1 with bpm.xfull := c1.bpm.xfull.filter (fun x => x.1 != pool.val) }))) ∧
  (∀ (s : State) (pool : Fin 16), s.chip.on (Reg.BPM_XP_CFG pool) Fd.BPM_XP_CFG_EN = true → s.chip.on (Reg.BPM_XP_STATUS pool)
    Fd.BPM_XP_STATUS_READY = false → ((poolFill pool 8 (2 ^ 64 - 1) ((List.range (s.chip.poolLeaves pool)).map (s.chip.leafAddr
    pool)) s.store s.chip).2.2 && (poolFill pool 2 0 ((List.range (64 * s.chip.poolLeaves pool)).map (s.chip.auditAddr pool))
    (poolFill pool 8 (2 ^ 64 - 1) ((List.range (s.chip.poolLeaves pool)).map (s.chip.leafAddr pool)) s.store s.chip).1 (poolFill
    pool 8 (2 ^ 64 - 1) ((List.range (s.chip.poolLeaves pool)).map (s.chip.leafAddr pool)) s.store s.chip).2.1).2.2) = false → 
    let a := poolFill pool 8 (2 ^ 64 - 1) ((List.range (s.chip.poolLeaves pool)).map (s.chip.leafAddr pool)) s.store s.chip
    let b := poolFill pool 2 0 ((List.range (64 * s.chip.poolLeaves pool)).map (s.chip.auditAddr pool)) a.1 a.2.1
    exec (.poolInitDone pool) s = .next (s.withBoth (b.1) (b.2.1))) ∧
  (∀ (s : State) (rq : Req) (tag : BitVec 16) (m : Fin 2) (w v j : Nat) (c1 : Chip), s.chip.mbxStarts rq (.bpm m) 1 = true →
    (s.chip.mbxArgs (.bpm m)).getD 0 0 < 16 → (s.chip.pendingIn (.bpm m)).poolReady ((s.chip.mbxArgs (.bpm m)).getD 0 0) = true →
    (s.chip.pendingIn (.bpm m)).xmUp ((s.chip.pendingIn (.bpm m)).poolPort ((s.chip.mbxArgs (.bpm m)).getD 0 0)) = true →
    (s.chip.pendingIn (.bpm m)).freeLeaf ((s.chip.mbxArgs (.bpm m)).getD 0 0) = some w → (s.chip.pendingIn (.bpm m)).poolRead
    s.store ((s.chip.mbxArgs (.bpm m)).getD 0 0) ((s.chip.pendingIn (.bpm m)).leafAddr ((s.chip.mbxArgs (.bpm m)).getD 0 0) w) 8 =
    (c1, some v) → (List.range 64).find? (bitOf v) = some j → 
    let k := (s.chip.mbxArgs (.bpm m)).getD 0 0
    let o := (s.chip.pendingIn (.bpm m)).poolOwner m k
    let l := c1.setLeaf s.store k w (setBit v j false)
    let a := l.2.poolWrite l.1 k ((s.chip.pendingIn (.bpm m)).auditAddr k (64 * w + j)) 2 (o * 256)
    let ad := (s.chip.pendingIn (.bpm m)).poolBuf k + (64 * w + j) * (4096 * 2 ^ (s.chip.pendingIn (.bpm m)).fld (Reg.BPM_XP_CFG k)
      Fd.BPM_XP_CFG_SIZE)
    exec (.xalloc rq tag m false) s = .next (s.withBoth (a.1) (((a.2.ownUp o 2 1).wrN (Reg.BPM_XP_FREE k) (a.2.rd (Reg.BPM_XP_FREE k) +
      (2 ^ 32 - 1))).mbxTaken (.bpm m) tag 1 (s.chip.mbxArgs (.bpm m)) (some (0, [ad % 2 ^ 32, ad / 2 ^ 32 % 2 ^ 20, 64 * w +
      j]))))) ∧
  (∀ (s : State) (rq : Req) (tag : BitVec 16) (m : Fin 2) (v rec16 : Nat) (c1 c2 : Chip), s.chip.mbxStarts rq (.bpm m) 2 = true →
    (s.chip.mbxArgs (.bpm m)).getD 0 0 < 16 → (s.chip.pendingIn (.bpm m)).poolReady ((s.chip.mbxArgs (.bpm m)).getD 0 0) = true →
    (s.chip.mbxArgs (.bpm m)).getD 1 0 < 64 * (s.chip.pendingIn (.bpm m)).poolLeaves ((s.chip.mbxArgs (.bpm m)).getD 0 0) →
    (s.chip.pendingIn (.bpm m)).xmUp ((s.chip.pendingIn (.bpm m)).poolPort ((s.chip.mbxArgs (.bpm m)).getD 0 0)) = true →
    (s.chip.pendingIn (.bpm m)).poolRead s.store ((s.chip.mbxArgs (.bpm m)).getD 0 0) ((s.chip.pendingIn (.bpm m)).leafAddr
    ((s.chip.mbxArgs (.bpm m)).getD 0 0) ((s.chip.mbxArgs (.bpm m)).getD 1 0 / 64)) 8 = (c1, some v) → bitOf v ((s.chip.mbxArgs
    (.bpm m)).getD 1 0 % 64) = false → c1.poolRead s.store ((s.chip.mbxArgs (.bpm m)).getD 0 0) ((s.chip.pendingIn (.bpm
    m)).auditAddr ((s.chip.mbxArgs (.bpm m)).getD 0 0) ((s.chip.mbxArgs (.bpm m)).getD 1 0)) 2 = (c2, some rec16) → 
    let k := (s.chip.mbxArgs (.bpm m)).getD 0 0
    let i := (s.chip.mbxArgs (.bpm m)).getD 1 0
    let l := c2.setLeaf s.store k (i / 64) (setBit v (i % 64) true)
    exec (.xfree rq tag m false) s = .next (s.withBoth (l.1) (((l.2.ownDown (rec16 / 256 % 256) 2 1).wrN (Reg.BPM_XP_FREE k) (l.2.rd
      (Reg.BPM_XP_FREE k) + 1)).mbxTaken (.bpm m) tag 2 (s.chip.mbxArgs (.bpm m)) (some (0, []))))) ∧
  (∀ (s : State) (rq : Req) (tag : BitVec 16) (m : Fin 2), s.chip.mbxStarts rq (.bpm m) 3 = true → (s.chip.mbxArgs (.bpm m)).getD 0 0
    < 524288 → ((s.chip.pendingIn (.bpm m)).cell ((s.chip.mbxArgs (.bpm m)).getD 0 0)).kind ≠ 0 → 
    let x := (s.chip.pendingIn (.bpm m)).cell ((s.chip.mbxArgs (.bpm m)).getD 0 0)
    exec (.cellInfo rq tag m) s = .next (s.withChip ((s.chip.pendingIn (.bpm m)).mbxTaken (.bpm m) tag 3 (s.chip.mbxArgs (.bpm m)) (some
      (0, [x.age * 2 ^ 27 + x.owner * 2 ^ 19 + x.next, (Config.cellKindCode x.kind).toNat * 2 ^ 16 + ((s.chip.pendingIn (.bpm
      m)).chain ((s.chip.mbxArgs (.bpm m)).getD 0 0)).refs]))))) ∧
  (∀ (s : State) (rq : Req) (tag : BitVec 16) (m : Fin 2), s.chip.mbxStarts rq (.bpm m) 3 = true → (s.chip.mbxArgs (.bpm m)).getD 0 0
    < 524288 → ((s.chip.pendingIn (.bpm m)).cell ((s.chip.mbxArgs (.bpm m)).getD 0 0)).kind = 0 → exec (.cellInfo rq tag m) s =
    .next (s.withChip ((s.chip.pendingIn (.bpm m)).tick.mbxTaken (.bpm m) tag 3 (s.chip.mbxArgs (.bpm m)) (some (0, [2 ^ 31 +
    (s.chip.pendingIn (.bpm m)).free.toNat % 2 ^ 31, (Config.cellKindCode 0).toNat * 2 ^ 16]))))) ∧
  (∀ (s : State) (rq : Req) (tag : BitVec 16) (m : Fin 2), s.chip.mbxStarts rq (.bpm m) 3 = true → 524288 ≤ (s.chip.mbxArgs (.bpm
    m)).getD 0 0 → exec (.cellInfo rq tag m) s = .next (s.withChip ((s.chip.pendingIn (.bpm m)).mbxTaken (.bpm m) tag 3
    (s.chip.mbxArgs (.bpm m)) (some (1, []))))) ∧
  (∀ (s : State), s.chip.on Reg.BPM_AUDIT_CFG Fd.BPM_AUDIT_CFG_EN = true → s.chip.bpm.auditAt + s.chip.fld Reg.BPM_AUDIT_CFG
    Fd.BPM_AUDIT_CFG_PERIOD * msPs ≤ s.chip.now → 
    let cells := s.chip.bpm.cells.map (fun x => if x.2.kind = 4 then x else (x.1, { x.2 with age := older x.2.age }))
    let pages := s.chip.bpm.pages.map (fun x => if x.2.kind = 1 then (x.1, { x.2 with age := older x.2.age }) else x)
    let vs := (cells.filter (fun x => x.2.kind != 4)).map (fun x => (⟨1, 0, x.1, x.2.owner, x.2.age⟩ : Visit)) ++ (pages.filter (fun x
      => x.2.kind == 1)).map (fun x => (⟨2, 0, x.1, x.2.owner, x.2.age⟩ : Visit))
    let c0 := if pages.any (fun x => x.2.kind == 1) then s.chip.memTouched 0 else s.chip
    let r := (List.range 16).foldl visitPool (s.store, { c0 with bpm.cells := cells, bpm.pages := pages }, vs)
    exec (.auditPass) s = .next (s.withBoth (r.1) ((((List.range 256).foldl (auditOwner r.2.2) r.2.1).bump (Reg.BPM_CNT 12)
      1).auditDone)))

/-- OPEN, WRITE, DELETE, CLOSE, ABORT, COMMIT, NOP and PATCH, taken from a ring in sequence, complete or wait for their end with the
code and result the spec gives; a descriptor that a standby receives is answered 0x0D. -/
def Obligations.UpdateDescriptorsAct : Prop :=
  (∀ (s : State) (parcel : Fin 64) (ring : Fin 4) (d : Desc), s.chip.descAccepts parcel ring d = true → (¬ ((s.chip.descCompl parcel
    ring d).parcel ≠ 0 ∧ (s.chip.descChip parcel ring d).act (Reg.PAR_QUOTA (s.chip.descCompl parcel ring d).parcel)
    Fd.PAR_QUOTA_SLOTS ≤ (s.chip.descChip parcel ring d).slotsUsed (s.chip.descCompl parcel ring d).parcel)) → exec (.openSlot
    parcel ring d) s = .next (s.withChip (((List.range 252).find? (fun k => (s.chip.descChip parcel ring d).slotState k ==
    sFree)).elim (((s.chip.descChip parcel ring d).bump (Reg.UPD_CNT 5) 1).complete
    { (s.chip.descCompl parcel ring d) with code := cNoSlot }) (fun n => ((((s.chip.descChip parcel ring d).wrN (Reg.UPD_SLOT n)
    0).setF (Reg.UPD_SLOT n) Fd.UPD_SLOT_PARCEL parcel).setSlot n sOpen).complete
    { (s.chip.descCompl parcel ring d) with slot := n, result := n })))) ∧
  (∀ (s : State) (parcel : Fin 64) (ring : Fin 4) (d : Desc), s.chip.descAccepts parcel ring d = true → ((s.chip.descCompl parcel ring
    d).parcel ≠ 0 ∧ (s.chip.descChip parcel ring d).act (Reg.PAR_QUOTA (s.chip.descCompl parcel ring d).parcel) Fd.PAR_QUOTA_SLOTS ≤
    (s.chip.descChip parcel ring d).slotsUsed (s.chip.descCompl parcel ring d).parcel) → exec (.openSlot parcel ring d) s = .next
    (s.withChip (((s.chip.descChip parcel ring d).bump (Reg.UPD_CNT 5) 1).complete
    { (s.chip.descCompl parcel ring d) with code := cNoSlot }))) ∧
  (∀ (s : State) (parcel : Fin 64) (ring : Fin 4) (d : Desc) (row : List Byte) (t : Target), s.chip.descAccepts parcel ring d = true →
    targetOf d row false = some t → (s.chip.descChip parcel ring d).slotCode d.slot parcel = cOk → ((s.chip.descChip parcel ring
    d).change d.slot parcel d.table.val false t).2 = cOk → exec (.write parcel ring d row) s = .next (s.withChip (((s.chip.descChip
    parcel ring d).change d.slot parcel d.table.val false t).1.complete (s.chip.descCompl parcel ring d)))) ∧
  (∀ (s : State) (parcel : Fin 64) (ring : Fin 4) (d : Desc) (row : List Byte) (t : Target), s.chip.descAccepts parcel ring d = true →
    targetOf d row false = some t → (s.chip.descChip parcel ring d).slotCode d.slot parcel = cOk → ((s.chip.descChip parcel ring
    d).change d.slot parcel d.table.val false t).2 ≠ cOk → exec (.write parcel ring d row) s = .next (s.withChip ((((s.chip.descChip
    parcel ring d).refused ((s.chip.descChip parcel ring d).change d.slot parcel d.table.val false t).2 d.table.val d.slot
    t).setSlot d.slot sFailed).complete
    { (s.chip.descCompl parcel ring d) with code := ((s.chip.descChip parcel ring d).change d.slot parcel d.table.val false t).2 }))) ∧
  (∀ (s : State) (parcel : Fin 64) (ring : Fin 4) (d : Desc) (row : List Byte) (t : Target), s.chip.descAccepts parcel ring d = true →
    targetOf d row false = some t → (s.chip.descChip parcel ring d).slotCode d.slot parcel ≠ cOk → exec (.write parcel ring d row) s
    = .next (s.withChip (((s.chip.descChip parcel ring d).bump (Reg.UPD_CNT 5) 1).complete
    { (s.chip.descCompl parcel ring d) with code := (s.chip.descChip parcel ring d).slotCode d.slot parcel }))) ∧
  (∀ (s : State) (parcel : Fin 64) (ring : Fin 4) (d : Desc) (row : List Byte), s.chip.descAccepts parcel ring d = true → targetOf d
    row false = none → exec (.write parcel ring d row) s = .next (s.withChip ((s.chip.descChip parcel ring d).complete
    { (s.chip.descCompl parcel ring d) with code := cBadDesc }))) ∧
  (∀ (s : State) (parcel : Fin 64) (ring : Fin 4) (d : Desc) (t : Target), s.chip.descAccepts parcel ring d = true → targetOf d []
    true = some t → (s.chip.descChip parcel ring d).slotCode d.slot parcel = cOk → ((s.chip.descChip parcel ring d).change d.slot
    parcel d.table.val true t).2 = cOk → exec (.delete parcel ring d) s = .next (s.withChip (((s.chip.descChip parcel ring d).change
    d.slot parcel d.table.val true t).1.complete (s.chip.descCompl parcel ring d)))) ∧
  (∀ (s : State) (parcel : Fin 64) (ring : Fin 4) (d : Desc) (t : Target), s.chip.descAccepts parcel ring d = true → targetOf d []
    true = some t → (s.chip.descChip parcel ring d).slotCode d.slot parcel = cOk → ((s.chip.descChip parcel ring d).change d.slot
    parcel d.table.val true t).2 ≠ cOk → exec (.delete parcel ring d) s = .next (s.withChip ((((s.chip.descChip parcel ring
    d).refused ((s.chip.descChip parcel ring d).change d.slot parcel d.table.val true t).2 d.table.val d.slot t).setSlot d.slot
    sFailed).complete
    { (s.chip.descCompl parcel ring d) with code := ((s.chip.descChip parcel ring d).change d.slot parcel d.table.val true t).2 }))) ∧
  (∀ (s : State) (parcel : Fin 64) (ring : Fin 4) (d : Desc) (t : Target), s.chip.descAccepts parcel ring d = true → targetOf d []
    true = some t → (s.chip.descChip parcel ring d).slotCode d.slot parcel ≠ cOk → exec (.delete parcel ring d) s = .next
    (s.withChip (((s.chip.descChip parcel ring d).bump (Reg.UPD_CNT 5) 1).complete
    { (s.chip.descCompl parcel ring d) with code := (s.chip.descChip parcel ring d).slotCode d.slot parcel }))) ∧
  (∀ (s : State) (parcel : Fin 64) (ring : Fin 4) (d : Desc), s.chip.descAccepts parcel ring d = true → targetOf d [] true = none →
    exec (.delete parcel ring d) s = .next (s.withChip ((s.chip.descChip parcel ring d).complete
    { (s.chip.descCompl parcel ring d) with code := cBadDesc }))) ∧
  (∀ (s : State) (parcel : Fin 64) (ring : Fin 4) (d : Desc), s.chip.descAccepts parcel ring d = true → (s.chip.descChip parcel ring
    d).slotCode d.slot parcel = cOk → exec (.close parcel ring d) s = .next (s.withChip
    ({ (s.chip.descChip parcel ring d) with upd.closing := (s.chip.descChip parcel ring d).upd.closing ++ [(⟨d.slot, (s.chip.descCompl parcel ring d)⟩ : SlotWait)] }))) ∧
  (∀ (s : State) (parcel : Fin 64) (ring : Fin 4) (d : Desc), s.chip.descAccepts parcel ring d = true → (s.chip.descChip parcel ring
    d).slotCode d.slot parcel ≠ cOk → exec (.close parcel ring d) s = .next (s.withChip (((s.chip.descChip parcel ring d).bump
    (Reg.UPD_CNT 5) 1).complete
    { (s.chip.descCompl parcel ring d) with code := (s.chip.descChip parcel ring d).slotCode d.slot parcel }))) ∧
  (∀ (s : State) (parcel : Fin 64) (ring : Fin 4) (d : Desc), s.chip.descAccepts parcel ring d = true → (s.chip.descChip parcel ring
    d).slotOf d.slot parcel = true → ((s.chip.descChip parcel ring d).slotState d.slot = sOpen ∨ (s.chip.descChip parcel ring
    d).slotState d.slot = sClosed ∨ (s.chip.descChip parcel ring d).slotState d.slot = sFailed) → exec (.abort parcel ring d) s =
    .next (s.withChip (if (s.chip.descChip parcel ring d).closing d.slot then
    { (s.chip.descChip parcel ring d) with upd.aborts := (s.chip.descChip parcel ring d).upd.aborts ++ [(⟨d.slot, (s.chip.descCompl parcel ring d)⟩ : SlotWait)] }
    else
    ({ (s.chip.descChip parcel ring d) with upd.aborts := (s.chip.descChip parcel ring d).upd.aborts ++ [(⟨d.slot, (s.chip.descCompl parcel ring d)⟩ : SlotWait)] }).setSlot
    d.slot sAborting))) ∧
  (∀ (s : State) (parcel : Fin 64) (ring : Fin 4) (d : Desc), s.chip.descAccepts parcel ring d = true → (s.chip.descChip parcel ring
    d).slotOf d.slot parcel = true → ((s.chip.descChip parcel ring d).slotState d.slot = sCommitted ∨ (s.chip.descChip parcel ring
    d).slotState d.slot = sSweeping) → exec (.abort parcel ring d) s = .next (s.withChip (((s.chip.descChip parcel ring d).bump
    (Reg.UPD_CNT 5) 1).complete { (s.chip.descCompl parcel ring d) with code := cCommitted }))) ∧
  (∀ (s : State) (parcel : Fin 64) (ring : Fin 4) (d : Desc), s.chip.descAccepts parcel ring d = true → (s.chip.descChip parcel ring
    d).slotOf d.slot parcel = false → exec (.abort parcel ring d) s = .next (s.withChip (((s.chip.descChip parcel ring d).bump
    (Reg.UPD_CNT 5) 1).complete { (s.chip.descCompl parcel ring d) with code := cBadSlot }))) ∧
  (∀ (s : State) (parcel : Fin 64) (ring : Fin 4) (d : Desc), s.chip.descAccepts parcel ring d = true → exec (.commit parcel ring d) s
    = .next (s.withChip
    ({ (s.chip.descChip parcel ring d).askFlip with upd.commits := (s.chip.descChip parcel ring d).upd.commits ++ [(s.chip.descCompl parcel ring d)] }))) ∧
  (∀ (s : State) (parcel : Fin 64) (ring : Fin 4) (d : Desc), s.chip.descAccepts parcel ring d = true → exec (.nop parcel ring d) s =
    .next (s.withChip ((s.chip.descChip parcel ring d).complete (s.chip.descCompl parcel ring d)))) ∧
  (∀ (s : State) (parcel : Fin 64) (ring : Fin 4) (d : Desc) (image : List Byte), s.chip.descAccepts parcel ring d = true → parcel = 0
    → (imgLen (fun o n => slice image o n) ≤ d.len.toNat) → exec (.patch parcel ring d image) s = .next (s.withChip (if
    (s.chip.descChip parcel ring d).patchCode (fun o n => slice image o n) ≠ 0 then (s.chip.descChip parcel ring d).complete
    { (s.chip.descCompl parcel ring d) with code := cPatchRefused, result := (s.chip.descChip parcel ring d).patchCode (fun o n => slice image o n) }
    else Option.getD (if (sections (fun o n => slice image o n)).any (fun y => y.typ == stPattern) then (s.chip.descChip parcel ring
    d).patchPatterns (fun o n => slice image o n) (s.chip.descCompl parcel ring d) else (s.chip.descChip parcel ring
    d).patchMicrocode (fun o n => slice image o n) (s.chip.descCompl parcel ring d)) ((s.chip.descChip parcel ring d).complete
    { (s.chip.descCompl parcel ring d) with code := cPatchRefused, result := 0x0E })))) ∧
  (∀ (s : State) (parcel : Fin 64) (ring : Fin 4) (d : Desc) (image : List Byte), s.chip.descAccepts parcel ring d = true → parcel = 0
    → (d.len.toNat < imgLen (fun o n => slice image o n)) → exec (.patch parcel ring d image) s = .next (s.withChip
    ((s.chip.descChip parcel ring d).complete { (s.chip.descCompl parcel ring d) with code := cPatchRefused, result := 0x02 }))) ∧
  (∀ (s : State) (parcel : Fin 64) (ring : Fin 4) (d : Desc) (image : List Byte), s.chip.descAccepts parcel ring d = true → parcel ≠ 0
    → exec (.patch parcel ring d image) s = .next (s.withChip ((s.chip.descChip parcel ring d).complete
    { (s.chip.descCompl parcel ring d) with code := cNotPermitted }))) ∧
  (∀ (s : State) (parcel : Fin 64) (ring : Fin 4) (d : Desc), s.chip.ringReady parcel ring = true → (s.chip.ringAdvance parcel
    ring).standby = true → exec (.nop parcel ring d) s = .next (s.withChip ((s.chip.ringAdvance parcel ring).putCompl ⟨parcel, ring,
    d.seq.toNat, d.op.toNat, cStandby, d.slot.val, 0, 0, false⟩ false)))

/-- CLOSE_COMPLETE closes a slot and completes its CLOSE, ABORT_DONE frees an aborting slot, LOAD_COMPLETE ends the oldest load, FLIP
flips when one is due, SWEEP_START and SWEEP_DONE sweep a committed slot, learning writes, ticks and ages, a rehash copies and is
cleaned up. -/
def Obligations.EngineActs : Prop :=
  (∀ (s : State) (slot : Fin 256) (w : SlotWait), (s.chip.upd.closing.find? (fun w => w.slot == slot.val) = some w) → s.chip.backFull
    = false → 
    let c2 := ({ s.chip with upd.closing := s.chip.upd.closing.filter (fun v => v.slot != slot.val) }.setSlot slot sClosed).complete
      w.compl
    exec (.closeComplete slot) s = .next (s.withChip ((if c2.upd.aborts.any (fun v => v.slot == slot.val) then c2.setSlot slot sAborting
      else c2).settle))) ∧
  (∀ (s : State) (slot : Fin 256), s.chip.backFull = true → exec (.closeComplete slot) s = .next (s.withChip (s.chip))) ∧
  (∀ (s : State) (slot : Fin 256), s.chip.slotState slot = sAborting → 
    let mine := s.chip.upd.aborts.filter (fun (v : SlotWait) => v.slot == slot.val)
    let c1 := { s.chip with upd.aborts := s.chip.upd.aborts.filter (fun (v : SlotWait) => v.slot != slot.val) }
    exec (.abortDone slot) s = .next (s.withChip ((mine.foldl (fun (c : Chip) (w : SlotWait) => c.complete w.compl) ((c1.removeSlot
      slot).wrN (Reg.UPD_SLOT slot) 0)).startRemove.settle))) ∧
  (∀ (s : State) (l : Load) (rest : List Load), s.chip.upd.loads = l :: rest → exec (.loadComplete) s = .next (s.withChip
    (({ s.chip with upd.loads := rest }.endLoad l).settle))) ∧
  (∀ (s : State), exec (.flip) s = .next (s.withChip (if s.chip.flipDue then s.chip.flip else s.chip))) ∧
  (∀ (s : State) (slot : Fin 256), s.chip.slotState slot = sCommitted → (mget (fun _ => 0) s.chip.upd.slotAt slot + 8 * usPs ≤
    s.chip.now) → exec (.sweepStart slot) s = .next (s.withChip (s.chip.setSlot slot sSweeping))) ∧
  (∀ (s : State) (slot : Fin 256), s.chip.slotState slot = sSweeping → 
    let c1 := (s.chip.sweep slot).wrN (Reg.UPD_SLOT slot) 0
    exec (.sweepDone slot) s = .next (s.withChip ({ c1 with upd.slotAt := mdel c1.upd.slotAt slot }.refreshHold.startRemove))) ∧
  (∀ (s : State) (x : LearnReq) (rest : List LearnReq), s.chip.pipe.learnQ = x :: rest → s.chip.on Reg.LRN_CTRL Fd.LRN_CTRL_EN = false
    → exec (.learnRequest) s = .next (s.withChip (({ s.chip.pmcEvent 0x3D 1 1 with pipe.learnQ := rest }).bump (Reg.LRN_CNT 5) 1))) ∧
  (∀ (s : State) (x : LearnReq) (rest : List LearnReq), s.chip.pipe.learnQ = x :: rest → s.chip.on Reg.LRN_CTRL Fd.LRN_CTRL_EN = true
    → (({ s.chip.pmcEvent 0x3D 1 1 with pipe.learnQ := rest }).gen x.slice ≠ x.gen) → exec (.learnRequest) s = .next (s.withChip
    (({ s.chip.pmcEvent 0x3D 1 1 with pipe.learnQ := rest }).bump (Reg.FLT_CNT 36) 1))) ∧
  (∀ (s : State) (x : LearnReq) (rest : List LearnReq), s.chip.pipe.learnQ = x :: rest → s.chip.on Reg.LRN_CTRL Fd.LRN_CTRL_EN = true
    → (({ s.chip.pmcEvent 0x3D 1 1 with pipe.learnQ := rest }).gen x.slice = x.gen) →
    (({ s.chip.pmcEvent 0x3D 1 1 with pipe.learnQ := rest }).upd.lrnFilter.contains (x.mac, x.vlan, x.port) = true) → exec
    (.learnRequest) s = .next (s.withChip (({ s.chip.pmcEvent 0x3D 1 1 with pipe.learnQ := rest }).bump (Reg.LRN_CNT 4) 1))) ∧
  (∀ (s : State) (x : LearnReq) (rest : List LearnReq), s.chip.pipe.learnQ = x :: rest → s.chip.on Reg.LRN_CTRL Fd.LRN_CTRL_EN = true
    → (({ s.chip.pmcEvent 0x3D 1 1 with pipe.learnQ := rest }).gen x.slice = x.gen) →
    (({ s.chip.pmcEvent 0x3D 1 1 with pipe.learnQ := rest }).upd.lrnFilter.contains (x.mac, x.vlan, x.port) = false) →
    (({ s.chip.pmcEvent 0x3D 1 1 with pipe.learnQ := rest }).standby = true) → exec (.learnRequest) s = .next (s.withChip
    ({ s.chip.pmcEvent 0x3D 1 1 with pipe.learnQ := rest }))) ∧
  (∀ (s : State) (x : LearnReq) (rest : List LearnReq), s.chip.pipe.learnQ = x :: rest → s.chip.on Reg.LRN_CTRL Fd.LRN_CTRL_EN = true
    → (({ s.chip.pmcEvent 0x3D 1 1 with pipe.learnQ := rest }).gen x.slice = x.gen) →
    (({ s.chip.pmcEvent 0x3D 1 1 with pipe.learnQ := rest }).upd.lrnFilter.contains (x.mac, x.vlan, x.port) = false) →
    (({ s.chip.pmcEvent 0x3D 1 1 with pipe.learnQ := rest }).standby = false) → exec (.learnRequest) s = .next (s.withChip
    (({ s.chip.pmcEvent 0x3D 1 1 with pipe.learnQ := rest }).lrnWrite x))) ∧
  (∀ (s : State), s.chip.upd.lrnTickAt + s.chip.upd.lrnPeriod * usPs ≤ s.chip.now → (s.chip.upd.lrnChanges = 0 ∨ (List.range 4).any
    (fun i => s.chip.slotState (252 + i) == sClosed) = true) → exec (.learnTick) s = .next (s.withChip
    ({ s.chip with upd.lrnTickAt := s.chip.now, upd.lrnPeriod := s.chip.fld Reg.LRN_CFG Fd.LRN_CFG_TICK, upd.lrnFilter := [] }))) ∧
  (∀ (s : State) (t : Nat), s.chip.upd.lrnTickAt + s.chip.upd.lrnPeriod * usPs ≤ s.chip.now → s.chip.upd.lrnChanges ≠ 0 → ((List.range
    4).any (fun i => s.chip.slotState (252 + i) == sClosed) = false) →
    (({ s.chip with upd.lrnTickAt := s.chip.now, upd.lrnPeriod := s.chip.fld Reg.LRN_CFG Fd.LRN_CFG_TICK, upd.lrnFilter := [] }).lrnNext
    ({ s.chip with upd.lrnTickAt := s.chip.now, upd.lrnPeriod := s.chip.fld Reg.LRN_CFG Fd.LRN_CFG_TICK, upd.lrnFilter := [] }).lrnSlot
    = some t) → 
    let c1 := { s.chip with upd.lrnTickAt := s.chip.now, upd.lrnPeriod := s.chip.fld Reg.LRN_CFG Fd.LRN_CFG_TICK, upd.lrnFilter := [] }
    let c2 := ((c1.lrnMirror 4 0).lrnMirror 6 0).setSlot c1.lrnSlot sClosed
    let c3 := (c2.requestFlip.setF Reg.LRN_STATUS Fd.LRN_STATUS_SLOT t).lrnOpen
    exec (.learnTick) s = .next (s.withChip ({ c3 with upd.lrnChanges := 0 }))) ∧
  (∀ (s : State), s.chip.fld Reg.LRN_CFG Fd.LRN_CFG_AGE ≠ 0 → s.chip.upd.lrnAgeAt + s.chip.fld Reg.LRN_CFG Fd.LRN_CFG_AGE * sPs ≤
    s.chip.now → s.chip.standby = false → exec (.agingPass) s = .next (s.withChip
    ({ (s.chip.tbl.em.filter (fun x => emType x.2.toNat == 2 && !bitOf x.2.toNat 105 && x.1 / 32768 != s.chip.emIdle && !mget noHit s.chip.tbl.emHit x.1 && s.chip.live s.chip.lrnSlot (tagOf 128 x.2.toNat))).foldl (fun c x => c.ageOne x.2.toNat) s.chip with tbl.emHit := [], upd.lrnAgeAt := s.chip.now }))) ∧
  (∀ (s : State) (r : Rehash), s.chip.upd.rehash = some r → r.done = false → exec (.rehashCopyDone) s = .next (s.withChip
    ({ s.chip.requestFlip with upd.rehash := some { r with done := true } }))) ∧
  (∀ (s : State) (old t : Nat), s.chip.upd.cleanup = some (old, t) → t + 8 * usPs ≤ s.chip.now → exec (.rehashCleanup) s = .next
    (s.withChip
    ({ ((s.chip.emClear old).setF Reg.UPD_PART_SPARE Fd.UPD_PART_SPARE_PHYS old).setF Reg.UPD_STATUS Fd.UPD_STATUS_REHASH 0 with upd.cleanup := none })))

/-- PROBE and READ_RAW read a store and answer what they find, with code 4 for an uncorrectable word, REHASH copies a partition under a
new seed, SCAN_TEST scans the given bytes and READ_RULE reads a pattern rule. -/
def Obligations.TableMailboxActs : Prop :=
  (∀ (s : State) (rq : Req) (tag : BitVec 16) (hits : List Hit), s.chip.mbxStarts rq .upd 1 = true → (s.chip.pendingIn .upd).probeCode
    (s.chip.mbxArgs .upd) = 0 → exec (.probe rq tag hits) s = .next (s.withChip ((((((((s.chip.pendingIn .upd).strike hits).bump
    (Reg.UPD_CNT 7) 1).useSlots (1 + (s.chip.pendingIn .upd).free.toNat % 4)).tick).probeAt (((s.chip.mbxArgs .upd).getD 1 0) % 8)
    (bitsOf ((s.chip.mbxArgs .upd).getD 1 0) 7 4) (argNum ((s.chip.mbxArgs .upd).drop 2)) (if bitOf ((s.chip.mbxArgs .upd).getD 0 0)
    16 then (s.chip.pendingIn .upd).epoch else ((s.chip.mbxArgs .upd).getD 0 0) % 65536)).1).mbxTaken .upd tag 1 (s.chip.mbxArgs
    .upd) (if ((((((s.chip.pendingIn .upd).strike hits).bump (Reg.UPD_CNT 7) 1).useSlots (1 + (s.chip.pendingIn .upd).free.toNat %
    4)).tick).probeAt (((s.chip.mbxArgs .upd).getD 1 0) % 8) (bitsOf ((s.chip.mbxArgs .upd).getD 1 0) 7 4) (argNum ((s.chip.mbxArgs
    .upd).drop 2)) (if bitOf ((s.chip.mbxArgs .upd).getD 0 0) 16 then (s.chip.pendingIn .upd).epoch else ((s.chip.mbxArgs .upd).getD
    0 0) % 65536)).2.err ≠ 0 then some (4, []) else some (0, probeData (((s.chip.mbxArgs .upd).getD 1 0) % 8) (bitsOf
    ((s.chip.mbxArgs .upd).getD 1 0) 7 4) ((((((s.chip.pendingIn .upd).strike hits).bump (Reg.UPD_CNT 7) 1).useSlots (1 +
    (s.chip.pendingIn .upd).free.toNat % 4)).tick).probeAt (((s.chip.mbxArgs .upd).getD 1 0) % 8) (bitsOf ((s.chip.mbxArgs
    .upd).getD 1 0) 7 4) (argNum ((s.chip.mbxArgs .upd).drop 2)) (if bitOf ((s.chip.mbxArgs .upd).getD 0 0) 16 then
    (s.chip.pendingIn .upd).epoch else ((s.chip.mbxArgs .upd).getD 0 0) % 65536)).2))))) ∧
  (∀ (s : State) (rq : Req) (tag : BitVec 16) (hits : List Hit), s.chip.mbxStarts rq .upd 1 = true → (s.chip.pendingIn .upd).probeCode
    (s.chip.mbxArgs .upd) ≠ 0 → exec (.probe rq tag hits) s = .next (s.withChip ((s.chip.pendingIn .upd).mbxTaken .upd tag 1
    (s.chip.mbxArgs .upd) (some ((s.chip.pendingIn .upd).probeCode (s.chip.mbxArgs .upd), []))))) ∧
  (∀ (s : State) (rq : Req) (tag : BitVec 16) (hits : List Hit) (loc : Loc) (e : Nat) (hit : Bool), s.chip.mbxStarts rq .upd 2 = true
    → (¬ (bitsOf ((s.chip.mbxArgs .upd).getD 1 0) 7 4 = 6 ∨ bitsOf ((s.chip.mbxArgs .upd).getD 1 0) 7 4 = 7 ∨ 12 ≤ bitsOf
    ((s.chip.mbxArgs .upd).getD 1 0) 7 4 ∨ 5 ≤ ((s.chip.mbxArgs .upd).getD 1 0) % 8)) → (s.chip.pendingIn .upd).domOn (89 +
    ((s.chip.mbxArgs .upd).getD 1 0) % 8) = true → ((s.chip.pendingIn .upd).asStore (((s.chip.mbxArgs .upd).getD 1 0) % 8)).rawAt
    (bitsOf ((s.chip.mbxArgs .upd).getD 1 0) 7 4) (((s.chip.mbxArgs .upd).getD 1 0) % 8) ((s.chip.mbxArgs .upd).getD 2 0) = some
    (loc, e, hit) → (((s.chip.pendingIn .upd).strike hits).readLoc loc).2 = 0 → exec (.readRaw rq tag hits) s = .next (s.withChip
    (((((s.chip.pendingIn .upd).strike hits).readLoc loc).1).mbxTaken .upd tag 2 (s.chip.mbxArgs .upd) (some (0, probeData
    (((s.chip.mbxArgs .upd).getD 1 0) % 8) (bitsOf ((s.chip.mbxArgs .upd).getD 1 0) 7 4) ⟨hit, (s.chip.mbxArgs .upd).getD 2 0, 0, e,
    0, 0⟩))))) ∧
  (∀ (s : State) (rq : Req) (tag : BitVec 16) (hits : List Hit) (loc : Loc) (e : Nat) (hit : Bool), s.chip.mbxStarts rq .upd 2 = true
    → (¬ (bitsOf ((s.chip.mbxArgs .upd).getD 1 0) 7 4 = 6 ∨ bitsOf ((s.chip.mbxArgs .upd).getD 1 0) 7 4 = 7 ∨ 12 ≤ bitsOf
    ((s.chip.mbxArgs .upd).getD 1 0) 7 4 ∨ 5 ≤ ((s.chip.mbxArgs .upd).getD 1 0) % 8)) → (s.chip.pendingIn .upd).domOn (89 +
    ((s.chip.mbxArgs .upd).getD 1 0) % 8) = true → ((s.chip.pendingIn .upd).asStore (((s.chip.mbxArgs .upd).getD 1 0) % 8)).rawAt
    (bitsOf ((s.chip.mbxArgs .upd).getD 1 0) 7 4) (((s.chip.mbxArgs .upd).getD 1 0) % 8) ((s.chip.mbxArgs .upd).getD 2 0) = some
    (loc, e, hit) → (((s.chip.pendingIn .upd).strike hits).readLoc loc).2 ≠ 0 → exec (.readRaw rq tag hits) s = .next (s.withChip
    (((((s.chip.pendingIn .upd).strike hits).readLoc loc).1).mbxTaken .upd tag 2 (s.chip.mbxArgs .upd) (some (4, []))))) ∧
  (∀ (s : State) (rq : Req) (tag : BitVec 16) (c2 : Chip), s.chip.mbxStarts rq .upd 0x10 = true → (s.chip.mbxArgs .upd).getD 2 0 < 64
    → (s.chip.pendingIn .upd).upd.rehash.isSome = false → (s.chip.pendingIn .upd).upd.cleanup.isSome = false → ((((s.chip.pendingIn
    .upd).wrN (Reg.UPD_SEED ((s.chip.pendingIn .upd).fld Reg.UPD_PART_SPARE Fd.UPD_PART_SPARE_PHYS) 0) (if (s.chip.mbxArgs
    .upd).getD 3 0 = 0 ∧ (s.chip.mbxArgs .upd).getD 4 0 = 0 then ((s.chip.pendingIn .upd).rd (Reg.UPD_SEED ((s.chip.pendingIn
    .upd).emPhys ((s.chip.mbxArgs .upd).getD 2 0)) 0) + 0x9E3779B9) % 2 ^ 32 else (s.chip.mbxArgs .upd).getD (3 + 0) 0)).wrN
    (Reg.UPD_SEED ((s.chip.pendingIn .upd).fld Reg.UPD_PART_SPARE Fd.UPD_PART_SPARE_PHYS) 1) (if (s.chip.mbxArgs .upd).getD 3 0 = 0
    ∧ (s.chip.mbxArgs .upd).getD 4 0 = 0 then ((s.chip.pendingIn .upd).rd (Reg.UPD_SEED ((s.chip.pendingIn .upd).emPhys
    ((s.chip.mbxArgs .upd).getD 2 0)) 1) + 0x9E3779B9) % 2 ^ 32 else (s.chip.mbxArgs .upd).getD (3 + 1) 0)).emCopy
    ((s.chip.pendingIn .upd).emPhys ((s.chip.mbxArgs .upd).getD 2 0)) ((s.chip.pendingIn .upd).fld Reg.UPD_PART_SPARE
    Fd.UPD_PART_SPARE_PHYS) = some c2) → exec (.rehash rq tag) s = .next (s.withChip
    (({ c2.setF Reg.UPD_STATUS Fd.UPD_STATUS_REHASH 1 with upd.rehash := some ⟨(s.chip.mbxArgs .upd).getD 2 0, ((s.chip.pendingIn .upd).fld Reg.UPD_PART_SPARE Fd.UPD_PART_SPARE_PHYS), false⟩ }).mbxTaken
    .upd tag 0x10 (s.chip.mbxArgs .upd) (none)))) ∧
  (∀ (s : State) (rq : Req) (tag : BitVec 16), s.chip.mbxStarts rq .upd 0x10 = true → 64 ≤ (s.chip.mbxArgs .upd).getD 2 0 → exec
    (.rehash rq tag) s = .next (s.withChip ((s.chip.pendingIn .upd).mbxTaken .upd tag 0x10 (s.chip.mbxArgs .upd) (some (1, []))))) ∧
  (∀ (s : State) (rq : Req) (tag : BitVec 16) (engine : Fin 4) (hits : List Hit), s.chip.mbxStarts rq (.pat engine) 1 = true → (¬
    ((s.chip.mbxArgs (.pat engine)).getD 1 0 = 0 ∨ 256 < (s.chip.mbxArgs (.pat engine)).getD 1 0)) → (s.chip.pendingIn (.pat
    engine)).domOn (108 + engine) = true → bitOf ((s.chip.pendingIn (.pat engine)).fld (Reg.PAT_STATUS engine) Fd.PAT_STATUS_VALID)
    ((s.chip.pendingIn (.pat engine)).patArgRegion engine ((s.chip.mbxArgs (.pat engine)).getD 0 0)) = true → exec (.scanTest rq tag
    engine hits) s = .next (s.withChip (((((s.chip.pendingIn (.pat engine)).strike hits).scan engine ((s.chip.pendingIn (.pat
    engine)).patArgRegion engine ((s.chip.mbxArgs (.pat engine)).getD 0 0)) (((s.chip.mbxArgs (.pat engine)).getD 0 0) % 65536)
    (bitOf ((s.chip.mbxArgs (.pat engine)).getD 0 0) 16) ((s.chip.pendingIn (.pat engine)).patInput engine ((s.chip.mbxArgs (.pat
    engine)).getD 1 0))).1).mbxTaken (.pat engine) tag 1 (s.chip.mbxArgs (.pat engine)) (if (((s.chip.pendingIn (.pat
    engine)).strike hits).scan engine ((s.chip.pendingIn (.pat engine)).patArgRegion engine ((s.chip.mbxArgs (.pat engine)).getD 0
    0)) (((s.chip.mbxArgs (.pat engine)).getD 0 0) % 65536) (bitOf ((s.chip.mbxArgs (.pat engine)).getD 0 0) 16) ((s.chip.pendingIn
    (.pat engine)).patInput engine ((s.chip.mbxArgs (.pat engine)).getD 1 0))).2.1 then some (4, []) else (((s.chip.pendingIn (.pat
    engine)).strike hits).scan engine ((s.chip.pendingIn (.pat engine)).patArgRegion engine ((s.chip.mbxArgs (.pat engine)).getD 0
    0)) (((s.chip.mbxArgs (.pat engine)).getD 0 0) % 65536) (bitOf ((s.chip.mbxArgs (.pat engine)).getD 0 0) 16) ((s.chip.pendingIn
    (.pat engine)).patInput engine ((s.chip.mbxArgs (.pat engine)).getD 1 0))).2.2.elim (some (0, [0, 0, 0, 0])) (fun h => some (0,
    [2 ^ 31 + h.addr, h.last * 2 ^ 16 + h.prio, 0, 0])))))) ∧
  (∀ (s : State) (rq : Req) (tag : BitVec 16) (engine : Fin 4) (hits : List Hit), s.chip.mbxStarts rq (.pat engine) 2 = true →
    (s.chip.mbxArgs (.pat engine)).getD 1 0 < 16384 → (s.chip.pendingIn (.pat engine)).domOn (108 + engine) = true → bitOf
    ((s.chip.pendingIn (.pat engine)).fld (Reg.PAT_STATUS engine) Fd.PAT_STATUS_VALID) (bitsOf ((s.chip.mbxArgs (.pat engine)).getD
    0 0) 17 17) = true → exec (.readRule rq tag engine hits) s = .next (s.withChip (((((s.chip.pendingIn (.pat engine)).strike
    hits).readLocs [⟨5, engine, (s.chip.pendingIn (.pat engine)).patBase engine (bitsOf ((s.chip.mbxArgs (.pat engine)).getD 0 0) 17
    17) + 8 + 2 * ((s.chip.mbxArgs (.pat engine)).getD 1 0)⟩, ⟨5, engine, (s.chip.pendingIn (.pat engine)).patBase engine (bitsOf
    ((s.chip.mbxArgs (.pat engine)).getD 0 0) 17 17) + 8 + 2 * ((s.chip.mbxArgs (.pat engine)).getD 1 0) + 1⟩]).1).mbxTaken (.pat
    engine) tag 2 (s.chip.mbxArgs (.pat engine)) (if (((s.chip.pendingIn (.pat engine)).strike hits).readLocs [⟨5, engine,
    (s.chip.pendingIn (.pat engine)).patBase engine (bitsOf ((s.chip.mbxArgs (.pat engine)).getD 0 0) 17 17) + 8 + 2 *
    ((s.chip.mbxArgs (.pat engine)).getD 1 0)⟩, ⟨5, engine, (s.chip.pendingIn (.pat engine)).patBase engine (bitsOf ((s.chip.mbxArgs
    (.pat engine)).getD 0 0) 17 17) + 8 + 2 * ((s.chip.mbxArgs (.pat engine)).getD 1 0) + 1⟩]).2 ≠ 0 then some (4, []) else some (0,
    (List.range 4).map (fun i => ((((s.chip.pendingIn (.pat engine)).strike hits).readLocs [⟨5, engine, (s.chip.pendingIn (.pat
    engine)).patBase engine (bitsOf ((s.chip.mbxArgs (.pat engine)).getD 0 0) 17 17) + 8 + 2 * ((s.chip.mbxArgs (.pat engine)).getD
    1 0)⟩, ⟨5, engine, (s.chip.pendingIn (.pat engine)).patBase engine (bitsOf ((s.chip.mbxArgs (.pat engine)).getD 0 0) 17 17) + 8
    + 2 * ((s.chip.mbxArgs (.pat engine)).getD 1 0) + 1⟩]).1.patRule engine (bitsOf ((s.chip.mbxArgs (.pat engine)).getD 0 0) 17 17)
    ((s.chip.mbxArgs (.pat engine)).getD 1 0) ((((s.chip.pendingIn (.pat engine)).strike hits).readLocs [⟨5, engine,
    (s.chip.pendingIn (.pat engine)).patBase engine (bitsOf ((s.chip.mbxArgs (.pat engine)).getD 0 0) 17 17) + 8 + 2 *
    ((s.chip.mbxArgs (.pat engine)).getD 1 0)⟩, ⟨5, engine, (s.chip.pendingIn (.pat engine)).patBase engine (bitsOf ((s.chip.mbxArgs
    (.pat engine)).getD 0 0) 17 17) + 8 + 2 * ((s.chip.mbxArgs (.pat engine)).getD 1 0) + 1⟩]).1.patFlips engine (bitsOf
    ((s.chip.mbxArgs (.pat engine)).getD 0 0) 17 17))) / 2 ^ (32 * i) % 2 ^ 32))))))

/-- PRS_TRAVERSE, RULE_TRAVERSE and PATTERN_TRAVERSE find the errors of their store, REPAIR_COMPLETE ends a repair, the read-back
address writes store the address and read the entry into the data registers. -/
def Obligations.ProtectionActs : Prop :=
  (∀ (s : State) (slice : Fin 9) (hits : List Hit), s.chip.domOn (80 + slice) = true → exec (.prsTraverse slice hits) s = .next
    (s.withChip ((s.chip.strike hits).traverse (fun l => decide (l.space < 4) && l.unit == slice.val)))) ∧
  (∀ (s : State) (slice : Fin 9) (hits : List Hit), s.chip.domOn (80 + slice) = true → exec (.ruleTraverse slice hits) s = .next
    (s.withChip ((s.chip.strike hits).traverse (fun l => l.space == 4 && l.unit == slice.val)))) ∧
  (∀ (s : State) (engine : Fin 4) (hits : List Hit), s.chip.domOn (108 + engine) = true → exec (.patternTraverse engine hits true) s =
    .next (s.withChip (((s.chip.strike hits).traverse (fun l => l.space == 5 && l.unit == engine.val)).bump (Reg.PAT_CNT engine 7)
    1))) ∧
  (∀ (s : State) (engine : Fin 4) (hits : List Hit), s.chip.domOn (108 + engine) = true → exec (.patternTraverse engine hits false) s
    = .next (s.withChip ((s.chip.strike hits).traverse (fun l => l.space == 5 && l.unit == engine.val)))) ∧
  (∀ (s : State) (loc : Loc) (copyA copyB sibling : Bool), s.chip.tbl.repairs.contains loc = true → s.chip.backWaits (objLoc loc) =
    false → (copyA && !(((backStacks loc).take 1).filter (s.chip.copyUp loc)).isEmpty) = true → 
    let c2 := ({ s.chip with tbl.repairs := s.chip.tbl.repairs.filter (fun x => !decide (x = loc)) } : Chip).endRepair loc
    let c3 := readCopies loc copyA (((backStacks loc).take 1).filter (s.chip.copyUp loc)) c2
    exec (.repairComplete loc copyA copyB sibling) s = .next (s.withChip ((c3.clearLoc loc).countRepair loc))) ∧
  (∀ (s : State) (loc : Loc) (copyA copyB sibling : Bool), s.chip.tbl.repairs.contains loc = true → s.chip.backWaits (objLoc loc) =
    false → (copyA && !(((backStacks loc).take 1).filter (s.chip.copyUp loc)).isEmpty) = false → ((copyB && !(((backStacks loc).drop
    1).filter (s.chip.copyUp loc)).isEmpty) || (sibling && loc.space != 5)) = true → 
    let c2 := ({ s.chip with tbl.repairs := s.chip.tbl.repairs.filter (fun x => !decide (x = loc)) } : Chip).endRepair loc
    let c3 := readCopies loc copyA (((backStacks loc).take 1).filter (s.chip.copyUp loc)) c2
    let c4 := readCopies loc copyB (if copyB then (((backStacks loc).drop 1).filter (s.chip.copyUp loc)).take 1 else ((backStacks
      loc).drop 1).filter (s.chip.copyUp loc)) c3
    exec (.repairComplete loc copyA copyB sibling) s = .next (s.withChip ((c4.clearLoc loc).countRepair loc))) ∧
  (∀ (s : State) (loc : Loc) (copyA copyB sibling : Bool), s.chip.tbl.repairs.contains loc = true → s.chip.backWaits (objLoc loc) =
    false → (copyA && !(((backStacks loc).take 1).filter (s.chip.copyUp loc)).isEmpty) = false → ((copyB && !(((backStacks loc).drop
    1).filter (s.chip.copyUp loc)).isEmpty) || (sibling && loc.space != 5)) = false → 
    let c2 := ({ s.chip with tbl.repairs := s.chip.tbl.repairs.filter (fun x => !decide (x = loc)) } : Chip).endRepair loc
    let c3 := readCopies loc copyA (((backStacks loc).take 1).filter (s.chip.copyUp loc)) c2
    let c4 := readCopies loc copyB (if copyB then (((backStacks loc).drop 1).filter (s.chip.copyUp loc)).take 1 else ((backStacks
      loc).drop 1).filter (s.chip.copyUp loc)) c3
    exec (.repairComplete loc copyA copyB sibling) s = .next (s.withChip
      ({ c4 with tbl.repairFail := c4.tbl.repairFail ++ [loc] }.locReport loc 0x07 outReported))) ∧
  (∀ (s : State) (rq : Req) (slice : Fin 9) (value : BitVec 32) (hits : List Hit), rq.priv = true → (s.chip.strike hits).addrOff
    (Reg.PRS_RD_ADDR slice) = false → prsRdOk value.toNat = true → 
    let c1 := (s.chip.strike hits).storeFields rq (Reg.PRS_RD_ADDR slice) (Reg.PRS_RD_ADDR slice) (fieldsAt (Reg.PRS_RD_ADDR slice))
      value.toNat
    exec (.prsRdAddrWrite rq slice value hits) s = .next (s.withChip (c1.readPort ⟨bitsOf value.toNat 13 12, slice, 4096 * bitsOf
      value.toNat 16 16 + bitsOf value.toNat 11 0⟩ (Reg.PRS_RD_DATA slice) 8 (c1.prsEntry value.toNat)))) ∧
  (∀ (s : State) (rq : Req) (slice : Fin 9) (value : BitVec 32) (hits : List Hit), rq.priv = true → (s.chip.strike hits).addrOff
    (Reg.PRS_RD_ADDR slice) = false → prsRdOk value.toNat = false → exec (.prsRdAddrWrite rq slice value hits) s = .next (s.withChip
    ((s.chip.strike hits).err rq errBadValue (Reg.PRS_RD_ADDR slice)))) ∧
  (∀ (s : State) (rq : Req) (slice : Fin 9) (value : BitVec 32) (hits : List Hit), rq.priv = true → (s.chip.strike hits).addrOff
    (Reg.RWR_RD_ADDR slice) = false → exec (.rwrRdAddrWrite rq slice value hits) s = .next (s.withChip ((List.range 9).foldl (fun c
    k => (c.storeFields rq (Reg.RWR_RD_ADDR slice) (Reg.RWR_RD_ADDR k) (fieldsAt (Reg.RWR_RD_ADDR k)) value.toNat).readPort ⟨3, k,
    4096 * bitsOf value.toNat 16 16 + bitsOf value.toNat 10 0⟩ (Reg.RWR_RD_DATA k) 8 (((mget ucEmpty (c.storeFields rq
    (Reg.RWR_RD_ADDR slice) (Reg.RWR_RD_ADDR k) (fieldsAt (Reg.RWR_RD_ADDR k)) value.toNat).tbl.rwrCs (2048 * bitsOf value.toNat 16
    16 + bitsOf value.toNat 10 0)).getD 0).toNat)) (s.chip.strike hits)))) ∧
  (∀ (s : State) (rq : Req) (slice : Fin 9) (value : BitVec 32) (hits : List Hit), rq.priv = true → (s.chip.strike hits).addrOff
    (Reg.CLS_RD_ADDR slice) = false → exec (.clsRdAddrWrite rq slice value hits) s = .next (s.withChip ((List.range 9).foldl (fun c
    k => (c.storeFields rq (Reg.CLS_RD_ADDR slice) (Reg.CLS_RD_ADDR k) (fieldsAt (Reg.CLS_RD_ADDR k)) value.toNat).readPort ⟨4, k,
    bitsOf value.toNat 15 0⟩ (Reg.CLS_RD_DATA k) 34 (((c.storeFields rq (Reg.CLS_RD_ADDR slice) (Reg.CLS_RD_ADDR k) (fieldsAt
    (Reg.CLS_RD_ADDR k)) value.toNat).ruleRow (bitsOf value.toNat 15 0)))) (s.chip.strike hits))))

/-- FBK_RECORD_WRITE writes the oldest staged record into its ring, with its number, or drops it where the ring is off or full;
READ_RECORD answers the 160 bytes of a record that the ring holds. -/
def Obligations.FieldBookActs : Prop :=
  (∀ (s : State) (ue : Bool) (accs : List MemAcc) (x : Capture) (l : List Capture), s.chip.fbk.staged = x :: l →
    (({ s.chip with fbk.staged := l }).fbkRefuses x.ring = true) → exec (.fbkRecordWrite ⟨ue, accs⟩) s = .next (s.withChip
    (({ s.chip with fbk.staged := l }).bump (Reg.FBK_RING_CNT x.ring 1) 1))) ∧
  (∀ (s : State) (accs : List MemAcc) (x : Capture) (l : List Capture) (c : Chip) (ad : Nat), s.chip.fbk.staged = x :: l →
    (({ s.chip with fbk.staged := l }).fbkRefuses x.ring = false) → ((({ s.chip with fbk.staged := l }).fbkReqs x.ring
    accs).fbkAccess x.ring (({ s.chip with fbk.staged := l }).rd (Reg.FBK_RING_PROD x.ring)) true = (c, some ad)) → exec
    (.fbkRecordWrite ⟨false, accs⟩) s = .next (s.withBoth (s.store.wr ad (leBytes 4 (({ s.chip with fbk.staged := l }).rd
    (Reg.FBK_RING_PROD x.ring)) ++ x.bytes)) (c.fbkWritten x.ring))) ∧
  (∀ (s : State) (ue : Bool) (accs : List MemAcc) (x : Capture) (l : List Capture) (c : Chip), s.chip.fbk.staged = x :: l →
    (({ s.chip with fbk.staged := l }).fbkRefuses x.ring = false) → ((({ s.chip with fbk.staged := l }).fbkReqs x.ring
    accs).fbkAccess x.ring (({ s.chip with fbk.staged := l }).rd (Reg.FBK_RING_PROD x.ring)) true = (c, none)) → exec
    (.fbkRecordWrite ⟨ue, accs⟩) s = .next (s.withChip (c.bump (Reg.FBK_CNT 3) 1))) ∧
  (∀ (s : State) (rq : Req) (tag : BitVec 16) (c : Chip) (ad : Nat), s.chip.mbxStarts rq .fbk 1 = true → (s.chip.mbxArgs .fbk).getD 0
    0 < 64 → (s.chip.pendingIn .fbk).on (Reg.FBK_RING_CFG ((s.chip.mbxArgs .fbk).getD 0 0)) Fd.FBK_RING_CFG_EN = true →
    (s.chip.pendingIn .fbk).fbkHolds ((s.chip.mbxArgs .fbk).getD 0 0) ((s.chip.mbxArgs .fbk).getD 1 0) = true → (s.chip.pendingIn
    .fbk).fbkOff ((s.chip.mbxArgs .fbk).getD 0 0) ((s.chip.mbxArgs .fbk).getD 1 0) = false → (s.chip.pendingIn .fbk).fbkAccess
    ((s.chip.mbxArgs .fbk).getD 0 0) ((s.chip.mbxArgs .fbk).getD 1 0) false = (c, some ad) → exec (.readRecord rq tag []) s = .next
    (s.withChip ((c).mbxTaken .fbk tag 1 (s.chip.mbxArgs .fbk) (some (0, wordsOf 40 (s.store.rd ad recordLen))))))

/-- Refresh and retraining steps count when they are due, a parity alert replays, retrains or fails its channel, RETIRE_REQ retires a
rank, a migration moves one block, the backing copies are traversed, CXL timeouts and link changes are counted and shown. -/
def Obligations.MemoryControllerActs : Prop :=
  (∀ (s : State) (k : Fin 4) (ch : Fin 32), s.chip.chanUp k ch = true → (mget (fun _ => 0) s.chip.hbm.refAt (32 * k.val + ch.val) +
    s.chip.refreshPs k ≤ s.chip.now) → 
    let c1 := (s.chip.bump (Reg.MEM_CNT k 8) 1).closeRows (32 * k.val + ch.val)
    exec (.hbmRefresh k ch) s = .next (s.withChip
      ({ c1 with hbm.refAt := mset (fun _ => 0) c1.hbm.refAt (32 * k.val + ch.val) s.chip.now }))) ∧
  (∀ (s : State) (k : Fin 4) (ch : Fin 32), s.chip.chanUp k ch = true → (mget (fun _ => 0) s.chip.hbm.stepAt (32 * k.val + ch.val) +
    40 * usPs ≤ s.chip.now) → 
    let c1 := s.chip.bump (Reg.MEM_CNT k 9) 1
    exec (.hbmRetrainStep k ch) s = .next (s.withChip
      ({ c1 with hbm.stepAt := mset (fun _ => 0) c1.hbm.stepAt (32 * k.val + ch.val) s.chip.now }))) ∧
  (∀ (s : State) (k : Fin 4) (ch : Fin 32), s.chip.chanUp k ch = true → ((mget chanQuiet s.chip.hbm.chans (32 * k.val +
    ch.val)).retrainAt.any (fun t => decide (s.chip.now < t + msPs)) = true) → exec (.parityAlert k ch) s = .next (s.withChip
    (({ s.chip with hbm.chans := mset chanQuiet s.chip.hbm.chans (32 * k.val + ch.val) Chan.quiet }).failChannel k ch))) ∧
  (∀ (s : State) (k : Fin 4) (ch : Fin 32), s.chip.chanUp k ch = true → ((mget chanQuiet s.chip.hbm.chans (32 * k.val +
    ch.val)).retrainAt.any (fun t => decide (s.chip.now < t + msPs)) = false) → (3 ≤ (if (mget chanQuiet s.chip.hbm.chans (32 *
    k.val + ch.val)).replayAt.any (fun t => decide (s.chip.now < t + 500 * nsPs)) then (mget chanQuiet s.chip.hbm.chans (32 * k.val
    + ch.val)).met + 1 else 0)) → 
    let y := s.chip.bump (Reg.MEM_CNT k 5) 1
    exec (.parityAlert k ch) s = .next (s.withChip
      ({ y with hbm.chans := mset chanQuiet y.hbm.chans (32 * k.val + ch.val) ⟨none, 0, some s.chip.now⟩ }))) ∧
  (∀ (s : State) (k : Fin 4) (ch : Fin 32), s.chip.chanUp k ch = true → ((mget chanQuiet s.chip.hbm.chans (32 * k.val +
    ch.val)).retrainAt.any (fun t => decide (s.chip.now < t + msPs)) = false) → ((if (mget chanQuiet s.chip.hbm.chans (32 * k.val +
    ch.val)).replayAt.any (fun t => decide (s.chip.now < t + 500 * nsPs)) then (mget chanQuiet s.chip.hbm.chans (32 * k.val +
    ch.val)).met + 1 else 0) < 3) → 
    let y := ((s.chip.bump (Reg.MEM_CNT k 4) 1).closeRows (32 * k.val + ch.val)).report (0x0C + k) 0 0x08 outMasked
    exec (.parityAlert k ch) s = .next (s.withChip
      ({ y with hbm.chans := mset chanQuiet y.hbm.chans (32 * k.val + ch.val) ⟨some s.chip.now, (if (mget chanQuiet s.chip.hbm.chans (32 * k.val + ch.val)).replayAt.any (fun t => decide (s.chip.now < t + 500 * nsPs)) then (mget chanQuiet s.chip.hbm.chans (32 * k.val + ch.val)).met + 1 else 0), none⟩ }))) ∧
  (∀ (s : State) (rq : Req) (k : Fin 4) (r : Fin 128), rq.priv = true → s.chip.addrOff (Reg.MEM_RANK k r) = false → s.chip.retirable k
    r = true → exec (.retireReq rq k r) s = .next (s.withChip ((s.chip.setF (Reg.MEM_RANK k r) Fd.MEM_RANK_RETIRE_REQ 1).retire k
    r))) ∧
  (∀ (s : State) (k : Fin 4) (held : Nat) (bad : List (Fin 128)) (accs : List MemAcc), s.chip.memUp k = true → s.chip.on
    (Reg.MEM_STATUS k) Fd.MEM_STATUS_MIGRATING = true → (mget (fun _ => 0) s.chip.hbm.migAt k + 4 * usPs ≤ s.chip.now) → 
    let n := s.chip.fld (Reg.MEM_MIG k) Fd.MEM_MIG_POINTER + 1
    let c := bad.foldl (badWord k (s.chip.fld (Reg.MEM_MIG k) Fd.MEM_MIG_SRC) (s.chip.fld (Reg.MEM_MIG k) Fd.MEM_MIG_DST) (s.chip.fld
      (Reg.MEM_MIG k) Fd.MEM_MIG_POINTER)) ((memUsed 1 (memUsed 0 (s.chip.memAccs 3 false accs) k) k).bump (Reg.MEM_CNT k 11) held)
    let c1 := (c.setF (Reg.MEM_MIG k) Fd.MEM_MIG_POINTER n).bump (Reg.MEM_CNT k 10) 1
    let c2 := { c1 with hbm.migAt := mset (fun _ => 0) c1.hbm.migAt k c.now }
    exec (.migrationBlock ⟨k, held, bad, accs⟩) s = .next (s.withChip (if rankBlocks ≤ n then c2.endMigration k else c2))) ∧
  (∀ (s : State) (oneBad : List (Fin 4 × Loc)) (bothBad : List Loc) (accs : List MemAcc), s.chip.hbm.backAt + 10000 * msPs ≤
    s.chip.now → 
    let ks := (List.range 4).filter s.chip.memUp
    let c1 := ks.foldl (memUsed 0) (s.chip.memAccs 3 false accs)
    let c2 := (List.range 4).foldl backLost (bothBad.foldl backBoth (oneBad.foldl backOne c1))
    exec (.backingTraverse oneBad ⟨bothBad, accs⟩) s = .next (s.withChip
      ({ c2 with hbm.backAt := s.chip.now, hbm.backed := (List.range 4).filter (fun k => ks.contains k || c2.hbm.backed.contains k) }))) ∧
  (∀ (s : State) (oneBad : List (Fin 4 × Loc)) (bothBad : List Loc) (accs : List MemAcc), s.chip.now < s.chip.hbm.backAt + 10000 *
    msPs → exec (.backingTraverse oneBad ⟨bothBad, accs⟩) s = .next (s.withChip (s.chip))) ∧
  (∀ (s : State) (n : Fin 2), s.chip.xmUp n = true → (mget (fun _ => 0) s.chip.hbm.timeouts n + 1 < 16) → 
    let c1 :=
      ({ s.chip.bump (Reg.XM_CNT n 5) 1 with hbm.timedOut := mset (fun _ => 0) s.chip.hbm.timedOut n (mget (fun _ => 0) s.chip.hbm.timedOut n + 1) }
      : Chip)
    exec (.cxlTimeout n) s = .next (s.withChip
      ({ c1 with hbm.timeouts := mset (fun _ => 0) c1.hbm.timeouts n (mget (fun _ => 0) s.chip.hbm.timeouts n + 1) }))) ∧
  (∀ (s : State) (n : Fin 2), s.chip.xmUp n = true → (16 ≤ mget (fun _ => 0) s.chip.hbm.timeouts n + 1) → 
    let c1 :=
      ({ s.chip.bump (Reg.XM_CNT n 5) 1 with hbm.timedOut := mset (fun _ => 0) s.chip.hbm.timedOut n (mget (fun _ => 0) s.chip.hbm.timedOut n + 1) }
      : Chip)
    exec (.cxlTimeout n) s = .next (s.withChip ({ c1 with hbm.timeouts := mset (fun _ => 0) c1.hbm.timeouts n 0 }.xmLinkDown n))) ∧
  (∀ (s : State) (n : Fin 2), s.chip.on (Reg.XM_STATUS n) Fd.XM_STATUS_LINK_UP = true → exec (.cxlLinkDown n) s = .next (s.withChip
    (((s.chip.setF (Reg.XM_STATUS n) Fd.XM_STATUS_LINK_UP 0).bump (Reg.XM_CNT n 4) 1).report (0x10 + n) 0 0x17 outReported))) ∧
  (∀ (s : State) (n : Fin 2), s.chip.domOn (112 + n) = true → exec (.cxlLinkUp n) s = .next (s.withChip
    ({ s.chip.setF (Reg.XM_STATUS n) Fd.XM_STATUS_LINK_UP 1 with hbm.timeouts := mset (fun _ => 0) s.chip.hbm.timeouts n 0, hbm.timedOut := mset (fun _ => 0) s.chip.hbm.timedOut n 0 })))

/-- The writes of INC, ADJ, SET_CMD and DTM_SERVE are stored and take effect as R301 to R306 say, DTM_SERVE.SNAP is set, LOCK is set
when the Datum locks, PPS_IN captures the three clocks, PPS_OUT rises and falls, loss and return of TIME_REF are shown and reported. -/
def Obligations.DatumActs : Prop :=
  (∀ (s : State) (rq : Req) (x : Fin 2) (value : BitVec 32), rq.priv = true → s.chip.addrOff (Reg.DTM_CLK_INC_LO x) = false → exec
    (.clkIncWrite rq x value) s = .next (s.withChip (s.chip.setInc x (mget (fun _ => 1) s.chip.dtm.incHi x * 2 ^ 32 +
    value.toNat)))) ∧
  (∀ (s : State) (rq : Req) (x : Fin 2) (value : BitVec 32), rq.priv = true → s.chip.addrOff (Reg.DTM_CLK_ADJ x) = false → exec
    (.clkAdj rq x value) s = .next (s.withChip (s.chip.setAdj x (signedOf 32 value.toNat * 65536)))) ∧
  (∀ (s : State) (rq : Req) (x : Fin 2) (atPps : Bool), rq.priv = true → s.chip.addrOff (Reg.DTM_CLK_SET_CMD x) = false → exec
    (.clkSet rq x atPps) s = .next (s.withChip (s.chip.storeFields rq (Reg.DTM_CLK_SET_CMD x) (Reg.DTM_CLK_SET_CMD x) (fieldsAt
    (Reg.DTM_CLK_SET_CMD x)) (1 + 2 * b2n atPps)))) ∧
  (∀ (s : State) (rq : Req) (value : BitVec 32), rq.priv = true → s.chip.addrOff (Reg.DTM_SERVE) = false → exec (.serveSwitch rq
    value) s = .next (s.withChip (s.chip.storeFields rq Reg.DTM_SERVE Reg.DTM_SERVE (fieldsAt Reg.DTM_SERVE) value.toNat))) ∧
  (∀ (s : State) (rq : Req), rq.priv = true → s.chip.addrOff (Reg.DTM_SERVE) = false → exec (.snap rq) s = .next (s.withChip
    (s.chip.setF Reg.DTM_SERVE Fd.DTM_SERVE_SNAP 1))) ∧
  (∀ (s : State), s.chip.datumOn = true → exec (.datumLock) s = .next (s.withChip (s.chip.setF Reg.DTM_STATUS Fd.DTM_STATUS_LOCK 1))) ∧
  (∀ (s : State), s.chip.datumRun = true → 
    let c1 := if s.chip.captured then s.chip.bump (Reg.DTM_CNT 5) 1 else s.chip
    let c2 := (((c1.ppsCapture (Reg.DTM_CLK_PPS_NS 0) (Reg.DTM_CLK_PPS_SEC_LO 0) (Reg.DTM_CLK_PPS_SEC_HI 0) s.chip.dtm.clkA).ppsCapture
      (Reg.DTM_CLK_PPS_NS 1) (Reg.DTM_CLK_PPS_SEC_LO 1) (Reg.DTM_CLK_PPS_SEC_HI 1) s.chip.dtm.clkB).ppsCapture Reg.DTM_SRV_PPS_NS
      Reg.DTM_SRV_PPS_SEC_LO Reg.DTM_SRV_PPS_SEC_HI s.chip.dtm.clkS).bump (Reg.DTM_CNT 4) 1
    let c3 := [0, 1].foldl (fun (c : Chip) x => if c.setPending x true then c.applySet x else c) c2
    exec (.ppsInEdge) s = .next (s.withChip ([0, 1].foldl (fun (d : Chip) x => if (d.servo x).mode = 2 ∧ d.coreServes 3 = true then
      d.servoTake x (toSecond (s.chip.clk x)) else d) c3))) ∧
  (∀ (s : State), s.chip.pins.ppsOut = false → s.chip.dtm.ppsDue = true → exec (.ppsOutPulse) s = .next (s.withChip
    ({ s.chip.emit (.pps true) with pins.ppsOut := true, dtm.ppsDue := false, dtm.ppsEnd := s.chip.now + s.chip.fld Reg.DTM_CFG Fd.DTM_CFG_PPS_WIDTH * msPs }))) ∧
  (∀ (s : State), s.chip.pins.ppsOut = true → s.chip.dtm.ppsEnd ≤ s.chip.now → exec (.ppsOutPulse) s = .next (s.withChip
    ({ s.chip.emit (.pps false) with pins.ppsOut := false, dtm.ppsDue := false }))) ∧
  (∀ (s : State), s.chip.on Reg.DTM_STATUS Fd.DTM_STATUS_REF_LOST = false → s.chip.domOn 116 = true → exec (.timeRefLoss) s = .next
    (s.withChip (((({ s.chip with pins.timeRef := false }).setF Reg.DTM_STATUS Fd.DTM_STATUS_REF_LOST 1).bump (Reg.DTM_CNT 6)
    1).report 0x05 0 0x12 outDegraded))) ∧
  (∀ (s : State), exec (.timeRefReturn) s = .next (s.withChip
    ({ s.chip.setF Reg.DTM_STATUS Fd.DTM_STATUS_REF_LOST 0 with pins.timeRef := true })))

/-- MODE sets a servo's mode, SAMPLE feeds it the difference between the sample and the clock's value at that time, STATUS answers its
state, last offset and increment, a servo without samples enters holdover. -/
def Obligations.ServoActs : Prop :=
  (∀ (s : State) (rq : Req) (tag : BitVec 16) (m : Fin 2), s.chip.mbxStarts rq (.dtm m) 1 = true → (s.chip.mbxArgs (.dtm m)).getD 0 0
    < 2 → (s.chip.mbxArgs (.dtm m)).getD 1 0 < 3 → (s.chip.pendingIn (.dtm m)).datumOn = true → exec (.servoMode rq tag m) s = .next
    (s.withChip (((s.chip.pendingIn (.dtm m)).servoModeSet ((s.chip.mbxArgs (.dtm m)).getD 0 0) ((s.chip.mbxArgs (.dtm m)).getD 1
    0)).mbxTaken (.dtm m) tag 1 (s.chip.mbxArgs (.dtm m)) (some (0, []))))) ∧
  (∀ (s : State) (rq : Req) (tag : BitVec 16) (m : Fin 2), s.chip.mbxStarts rq (.dtm m) 1 = true → (2 ≤ (s.chip.mbxArgs (.dtm m)).getD
    0 0 ∨ 3 ≤ (s.chip.mbxArgs (.dtm m)).getD 1 0) → exec (.servoMode rq tag m) s = .next (s.withChip ((s.chip.pendingIn (.dtm
    m)).mbxTaken (.dtm m) tag 1 (s.chip.mbxArgs (.dtm m)) (some (1, []))))) ∧
  (∀ (s : State) (rq : Req) (tag : BitVec 16) (m : Fin 2), s.chip.mbxStarts rq (.dtm m) 2 = true → bitsOf ((s.chip.mbxArgs (.dtm
    m)).getD 0 0) 15 1 = 0 → (s.chip.pendingIn (.dtm m)).datumOn = true → ((s.chip.pendingIn (.dtm m)).servo (((s.chip.mbxArgs (.dtm
    m)).getD 0 0) % 2)).mode = 1 → 0 ≤ timeDiff (s.chip.pendingIn (.dtm m)).served32 ((s.chip.mbxArgs (.dtm m)).getD 2 0) → timeDiff
    (s.chip.pendingIn (.dtm m)).served32 ((s.chip.mbxArgs (.dtm m)).getD 2 0) ≤ 4000000000 → exec (.servoSample rq tag m) s = .next
    (s.withChip (((s.chip.pendingIn (.dtm m)).tick.servoTake (((s.chip.mbxArgs (.dtm m)).getD 0 0) % 2) ((signedOf 32
    ((s.chip.mbxArgs (.dtm m)).getD 1 0) * 65536 + (bitsOf ((s.chip.mbxArgs (.dtm m)).getD 0 0) 31 16 : Nat)) * 65536 -
    (s.chip.pendingIn (.dtm m)).histAt (((s.chip.mbxArgs (.dtm m)).getD 0 0) % 2) ((s.chip.pendingIn (.dtm m)).servedNs - (timeDiff
    (s.chip.pendingIn (.dtm m)).served32 ((s.chip.mbxArgs (.dtm m)).getD 2 0)).toNat))).mbxTaken (.dtm m) tag 2 (s.chip.mbxArgs
    (.dtm m)) (some (0, []))))) ∧
  (∀ (s : State) (rq : Req) (tag : BitVec 16) (m : Fin 2), s.chip.mbxStarts rq (.dtm m) 3 = true → (s.chip.mbxArgs (.dtm m)).getD 0 0
    < 2 → (s.chip.pendingIn (.dtm m)).datumOn = true → exec (.servoStatus rq tag m) s = .next (s.withChip ((s.chip.pendingIn (.dtm
    m)).mbxTaken (.dtm m) tag 3 (s.chip.mbxArgs (.dtm m)) (some (0, [((s.chip.pendingIn (.dtm m)).servo ((s.chip.mbxArgs (.dtm
    m)).getD 0 0)).state, wrapTo 32 (((s.chip.pendingIn (.dtm m)).servo ((s.chip.mbxArgs (.dtm m)).getD 0 0)).last.tdiv (unitNs :
    Nat)), (s.chip.pendingIn (.dtm m)).inc ((s.chip.mbxArgs (.dtm m)).getD 0 0) % 2 ^ 32, (s.chip.pendingIn (.dtm m)).inc
    ((s.chip.mbxArgs (.dtm m)).getD 0 0) / 2 ^ 32]))))) ∧
  (∀ (s : State) (x : Fin 2), s.chip.coreServes 3 = true → ((s.chip.servo x).state = 1 ∨ (s.chip.servo x).state = 2) → (s.chip.servo
    x).lastAt + Config.servoHoldS x * sPs ≤ s.chip.now → exec (.servoHoldover x) s = .next (s.withChip ((s.chip.setInc x
    (s.chip.incAverage x)).setServo x { (s.chip.setInc x (s.chip.incAverage x)).servo x with state := 3, good := 0, bad := 0 })))

/-- FAULT_EVENT collects its events in ascending order, STORE_RELOAD_COMPLETE brings a table store back, a wire fault is collected and
acted on when it persists, the quench and FAULT_N are released and set, FAULT_N's pulse ends, the journal takes its oldest waiting
record. -/
def Obligations.FaultActs : Prop :=
  (∀ (s : State) (evs : List FaultEv), ((evs.foldl arrive s.chip).takeDies.2.any (fun ev => ev.cls == 0x15) = false) → exec
    (.faultEvent evs) s = .next (s.withChip ((evs.foldl arrive s.chip).takeDies.1.faultEvents (evs.foldl arrive
    s.chip).takeDies.2))) ∧
  (∀ (s : State) (evs : List FaultEv), ((evs.foldl arrive s.chip).takeDies.2.any (fun ev => ev.cls == 0x15) = true) → ((evs.foldl
    arrive s.chip).takeDies.1.faultEvents (evs.foldl arrive s.chip).takeDies.2).plain = false → ((evs.foldl arrive
    s.chip).takeDies.1.faultEvents (evs.foldl arrive s.chip).takeDies.2).firstInCycle = true → exec (.faultEvent evs) s = .next
    (s.withBoth (s.store.lostHbm) ((((evs.foldl arrive s.chip).takeDies.1.faultEvents (evs.foldl arrive
    s.chip).takeDies.2).cutFrames (fun _ => true)).restarted 6))) ∧
  (∀ (s : State) (evs : List FaultEv), ((evs.foldl arrive s.chip).takeDies.2.any (fun ev => ev.cls == 0x15) = true) → ((evs.foldl
    arrive s.chip).takeDies.1.faultEvents (evs.foldl arrive s.chip).takeDies.2).plain = true → exec (.faultEvent evs) s = .next
    (s.withChip
    ({ (evs.foldl arrive s.chip).takeDies.1.faultEvents (evs.foldl arrive s.chip).takeDies.2 with boot.plainHold := true }))) ∧
  (∀ (s : State) (k : Fin 5), ((s.chip.flt.reloads.filter (fun r => r.1 == k.val)).isEmpty = false) → 
    let c1 :=
      { s.chip.setF (Reg.TS_STATUS k) Fd.TS_STATUS_RELOADING 0 with flt.reloads := s.chip.flt.reloads.filter (fun r => r.1 != k.val) }
    let c2 := (c1.setF (Reg.TS_STATUS k) Fd.TS_STATUS_FAILED 0).setF (Reg.TS_CTRL k) Fd.TS_CTRL_EN 1
    let c3 := c2.renewStore k
    exec (.storeReloadComplete k true) s = .next (s.withChip (((s.chip.flt.reloads.filter (fun r => r.1 == k.val)).foldl (fun (c : Chip)
      r => reloaded k c r.2) c3).nextUnserved))) ∧
  (∀ (s : State) (k : Fin 5), ((s.chip.flt.reloads.filter (fun r => r.1 == k.val)).isEmpty = false) → exec (.storeReloadComplete k
    false) s = .next (s.withChip ((storeSlices k).foldl slicePowerOff
    ({ s.chip.setF (Reg.TS_STATUS k) Fd.TS_STATUS_RELOADING 0 with flt.reloads := s.chip.flt.reloads.filter (fun r => r.1 != k.val) })))) ∧
  (∀ (s : State) (unit : Fin 256) (line : Fin 8) (level : Bool), unitListed unit = true → (s.chip.flt.wires.any (fun w => w.unit ==
    unit.val && w.line == line.val) = false) → 
    let c1 := { s.chip with flt.wires := s.chip.flt.wires ++ [(⟨unit, line, s.chip.now, level, false⟩ : WireFault)] }
    exec (.wireFault unit line level) s = .next (s.withChip (c1.tick.collect unit line 0x16 outReported (setBit c1.free.toNat 0
      level)))) ∧
  (∀ (s : State) (unit : Fin 256) (line : Fin 8) (level : Bool), unitListed unit = false → exec (.wireFault unit line level) s = .next
    (s.withChip (s.chip))) ∧
  (∀ (s : State) (unit : Fin 256) (line : Fin 8) (level : Bool), (s.chip.flt.wires.any (fun w => w.unit == unit.val && w.line ==
    line.val) = true) → exec (.wireFault unit line level) s = .next (s.withChip (s.chip))) ∧
  (∀ (s : State) (unit : Fin 256) (line : Fin 8) (w : WireFault), (s.chip.flt.wires.find? (fun w => w.unit == unit.val && w.line ==
    line.val) = some w) → w.acted = false → w.since + msPs ≤ s.chip.now → 0x20 ≤ unit.val → unit.val ≤ 0x28 → exec
    (.wireFaultPersist unit line) s = .next (s.withChip
    (({ s.chip with flt.wires := s.chip.flt.wires.map (fun (v : WireFault) => if v.unit = unit.val ∧ v.line = line.val then { v with acted := true } else v) }).sliceFaults
    [⟨unit.val - 0x20, line.val, false, false⟩]))) ∧
  (∀ (s : State) (unit : Fin 256) (line : Fin 8) (w : WireFault), (s.chip.flt.wires.find? (fun w => w.unit == unit.val && w.line ==
    line.val) = some w) → w.acted = false → w.since + msPs ≤ s.chip.now → 0x30 ≤ unit.val → unit.val ≤ 0x34 → exec
    (.wireFaultPersist unit line) s = .next (s.withChip
    (({ s.chip with flt.wires := s.chip.flt.wires.map (fun (v : WireFault) => if v.unit = unit.val ∧ v.line = line.val then { v with acted := true } else v) }).storeFail
    (unit.val - 0x30)))) ∧
  (∀ (s : State) (unit : Fin 256) (line : Fin 8) (w : WireFault), (s.chip.flt.wires.find? (fun w => w.unit == unit.val && w.line ==
    line.val) = some w) → w.acted = false → w.since + msPs ≤ s.chip.now → (¬ (0x20 ≤ unit.val ∧ unit.val ≤ 0x28)) → (¬ (0x30 ≤
    unit.val ∧ unit.val ≤ 0x34)) → exec (.wireFaultPersist unit line) s = .next (s.withChip
    ({ s.chip with flt.wires := s.chip.flt.wires.map (fun (v : WireFault) => if v.unit = unit.val ∧ v.line = line.val then { v with acted := true } else v) }))) ∧
  (∀ (s : State) (rq : Req), rq.priv = true → s.chip.addrOff Reg.FLT_CTRL = false → s.chip.flt.critical = false →
    s.chip.boot.plainHold = false → (s.chip.flt.quenchAt == some s.chip.aonCycle) = false → exec (.quenchRelease rq) s = .next
    (s.withChip (s.chip.setF Reg.FLT_STATUS Fd.FLT_STATUS_QUENCH 0))) ∧
  (∀ (s : State) (rq : Req), rq.priv = true → s.chip.addrOff Reg.FLT_CTRL = false → s.chip.on Reg.FLT_STATUS Fd.FLT_STATUS_FAULTN =
    true → (s.chip.flt.faultnAt == some s.chip.aonCycle) = false → s.chip.flt.faultnEnd ≤ s.chip.now → exec (.faultnRelease rq) s =
    .next (s.withChip (({ s.chip with flt.released := some (s.chip.aonCycle, s.chip.flt.held, s.chip.flt.relPending) } :
    Chip).dropFaultn))) ∧
  (∀ (s : State) (rq : Req), rq.priv = true → s.chip.addrOff Reg.FLT_CTRL = false → s.chip.on Reg.FLT_STATUS Fd.FLT_STATUS_FAULTN =
    true → (s.chip.flt.faultnAt == some s.chip.aonCycle) = false → s.chip.now < s.chip.flt.faultnEnd → exec (.faultnRelease rq) s =
    .next (s.withChip
    ({ ({ s.chip with flt.released := some (s.chip.aonCycle, s.chip.flt.held, s.chip.flt.relPending) } : Chip) with flt.relPending := true }))) ∧
  (∀ (s : State) (rq : Req), rq.priv = true → s.chip.addrOff Reg.FLT_CTRL = false → exec (.faultnSet rq) s = .next (s.withChip
    (s.chip.collectWith ⟨0, 0, 0x19, outReported, BitVec.ofNat 64 rq.code, 0, false⟩ true))) ∧
  (∀ (s : State), s.chip.on Reg.FLT_STATUS Fd.FLT_STATUS_FAULTN = true → s.chip.flt.faultnEnd ≤ s.chip.now → (s.chip.flt.held = false
    ∨ s.chip.flt.relPending = true) → exec (.faultnPulseEnd) s = .next (s.withChip (s.chip.dropFaultn))) ∧
  (∀ (s : State) (r : JrnRec) (l : List JrnRec), s.chip.flt.jrnQ = r :: l → 
    let i := s.chip.flt.jrnNext
    let c1 :=
      { s.chip with flt.journal := mset jrnSlotDefault s.chip.flt.journal i (BitVec.ofNat 256 (leNat r.bytes)), flt.jrnNext := (i + 1) % 4096, flt.jrnQ := l }
    let c2 := ((c1.setF Reg.FLT_JRN_STATUS Fd.FLT_JRN_STATUS_VALID 1).setF Reg.FLT_JRN_STATUS Fd.FLT_JRN_STATUS_NEWEST i).bump
      (Reg.FLT_CNT 32) 1
    exec (.journalWrite) s = .next (s.withChip (if l.isEmpty then c2.setF Reg.FLT_STATUS Fd.FLT_STATUS_JRN_BUSY 0 else c2))) ∧
  (∀ (s : State) (hits : List Hit), 
    let c1 := (s.chip.strike hits).traverse (fun l => l.space == 6 && s.chip.domOn (89 + l.unit % 8))
    let cells := ((c1.tbl.upsets.filter (fun u => u.loc.space == 7)).map (·.loc.index)).eraseDups
    let c2 := (cells.filter c1.scrubsCell).foldl (fun (c : Chip) i => (c.readCell i).1) c1
    exec (.scrubTraverse hits) s = .next (s.withChip ((c2.tbl.upsets.filter (fun u => u.loc.space == 8)).foldl readOther c2)))

/-- READ_JOURNAL answers a valid journal slot, GIVEBACK starts a give-back of a panel that the standby slice serves, INJECT injects an
event or a wire fault where injection is enabled, WDT_KICK with the key restarts a core's watchdog, whose expiry restarts the core. -/
def Obligations.FaultMailboxActs : Prop :=
  (∀ (s : State) (rq : Req) (tag : BitVec 16), s.chip.mbxStarts rq .flt 1 = true → (s.chip.mbxArgs .flt).getD 0 0 < 4096 → recordValid
    ((s.chip.pendingIn .flt).jrnSlot ((s.chip.mbxArgs .flt).getD 0 0)) = true → exec (.readJournal rq tag) s = .next (s.withChip
    ((s.chip.pendingIn .flt).mbxTaken .flt tag 1 (s.chip.mbxArgs .flt) (some (0, words8 ((s.chip.pendingIn .flt).jrnSlot
    ((s.chip.mbxArgs .flt).getD 0 0))))))) ∧
  (∀ (s : State) (rq : Req) (tag : BitVec 16), s.chip.mbxStarts rq .flt 1 = true → (s.chip.mbxArgs .flt).getD 0 0 < 4096 → recordValid
    ((s.chip.pendingIn .flt).jrnSlot ((s.chip.mbxArgs .flt).getD 0 0)) = false → exec (.readJournal rq tag) s = .next (s.withChip
    ((s.chip.pendingIn .flt).mbxTaken .flt tag 1 (s.chip.mbxArgs .flt) (some (2, []))))) ∧
  (∀ (s : State) (rq : Req) (tag : BitVec 16), s.chip.mbxStarts rq .flt 2 = true → (s.chip.mbxArgs .flt).getD 0 0 < 8 →
    (s.chip.pendingIn .flt).on Reg.FLT_TKO_STATUS Fd.FLT_TKO_STATUS_ACTIVE = false → (s.chip.pendingIn .flt).serving
    ((s.chip.mbxArgs .flt).getD 0 0) = some 8 → (s.chip.pendingIn .flt).sliceFailed ((s.chip.mbxArgs .flt).getD 0 0) = false →
    (s.chip.pendingIn .flt).domOn (80 + (s.chip.mbxArgs .flt).getD 0 0) = true → exec (.giveback rq tag) s = .next (s.withChip
    (({ ((s.chip.pendingIn .flt).discardPanel ((s.chip.mbxArgs .flt).getD 0 0)).setF Reg.FLT_TKO_STATUS Fd.FLT_TKO_STATUS_ACTIVE 1 with flt.giveAt := (s.chip.pendingIn .flt).now }).mbxTaken
    .flt tag 2 (s.chip.mbxArgs .flt) (none)))) ∧
  (∀ (s : State) (rq : Req) (tag : BitVec 16), s.chip.mbxStarts rq .flt 3 = true → (s.chip.mbxStarts rq .flt 3 &&
    s.chip.injectCritical (s.chip.mbxArgs .flt)) = false → (s.chip.pendingIn .flt).on Reg.FLT_CTRL Fd.FLT_CTRL_INJECT_EN = true → (¬
    (65536 ≤ (s.chip.mbxArgs .flt).getD 0 0 ∨ 2 ≤ (s.chip.mbxArgs .flt).getD 1 0 ∨ unitListed (bitsOf ((s.chip.mbxArgs .flt).getD 0
    0) 7 0) = false ∨ bitsOf ((s.chip.mbxArgs .flt).getD 0 0) 15 11 = 0 ∨ 0x1A ≤ bitsOf ((s.chip.mbxArgs .flt).getD 0 0) 15 11)) →
    (s.chip.mbxArgs .flt).getD 1 0 = 1 → exec (.inject rq tag) s = .next (s.withChip ((((s.chip.pendingIn .flt).opWireFault (bitsOf
    ((s.chip.mbxArgs .flt).getD 0 0) 7 0) (bitsOf ((s.chip.mbxArgs .flt).getD 0 0) 10 8) ((s.chip.pendingIn .flt).free.toNat % 2 ==
    1)).tick).mbxTaken .flt tag 3 (s.chip.mbxArgs .flt) (some (0, []))))) ∧
  (∀ (s : State) (rq : Req) (tag : BitVec 16), s.chip.mbxStarts rq .flt 3 = true → (s.chip.mbxStarts rq .flt 3 &&
    s.chip.injectCritical (s.chip.mbxArgs .flt)) = false → (s.chip.pendingIn .flt).on Reg.FLT_CTRL Fd.FLT_CTRL_INJECT_EN = true → (¬
    (65536 ≤ (s.chip.mbxArgs .flt).getD 0 0 ∨ 2 ≤ (s.chip.mbxArgs .flt).getD 1 0 ∨ unitListed (bitsOf ((s.chip.mbxArgs .flt).getD 0
    0) 7 0) = false ∨ bitsOf ((s.chip.mbxArgs .flt).getD 0 0) 15 11 = 0 ∨ 0x1A ≤ bitsOf ((s.chip.mbxArgs .flt).getD 0 0) 15 11)) →
    (s.chip.mbxArgs .flt).getD 1 0 ≠ 1 → (s.chip.pendingIn .flt).unseen ⟨bitsOf ((s.chip.mbxArgs .flt).getD 0 0) 7 0, bitsOf
    ((s.chip.mbxArgs .flt).getD 0 0) 10 8, bitsOf ((s.chip.mbxArgs .flt).getD 0 0) 15 11, classOutcome (bitsOf ((s.chip.mbxArgs
    .flt).getD 0 0) 15 11), (s.chip.pendingIn .flt).free, 0, false⟩ = false → exec (.inject rq tag) s = .next (s.withChip
    ((((s.chip.pendingIn .flt).tick.faultEvents [⟨bitsOf ((s.chip.mbxArgs .flt).getD 0 0) 7 0, bitsOf ((s.chip.mbxArgs .flt).getD 0
    0) 10 8, bitsOf ((s.chip.mbxArgs .flt).getD 0 0) 15 11, classOutcome (bitsOf ((s.chip.mbxArgs .flt).getD 0 0) 15 11),
    (s.chip.pendingIn .flt).free, 0, false⟩])).mbxTaken .flt tag 3 (s.chip.mbxArgs .flt) (some (0, []))))) ∧
  (∀ (s : State) (rq : Req) (tag : BitVec 16), s.chip.mbxStarts rq .flt 3 = true → (s.chip.mbxStarts rq .flt 3 &&
    s.chip.injectCritical (s.chip.mbxArgs .flt)) = false → (s.chip.pendingIn .flt).on Reg.FLT_CTRL Fd.FLT_CTRL_INJECT_EN = true → (¬
    (65536 ≤ (s.chip.mbxArgs .flt).getD 0 0 ∨ 2 ≤ (s.chip.mbxArgs .flt).getD 1 0 ∨ unitListed (bitsOf ((s.chip.mbxArgs .flt).getD 0
    0) 7 0) = false ∨ bitsOf ((s.chip.mbxArgs .flt).getD 0 0) 15 11 = 0 ∨ 0x1A ≤ bitsOf ((s.chip.mbxArgs .flt).getD 0 0) 15 11)) →
    (s.chip.mbxArgs .flt).getD 1 0 ≠ 1 → (s.chip.pendingIn .flt).unseen ⟨bitsOf ((s.chip.mbxArgs .flt).getD 0 0) 7 0, bitsOf
    ((s.chip.mbxArgs .flt).getD 0 0) 10 8, bitsOf ((s.chip.mbxArgs .flt).getD 0 0) 15 11, classOutcome (bitsOf ((s.chip.mbxArgs
    .flt).getD 0 0) 15 11), (s.chip.pendingIn .flt).free, 0, false⟩ = true → exec (.inject rq tag) s = .next (s.withChip
    (((s.chip.pendingIn .flt)).mbxTaken .flt tag 3 (s.chip.mbxArgs .flt) (some (0, []))))) ∧
  (∀ (s : State) (rq : Req) (c : Fin 4), rq.priv = true → s.chip.addrOff (Reg.FLT_WDT_KICK c) = false → exec (.wdtKick rq c 0x6B1C) s
    = .next (s.withChip ({ s.chip with flt.kicks := mput s.chip.flt.kicks c s.chip.now }))) ∧
  (∀ (s : State) (rq : Req) (c : Fin 4) (key : BitVec 16), rq.priv = true → s.chip.addrOff (Reg.FLT_WDT_KICK c) = false → key ≠ 0x6B1C
    → exec (.wdtKick rq c key) s = .next (s.withChip (s.chip.err rq errBadValue (Reg.FLT_WDT_KICK c)))) ∧
  (∀ (s : State) (c : Fin 4), s.chip.fld (Reg.FLT_WDT c) Fd.FLT_WDT_TIMEOUT ≠ 0 → s.chip.coreServes c = true → (mget (fun _ => 0)
    s.chip.flt.kicks c + s.chip.fld (Reg.FLT_WDT c) Fd.FLT_WDT_TIMEOUT * msPs ≤ s.chip.now) → exec (.coreWatchdogExpiry c) s = .next
    (s.withChip (s.chip.restartCore c))) ∧
  (∀ (s : State) (c : Fin 4), (¬ (s.chip.fld (Reg.FLT_WDT c) Fd.FLT_WDT_TIMEOUT ≠ 0 ∧ s.chip.coreServes c = true ∧ mget (fun _ => 0)
    s.chip.flt.kicks c + s.chip.fld (Reg.FLT_WDT c) Fd.FLT_WDT_TIMEOUT * msPs ≤ s.chip.now)) → exec (.coreWatchdogExpiry c) s =
    .next (s.withChip (s.chip)))

/-- ENTER fences the panels and starts an entry or is refused with its reason, the entry completes when it has drained, is aborted at
its bound, or cuts power in Deflated; EXIT leaves Moored, a release of PERST_N leaves Deflated, the RTC alarm fires and its count is
written. -/
def Obligations.PowerStateActs : Prop :=
  (∀ (s : State) (rq : Req) (tag : BitVec 16), s.chip.mbxStarts rq .pwr 1 = true → ((s.chip.mbxArgs .pwr).getD 0 0 % 4) ≠ 0 → exec
    (.enter rq tag) s = .next (s.withChip (((s.chip.pendingIn .pwr).enterCheck ((s.chip.mbxArgs .pwr).getD 0 0 % 4)).elim
    (({ (quads.foldl (fun (c : Chip) d => c.setFence d true) (s.chip.pendingIn .pwr)) with pwr.entry := some ⟨((s.chip.mbxArgs .pwr).getD 0 0 % 4), (s.chip.mbxArgs .pwr).getD 1 0 % 2 == 1, (s.chip.pendingIn .pwr).now, (s.chip.pendingIn .pwr).pwrState == 1, false⟩ }.showTrans).mbxTaken
    .pwr tag 1 (s.chip.mbxArgs .pwr) (none)) (fun r => ((s.chip.pendingIn .pwr).account (((s.chip.mbxArgs .pwr).getD 0 0 % 4) - 1)
    false r.2 r.1).mbxTaken .pwr tag 1 (s.chip.mbxArgs .pwr) (some (2, [])))))) ∧
  (∀ (s : State) (rq : Req) (tag : BitVec 16), s.chip.mbxStarts rq .pwr 1 = true → ((s.chip.mbxArgs .pwr).getD 0 0 % 4) = 0 → exec
    (.enter rq tag) s = .next (s.withChip ((s.chip.pendingIn .pwr).mbxTaken .pwr tag 1 (s.chip.mbxArgs .pwr) (some (1, []))))) ∧
  (∀ (s : State) (e : Entry), s.chip.pwr.entry = some e → s.chip.pwr.offAt = none → (e.fromMoored || (s.chip.drained &&
    s.chip.learnIdle && decide (e.start + 4 * usPs ≤ s.chip.now))) = true → e.target = 1 → 
    let c1 := (if e.fromMoored then s.chip else s.chip.moor).takeSave (Config.saveAreaPages e.target).val
    exec (.entryDrainDone) s = .next (s.withChip (if s.chip.pagesFree < (Config.saveAreaPages e.target).val then s.chip.abortEntry e
      0x12 0x0C false else
      ({ (c1.setF Reg.PWR_STATUS Fd.PWR_STATUS_STATE 1).pwrEnd 1 0 with pwr.entry := none }.showTrans).heldAlarm e.alarm))) ∧
  (∀ (s : State) (e : Entry), s.chip.pwr.entry = some e → s.chip.pwr.offAt = none → (e.fromMoored || (s.chip.drained &&
    s.chip.learnIdle && decide (e.start + 4 * usPs ≤ s.chip.now))) = true → e.target ≠ 1 → 
    let c1 := (if e.fromMoored then s.chip else s.chip.moor).takeSave (Config.saveAreaPages e.target).val
    exec (.entryDrainDone) s = .next (s.withChip (if s.chip.pagesFree < (Config.saveAreaPages e.target).val then s.chip.abortEntry e
      0x12 0x0C false else { (c1.saveRegs deflatedOff).pwrEnd 1 0 with pwr.offAt := some s.chip.now }))) ∧
  (∀ (s : State) (e : Entry), s.chip.pwr.entry = some e → s.chip.pwr.offAt = none → e.fromMoored = false → s.chip.drained = false →
    e.start + s.chip.fld Reg.PWR_CFG Fd.PWR_CFG_DRAIN_MS * msPs ≤ s.chip.now → exec (.entryAbort none) s = .next (s.withChip
    (s.chip.abortEntry e 0x13 0x04 false))) ∧
  (∀ (s : State) (e : Entry) (k : Fin 4), s.chip.pwr.entry = some e → s.chip.pwr.offAt = none → e.fromMoored = false → s.chip.drained
    = true → s.chip.learnIdle = true → e.start + 4 * usPs ≤ s.chip.now → exec (.entryAbort (some k)) s = .next (s.withChip
    (s.chip.abortEntry e (0x0C + k.val) 0x0B true))) ∧
  (∀ (s : State) (e : Entry) (t : Nat), s.chip.pwr.entry = some e → s.chip.pwr.offAt = some t → t + 10 * msPs ≤ s.chip.now → 
    let c1 := (deflatedOff.filter (fun d => s.chip.domOn d || s.chip.domState d == domRetained)).foldl (fun (c : Chip) d => c.setDom d
      domOff) s.chip.saveCtrs.hostLost
    let c2 :=
      { c1.wrN Reg.TET_STATUS 0 with dtm := Dtm.reset, tet := Tet.reset, pwr.entryOff := s.chip.pwr.entryOff ++ (deflatedOff.filter (fun d => s.chip.domOn d || s.chip.domState d == domRetained)), pwr.entry := none, pwr.offAt := none }
    let c3 := if e.target = 3 then flushJournal c2.flt.jrnQ.length c2 else c2
    exec (.deflatePowerOff) s = .next (s.withChip (((c3.setF Reg.PWR_STATUS Fd.PWR_STATUS_STATE e.target).showTrans).heldAlarm
      e.alarm))) ∧
  (∀ (s : State) (rq : Req) (tag : BitVec 16), s.chip.mbxStarts rq .pwr 2 = true → (s.chip.pendingIn .pwr).pwrState = 1 →
    (s.chip.pendingIn .pwr).pwr.entry.isNone = true → (s.chip.pendingIn .pwr).pwr.exiting = false → exec (.exitState rq tag) s =
    .next (s.withChip (((s.chip.pendingIn .pwr).startExit).mbxTaken .pwr tag 2 (s.chip.mbxArgs .pwr) (if (s.chip.pendingIn
    .pwr).startExit.pwr.exiting then none else some (0, []))))) ∧
  (∀ (s : State) (rq : Req) (tag : BitVec 16), s.chip.mbxStarts rq .pwr 2 = true → (¬ ((s.chip.pendingIn .pwr).pwrState = 1 ∧
    (s.chip.pendingIn .pwr).pwr.entry.isNone = true ∧ (s.chip.pendingIn .pwr).pwr.exiting = false)) → exec (.exitState rq tag) s =
    .next (s.withChip ((s.chip.pendingIn .pwr).mbxTaken .pwr tag 2 (s.chip.mbxArgs .pwr) (some (2, []))))) ∧
  (∀ (s : State), s.chip.pwrState = 2 → s.chip.pwr.exiting = false → exec (.deflatedExit) s = .next (s.withChip
    ({ s.chip with pins.perstN := true }.startDeflatedExit))) ∧
  (∀ (s : State), bfGet Fd.PWR_RTC_CTRL_ALARM_EN (s.chip.inBkp Reg.PWR_RTC_CTRL) = 1 → s.chip.time.rtc = s.chip.alarmTick →
    s.chip.pwr.entry = none → s.chip.pwr.stowed = false → (s.chip.pwr.exiting = true ∨ s.chip.pwrState = 0) → exec (.rtcAlarm) s =
    .next (s.withChip ((s.chip.setBkpF Reg.PWR_RTC_CTRL Fd.PWR_RTC_CTRL_ALARM_HIT 1)))) ∧
  (∀ (s : State), bfGet Fd.PWR_RTC_CTRL_ALARM_EN (s.chip.inBkp Reg.PWR_RTC_CTRL) = 1 → s.chip.time.rtc = s.chip.alarmTick →
    s.chip.pwr.entry = none → s.chip.pwr.stowed = true → exec (.rtcAlarm) s = .next (s.withChip
    ({ (s.chip.setBkpF Reg.PWR_RTC_CTRL Fd.PWR_RTC_CTRL_ALARM_HIT 1) with pins.wakeOut := s.chip.pins.vbat }))) ∧
  (∀ (s : State), bfGet Fd.PWR_RTC_CTRL_ALARM_EN (s.chip.inBkp Reg.PWR_RTC_CTRL) = 1 → s.chip.time.rtc = s.chip.alarmTick →
    s.chip.pwr.entry = none → s.chip.pwr.stowed = false → s.chip.pwr.exiting = false → s.chip.pwrState ≠ 0 → exec (.rtcAlarm) s =
    .next (s.withChip ((s.chip.setBkpF Reg.PWR_RTC_CTRL Fd.PWR_RTC_CTRL_ALARM_HIT 1).heldAlarm true))) ∧
  (∀ (s : State) (e : Entry), bfGet Fd.PWR_RTC_CTRL_ALARM_EN (s.chip.inBkp Reg.PWR_RTC_CTRL) = 1 → s.chip.time.rtc = s.chip.alarmTick
    → s.chip.pwr.entry = some e → exec (.rtcAlarm) s = .next (s.withChip
    ({ (s.chip.setBkpF Reg.PWR_RTC_CTRL Fd.PWR_RTC_CTRL_ALARM_HIT 1) with pwr.entry := some { e with alarm := true } }))) ∧
  (∀ (s : State) (rq : Req) (value : BitVec 32), rq.priv = true → s.chip.addrOff Reg.PWR_RTC_LO = false → exec (.rtcCountWrite rq
    value) s = .next (s.withChip ((s.chip.postBkp Reg.PWR_RTC_HI (BitVec.ofNat 32 s.chip.pwr.rtcHi)).postBkp Reg.PWR_RTC_LO value)))

/-- SET_LEVEL starts a change of level and LEVEL_SWITCH ends it, DOMAIN_OFF drains or switches off a domain, DOMAIN_ON queues its ramp,
DOMAIN_CLEAR clears a failed one; ramps start under the inrush limits, complete, or trip; a drain that takes too long is undone. -/
def Obligations.PowerDomainActs : Prop :=
  (∀ (s : State) (rq : Req) (tag : BitVec 16), s.chip.mbxStarts rq .pwr 3 = true → ((s.chip.mbxArgs .pwr).getD 0 0 % 4) =
    ((s.chip.pendingIn .pwr).fld Reg.PWR_STATUS Fd.PWR_STATUS_LEVEL) → exec (.setLevel rq tag) s = .next (s.withChip
    ((s.chip.pendingIn .pwr).mbxTaken .pwr tag 3 (s.chip.mbxArgs .pwr) (some (0, []))))) ∧
  (∀ (s : State) (rq : Req) (tag : BitVec 16), s.chip.mbxStarts rq .pwr 3 = true → ((s.chip.mbxArgs .pwr).getD 0 0 % 4) ≠
    ((s.chip.pendingIn .pwr).fld Reg.PWR_STATUS Fd.PWR_STATUS_LEVEL) → (¬ ((s.chip.pendingIn .pwr).pwrState ≠ 0 ∨ (s.chip.pendingIn
    .pwr).pwr.entry.isSome = true ∨ (s.chip.pendingIn .pwr).pwr.change.isSome = true)) → exec (.setLevel rq tag) s = .next
    (s.withChip ((if ((s.chip.mbxArgs .pwr).getD 0 0 % 4) < ((s.chip.pendingIn .pwr).fld Reg.PWR_STATUS Fd.PWR_STATUS_LEVEL) then
    ({ (s.chip.pendingIn .pwr).setF Reg.PWR_STATUS Fd.PWR_STATUS_TARGET ((s.chip.mbxArgs .pwr).getD 0 0 % 4) with pwr.change := some ⟨((s.chip.pendingIn .pwr).fld Reg.PWR_STATUS Fd.PWR_STATUS_LEVEL), ((s.chip.mbxArgs .pwr).getD 0 0 % 4), (s.chip.pendingIn .pwr).now⟩ }.showTrans).setpoint
    ((s.chip.mbxArgs .pwr).getD 0 0 % 4) else
    { (s.chip.pendingIn .pwr).setF Reg.PWR_STATUS Fd.PWR_STATUS_TARGET ((s.chip.mbxArgs .pwr).getD 0 0 % 4) with pwr.change := some ⟨((s.chip.pendingIn .pwr).fld Reg.PWR_STATUS Fd.PWR_STATUS_LEVEL), ((s.chip.mbxArgs .pwr).getD 0 0 % 4), (s.chip.pendingIn .pwr).now⟩ }.showTrans).mbxTaken
    .pwr tag 3 (s.chip.mbxArgs .pwr) (none)))) ∧
  (∀ (s : State) (rq : Req) (tag : BitVec 16), s.chip.mbxStarts rq .pwr 3 = true → ((s.chip.mbxArgs .pwr).getD 0 0 % 4) ≠
    ((s.chip.pendingIn .pwr).fld Reg.PWR_STATUS Fd.PWR_STATUS_LEVEL) → ((s.chip.pendingIn .pwr).pwrState ≠ 0 ∨ (s.chip.pendingIn
    .pwr).pwr.entry.isSome = true ∨ (s.chip.pendingIn .pwr).pwr.change.isSome = true) → exec (.setLevel rq tag) s = .next
    (s.withChip ((s.chip.pendingIn .pwr).mbxTaken .pwr tag 3 (s.chip.mbxArgs .pwr) (some (2, []))))) ∧
  (∀ (s : State) (x : LevelChange), s.chip.pwr.change = some x → x.start + 50 * usPs ≤ s.chip.now → 
    let c2 := if x.old < x.new then ((s.chip.setF Reg.PWR_STATUS Fd.PWR_STATUS_LEVEL x.new).bump (Reg.PWR_CNT 10) 1).setpoint x.new else
      ((s.chip.setF Reg.PWR_STATUS Fd.PWR_STATUS_LEVEL x.new).bump (Reg.PWR_CNT 10) 1)
    exec (.levelSwitch true) s = .next (s.withChip (({ c2 with pwr.change := none }.showTrans).pwrEnd 3 0))) ∧
  (∀ (s : State) (x : LevelChange), s.chip.pwr.change = some x → x.start + 50 * usPs ≤ s.chip.now → exec (.levelSwitch false) s =
    .next (s.withChip
    ((({ (s.chip.setF Reg.PWR_STATUS Fd.PWR_STATUS_TARGET x.old).setpoint x.old with pwr.change := none }.showTrans).report 0x03 0
    0x10 outReported).pwrEnd 3 3))) ∧
  (∀ (s : State) (rq : Req) (tag : BitVec 16), s.chip.mbxStarts rq .pwr 4 = true → ((s.chip.mbxArgs .pwr).getD 0 0 % 128) < 117 →
    stateDom ((s.chip.mbxArgs .pwr).getD 0 0 % 128) = true → exec (.domainOff rq tag) s = .next (s.withChip ((s.chip.pendingIn
    .pwr).mbxTaken .pwr tag 4 (s.chip.mbxArgs .pwr) (some (5, []))))) ∧
  (∀ (s : State) (rq : Req) (tag : BitVec 16), s.chip.mbxStarts rq .pwr 4 = true → ((s.chip.mbxArgs .pwr).getD 0 0 % 128) < 117 →
    stateDom ((s.chip.mbxArgs .pwr).getD 0 0 % 128) = false → (s.chip.pendingIn .pwr).domState ((s.chip.mbxArgs .pwr).getD 0 0 %
    128) = domOff → exec (.domainOff rq tag) s = .next (s.withChip ((s.chip.pendingIn .pwr).mbxTaken .pwr tag 4 (s.chip.mbxArgs
    .pwr) (some (0, []))))) ∧
  (∀ (s : State) (rq : Req) (tag : BitVec 16), s.chip.mbxStarts rq .pwr 4 = true → ((s.chip.mbxArgs .pwr).getD 0 0 % 128) < 117 →
    stateDom ((s.chip.mbxArgs .pwr).getD 0 0 % 128) = false → (s.chip.pendingIn .pwr).domState ((s.chip.mbxArgs .pwr).getD 0 0 %
    128) = domUp → (s.chip.pendingIn .pwr).pwrState = 0 → (s.chip.pendingIn .pwr).pwr.entry.isSome = false → ((((s.chip.mbxArgs
    .pwr).getD 0 0 % 128) < 72 ∧ ((s.chip.mbxArgs .pwr).getD 0 0 % 128) % 9 < 8) ∨ (94 ≤ ((s.chip.mbxArgs .pwr).getD 0 0 % 128) ∧
    ((s.chip.mbxArgs .pwr).getD 0 0 % 128) < 102)) → exec (.domainOff rq tag) s = .next (s.withChip (((s.chip.pendingIn
    .pwr).startDrain ((s.chip.mbxArgs .pwr).getD 0 0 % 128) ((s.chip.mbxArgs .pwr).getD 1 0 % 2 == 1) true).mbxTaken .pwr tag 4
    (s.chip.mbxArgs .pwr) (if ((s.chip.pendingIn .pwr).startDrain ((s.chip.mbxArgs .pwr).getD 0 0 % 128) ((s.chip.mbxArgs .pwr).getD
    1 0 % 2 == 1) true).domState ((s.chip.mbxArgs .pwr).getD 0 0 % 128) = domOff then some (0, []) else none)))) ∧
  (∀ (s : State) (rq : Req) (tag : BitVec 16), s.chip.mbxStarts rq .pwr 4 = true → ((s.chip.mbxArgs .pwr).getD 0 0 % 128) < 117 →
    stateDom ((s.chip.mbxArgs .pwr).getD 0 0 % 128) = false → (s.chip.pendingIn .pwr).domState ((s.chip.mbxArgs .pwr).getD 0 0 %
    128) = domUp → (s.chip.pendingIn .pwr).pwrState = 0 → (s.chip.pendingIn .pwr).pwr.entry.isSome = false → (¬ ((((s.chip.mbxArgs
    .pwr).getD 0 0 % 128) < 72 ∧ ((s.chip.mbxArgs .pwr).getD 0 0 % 128) % 9 < 8) ∨ (94 ≤ ((s.chip.mbxArgs .pwr).getD 0 0 % 128) ∧
    ((s.chip.mbxArgs .pwr).getD 0 0 % 128) < 102))) → (s.chip.pendingIn .pwr).offCheck ((s.chip.mbxArgs .pwr).getD 0 0 % 128) = none
    → exec (.domainOff rq tag) s = .next (s.withChip (((s.chip.pendingIn .pwr).switchOff ((s.chip.mbxArgs .pwr).getD 0 0 %
    128)).mbxTaken .pwr tag 4 (s.chip.mbxArgs .pwr) (some (0, []))))) ∧
  (∀ (s : State) (rq : Req) (tag : BitVec 16) (r : Nat × Nat), s.chip.mbxStarts rq .pwr 4 = true → ((s.chip.mbxArgs .pwr).getD 0 0 %
    128) < 117 → stateDom ((s.chip.mbxArgs .pwr).getD 0 0 % 128) = false → (s.chip.pendingIn .pwr).domState ((s.chip.mbxArgs
    .pwr).getD 0 0 % 128) = domUp → (s.chip.pendingIn .pwr).pwrState = 0 → (s.chip.pendingIn .pwr).pwr.entry.isSome = false → (¬
    ((((s.chip.mbxArgs .pwr).getD 0 0 % 128) < 72 ∧ ((s.chip.mbxArgs .pwr).getD 0 0 % 128) % 9 < 8) ∨ (94 ≤ ((s.chip.mbxArgs
    .pwr).getD 0 0 % 128) ∧ ((s.chip.mbxArgs .pwr).getD 0 0 % 128) < 102))) → (s.chip.pendingIn .pwr).offCheck ((s.chip.mbxArgs
    .pwr).getD 0 0 % 128) = some r → exec (.domainOff rq tag) s = .next (s.withChip (((s.chip.pendingIn .pwr).account 3 false r.2
    r.1).mbxTaken .pwr tag 4 (s.chip.mbxArgs .pwr) (some (2, []))))) ∧
  (∀ (s : State) (rq : Req) (tag : BitVec 16), s.chip.mbxStarts rq .pwr 5 = true → ((s.chip.mbxArgs .pwr).getD 0 0 % 128) < 117 →
    stateDom ((s.chip.mbxArgs .pwr).getD 0 0 % 128) = false → (s.chip.pendingIn .pwr).domState ((s.chip.mbxArgs .pwr).getD 0 0 %
    128) = domOff → (s.chip.pendingIn .pwr).pwrState = 0 → (s.chip.pendingIn .pwr).pwr.entry.isSome = false → exec (.domainOn rq
    tag) s = .next (s.withChip (((s.chip.pendingIn .pwr).request ((s.chip.mbxArgs .pwr).getD 0 0 % 128)).mbxTaken .pwr tag 5
    (s.chip.mbxArgs .pwr) (none)))) ∧
  (∀ (s : State) (rq : Req) (tag : BitVec 16), s.chip.mbxStarts rq .pwr 5 = true → ((s.chip.mbxArgs .pwr).getD 0 0 % 128) < 117 →
    stateDom ((s.chip.mbxArgs .pwr).getD 0 0 % 128) = false → (s.chip.pendingIn .pwr).domState ((s.chip.mbxArgs .pwr).getD 0 0 %
    128) = domFailed → exec (.domainOn rq tag) s = .next (s.withChip (((s.chip.pendingIn .pwr).lastRefuse 3 false 0x03
    0x07).mbxTaken .pwr tag 5 (s.chip.mbxArgs .pwr) (some (2, []))))) ∧
  (∀ (s : State) (rq : Req) (tag : BitVec 16), s.chip.mbxStarts rq .pwr 5 = true → ((s.chip.mbxArgs .pwr).getD 0 0 % 128) < 117 →
    stateDom ((s.chip.mbxArgs .pwr).getD 0 0 % 128) = false → (s.chip.pendingIn .pwr).domState ((s.chip.mbxArgs .pwr).getD 0 0 %
    128) ≠ domFailed → (s.chip.pendingIn .pwr).domOn ((s.chip.mbxArgs .pwr).getD 0 0 % 128) = true → exec (.domainOn rq tag) s =
    .next (s.withChip ((s.chip.pendingIn .pwr).mbxTaken .pwr tag 5 (s.chip.mbxArgs .pwr) (some (0, []))))) ∧
  (∀ (s : State) (rq : Req) (tag : BitVec 16), s.chip.mbxStarts rq .pwr 6 = true → ((s.chip.mbxArgs .pwr).getD 0 0 % 128) < 117 →
    (s.chip.pendingIn .pwr).domState ((s.chip.mbxArgs .pwr).getD 0 0 % 128) = domFailed → (s.chip.pendingIn .pwr).pwr.stuck.contains
    ((s.chip.mbxArgs .pwr).getD 0 0 % 128) = false → exec (.domainClear rq tag) s = .next (s.withChip (((s.chip.pendingIn
    .pwr).setDom ((s.chip.mbxArgs .pwr).getD 0 0 % 128) domOff).mbxTaken .pwr tag 6 (s.chip.mbxArgs .pwr) (some (0, []))))) ∧
  (∀ (s : State) (r : DomReq) (l : List DomReq), s.chip.pwr.queue = r :: l → s.chip.mayStart = true → exec (.rampStart) s = .next
    (s.withChip ({ s.chip.setDom r.dom domRamping with pwr.queue := l, pwr.lastStart := s.chip.now }))) ∧
  (∀ (s : State) (dom : Fin 117), s.chip.domState dom = domRamping → exec (.rampDone dom) s = .next (s.withChip (((if
    s.chip.pwr.exiting then s.chip.setDom dom domUp else (s.chip.setDom dom domUp).setFence dom false).pwrEndDom 5 dom 0).exitStep
    dom))) ∧
  (∀ (s : State) (dom : Fin 117) (c : Chip), s.chip.domState dom = domRamping → (c =
    (((({ ((s.chip.satF (Reg.PWR_DOM dom) Fd.PWR_DOM_TRIPS 1).bump (Reg.PWR_CNT 12) 1) with pwr.tripAt := mput ((s.chip.satF (Reg.PWR_DOM dom) Fd.PWR_DOM_TRIPS 1).bump (Reg.PWR_CNT 12) 1).pwr.tripAt dom s.chip.now, pwr.stuck := if (mfind s.chip.pwr.tripAt dom).any (fun t => decide (s.chip.now < t + sPs)) then ((s.chip.satF (Reg.PWR_DOM dom) Fd.PWR_DOM_TRIPS 1).bump (Reg.PWR_CNT 12) 1).pwr.stuck ++ [dom.val] else ((s.chip.satF (Reg.PWR_DOM dom) Fd.PWR_DOM_TRIPS 1).bump (Reg.PWR_CNT 12) 1).pwr.stuck }
    : Chip).domainFault dom domFailed).pwrEndDom 5 dom 4).exitStep dom)) → exec (.softstartTrip dom) s = .next (s.withBoth ((if 104
    ≤ dom.val ∧ dom.val < 108 ∧ c.domState dom ≠ domRamping then s.store.lostStack (dom - 104) else s.store)) (c))) ∧
  (∀ (s : State) (dom : Fin 117) (x : Drain), (s.chip.pwr.drains.find? (fun x => x.dom == dom.val) = some x) → s.chip.drainReady x =
    true → exec (.domainDrainTimeout dom) s = .next (s.withChip (s.chip.endDrain x))) ∧
  (∀ (s : State) (dom : Fin 117) (x : Drain), (s.chip.pwr.drains.find? (fun x => x.dom == dom.val) = some x) → s.chip.drainReady x =
    false → x.start + s.chip.fld Reg.PWR_CFG Fd.PWR_CFG_DRAIN_MS * msPs ≤ s.chip.now → 
    let c1 := if dom.val < 72 then s.chip.setFence dom false else s.chip.setFBit Reg.BPM_CELL_CFG Fd.BPM_CELL_CFG_GROUP_EN (dom.val -
      94) x.discard
    let c2 := { c1.setDom dom domUp with pwr.drains := c1.pwr.drains.filter (fun y => y.dom != dom.val) }
    exec (.domainDrainTimeout dom) s = .next (s.withChip ((c2.account 3 true (if dom.val < 72 then 0x13 else 0x12) 0x04).pwrEndDom 4 dom
      3)))

/-- A doorbell sets the host index or is a BAD_VALUE, a ring error disables its ring, an interrupt message is sent when its interval has
passed, an inject descriptor is refused, counted as stale, or taken, and the window mailboxes probe and read only what is the
parcel's own. -/
def Obligations.RingActs : Prop :=
  (∀ (s : State) (rq : Req) (parcel : Fin 64) (ring : Fin 16) (value : BitVec 32), ownsWindow rq parcel = true → s.chip.addrOff
    (Reg.VF_DOORBELL parcel ring) = false → s.chip.doorbellBad parcel ring value.toNat = false → exec (.doorbell rq parcel ring
    value) s = .next (s.withChip (s.chip.wr (Reg.RING_HOST parcel ring) value))) ∧
  (∀ (s : State) (rq : Req) (parcel : Fin 64) (ring : Fin 16) (value : BitVec 32), ownsWindow rq parcel = true → s.chip.addrOff
    (Reg.VF_DOORBELL parcel ring) = false → s.chip.doorbellBad parcel ring value.toNat = true → exec (.doorbell rq parcel ring
    value) s = .next (s.withChip (s.chip.err rq errBadValue (Reg.VF_DOORBELL parcel ring)))) ∧
  (∀ (s : State) (rq : Req) (parcel : Fin 64) (ring : Fin 16) (value : BitVec 32), ownsWindow rq parcel = false → exec (.doorbell rq
    parcel ring value) s = .next (s.withChip (s.chip.err rq errBadAccess (Reg.VF_DOORBELL parcel ring)))) ∧
  (∀ (s : State) (parcel : Fin 64) (ring : Fin 16), s.chip.ringOn parcel ring = true → exec (.ringError parcel ring) s = .next
    (s.withChip (((s.chip.setF (Reg.RING_CFG parcel ring) Fd.RING_CFG_EN 0).setF (Reg.RING_STATUS parcel ring) Fd.RING_STATUS_ERR
    1).emit (.aer parcel ring)))) ∧
  (∀ (s : State) (parcel : Fin 64) (ring : Fin 16), s.chip.hif.irqPend.contains (16 * parcel.val + ring.val) = true → (mget (fun _ =>
    0) s.chip.hif.irqLast (16 * parcel.val + ring.val) + s.chip.fld (Reg.RING_CFG parcel ring) Fd.RING_CFG_MOD * usPs ≤ s.chip.now +
    1) → 
    let c1 := s.chip.sendMsix parcel (s.chip.fld (Reg.RING_CFG parcel ring) Fd.RING_CFG_VEC)
    exec (.msixInterrupt parcel ring) s = .next (s.withChip
      ({ c1 with hif.irqPend := c1.hif.irqPend.erase (16 * parcel.val + ring.val), hif.irqLast := mset (fun _ => 0) c1.hif.irqLast (16 * parcel.val + ring.val) (s.chip.now + 1) }))) ∧
  (∀ (s : State) (parcel : Fin 64) (ring : Fin 4) (entry : List Byte), s.chip.domOn 114 = true → s.chip.ringOn parcel (12 + ring.val)
    = true → s.chip.parcelActive parcel = true → (s.chip.rd (Reg.RING_HOST parcel (12 + ring.val)) == s.chip.rd (Reg.RING_ENG parcel
    (12 + ring.val))) = false → s.chip.panelMoves ((injEntry entry).port / 32) = false → s.chip.injBad parcel (12 + ring.val)
    (injEntry entry) = true → exec (.injectFetch parcel ring entry) s = .next (s.withChip ((s.chip.bump (Reg.RING_CNT parcel (12 +
    ring.val) 2) 1).ringAdvance parcel (12 + ring.val)))) ∧
  (∀ (s : State) (parcel : Fin 64) (ring : Fin 4) (entry : List Byte), s.chip.domOn 114 = true → s.chip.ringOn parcel (12 + ring.val)
    = true → s.chip.parcelActive parcel = true → (s.chip.rd (Reg.RING_HOST parcel (12 + ring.val)) == s.chip.rd (Reg.RING_ENG parcel
    (12 + ring.val))) = false → s.chip.panelMoves ((injEntry entry).port / 32) = false → s.chip.injBad parcel (12 + ring.val)
    (injEntry entry) = false → ((injEntry entry).sliceV && s.chip.gen (injEntry entry).slice != (injEntry entry).gen) = true → exec
    (.injectFetch parcel ring entry) s = .next (s.withChip ((s.chip.bump (Reg.FLT_CNT 38) 1).ringAdvance parcel (12 + ring.val)))) ∧
  (∀ (s : State) (parcel : Fin 64) (ring : Fin 4) (entry : List Byte) (rsv : Bool), s.chip.domOn 114 = true → s.chip.ringOn parcel (12
    + ring.val) = true → s.chip.parcelActive parcel = true → (s.chip.rd (Reg.RING_HOST parcel (12 + ring.val)) == s.chip.rd
    (Reg.RING_ENG parcel (12 + ring.val))) = false → s.chip.panelMoves ((injEntry entry).port / 32) = false → s.chip.injBad parcel
    (12 + ring.val) (injEntry entry) = false → ((injEntry entry).sliceV && s.chip.gen (injEntry entry).slice != (injEntry
    entry).gen) = false → ((s.chip.pipe.injQ.filter (fun h => h.slice == (if (injEntry entry).sliceV then (injEntry entry).slice
    else (s.chip.serving ((injEntry entry).port / 32)).getD 0))).length < 64) → s.chip.admitPart (injEntry entry).port (ceilDiv
    (injEntry entry).len 256) = some rsv → exec (.injectFetch parcel ring entry) s = .next (s.withChip ((s.chip.injTake (if
    (injEntry entry).sliceV then (injEntry entry).slice else (s.chip.serving ((injEntry entry).port / 32)).getD 0) (if parcel.val =
    0 then (injEntry entry).parcel else parcel) (injEntry entry) rsv).ringAdvance parcel (12 + ring.val)))) ∧
  (∀ (s : State) (rq : Req) (tag : BitVec 16) (parcel : Fin 64) (hits : List Hit), s.chip.mbxStarts rq (.vf parcel 0) 1 = true →
    (s.chip.pendingIn (.vf parcel 0)).probeCode (s.chip.mbxArgs (.vf parcel 0)) = 0 → parcel.val = 0 → exec (.vfProbe rq tag parcel
    hits) s = .next (s.withChip ((((((((s.chip.pendingIn (.vf parcel 0)).strike hits).bump (Reg.UPD_CNT 7) 1).useSlots (1 +
    (s.chip.pendingIn (.vf parcel 0)).free.toNat % 4)).tick).probeAt (((s.chip.mbxArgs (.vf parcel 0)).getD 1 0) % 8) (bitsOf
    ((s.chip.mbxArgs (.vf parcel 0)).getD 1 0) 7 4) (argNum ((s.chip.mbxArgs (.vf parcel 0)).drop 2)) (if bitOf ((s.chip.mbxArgs
    (.vf parcel 0)).getD 0 0) 16 then (s.chip.pendingIn (.vf parcel 0)).epoch else ((s.chip.mbxArgs (.vf parcel 0)).getD 0 0) %
    65536)).1).mbxTaken (.vf parcel 0) tag 1 (s.chip.mbxArgs (.vf parcel 0)) ((if ((((((s.chip.pendingIn (.vf parcel 0)).strike
    hits).bump (Reg.UPD_CNT 7) 1).useSlots (1 + (s.chip.pendingIn (.vf parcel 0)).free.toNat % 4)).tick).probeAt (((s.chip.mbxArgs
    (.vf parcel 0)).getD 1 0) % 8) (bitsOf ((s.chip.mbxArgs (.vf parcel 0)).getD 1 0) 7 4) (argNum ((s.chip.mbxArgs (.vf parcel
    0)).drop 2)) (if bitOf ((s.chip.mbxArgs (.vf parcel 0)).getD 0 0) 16 then (s.chip.pendingIn (.vf parcel 0)).epoch else
    ((s.chip.mbxArgs (.vf parcel 0)).getD 0 0) % 65536)).2.err ≠ 0 then some (4, []) else some (0, probeData (((s.chip.mbxArgs (.vf
    parcel 0)).getD 1 0) % 8) (bitsOf ((s.chip.mbxArgs (.vf parcel 0)).getD 1 0) 7 4) ((((((s.chip.pendingIn (.vf parcel 0)).strike
    hits).bump (Reg.UPD_CNT 7) 1).useSlots (1 + (s.chip.pendingIn (.vf parcel 0)).free.toNat % 4)).tick).probeAt (((s.chip.mbxArgs
    (.vf parcel 0)).getD 1 0) % 8) (bitsOf ((s.chip.mbxArgs (.vf parcel 0)).getD 1 0) 7 4) (argNum ((s.chip.mbxArgs (.vf parcel
    0)).drop 2)) (if bitOf ((s.chip.mbxArgs (.vf parcel 0)).getD 0 0) 16 then (s.chip.pendingIn (.vf parcel 0)).epoch else
    ((s.chip.mbxArgs (.vf parcel 0)).getD 0 0) % 65536)).2)))))) ∧
  (∀ (s : State) (rq : Req) (tag : BitVec 16) (parcel : Fin 64) (hits : List Hit), s.chip.mbxStarts rq (.vf parcel 0) 1 = true →
    (s.chip.pendingIn (.vf parcel 0)).probeCode (s.chip.mbxArgs (.vf parcel 0)) = 0 → parcel.val ≠ 0 → exec (.vfProbe rq tag parcel
    hits) s = .next (s.withChip ((((((((s.chip.pendingIn (.vf parcel 0)).strike hits).bump (Reg.UPD_CNT 7) 1).useSlots (1 +
    (s.chip.pendingIn (.vf parcel 0)).free.toNat % 4)).tick).probeAt (((s.chip.mbxArgs (.vf parcel 0)).getD 1 0) % 8) (bitsOf
    ((s.chip.mbxArgs (.vf parcel 0)).getD 1 0) 7 4) (argNum ((s.chip.mbxArgs (.vf parcel 0)).drop 2)) (if bitOf ((s.chip.mbxArgs
    (.vf parcel 0)).getD 0 0) 16 then (s.chip.pendingIn (.vf parcel 0)).epoch else ((s.chip.mbxArgs (.vf parcel 0)).getD 0 0) %
    65536)).1).mbxTaken (.vf parcel 0) tag 1 (s.chip.mbxArgs (.vf parcel 0)) (if (((((((s.chip.pendingIn (.vf parcel 0)).strike
    hits).bump (Reg.UPD_CNT 7) 1).useSlots (1 + (s.chip.pendingIn (.vf parcel 0)).free.toNat % 4)).tick).probeAt (((s.chip.mbxArgs
    (.vf parcel 0)).getD 1 0) % 8) (bitsOf ((s.chip.mbxArgs (.vf parcel 0)).getD 1 0) 7 4) (argNum ((s.chip.mbxArgs (.vf parcel
    0)).drop 2)) (if bitOf ((s.chip.mbxArgs (.vf parcel 0)).getD 0 0) 16 then (s.chip.pendingIn (.vf parcel 0)).epoch else
    ((s.chip.mbxArgs (.vf parcel 0)).getD 0 0) % 65536)).2.owner != parcel.val && (((((((s.chip.pendingIn (.vf parcel 0)).strike
    hits).bump (Reg.UPD_CNT 7) 1).useSlots (1 + (s.chip.pendingIn (.vf parcel 0)).free.toNat % 4)).tick).probeAt (((s.chip.mbxArgs
    (.vf parcel 0)).getD 1 0) % 8) (bitsOf ((s.chip.mbxArgs (.vf parcel 0)).getD 1 0) 7 4) (argNum ((s.chip.mbxArgs (.vf parcel
    0)).drop 2)) (if bitOf ((s.chip.mbxArgs (.vf parcel 0)).getD 0 0) 16 then (s.chip.pendingIn (.vf parcel 0)).epoch else
    ((s.chip.mbxArgs (.vf parcel 0)).getD 0 0) % 65536)).2.hit || bitsOf ((s.chip.mbxArgs (.vf parcel 0)).getD 1 0) 7 4 != 3)) =
    true then some (7, []) else (if ((((((s.chip.pendingIn (.vf parcel 0)).strike hits).bump (Reg.UPD_CNT 7) 1).useSlots (1 +
    (s.chip.pendingIn (.vf parcel 0)).free.toNat % 4)).tick).probeAt (((s.chip.mbxArgs (.vf parcel 0)).getD 1 0) % 8) (bitsOf
    ((s.chip.mbxArgs (.vf parcel 0)).getD 1 0) 7 4) (argNum ((s.chip.mbxArgs (.vf parcel 0)).drop 2)) (if bitOf ((s.chip.mbxArgs
    (.vf parcel 0)).getD 0 0) 16 then (s.chip.pendingIn (.vf parcel 0)).epoch else ((s.chip.mbxArgs (.vf parcel 0)).getD 0 0) %
    65536)).2.err ≠ 0 then some (4, []) else some (0, probeData (((s.chip.mbxArgs (.vf parcel 0)).getD 1 0) % 8) (bitsOf
    ((s.chip.mbxArgs (.vf parcel 0)).getD 1 0) 7 4) ((((((s.chip.pendingIn (.vf parcel 0)).strike hits).bump (Reg.UPD_CNT 7)
    1).useSlots (1 + (s.chip.pendingIn (.vf parcel 0)).free.toNat % 4)).tick).probeAt (((s.chip.mbxArgs (.vf parcel 0)).getD 1 0) %
    8) (bitsOf ((s.chip.mbxArgs (.vf parcel 0)).getD 1 0) 7 4) (argNum ((s.chip.mbxArgs (.vf parcel 0)).drop 2)) (if bitOf
    ((s.chip.mbxArgs (.vf parcel 0)).getD 0 0) 16 then (s.chip.pendingIn (.vf parcel 0)).epoch else ((s.chip.mbxArgs (.vf parcel
    0)).getD 0 0) % 65536)).2)))))) ∧
  (∀ (s : State) (rq : Req) (tag : BitVec 16) (parcel : Fin 64) (hits : List Hit), s.chip.mbxStarts rq (.vf parcel 0) 1 = true →
    (s.chip.pendingIn (.vf parcel 0)).probeCode (s.chip.mbxArgs (.vf parcel 0)) ≠ 0 → exec (.vfProbe rq tag parcel hits) s = .next
    (s.withChip ((s.chip.pendingIn (.vf parcel 0)).mbxTaken (.vf parcel 0) tag 1 (s.chip.mbxArgs (.vf parcel 0)) (some
    ((s.chip.pendingIn (.vf parcel 0)).probeCode (s.chip.mbxArgs (.vf parcel 0)), []))))) ∧
  (∀ (s : State) (rq : Req) (tag : BitVec 16) (parcel : Fin 64) (bad : List (Fin 5)), s.chip.mbxStarts rq (.vf parcel 1) 1 = true →
    (s.chip.mbxArgs (.vf parcel 1)).getD 0 0 < 64 → parcel.val ≠ 0 → (s.chip.pendingIn (.vf parcel 1)).fld (Reg.FBK_RING_CFG
    ((s.chip.mbxArgs (.vf parcel 1)).getD 0 0)) Fd.FBK_RING_CFG_PARCEL ≠ parcel.val → exec (.vfReadRecord rq tag parcel bad) s =
    .next (s.withChip ((s.chip.pendingIn (.vf parcel 1)).mbxTaken (.vf parcel 1) tag 1 (s.chip.mbxArgs (.vf parcel 1)) (some (7,
    []))))) ∧
  (∀ (s : State) (rq : Req) (tag : BitVec 16) (parcel : Fin 64) (c : Chip) (ad : Nat), s.chip.mbxStarts rq (.vf parcel 1) 1 = true →
    (s.chip.mbxArgs (.vf parcel 1)).getD 0 0 < 64 → (parcel.val = 0 ∨ (s.chip.pendingIn (.vf parcel 1)).fld (Reg.FBK_RING_CFG
    ((s.chip.mbxArgs (.vf parcel 1)).getD 0 0)) Fd.FBK_RING_CFG_PARCEL = parcel.val) → (s.chip.pendingIn (.vf parcel 1)).on
    (Reg.FBK_RING_CFG ((s.chip.mbxArgs (.vf parcel 1)).getD 0 0)) Fd.FBK_RING_CFG_EN = true → (s.chip.pendingIn (.vf parcel
    1)).fbkHolds ((s.chip.mbxArgs (.vf parcel 1)).getD 0 0) ((s.chip.mbxArgs (.vf parcel 1)).getD 1 0) = true → (s.chip.pendingIn
    (.vf parcel 1)).fbkOff ((s.chip.mbxArgs (.vf parcel 1)).getD 0 0) ((s.chip.mbxArgs (.vf parcel 1)).getD 1 0) = false →
    (s.chip.pendingIn (.vf parcel 1)).fbkAccess ((s.chip.mbxArgs (.vf parcel 1)).getD 0 0) ((s.chip.mbxArgs (.vf parcel 1)).getD 1
    0) false = (c, some ad) → exec (.vfReadRecord rq tag parcel []) s = .next (s.withChip ((c).mbxTaken (.vf parcel 1) tag 1
    (s.chip.mbxArgs (.vf parcel 1)) (some (0, wordsOf 40 (s.store.rd ad recordLen))))))

/-- A write of PAR_CTRL.EN creates a parcel; QUIESCE, FREEZE, RESUME, RESET and REMOVE act in the states that list them and answer code
2 in every other one and code 1 for a parcel that is none; SAVE writes the save area, RESTORE reads it back and refuses a wrong or
short one. -/
def Obligations.ParcelActs : Prop :=
  (∀ (s : State) (rq : Req) (p : Fin 64), rq.priv = true → s.chip.addrOff (Reg.PAR_CTRL p) = false → s.chip.parState p = 0 → exec
    (.parcelCreate rq p) s = .next (s.withChip ((s.chip.setF (Reg.PAR_CTRL p) Fd.PAR_CTRL_EN 1).setPar p 1))) ∧
  (∀ (s : State) (rq : Req) (tag : BitVec 16), s.chip.mbxStarts rq .par 1 = true → (s.chip.mbxArgs .par).getD 0 0 ≠ 0 →
    (s.chip.mbxArgs .par).getD 0 0 < 64 → [1].contains ((s.chip.pendingIn .par).parState ((s.chip.mbxArgs .par).getD 0 0)) = true →
    exec (.quiesce rq tag) s = .next (s.withChip ((((s.chip.pendingIn .par).startQuiesce ⟨(s.chip.mbxArgs .par).getD 0 0, 2, false,
    true⟩)).mbxTaken .par tag 1 (s.chip.mbxArgs .par) (if ((s.chip.pendingIn .par).startQuiesce ⟨(s.chip.mbxArgs .par).getD 0 0, 2,
    false, true⟩).hif.quiesce.contains ⟨(s.chip.mbxArgs .par).getD 0 0, 2, false, true⟩ then none else some (0, []))))) ∧
  (∀ (s : State) (rq : Req) (tag : BitVec 16), s.chip.mbxStarts rq .par 3 = true → (s.chip.mbxArgs .par).getD 0 0 ≠ 0 →
    (s.chip.mbxArgs .par).getD 0 0 < 64 → [1, 2].contains ((s.chip.pendingIn .par).parState ((s.chip.mbxArgs .par).getD 0 0)) = true
    → exec (.freeze rq tag) s = .next (s.withChip ((((s.chip.pendingIn .par).startQuiesce ⟨(s.chip.mbxArgs .par).getD 0 0, 3, false,
    true⟩)).mbxTaken .par tag 3 (s.chip.mbxArgs .par) (if ((s.chip.pendingIn .par).startQuiesce ⟨(s.chip.mbxArgs .par).getD 0 0, 3,
    false, true⟩).hif.quiesce.contains ⟨(s.chip.mbxArgs .par).getD 0 0, 3, false, true⟩ then none else some (0, []))))) ∧
  (∀ (s : State) (rq : Req) (tag : BitVec 16), s.chip.mbxStarts rq .par 2 = true → (s.chip.mbxArgs .par).getD 0 0 ≠ 0 →
    (s.chip.mbxArgs .par).getD 0 0 < 64 → [2, 3].contains ((s.chip.pendingIn .par).parState ((s.chip.mbxArgs .par).getD 0 0)) = true
    → exec (.resume rq tag) s = .next (s.withChip
    (({ (s.chip.pendingIn .par).setPar ((s.chip.mbxArgs .par).getD 0 0) 1 with hif.frozen := mdel (s.chip.pendingIn .par).hif.frozen ((s.chip.mbxArgs .par).getD 0 0) }).mbxTaken
    .par tag 2 (s.chip.mbxArgs .par) (some (0, []))))) ∧
  (∀ (s : State) (rq : Req) (tag : BitVec 16), s.chip.mbxStarts rq .par 6 = true → (s.chip.mbxArgs .par).getD 0 0 ≠ 0 →
    (s.chip.mbxArgs .par).getD 0 0 < 64 → [2, 3].contains ((s.chip.pendingIn .par).parState ((s.chip.mbxArgs .par).getD 0 0)) = true
    → exec (.parcelReset rq tag) s = .next (s.withChip
    (({ ((s.chip.pendingIn .par).parReset ((s.chip.mbxArgs .par).getD 0 0)).setPar ((s.chip.mbxArgs .par).getD 0 0) 2 with hif.frozen := mdel (s.chip.pendingIn .par).hif.frozen ((s.chip.mbxArgs .par).getD 0 0) }).mbxTaken
    .par tag 6 (s.chip.mbxArgs .par) (some (0, []))))) ∧
  (∀ (s : State) (rq : Req) (tag : BitVec 16), s.chip.mbxStarts rq .par 7 = true → (s.chip.mbxArgs .par).getD 0 0 ≠ 0 →
    (s.chip.mbxArgs .par).getD 0 0 < 64 → [2, 3].contains ((s.chip.pendingIn .par).parState ((s.chip.mbxArgs .par).getD 0 0)) = true
    → (s.chip.pendingIn .par).portNames ((s.chip.mbxArgs .par).getD 0 0) = false → exec (.remove rq tag) s = .next (s.withChip
    (({ (s.chip.pendingIn .par) with hif.parTx := some ⟨(s.chip.mbxArgs .par).getD 0 0, none, false, [], []⟩ }.startRemove).mbxTaken
    .par tag 7 (s.chip.mbxArgs .par) (none)))) ∧
  (∀ (s : State) (rq : Req) (tag : BitVec 16), s.chip.mbxStarts rq .par 7 = true → (s.chip.mbxArgs .par).getD 0 0 ≠ 0 →
    (s.chip.mbxArgs .par).getD 0 0 < 64 → [2, 3].contains ((s.chip.pendingIn .par).parState ((s.chip.mbxArgs .par).getD 0 0)) = true
    → (s.chip.pendingIn .par).portNames ((s.chip.mbxArgs .par).getD 0 0) = true → exec (.remove rq tag) s = .next (s.withChip
    ((s.chip.pendingIn .par).mbxTaken .par tag 7 (s.chip.mbxArgs .par) (some (3, []))))) ∧
  (∀ (s : State) (rq : Req) (tag : BitVec 16), s.chip.mbxStarts rq .par 1 = true → (s.chip.mbxArgs .par).getD 0 0 ≠ 0 →
    (s.chip.mbxArgs .par).getD 0 0 < 64 → [1].contains ((s.chip.pendingIn .par).parState ((s.chip.mbxArgs .par).getD 0 0)) = false →
    exec (.quiesce rq tag) s = .next (s.withChip ((s.chip.pendingIn .par).mbxTaken .par tag 1 (s.chip.mbxArgs .par) (some (2,
    []))))) ∧
  (∀ (s : State) (rq : Req) (tag : BitVec 16), s.chip.mbxStarts rq .par 1 = true → ((s.chip.mbxArgs .par).getD 0 0 = 0 ∨ 64 ≤
    (s.chip.mbxArgs .par).getD 0 0) → exec (.quiesce rq tag) s = .next (s.withChip ((s.chip.pendingIn .par).mbxTaken .par tag 1
    (s.chip.mbxArgs .par) (some (1, []))))) ∧
  (∀ (s : State) (rq : Req) (tag : BitVec 16), s.chip.mbxStarts rq .par 2 = true → (s.chip.mbxArgs .par).getD 0 0 ≠ 0 →
    (s.chip.mbxArgs .par).getD 0 0 < 64 → [2, 3].contains ((s.chip.pendingIn .par).parState ((s.chip.mbxArgs .par).getD 0 0)) =
    false → exec (.resume rq tag) s = .next (s.withChip ((s.chip.pendingIn .par).mbxTaken .par tag 2 (s.chip.mbxArgs .par) (some (2,
    []))))) ∧
  (∀ (s : State) (rq : Req) (tag : BitVec 16), s.chip.mbxStarts rq .par 2 = true → ((s.chip.mbxArgs .par).getD 0 0 = 0 ∨ 64 ≤
    (s.chip.mbxArgs .par).getD 0 0) → exec (.resume rq tag) s = .next (s.withChip ((s.chip.pendingIn .par).mbxTaken .par tag 2
    (s.chip.mbxArgs .par) (some (1, []))))) ∧
  (∀ (s : State) (rq : Req) (tag : BitVec 16), s.chip.mbxStarts rq .par 3 = true → (s.chip.mbxArgs .par).getD 0 0 ≠ 0 →
    (s.chip.mbxArgs .par).getD 0 0 < 64 → [1, 2].contains ((s.chip.pendingIn .par).parState ((s.chip.mbxArgs .par).getD 0 0)) =
    false → exec (.freeze rq tag) s = .next (s.withChip ((s.chip.pendingIn .par).mbxTaken .par tag 3 (s.chip.mbxArgs .par) (some (2,
    []))))) ∧
  (∀ (s : State) (rq : Req) (tag : BitVec 16), s.chip.mbxStarts rq .par 3 = true → ((s.chip.mbxArgs .par).getD 0 0 = 0 ∨ 64 ≤
    (s.chip.mbxArgs .par).getD 0 0) → exec (.freeze rq tag) s = .next (s.withChip ((s.chip.pendingIn .par).mbxTaken .par tag 3
    (s.chip.mbxArgs .par) (some (1, []))))) ∧
  (∀ (s : State) (rq : Req) (tag : BitVec 16), s.chip.mbxStarts rq .par 6 = true → (s.chip.mbxArgs .par).getD 0 0 ≠ 0 →
    (s.chip.mbxArgs .par).getD 0 0 < 64 → [2, 3].contains ((s.chip.pendingIn .par).parState ((s.chip.mbxArgs .par).getD 0 0)) =
    false → exec (.parcelReset rq tag) s = .next (s.withChip ((s.chip.pendingIn .par).mbxTaken .par tag 6 (s.chip.mbxArgs .par)
    (some (2, []))))) ∧
  (∀ (s : State) (rq : Req) (tag : BitVec 16), s.chip.mbxStarts rq .par 6 = true → ((s.chip.mbxArgs .par).getD 0 0 = 0 ∨ 64 ≤
    (s.chip.mbxArgs .par).getD 0 0) → exec (.parcelReset rq tag) s = .next (s.withChip ((s.chip.pendingIn .par).mbxTaken .par tag 6
    (s.chip.mbxArgs .par) (some (1, []))))) ∧
  (∀ (s : State) (rq : Req) (tag : BitVec 16), s.chip.mbxStarts rq .par 7 = true → (s.chip.mbxArgs .par).getD 0 0 ≠ 0 →
    (s.chip.mbxArgs .par).getD 0 0 < 64 → [2, 3].contains ((s.chip.pendingIn .par).parState ((s.chip.mbxArgs .par).getD 0 0)) =
    false → exec (.remove rq tag) s = .next (s.withChip ((s.chip.pendingIn .par).mbxTaken .par tag 7 (s.chip.mbxArgs .par) (some (2,
    []))))) ∧
  (∀ (s : State) (rq : Req) (tag : BitVec 16), s.chip.mbxStarts rq .par 7 = true → ((s.chip.mbxArgs .par).getD 0 0 = 0 ∨ 64 ≤
    (s.chip.mbxArgs .par).getD 0 0) → exec (.remove rq tag) s = .next (s.withChip ((s.chip.pendingIn .par).mbxTaken .par tag 7
    (s.chip.mbxArgs .par) (some (1, []))))) ∧
  (∀ (s : State) (rq : Req) (tag : BitVec 16), s.chip.mbxStarts rq .par 4 = true → (s.chip.mbxArgs .par).getD 0 0 ≠ 0 →
    (s.chip.mbxArgs .par).getD 0 0 < 64 → [3].contains ((s.chip.pendingIn .par).parState ((s.chip.mbxArgs .par).getD 0 0)) = true →
    parSize (s.chip.mbxArgs .par) < ((s.chip.pendingIn .par).saveArea ((s.chip.mbxArgs .par).getD 0 0)).length → exec (.save rq tag)
    s = .next (s.withChip ((s.chip.pendingIn .par).mbxTaken .par tag 4 (s.chip.mbxArgs .par) (some (4, [((s.chip.pendingIn
    .par).saveArea ((s.chip.mbxArgs .par).getD 0 0)).length]))))) ∧
  (∀ (s : State) (rq : Req) (tag : BitVec 16) (m1 : Store) (c1 : Chip) (ok : Bool), s.chip.mbxStarts rq .par 4 = true →
    (s.chip.mbxArgs .par).getD 0 0 ≠ 0 → (s.chip.mbxArgs .par).getD 0 0 < 64 → [3].contains ((s.chip.pendingIn .par).parState
    ((s.chip.mbxArgs .par).getD 0 0)) = true → ¬ (parSize (s.chip.mbxArgs .par) < ((s.chip.pendingIn .par).saveArea ((s.chip.mbxArgs
    .par).getD 0 0)).length) → xmPut ((s.chip.pendingIn .par).saveArea ((s.chip.mbxArgs .par).getD 0 0)).length s.store
    (s.chip.pendingIn .par) (parXa (s.chip.mbxArgs .par)) ((s.chip.pendingIn .par).saveArea ((s.chip.mbxArgs .par).getD 0 0)) = (m1,
    c1, ok) → exec (.save rq tag) s = .next (s.withBoth (m1) ((c1).mbxTaken .par tag 4 (s.chip.mbxArgs .par) (some (if ok then (0,
    []) else (5, [])))))) ∧
  (∀ (s : State) (rq : Req) (tag : BitVec 16), s.chip.mbxStarts rq .par 4 = true → (s.chip.mbxArgs .par).getD 0 0 ≠ 0 →
    (s.chip.mbxArgs .par).getD 0 0 < 64 → [3].contains ((s.chip.pendingIn .par).parState ((s.chip.mbxArgs .par).getD 0 0)) = false →
    exec (.save rq tag) s = .next (s.withChip ((s.chip.pendingIn .par).mbxTaken .par tag 4 (s.chip.mbxArgs .par) (some (2, []))))) ∧
  (∀ (s : State) (rq : Req) (tag : BitVec 16) (c1 : Chip), s.chip.mbxStarts rq .par 5 = true → (s.chip.mbxArgs .par).getD 0 0 ≠ 0 →
    (s.chip.mbxArgs .par).getD 0 0 < 64 → [0].contains ((s.chip.pendingIn .par).parState ((s.chip.mbxArgs .par).getD 0 0)) = true →
    xmGet s.store 1 (s.chip.pendingIn .par) (parXa (s.chip.mbxArgs .par)) [] = (c1, none) → exec (.restore rq tag) s = .next
    (s.withChip ((c1).mbxTaken .par tag 5 (s.chip.mbxArgs .par) (some (5, []))))) ∧
  (∀ (s : State) (rq : Req) (tag : BitVec 16) (c1 : Chip) (h : List Byte), s.chip.mbxStarts rq .par 5 = true → (s.chip.mbxArgs
    .par).getD 0 0 ≠ 0 → (s.chip.mbxArgs .par).getD 0 0 < 64 → [0].contains ((s.chip.pendingIn .par).parState ((s.chip.mbxArgs
    .par).getD 0 0)) = true → xmGet s.store 1 (s.chip.pendingIn .par) (parXa (s.chip.mbxArgs .par)) [] = (c1, some h) → areaOk h =
    false → exec (.restore rq tag) s = .next (s.withChip ((c1).mbxTaken .par tag 5 (s.chip.mbxArgs .par) (some (6, []))))) ∧
  (∀ (s : State) (rq : Req) (tag : BitVec 16) (c1 : Chip) (h : List Byte), s.chip.mbxStarts rq .par 5 = true → (s.chip.mbxArgs
    .par).getD 0 0 ≠ 0 → (s.chip.mbxArgs .par).getD 0 0 < 64 → [0].contains ((s.chip.pendingIn .par).parState ((s.chip.mbxArgs
    .par).getD 0 0)) = true → xmGet s.store 1 (s.chip.pendingIn .par) (parXa (s.chip.mbxArgs .par)) [] = (c1, some h) → areaOk h =
    true → parSize (s.chip.mbxArgs .par) < (leNat (slice h 0x10 8)) → exec (.restore rq tag) s = .next (s.withChip ((c1).mbxTaken
    .par tag 5 (s.chip.mbxArgs .par) (some (4, [(leNat (slice h 0x10 8))]))))) ∧
  (∀ (s : State) (rq : Req) (tag : BitVec 16) (c1 : Chip) (h : List Byte) (c2 : Chip) (l : List Byte) (c3 : Chip), s.chip.mbxStarts rq
    .par 5 = true → (s.chip.mbxArgs .par).getD 0 0 ≠ 0 → (s.chip.mbxArgs .par).getD 0 0 < 64 → [0].contains ((s.chip.pendingIn
    .par).parState ((s.chip.mbxArgs .par).getD 0 0)) = true → xmGet s.store 1 (s.chip.pendingIn .par) (parXa (s.chip.mbxArgs .par))
    [] = (c1, some h) → areaOk h = true → ¬ (parSize (s.chip.mbxArgs .par) < (leNat (slice h 0x10 8))) → xmGet s.store (ceilDiv
    (leNat (slice h 0x10 8)) 64) c1 (parXa (s.chip.mbxArgs .par)) [] = (c2, some l) → c2.restoreArea ((s.chip.mbxArgs .par).getD 0
    0) (l.take (leNat (slice h 0x10 8))) = some c3 → exec (.restore rq tag) s = .next (s.withChip ((c3).mbxTaken .par tag 5
    (s.chip.mbxArgs .par) (none))))

/-- A message of the engine's generation makes the partner heard and acts: updates and resync chunks in order, acknowledgements, swap
messages; one out of order is acknowledged as before and counted; a message of another generation is counted and has no other
effect; a heartbeat is accepted, or counted when its generation is older. -/
def Obligations.TetherMessageActs : Prop :=
  (∀ (s : State) (m : TetMsg) (rows : List (List Byte)), s.chip.on Reg.TET_CTRL Fd.TET_CTRL_EN = true → m.fcsGood = true → m.gen.toNat
    = s.chip.roleGen → s.chip.tetHear.follows = true → m.tseq.toNat = s.chip.tetHear.tet.recv + 1 → exec (.tetUpdate m rows) s =
    .next (s.withChip ({ (updRecords (bodyRecords m.body) rows s.chip.tetHear) with tet.recv := m.tseq.toNat }.sendTet tetAck
    s.chip.tetHear.roleGen 0 (leBytes 8 m.tseq.toNat)))) ∧
  (∀ (s : State) (m : TetMsg) (rows : List (List Byte)), s.chip.on Reg.TET_CTRL Fd.TET_CTRL_EN = true → m.fcsGood = true → m.gen.toNat
    = s.chip.roleGen → s.chip.tetHear.follows = true → m.tseq.toNat ≠ s.chip.tetHear.tet.recv + 1 → exec (.tetUpdate m rows) s =
    .next (s.withChip ((s.chip.tetHear.bump (Reg.TET_CNT 4) 1).sendTet tetAck s.chip.tetHear.roleGen 0 (leBytes 8
    s.chip.tetHear.tet.recv)))) ∧
  (∀ (s : State) (m : TetMsg) (rows : List (List Byte)), s.chip.on Reg.TET_CTRL Fd.TET_CTRL_EN = true → m.fcsGood = true → m.gen.toNat
    = s.chip.roleGen → s.chip.tetHear.follows = false → exec (.tetUpdate m rows) s = .next (s.withChip (s.chip.tetHear))) ∧
  (∀ (s : State) (m : TetMsg) (rows : List (List Byte)) (c1 : Chip) (t : Nat), s.chip.on Reg.TET_CTRL Fd.TET_CTRL_EN = true →
    m.fcsGood = true → m.gen.toNat = s.chip.roleGen → s.chip.tetHear.follows = true → m.tseq.toNat = s.chip.tetHear.tet.recv + 1 →
    s.chip.tetHear.resyncOpen = some (c1, t) → exec (.tetResyncChunk m rows) s = .next (s.withChip
    ({ (if m.last = true then ((resyncWrites t (bodyRecords m.body) rows c1).setSlot t sClosed).requestFlip else resyncWrites t (bodyRecords m.body) rows c1) with tet.recv := m.tseq.toNat }.sendTet
    tetAck s.chip.tetHear.roleGen 0 (leBytes 8 m.tseq.toNat)))) ∧
  (∀ (s : State) (m : TetMsg) (rows : List (List Byte)), s.chip.on Reg.TET_CTRL Fd.TET_CTRL_EN = true → m.fcsGood = true → m.gen.toNat
    = s.chip.roleGen → s.chip.tetHear.follows = true → m.tseq.toNat = s.chip.tetHear.tet.recv + 1 → s.chip.tetHear.resyncOpen = none
    → exec (.tetResyncChunk m rows) s = .next (s.withChip (s.chip.tetHear))) ∧
  (∀ (s : State) (m : TetMsg) (rows : List (List Byte)), s.chip.on Reg.TET_CTRL Fd.TET_CTRL_EN = true → m.fcsGood = true → m.gen.toNat
    = s.chip.roleGen → s.chip.tetHear.follows = true → m.tseq.toNat ≠ s.chip.tetHear.tet.recv + 1 → exec (.tetResyncChunk m rows) s
    = .next (s.withChip ((s.chip.tetHear.bump (Reg.TET_CNT 4) 1).sendTet tetAck s.chip.tetHear.roleGen 0 (leBytes 8
    s.chip.tetHear.tet.recv)))) ∧
  (∀ (s : State) (m : TetMsg) (rows : List (List Byte)), s.chip.on Reg.TET_CTRL Fd.TET_CTRL_EN = true → m.fcsGood = true → m.gen.toNat
    = s.chip.roleGen → s.chip.tetHear.follows = false → exec (.tetResyncChunk m rows) s = .next (s.withChip (s.chip.tetHear))) ∧
  (∀ (s : State) (m : TetMsg), s.chip.on Reg.TET_CTRL Fd.TET_CTRL_EN = true → m.fcsGood = true → m.gen.toNat = s.chip.roleGen → exec
    (.tetAck m) s = .next (s.withChip (s.chip.tetHear.ackTo (leNat (slice m.body 0 8))))) ∧
  (∀ (s : State) (m : TetMsg), s.chip.on Reg.TET_CTRL Fd.TET_CTRL_EN = true → m.fcsGood = true → m.gen.toNat = s.chip.roleGen →
    (s.chip.tetHear.role == roleActive && s.chip.tetHear.syncedPair) = true → exec (.tetSwapReq m) s = .next (s.withChip
    ({ s.chip.tetHear.swapStart with tet.peerSwap := true }.swapGoOn))) ∧
  (∀ (s : State) (m : TetMsg), s.chip.on Reg.TET_CTRL Fd.TET_CTRL_EN = true → m.fcsGood = true → m.gen.toNat = s.chip.roleGen →
    (s.chip.tetHear.role == roleActive && s.chip.tetHear.syncedPair) = false → exec (.tetSwapReq m) s = .next (s.withChip
    (s.chip.tetHear))) ∧
  (∀ (s : State) (m : TetMsg), s.chip.on Reg.TET_CTRL Fd.TET_CTRL_EN = true → m.fcsGood = true → m.gen.toNat = s.chip.roleGen →
    s.chip.tetHear.role = roleStandby → 
    let n := leNat (slice m.body 0 8)
    let c1 :=
      { s.chip.tetHear with tet.sent := n, tet.acked := n, tet.unacked := [], tet.synced := true, tet.partnerSynced := true, tet.resync := none }
    let c2 := (c1.setRole roleActive ((s.chip.tetHear.roleGen + 1) % 65536)).bump (Reg.TET_CNT 5) 1
    exec (.tetSwapGo m) s = .next (s.withChip ((c2.sendTet tetSwapDone c2.roleGen 0 []).swapOver))) ∧
  (∀ (s : State) (m : TetMsg), s.chip.on Reg.TET_CTRL Fd.TET_CTRL_EN = true → m.fcsGood = true → m.gen.toNat = s.chip.roleGen →
    s.chip.tetHear.role ≠ roleStandby → exec (.tetSwapGo m) s = .next (s.withChip (s.chip.tetHear))) ∧
  (∀ (s : State) (m : TetMsg), s.chip.on Reg.TET_CTRL Fd.TET_CTRL_EN = true → m.fcsGood = true → m.gen.toNat = s.chip.roleGen →
    (s.chip.tetHear.tet.swap.isSome && s.chip.tetHear.role == roleStandby) = true → exec (.tetherSwapDone m) s = .next (s.withChip
    (s.chip.tetHear.swapOver))) ∧
  (∀ (s : State) (m : TetMsg), s.chip.on Reg.TET_CTRL Fd.TET_CTRL_EN = true → m.fcsGood = true → m.gen.toNat = s.chip.roleGen →
    (s.chip.tetHear.tet.swap.isSome && s.chip.tetHear.role == roleStandby) = false → exec (.tetherSwapDone m) s = .next (s.withChip
    (s.chip.tetHear))) ∧
  (∀ (s : State) (m : TetMsg) (rows : List (List Byte)), s.chip.on Reg.TET_CTRL Fd.TET_CTRL_EN = true → m.fcsGood = true → m.gen.toNat
    ≠ s.chip.roleGen → exec (.tetUpdate m rows) s = .next (s.withChip (s.chip.tetHear.bump (Reg.TET_CNT 2) 1))) ∧
  (∀ (s : State) (m : TetMsg) (rows : List (List Byte)), s.chip.on Reg.TET_CTRL Fd.TET_CTRL_EN = true → m.fcsGood = true → m.gen.toNat
    ≠ s.chip.roleGen → exec (.tetResyncChunk m rows) s = .next (s.withChip (s.chip.tetHear.bump (Reg.TET_CNT 2) 1))) ∧
  (∀ (s : State) (m : TetMsg), s.chip.on Reg.TET_CTRL Fd.TET_CTRL_EN = true → m.fcsGood = true → m.gen.toNat ≠ s.chip.roleGen → exec
    (.tetAck m) s = .next (s.withChip (s.chip.tetHear.bump (Reg.TET_CNT 2) 1))) ∧
  (∀ (s : State) (m : TetMsg), s.chip.on Reg.TET_CTRL Fd.TET_CTRL_EN = true → m.fcsGood = true → m.gen.toNat ≠ s.chip.roleGen → exec
    (.tetSwapReq m) s = .next (s.withChip (s.chip.tetHear.bump (Reg.TET_CNT 2) 1))) ∧
  (∀ (s : State) (m : TetMsg), s.chip.on Reg.TET_CTRL Fd.TET_CTRL_EN = true → m.fcsGood = true → m.gen.toNat ≠ s.chip.roleGen → exec
    (.tetSwapGo m) s = .next (s.withChip (s.chip.tetHear.bump (Reg.TET_CNT 2) 1))) ∧
  (∀ (s : State) (m : TetMsg), s.chip.on Reg.TET_CTRL Fd.TET_CTRL_EN = true → m.fcsGood = true → m.gen.toNat ≠ s.chip.roleGen → exec
    (.tetherSwapDone m) s = .next (s.withChip (s.chip.tetHear.bump (Reg.TET_CNT 2) 1))) ∧
  (∀ (s : State) (m : TetMsg), s.chip.on Reg.TET_CTRL Fd.TET_CTRL_EN = true → m.fcsGood = true → (¬ (m.role.val ≠ roleNone ∧ epochDiff
    m.gen.toNat s.chip.roleGen < 0)) → exec (.heartbeat m) s = .next (s.withChip ((if !s.chip.partner && m.slotId.val ==
    s.chip.pins.slotId then s.chip.tetHear.report 0x08 0 0x19 outReported else s.chip.tetHear).hbTake m))) ∧
  (∀ (s : State) (m : TetMsg), s.chip.on Reg.TET_CTRL Fd.TET_CTRL_EN = true → m.fcsGood = true → (m.role.val ≠ roleNone ∧ epochDiff
    m.gen.toNat s.chip.roleGen < 0) → exec (.heartbeat m) s = .next (s.withChip ((if !s.chip.partner && m.slotId.val ==
    s.chip.pins.slotId then s.chip.tetHear.report 0x08 0 0x19 outReported else s.chip.tetHear).bump (Reg.TET_CNT 2) 1)))

/-- Heartbeats are sent at their interval, unacknowledged messages are sent again, SWAP and RESYNC start or answer code 2, a partner
that is not heard is lost, and an engine alone for ALONE_MS becomes active. -/
def Obligations.TetherRoleActs : Prop :=
  (∀ (s : State), s.chip.on Reg.TET_CTRL Fd.TET_CTRL_EN = true → s.chip.tet.hbAt + s.chip.fld Reg.TET_CFG Fd.TET_CFG_HB_US * usPs ≤
    s.chip.now → exec (.heartbeatSend) s = .next (s.withChip
    ({ s.chip.sendTet tetHeartbeat s.chip.roleGen 0 (leBytes 2 s.chip.epoch ++ [BitVec.ofNat 8 (b2n s.chip.tet.synced + 2 * b2n s.chip.tet.ownSwap), 0] ++ leBytes 8 Config.uid.toNat ++ leBytes 8 s.chip.tet.recv) with tet.hbAt := s.chip.now }))) ∧
  (∀ (s : State), s.chip.tet.unacked.isEmpty = false → s.chip.tet.progressAt + 50 * usPs ≤ s.chip.now → s.chip.role = roleActive →
    exec (.tetherRetransmit) s = .next (s.withChip
    ({ (s.chip.tet.unacked.foldl (fun c x => c.sendTet x.2.1 c.roleGen x.1 x.2.2) s.chip).bump (Reg.TET_CNT 3) s.chip.tet.unacked.length with tet.progressAt := s.chip.now }))) ∧
  (∀ (s : State) (t : Nat), s.chip.tet.heard = some t → s.chip.partner = true → s.chip.coreServes 3 = true → t + s.chip.fld
    Reg.TET_CFG Fd.TET_CFG_HB_MISS * s.chip.fld Reg.TET_CFG Fd.TET_CFG_HB_US * usPs ≤ s.chip.now → exec (.partnerLoss) s = .next
    (s.withChip
    ({ ((s.chip.setF Reg.TET_STATUS Fd.TET_STATUS_PARTNER 0).setF Reg.TET_STATUS Fd.TET_STATUS_LINK 0) with tet.heard := none }.lostPartner))) ∧
  (∀ (s : State), s.chip.on Reg.TET_CTRL Fd.TET_CTRL_EN = true → s.chip.role = roleNone → s.chip.partner = false → s.chip.tet.dead =
    false → s.chip.coreServes 3 = true → s.chip.tet.aloneAt + s.chip.fld Reg.TET_CFG2 Fd.TET_CFG2_ALONE_MS * msPs ≤ s.chip.now →
    exec (.aloneTimeout) s = .next (s.withChip ({ s.chip with tet.synced := true }.setRole roleActive ((s.chip.roleGen + 1) %
    65536)))) ∧
  (∀ (s : State) (rq : Req) (tag : BitVec 16), s.chip.mbxStarts rq .tet 1 = true → (s.chip.pendingIn .tet).syncedPair = true →
    (s.chip.pendingIn .tet).role = roleStandby → exec (.tetSwap rq tag) s = .next (s.withChip
    (({ (s.chip.pendingIn .tet).swapStart with tet.ownSwap := true }.sendTet tetSwapReq
    { (s.chip.pendingIn .tet).swapStart with tet.ownSwap := true }.roleGen 0 []).mbxTaken .tet tag 1 (s.chip.mbxArgs .tet) (none)))) ∧
  (∀ (s : State) (rq : Req) (tag : BitVec 16), s.chip.mbxStarts rq .tet 1 = true → (s.chip.pendingIn .tet).syncedPair = true →
    (s.chip.pendingIn .tet).role ≠ roleStandby → exec (.tetSwap rq tag) s = .next (s.withChip
    (({ (s.chip.pendingIn .tet).swapStart with tet.ownSwap := true }.swapGoOn).mbxTaken .tet tag 1 (s.chip.mbxArgs .tet) (none)))) ∧
  (∀ (s : State) (rq : Req) (tag : BitVec 16), s.chip.mbxStarts rq .tet 1 = true → (s.chip.pendingIn .tet).syncedPair = false → exec
    (.tetSwap rq tag) s = .next (s.withChip ((s.chip.pendingIn .tet).mbxTaken .tet tag 1 (s.chip.mbxArgs .tet) (some (2, []))))) ∧
  (∀ (s : State) (rq : Req) (tag : BitVec 16), s.chip.mbxStarts rq .tet 2 = true → ((s.chip.pendingIn .tet).role = roleStandby ∧
    (s.chip.pendingIn .tet).partner = true) → exec (.tetResync rq tag) s = .next (s.withChip (((s.chip.pendingIn
    .tet).wantResync).mbxTaken .tet tag 2 (s.chip.mbxArgs .tet) (none)))) ∧
  (∀ (s : State) (rq : Req) (tag : BitVec 16), s.chip.mbxStarts rq .tet 2 = true → (¬ ((s.chip.pendingIn .tet).role = roleStandby ∧
    (s.chip.pendingIn .tet).partner = true)) → exec (.tetResync rq tag) s = .next (s.withChip ((s.chip.pendingIn .tet).mbxTaken .tet
    tag 2 (s.chip.mbxArgs .tet) (some (2, [])))))

/-- GO or a multiple of PERIOD_MS takes a snapshot or joins the one that runs, its completion publishes the copy and raises SEQ, a
bandwidth window ends at each multiple of its length, and a load window at each millisecond. -/
def Obligations.MonitorActs : Prop :=
  (∀ (s : State) (rq : Req), rq.priv = true → s.chip.addrOff Reg.PMC_SNAP_CTRL = false → s.chip.pmc.copy.isSome = false → exec
    (.snapshotGo rq false) s = .next (s.withChip
    ({ (s.chip.setF Reg.PMC_SNAP_CTRL Fd.PMC_SNAP_CTRL_GO 0).setF Reg.PMC_SNAP_STATUS Fd.PMC_SNAP_STATUS_BUSY 1 with pmc.copy := some s.chip.ctrs }))) ∧
  (∀ (s : State) (rq : Req), rq.priv = true → s.chip.addrOff Reg.PMC_SNAP_CTRL = false → s.chip.pmc.copy.isSome = true → exec
    (.snapshotGo rq false) s = .next (s.withChip (s.chip.setF Reg.PMC_SNAP_CTRL Fd.PMC_SNAP_CTRL_GO 0))) ∧
  (∀ (s : State) (rq : Req), s.chip.fld Reg.PMC_SNAP_CTRL Fd.PMC_SNAP_CTRL_PERIOD_MS ≠ 0 → s.chip.pmc.snapAt / s.chip.fld
    Reg.PMC_SNAP_CTRL Fd.PMC_SNAP_CTRL_PERIOD_MS < (s.chip.tb / tbMs) / s.chip.fld Reg.PMC_SNAP_CTRL Fd.PMC_SNAP_CTRL_PERIOD_MS →
    exec (.snapshotGo rq true) s = .next (s.withChip ({ s.chip.snapTake with pmc.snapAt := (s.chip.tb / tbMs) }))) ∧
  (∀ (s : State) (m : NMap (BitVec 64)), s.chip.pmc.copy = some m → exec (.snapshotComplete) s = .next (s.withChip
    ({ (s.chip.setF Reg.PMC_SNAP_STATUS Fd.PMC_SNAP_STATUS_BUSY 0).setF Reg.PMC_SNAP_STATUS Fd.PMC_SNAP_STATUS_SEQ ((s.chip.fld Reg.PMC_SNAP_STATUS Fd.PMC_SNAP_STATUS_SEQ + 1) % 65536) with snapC := m, pmc.copy := none }))) ∧
  (∀ (s : State), s.chip.pmc.bwAt / s.chip.pmc.bwMs < (s.chip.tb / tbMs) / s.chip.pmc.bwMs → 
    let c1 := (List.range 1024).foldl bwOne s.chip
    let c2 := c1.wrN Reg.PMC_BW_STATUS ((c1.rd Reg.PMC_BW_STATUS + 1) % 2 ^ 32)
    exec (.bwWindow) s = .next (s.withChip
      ({ c2 with pmc.bwAt := (s.chip.tb / tbMs), pmc.bwMs := c2.fld Reg.PMC_BW_CFG Fd.PMC_BW_CFG_WINDOW_MS }))) ∧
  (∀ (s : State) (loads : List Nat), s.chip.dbg.loadAt < (s.chip.tb / tbMs) → exec (.loadWindow loads) s = .next (s.withChip
    ((List.range 6).foldl (fun c i => c.coreLoad i (loads.getD i 0)) { s.chip with dbg.loadAt := (s.chip.tb / tbMs) })))

/-- DBG_AUTH shifts its state out, takes a challenge with a new nonce and a response for verification, opens the port for the granted
scope or counts a failure and locks out at the third; the scan instructions and the hart commands act within the granted scope and
answer zeros or nothing outside it; a debugger on the system bus reads and writes registers and hart memory. -/
def Obligations.DebugPortActs : Prop :=
  (∀ (s : State), (¬ (s.chip.dbgState = 2 ∨ s.chip.dbgState = 4)) → 
    let n := (BitVec.ofNat 384 ((List.range 6).foldl (fun a i => a + (Config.freeWord (s.chip.freeCtr + i)).toNat * 2 ^ (64 * i)) 0) :
      BitVec 384)
    let c2 := { s.chip.authShift with dbg.nonce := some n, dbg.shown := n, freeCtr := s.chip.freeCtr + 6 }
    exec (.challenge) s = .next (s.withChip (if s.chip.dbgState = 3 then c2 else c2.setF Reg.MGT_DBG_STATUS Fd.MGT_DBG_STATUS_STATE 1))) ∧
  (∀ (s : State), ((s.chip.dbgState = 2 ∨ s.chip.dbgState = 4)) → exec (.challenge) s = .next (s.withChip (s.chip.authShift))) ∧
  (∀ (s : State) (data : List Byte), (¬ (s.chip.dbgState = 2 ∨ s.chip.dbgState = 4)) → exec (.response data) s = .next (s.withChip
    ({ s.chip.authShift.setF Reg.MGT_DBG_STATUS Fd.MGT_DBG_STATUS_STATE (if s.chip.dbgState = 3 then 3 else 2) with dbg.nonce := none, dbg.resp := some ⟨data, s.chip.dbg.nonce⟩ }))) ∧
  (∀ (s : State) (data : List Byte), ((s.chip.dbgState = 2 ∨ s.chip.dbgState = 4)) → exec (.response data) s = .next (s.withChip
    (s.chip.authShift))) ∧
  (∀ (s : State) (r : AuthResp), s.chip.dbg.resp = some r → 
    let c1 := { s.chip with dbg.resp := none }
    let n := s.chip.fld Reg.MGT_DBG_STATUS Fd.MGT_DBG_STATUS_FAILS + 1
    let c2 := (c1.setF Reg.MGT_DBG_STATUS Fd.MGT_DBG_STATUS_FAILS (min n 3)).bump (Reg.MGT_CNT 2) 1
    exec (.authVerdict) s = .next (s.withChip (if s.chip.authGood r = true then (((c1.setF Reg.MGT_DBG_STATUS Fd.MGT_DBG_STATUS_STATE
      3).setF Reg.MGT_DBG_STATUS Fd.MGT_DBG_STATUS_SCOPE (byteAt r.data 2)).bump (Reg.MGT_CNT 1) 1).collect 0x09 0 0x19 outReported
      (byteAt r.data 2) else if 3 ≤ n then ((c2.lockPort).setF Reg.MGT_DBG_STATUS Fd.MGT_DBG_STATUS_STATE 4).setF Reg.MGT_DBG_STATUS
      Fd.MGT_DBG_STATUS_SCOPE 0 else if s.chip.dbgState = 2 then c2.setF Reg.MGT_DBG_STATUS Fd.MGT_DBG_STATUS_STATE 0 else c2))) ∧
  (∀ (s : State), exec (.relock) s = .next (s.withChip (s.chip.authShift.lockPort))) ∧
  (∀ (s : State), exec (.idcode) s = .next (s.withChip (s.chip.emit (.debug 1 0x15120A6B)))) ∧
  (∀ (s : State) (sampled shifted : Nat), exec (.samplePreload sampled shifted) s = .next (s.withChip
    ({ s.chip.emit (.debug 2 sampled) with dbg.boundary := shifted }))) ∧
  (∀ (s : State), s.chip.granted 0 = true → exec (.extest) s = .next (s.withChip
    ({ s.chip.emit (.debug 3 s.chip.dbg.boundary) with dbg.lanesOut := true }))) ∧
  (∀ (s : State), s.chip.granted 0 = false → exec (.extest) s = .next (s.withChip (s.chip.emit (.debug 3 0)))) ∧
  (∀ (s : State), s.chip.granted 0 = true → exec (.clamp) s = .next (s.withChip
    ({ s.chip.emit (.debug 4 0) with dbg.lanesOut := true }))) ∧
  (∀ (s : State), s.chip.granted 0 = false → exec (.clamp) s = .next (s.withChip (s.chip.emit (.debug 4 0)))) ∧
  (∀ (s : State), s.chip.granted 0 = true → exec (.highz) s = .next (s.withChip
    ({ s.chip.emit (.debug 5 0) with dbg.lanesOut := true }))) ∧
  (∀ (s : State), s.chip.granted 0 = false → exec (.highz) s = .next (s.withChip (s.chip.emit (.debug 5 0)))) ∧
  (∀ (s : State), exec (.bypass) s = .next (s.withChip (s.chip.emit (.debug 0x1F 0)))) ∧
  (∀ (s : State) (hart : Fin 6), s.chip.reaches hart = true → s.chip.hartHalted hart = false → exec (.debugHalt hart) s = .next
    (s.withChip ({ s.chip.bump (Reg.MGT_CNT 3) 1 with dbg.halted := s.chip.dbg.halted ++ [hartIdx hart] }))) ∧
  (∀ (s : State) (hart : Fin 6), s.chip.reaches hart = true → exec (.debugResume hart) s = .next (s.withChip (s.chip.resumeHart
    hart))) ∧
  (∀ (s : State) (hart : Fin 6), s.chip.reaches hart = true → s.chip.hartHalted hart = true → hart.val < 5 → exec (.debugStep hart) s
    = .next (s.withChip
    ({ (s.chip.hartRun hart (Config.coreEvents hart s.chip.now s.chip.freeCtr 6) 1).tick with dbg.regs := (s.chip.hartRun hart (Config.coreEvents hart s.chip.now s.chip.freeCtr 6) 1).tick.dbg.regs.filter (fun x => x.1 / 8192 != hart.val), dbg.mem := (s.chip.hartRun hart (Config.coreEvents hart s.chip.now s.chip.freeCtr 6) 1).tick.dbg.mem.filter (fun x => x.1 / 2 ^ 61 != hart.val) }))) ∧
  (∀ (s : State) (hart : Fin 6), s.chip.reaches hart = true → s.chip.hartHalted hart = true → hart.val = 5 → exec (.debugStep hart) s
    = .next (s.withChip
    ({ s.chip with dbg.regs := s.chip.dbg.regs.filter (fun x => x.1 / 8192 != hart.val), dbg.mem := s.chip.dbg.mem.filter (fun x => x.1 / 2 ^ 61 != hart.val) }))) ∧
  (∀ (s : State) (hart : Fin 6), s.chip.reaches hart = false → exec (.debugHalt hart) s = .next (s.withChip (s.chip))) ∧
  (∀ (s : State) (hart : Fin 6), s.chip.reaches hart = false → exec (.debugResume hart) s = .next (s.withChip (s.chip))) ∧
  (∀ (s : State) (hart : Fin 6), s.chip.reaches hart = false → exec (.debugStep hart) s = .next (s.withChip (s.chip))) ∧
  (∀ (s : State) (hart : Fin 6) (cmd : AbsCmd), s.chip.reaches hart = false → exec (.abstractCommand hart cmd) s = .next (s.withChip
    (s.chip))) ∧
  (∀ (s : State) (hart : Fin 6) (cmd : AbsCmd), s.chip.reaches hart = true → s.chip.hartHalted hart = false → exec (.abstractCommand
    hart cmd) s = .next (s.withChip (s.chip.emit (.debug 0x11 4)))) ∧
  (∀ (s : State) (hart : Fin 6) (r : Fin 8192), s.chip.reaches hart = true → s.chip.hartHalted hart = true → r.val < 0x1020 → exec
    (.abstractCommand hart (.readReg r)) s = .next (s.withChip ((s.chip.hartReg hart r).1.emit (.debug 0x10 (s.chip.hartReg hart
    r).2.toNat)))) ∧
  (∀ (s : State) (hart : Fin 6) (r : Fin 8192) (v : BitVec 64), s.chip.reaches hart = true → s.chip.hartHalted hart = true → r.val <
    0x1020 → r.val ≠ 0x1000 → (¬ (hart.val < 5 ∧ isPmu r.val = true)) → exec (.abstractCommand hart (.writeReg r v)) s = .next
    (s.withChip ({ s.chip.emit (.debug 0x10 0) with dbg.regs := mput s.chip.dbg.regs (8192 * hart.val + r.val) v }))) ∧
  (∀ (s : State) (hart : Fin 6) (r : Fin 8192) (v : BitVec 64), s.chip.reaches hart = true → s.chip.hartHalted hart = true → hart.val
    < 5 → isPmu r.val = true → exec (.abstractCommand hart (.writeReg r v)) s = .next (s.withChip ((s.chip.pmuSet hart r v).emit
    (.debug 0x10 0)))) ∧
  (∀ (s : State) (hart : Fin 6) (r : Fin 8192), s.chip.reaches hart = true → s.chip.hartHalted hart = true → hart.val < 5 → isPmu
    r.val = true → exec (.abstractCommand hart (.readReg r)) s = .next (s.withChip (s.chip.emit (.debug 0x10 (s.chip.pmuGet hart
    r).toNat)))) ∧
  (∀ (s : State) (hart : Fin 6) (a : BitVec 64), s.chip.reaches hart = true → s.chip.hartHalted hart = true → exec (.abstractCommand
    hart (.readMem a)) s = .next (s.withChip ((s.chip.hartMem hart a.toNat).1.emit (.debug 0x10 (s.chip.hartMem hart
    a.toNat).2.toNat)))) ∧
  (∀ (s : State) (hart : Fin 6) (a v : BitVec 64), s.chip.reaches hart = true → s.chip.hartHalted hart = true → exec (.abstractCommand
    hart (.writeMem a v)) s = .next (s.withChip ((s.chip.setHartMem hart a.toNat v).emit (.debug 0x10 0)))) ∧
  (∀ (s : State) (a : Nat) (w64 : Bool), s.chip.granted 4 = true → exec (.systemBusAccess (.regRead a w64)) s = .next (s.withChip
    (answerRead .debug a (s.chip.readReg .debug a w64)))) ∧
  (∀ (s : State) (a : Nat) (v : BitVec 64) (w64 : Bool), s.chip.granted 4 = true → exec (.systemBusAccess (.regWrite a v w64)) s =
    .next (s.withBoth ((s.chip.writeReg .debug a v w64 true s.store).1) ((s.chip.writeReg .debug a v w64 true s.store).2))) ∧
  (∀ (s : State) (hart : Fin 6) (a : Nat), s.chip.granted 4 = true → (hart.val == 5 || s.chip.domOn 115) = true → exec
    (.systemBusAccess (.memRead hart a)) s = .next (s.withChip ((s.chip.hartMem hart a).1.emit (.debug 0x12 (s.chip.hartMem hart
    a).2.toNat)))) ∧
  (∀ (s : State) (hart : Fin 6) (a : Nat) (v : BitVec 64), s.chip.granted 4 = true → (hart.val == 5 || s.chip.domOn 115) = true → exec
    (.systemBusAccess (.memWrite hart a v)) s = .next (s.withChip (s.chip.setHartMem hart a v))) ∧
  (∀ (s : State) (a : Nat) (v : BitVec 64) (w64 : Bool), s.chip.granted 4 = false → exec (.systemBusAccess (.regWrite a v w64)) s =
    .next (s.withChip (s.chip))) ∧
  (∀ (s : State) (a : Nat) (w64 : Bool), s.chip.granted 4 = false → exec (.systemBusAccess (.regRead a w64)) s = .next (s.withChip
    (s.chip.emit (.debug 0x12 0))))

/-- MBUS_WRITE, MBUS_READ and WRITE_READ answer code 1 for arguments out of range or a disabled master, 7 for a bus that stays low, 5,
4, 2, 3 and 6 for lost arbitration, stretching, a refused address, a refused byte and a wrong PEC with their counters, else 0 with
the bytes read; RECOVER answers whether SDA came free; ALERT_N shows in its bit. And how a spare lane's training ends. -/
def Obligations.ManagementBusActs : Prop :=
  (∀ (s : State) (rq : Req) (tag : BitVec 16) (m : Fin 4) (bus : BusEnv), s.chip.mbxStarts rq (.mbus m) 1 = true → ((32 < (bitsOf
    ((s.chip.mbxArgs (.mbus m)).getD 0 0) 15 8) ∨ 32 < (bitsOf ((s.chip.mbxArgs (.mbus m)).getD 0 0) 23 16) ∨ 2 ^ 24 ≤
    (s.chip.mbxArgs (.mbus m)).getD 0 0 ∨ (s.chip.pendingIn (.mbus m)).on (Reg.MBUS_CTRL m) ⟨0, 1⟩ = false)) → exec (.mbusWrite rq
    tag m bus) s = .next (s.withChip ((s.chip.pendingIn (.mbus m)).mbxTaken (.mbus m) tag 1 (s.chip.mbxArgs (.mbus m)) (some (1,
    []))))) ∧
  (∀ (s : State) (rq : Req) (tag : BitVec 16) (m : Fin 4) (bus : BusEnv), s.chip.mbxStarts rq (.mbus m) 1 = true → (¬ (32 < (bitsOf
    ((s.chip.mbxArgs (.mbus m)).getD 0 0) 15 8) ∨ 32 < (bitsOf ((s.chip.mbxArgs (.mbus m)).getD 0 0) 23 16) ∨ 2 ^ 24 ≤
    (s.chip.mbxArgs (.mbus m)).getD 0 0 ∨ (s.chip.pendingIn (.mbus m)).on (Reg.MBUS_CTRL m) ⟨0, 1⟩ = false)) → ((s.chip.pendingIn
    (.mbus m)).busCheck m bus).2 = false → exec (.mbusWrite rq tag m bus) s = .next (s.withChip ((((s.chip.pendingIn (.mbus
    m)).busCheck m bus).1).mbxTaken (.mbus m) tag 1 (s.chip.mbxArgs (.mbus m)) (some (7, []))))) ∧
  (∀ (s : State) (rq : Req) (tag : BitVec 16) (m : Fin 4) (bus : BusEnv), s.chip.mbxStarts rq (.mbus m) 1 = true → (¬ (32 < (bitsOf
    ((s.chip.mbxArgs (.mbus m)).getD 0 0) 15 8) ∨ 32 < (bitsOf ((s.chip.mbxArgs (.mbus m)).getD 0 0) 23 16) ∨ 2 ^ 24 ≤
    (s.chip.mbxArgs (.mbus m)).getD 0 0 ∨ (s.chip.pendingIn (.mbus m)).on (Reg.MBUS_CTRL m) ⟨0, 1⟩ = false)) → ((s.chip.pendingIn
    (.mbus m)).busCheck m bus).2 = true → bus.arbLost = true → exec (.mbusWrite rq tag m bus) s = .next (s.withChip
    (((((s.chip.pendingIn (.mbus m)).busCheck m bus).1.bump (Reg.MBUS_CNT m 0) 1).bump (Reg.MBUS_CNT m 5) 1).mbxTaken (.mbus m) tag
    1 (s.chip.mbxArgs (.mbus m)) (some (5, []))))) ∧
  (∀ (s : State) (rq : Req) (tag : BitVec 16) (m : Fin 4) (bus : BusEnv), s.chip.mbxStarts rq (.mbus m) 1 = true → (¬ (32 < (bitsOf
    ((s.chip.mbxArgs (.mbus m)).getD 0 0) 15 8) ∨ 32 < (bitsOf ((s.chip.mbxArgs (.mbus m)).getD 0 0) 23 16) ∨ 2 ^ 24 ≤
    (s.chip.mbxArgs (.mbus m)).getD 0 0 ∨ (s.chip.pendingIn (.mbus m)).on (Reg.MBUS_CTRL m) ⟨0, 1⟩ = false)) → ((s.chip.pendingIn
    (.mbus m)).busCheck m bus).2 = true → bus.arbLost = false → bus.stretchOut = true → exec (.mbusWrite rq tag m bus) s = .next
    (s.withChip (((((s.chip.pendingIn (.mbus m)).busCheck m bus).1.bump (Reg.MBUS_CNT m 0) 1).bump (Reg.MBUS_CNT m 2) 1).mbxTaken
    (.mbus m) tag 1 (s.chip.mbxArgs (.mbus m)) (some (4, []))))) ∧
  (∀ (s : State) (rq : Req) (tag : BitVec 16) (m : Fin 4) (bus : BusEnv), s.chip.mbxStarts rq (.mbus m) 1 = true → (¬ (32 < (bitsOf
    ((s.chip.mbxArgs (.mbus m)).getD 0 0) 15 8) ∨ 32 < (bitsOf ((s.chip.mbxArgs (.mbus m)).getD 0 0) 23 16) ∨ 2 ^ 24 ≤
    (s.chip.mbxArgs (.mbus m)).getD 0 0 ∨ (s.chip.pendingIn (.mbus m)).on (Reg.MBUS_CTRL m) ⟨0, 1⟩ = false)) → ((s.chip.pendingIn
    (.mbus m)).busCheck m bus).2 = true → bus.arbLost = false → bus.stretchOut = false → bus.addrAck = false → exec (.mbusWrite rq
    tag m bus) s = .next (s.withChip (((((s.chip.pendingIn (.mbus m)).busCheck m bus).1.bump (Reg.MBUS_CNT m 0) 1).bump
    (Reg.MBUS_CNT m 1) 1).mbxTaken (.mbus m) tag 1 (s.chip.mbxArgs (.mbus m)) (some (2, []))))) ∧
  (∀ (s : State) (rq : Req) (tag : BitVec 16) (m : Fin 4) (bus : BusEnv), s.chip.mbxStarts rq (.mbus m) 1 = true → (¬ (32 < (bitsOf
    ((s.chip.mbxArgs (.mbus m)).getD 0 0) 15 8) ∨ 32 < (bitsOf ((s.chip.mbxArgs (.mbus m)).getD 0 0) 23 16) ∨ 2 ^ 24 ≤
    (s.chip.mbxArgs (.mbus m)).getD 0 0 ∨ (s.chip.pendingIn (.mbus m)).on (Reg.MBUS_CTRL m) ⟨0, 1⟩ = false)) → ((s.chip.pendingIn
    (.mbus m)).busCheck m bus).2 = true → bus.arbLost = false → bus.stretchOut = false → bus.addrAck = true → 0 < (bitsOf
    ((s.chip.mbxArgs (.mbus m)).getD 0 0) 15 8) → bus.dataAck = false → exec (.mbusWrite rq tag m bus) s = .next (s.withChip
    ((((((s.chip.pendingIn (.mbus m)).busCheck m bus).1.bump (Reg.MBUS_CNT m 0) 1).emit (.mbus m ((s.chip.mbxArgs (.mbus m)).getD 0
    0 % 128) ((((s.chip.pendingIn (.mbus m)).busCheck m bus).1.bump (Reg.MBUS_CNT m 0) 1).busWdata m (bitsOf ((s.chip.mbxArgs (.mbus
    m)).getD 0 0) 15 8)))).bump (Reg.MBUS_CNT m 1) 1).mbxTaken (.mbus m) tag 1 (s.chip.mbxArgs (.mbus m)) (some (3, []))))) ∧
  (∀ (s : State) (rq : Req) (tag : BitVec 16) (m : Fin 4) (bus : BusEnv), s.chip.mbxStarts rq (.mbus m) 1 = true → (¬ (32 < (bitsOf
    ((s.chip.mbxArgs (.mbus m)).getD 0 0) 15 8) ∨ 32 < (bitsOf ((s.chip.mbxArgs (.mbus m)).getD 0 0) 23 16) ∨ 2 ^ 24 ≤
    (s.chip.mbxArgs (.mbus m)).getD 0 0 ∨ (s.chip.pendingIn (.mbus m)).on (Reg.MBUS_CTRL m) ⟨0, 1⟩ = false)) → ((s.chip.pendingIn
    (.mbus m)).busCheck m bus).2 = true → bus.arbLost = false → bus.stretchOut = false → bus.addrAck = true → (¬ (0 < (bitsOf
    ((s.chip.mbxArgs (.mbus m)).getD 0 0) 15 8) ∧ bus.dataAck = false)) → exec (.mbusWrite rq tag m bus) s = .next (s.withChip
    ((((((s.chip.pendingIn (.mbus m)).busCheck m bus).1.bump (Reg.MBUS_CNT m 0) 1).emit (.mbus m ((s.chip.mbxArgs (.mbus m)).getD 0
    0 % 128) ((((s.chip.pendingIn (.mbus m)).busCheck m bus).1.bump (Reg.MBUS_CNT m 0) 1).busWdata m (bitsOf ((s.chip.mbxArgs (.mbus
    m)).getD 0 0) 15 8))))).mbxTaken (.mbus m) tag 1 (s.chip.mbxArgs (.mbus m)) (some (0, []))))) ∧
  (∀ (s : State) (rq : Req) (tag : BitVec 16) (m : Fin 4) (bus : BusEnv), s.chip.mbxStarts rq (.mbus m) 2 = true → ((32 < (bitsOf
    ((s.chip.mbxArgs (.mbus m)).getD 0 0) 15 8) ∨ 32 < (bitsOf ((s.chip.mbxArgs (.mbus m)).getD 0 0) 23 16) ∨ 2 ^ 24 ≤
    (s.chip.mbxArgs (.mbus m)).getD 0 0 ∨ (s.chip.pendingIn (.mbus m)).on (Reg.MBUS_CTRL m) ⟨0, 1⟩ = false)) → exec (.mbusRead rq
    tag m bus) s = .next (s.withChip ((s.chip.pendingIn (.mbus m)).mbxTaken (.mbus m) tag 2 (s.chip.mbxArgs (.mbus m)) (some (1,
    []))))) ∧
  (∀ (s : State) (rq : Req) (tag : BitVec 16) (m : Fin 4) (bus : BusEnv), s.chip.mbxStarts rq (.mbus m) 2 = true → (¬ (32 < (bitsOf
    ((s.chip.mbxArgs (.mbus m)).getD 0 0) 15 8) ∨ 32 < (bitsOf ((s.chip.mbxArgs (.mbus m)).getD 0 0) 23 16) ∨ 2 ^ 24 ≤
    (s.chip.mbxArgs (.mbus m)).getD 0 0 ∨ (s.chip.pendingIn (.mbus m)).on (Reg.MBUS_CTRL m) ⟨0, 1⟩ = false)) → ((s.chip.pendingIn
    (.mbus m)).busCheck m bus).2 = false → exec (.mbusRead rq tag m bus) s = .next (s.withChip ((((s.chip.pendingIn (.mbus
    m)).busCheck m bus).1).mbxTaken (.mbus m) tag 2 (s.chip.mbxArgs (.mbus m)) (some (7, []))))) ∧
  (∀ (s : State) (rq : Req) (tag : BitVec 16) (m : Fin 4) (bus : BusEnv), s.chip.mbxStarts rq (.mbus m) 2 = true → (¬ (32 < (bitsOf
    ((s.chip.mbxArgs (.mbus m)).getD 0 0) 15 8) ∨ 32 < (bitsOf ((s.chip.mbxArgs (.mbus m)).getD 0 0) 23 16) ∨ 2 ^ 24 ≤
    (s.chip.mbxArgs (.mbus m)).getD 0 0 ∨ (s.chip.pendingIn (.mbus m)).on (Reg.MBUS_CTRL m) ⟨0, 1⟩ = false)) → ((s.chip.pendingIn
    (.mbus m)).busCheck m bus).2 = true → bus.arbLost = true → exec (.mbusRead rq tag m bus) s = .next (s.withChip
    (((((s.chip.pendingIn (.mbus m)).busCheck m bus).1.bump (Reg.MBUS_CNT m 0) 1).bump (Reg.MBUS_CNT m 5) 1).mbxTaken (.mbus m) tag
    2 (s.chip.mbxArgs (.mbus m)) (some (5, []))))) ∧
  (∀ (s : State) (rq : Req) (tag : BitVec 16) (m : Fin 4) (bus : BusEnv), s.chip.mbxStarts rq (.mbus m) 2 = true → (¬ (32 < (bitsOf
    ((s.chip.mbxArgs (.mbus m)).getD 0 0) 15 8) ∨ 32 < (bitsOf ((s.chip.mbxArgs (.mbus m)).getD 0 0) 23 16) ∨ 2 ^ 24 ≤
    (s.chip.mbxArgs (.mbus m)).getD 0 0 ∨ (s.chip.pendingIn (.mbus m)).on (Reg.MBUS_CTRL m) ⟨0, 1⟩ = false)) → ((s.chip.pendingIn
    (.mbus m)).busCheck m bus).2 = true → bus.arbLost = false → bus.stretchOut = true → exec (.mbusRead rq tag m bus) s = .next
    (s.withChip (((((s.chip.pendingIn (.mbus m)).busCheck m bus).1.bump (Reg.MBUS_CNT m 0) 1).bump (Reg.MBUS_CNT m 2) 1).mbxTaken
    (.mbus m) tag 2 (s.chip.mbxArgs (.mbus m)) (some (4, []))))) ∧
  (∀ (s : State) (rq : Req) (tag : BitVec 16) (m : Fin 4) (bus : BusEnv), s.chip.mbxStarts rq (.mbus m) 2 = true → (¬ (32 < (bitsOf
    ((s.chip.mbxArgs (.mbus m)).getD 0 0) 15 8) ∨ 32 < (bitsOf ((s.chip.mbxArgs (.mbus m)).getD 0 0) 23 16) ∨ 2 ^ 24 ≤
    (s.chip.mbxArgs (.mbus m)).getD 0 0 ∨ (s.chip.pendingIn (.mbus m)).on (Reg.MBUS_CTRL m) ⟨0, 1⟩ = false)) → ((s.chip.pendingIn
    (.mbus m)).busCheck m bus).2 = true → bus.arbLost = false → bus.stretchOut = false → bus.addrAck = false → exec (.mbusRead rq
    tag m bus) s = .next (s.withChip (((((s.chip.pendingIn (.mbus m)).busCheck m bus).1.bump (Reg.MBUS_CNT m 0) 1).bump
    (Reg.MBUS_CNT m 1) 1).mbxTaken (.mbus m) tag 2 (s.chip.mbxArgs (.mbus m)) (some (2, []))))) ∧
  (∀ (s : State) (rq : Req) (tag : BitVec 16) (m : Fin 4) (bus : BusEnv), s.chip.mbxStarts rq (.mbus m) 2 = true → (¬ (32 < (bitsOf
    ((s.chip.mbxArgs (.mbus m)).getD 0 0) 15 8) ∨ 32 < (bitsOf ((s.chip.mbxArgs (.mbus m)).getD 0 0) 23 16) ∨ 2 ^ 24 ≤
    (s.chip.mbxArgs (.mbus m)).getD 0 0 ∨ (s.chip.pendingIn (.mbus m)).on (Reg.MBUS_CTRL m) ⟨0, 1⟩ = false)) → ((s.chip.pendingIn
    (.mbus m)).busCheck m bus).2 = true → bus.arbLost = false → bus.stretchOut = false → bus.addrAck = true → (bitOf
    ((s.chip.mbxArgs (.mbus m)).getD 0 0) 7 && !bus.pecGood) = true → exec (.mbusRead rq tag m bus) s = .next (s.withChip
    (((((s.chip.pendingIn (.mbus m)).busCheck m bus).1.bump (Reg.MBUS_CNT m 0) 1)).mbxTaken (.mbus m) tag 2 (s.chip.mbxArgs (.mbus
    m)) (some (6, []))))) ∧
  (∀ (s : State) (rq : Req) (tag : BitVec 16) (m : Fin 4) (bus : BusEnv), s.chip.mbxStarts rq (.mbus m) 2 = true → (¬ (32 < (bitsOf
    ((s.chip.mbxArgs (.mbus m)).getD 0 0) 15 8) ∨ 32 < (bitsOf ((s.chip.mbxArgs (.mbus m)).getD 0 0) 23 16) ∨ 2 ^ 24 ≤
    (s.chip.mbxArgs (.mbus m)).getD 0 0 ∨ (s.chip.pendingIn (.mbus m)).on (Reg.MBUS_CTRL m) ⟨0, 1⟩ = false)) → ((s.chip.pendingIn
    (.mbus m)).busCheck m bus).2 = true → bus.arbLost = false → bus.stretchOut = false → bus.addrAck = true → (bitOf
    ((s.chip.mbxArgs (.mbus m)).getD 0 0) 7 && !bus.pecGood) = false → exec (.mbusRead rq tag m bus) s = .next (s.withChip
    (((((s.chip.pendingIn (.mbus m)).busCheck m bus).1.bump (Reg.MBUS_CNT m 0) 1)).mbxTaken (.mbus m) tag 2 (s.chip.mbxArgs (.mbus
    m)) (some (0, dataWords (ceilDiv (bitsOf ((s.chip.mbxArgs (.mbus m)).getD 0 0) 23 16) 4) (leNat (slice bus.reads 0 (bitsOf
    ((s.chip.mbxArgs (.mbus m)).getD 0 0) 23 16)))))))) ∧
  (∀ (s : State) (rq : Req) (tag : BitVec 16) (m : Fin 4) (bus : BusEnv), s.chip.mbxStarts rq (.mbus m) 3 = true → ((32 < (bitsOf
    ((s.chip.mbxArgs (.mbus m)).getD 0 0) 15 8) ∨ 32 < (bitsOf ((s.chip.mbxArgs (.mbus m)).getD 0 0) 23 16) ∨ 2 ^ 24 ≤
    (s.chip.mbxArgs (.mbus m)).getD 0 0 ∨ (s.chip.pendingIn (.mbus m)).on (Reg.MBUS_CTRL m) ⟨0, 1⟩ = false)) → exec (.writeRead rq
    tag m bus) s = .next (s.withChip ((s.chip.pendingIn (.mbus m)).mbxTaken (.mbus m) tag 3 (s.chip.mbxArgs (.mbus m)) (some (1,
    []))))) ∧
  (∀ (s : State) (rq : Req) (tag : BitVec 16) (m : Fin 4) (bus : BusEnv), s.chip.mbxStarts rq (.mbus m) 3 = true → (¬ (32 < (bitsOf
    ((s.chip.mbxArgs (.mbus m)).getD 0 0) 15 8) ∨ 32 < (bitsOf ((s.chip.mbxArgs (.mbus m)).getD 0 0) 23 16) ∨ 2 ^ 24 ≤
    (s.chip.mbxArgs (.mbus m)).getD 0 0 ∨ (s.chip.pendingIn (.mbus m)).on (Reg.MBUS_CTRL m) ⟨0, 1⟩ = false)) → ((s.chip.pendingIn
    (.mbus m)).busCheck m bus).2 = false → exec (.writeRead rq tag m bus) s = .next (s.withChip ((((s.chip.pendingIn (.mbus
    m)).busCheck m bus).1).mbxTaken (.mbus m) tag 3 (s.chip.mbxArgs (.mbus m)) (some (7, []))))) ∧
  (∀ (s : State) (rq : Req) (tag : BitVec 16) (m : Fin 4) (bus : BusEnv), s.chip.mbxStarts rq (.mbus m) 3 = true → (¬ (32 < (bitsOf
    ((s.chip.mbxArgs (.mbus m)).getD 0 0) 15 8) ∨ 32 < (bitsOf ((s.chip.mbxArgs (.mbus m)).getD 0 0) 23 16) ∨ 2 ^ 24 ≤
    (s.chip.mbxArgs (.mbus m)).getD 0 0 ∨ (s.chip.pendingIn (.mbus m)).on (Reg.MBUS_CTRL m) ⟨0, 1⟩ = false)) → ((s.chip.pendingIn
    (.mbus m)).busCheck m bus).2 = true → bus.arbLost = true → exec (.writeRead rq tag m bus) s = .next (s.withChip
    (((((s.chip.pendingIn (.mbus m)).busCheck m bus).1.bump (Reg.MBUS_CNT m 0) 1).bump (Reg.MBUS_CNT m 5) 1).mbxTaken (.mbus m) tag
    3 (s.chip.mbxArgs (.mbus m)) (some (5, []))))) ∧
  (∀ (s : State) (rq : Req) (tag : BitVec 16) (m : Fin 4) (bus : BusEnv), s.chip.mbxStarts rq (.mbus m) 3 = true → (¬ (32 < (bitsOf
    ((s.chip.mbxArgs (.mbus m)).getD 0 0) 15 8) ∨ 32 < (bitsOf ((s.chip.mbxArgs (.mbus m)).getD 0 0) 23 16) ∨ 2 ^ 24 ≤
    (s.chip.mbxArgs (.mbus m)).getD 0 0 ∨ (s.chip.pendingIn (.mbus m)).on (Reg.MBUS_CTRL m) ⟨0, 1⟩ = false)) → ((s.chip.pendingIn
    (.mbus m)).busCheck m bus).2 = true → bus.arbLost = false → bus.stretchOut = true → exec (.writeRead rq tag m bus) s = .next
    (s.withChip (((((s.chip.pendingIn (.mbus m)).busCheck m bus).1.bump (Reg.MBUS_CNT m 0) 1).bump (Reg.MBUS_CNT m 2) 1).mbxTaken
    (.mbus m) tag 3 (s.chip.mbxArgs (.mbus m)) (some (4, []))))) ∧
  (∀ (s : State) (rq : Req) (tag : BitVec 16) (m : Fin 4) (bus : BusEnv), s.chip.mbxStarts rq (.mbus m) 3 = true → (¬ (32 < (bitsOf
    ((s.chip.mbxArgs (.mbus m)).getD 0 0) 15 8) ∨ 32 < (bitsOf ((s.chip.mbxArgs (.mbus m)).getD 0 0) 23 16) ∨ 2 ^ 24 ≤
    (s.chip.mbxArgs (.mbus m)).getD 0 0 ∨ (s.chip.pendingIn (.mbus m)).on (Reg.MBUS_CTRL m) ⟨0, 1⟩ = false)) → ((s.chip.pendingIn
    (.mbus m)).busCheck m bus).2 = true → bus.arbLost = false → bus.stretchOut = false → bus.addrAck = false → exec (.writeRead rq
    tag m bus) s = .next (s.withChip (((((s.chip.pendingIn (.mbus m)).busCheck m bus).1.bump (Reg.MBUS_CNT m 0) 1).bump
    (Reg.MBUS_CNT m 1) 1).mbxTaken (.mbus m) tag 3 (s.chip.mbxArgs (.mbus m)) (some (2, []))))) ∧
  (∀ (s : State) (rq : Req) (tag : BitVec 16) (m : Fin 4) (bus : BusEnv), s.chip.mbxStarts rq (.mbus m) 3 = true → (¬ (32 < (bitsOf
    ((s.chip.mbxArgs (.mbus m)).getD 0 0) 15 8) ∨ 32 < (bitsOf ((s.chip.mbxArgs (.mbus m)).getD 0 0) 23 16) ∨ 2 ^ 24 ≤
    (s.chip.mbxArgs (.mbus m)).getD 0 0 ∨ (s.chip.pendingIn (.mbus m)).on (Reg.MBUS_CTRL m) ⟨0, 1⟩ = false)) → ((s.chip.pendingIn
    (.mbus m)).busCheck m bus).2 = true → bus.arbLost = false → bus.stretchOut = false → bus.addrAck = true → 0 < (bitsOf
    ((s.chip.mbxArgs (.mbus m)).getD 0 0) 15 8) → bus.dataAck = false → exec (.writeRead rq tag m bus) s = .next (s.withChip
    ((((((s.chip.pendingIn (.mbus m)).busCheck m bus).1.bump (Reg.MBUS_CNT m 0) 1).emit (.mbus m ((s.chip.mbxArgs (.mbus m)).getD 0
    0 % 128) ((((s.chip.pendingIn (.mbus m)).busCheck m bus).1.bump (Reg.MBUS_CNT m 0) 1).busWdata m (bitsOf ((s.chip.mbxArgs (.mbus
    m)).getD 0 0) 15 8)))).bump (Reg.MBUS_CNT m 1) 1).mbxTaken (.mbus m) tag 3 (s.chip.mbxArgs (.mbus m)) (some (3, []))))) ∧
  (∀ (s : State) (rq : Req) (tag : BitVec 16) (m : Fin 4) (bus : BusEnv), s.chip.mbxStarts rq (.mbus m) 3 = true → (¬ (32 < (bitsOf
    ((s.chip.mbxArgs (.mbus m)).getD 0 0) 15 8) ∨ 32 < (bitsOf ((s.chip.mbxArgs (.mbus m)).getD 0 0) 23 16) ∨ 2 ^ 24 ≤
    (s.chip.mbxArgs (.mbus m)).getD 0 0 ∨ (s.chip.pendingIn (.mbus m)).on (Reg.MBUS_CTRL m) ⟨0, 1⟩ = false)) → ((s.chip.pendingIn
    (.mbus m)).busCheck m bus).2 = true → bus.arbLost = false → bus.stretchOut = false → bus.addrAck = true → (¬ (0 < (bitsOf
    ((s.chip.mbxArgs (.mbus m)).getD 0 0) 15 8) ∧ bus.dataAck = false)) → (bitOf ((s.chip.mbxArgs (.mbus m)).getD 0 0) 7 &&
    !bus.pecGood) = true → exec (.writeRead rq tag m bus) s = .next (s.withChip ((((((s.chip.pendingIn (.mbus m)).busCheck m
    bus).1.bump (Reg.MBUS_CNT m 0) 1).emit (.mbus m ((s.chip.mbxArgs (.mbus m)).getD 0 0 % 128) ((((s.chip.pendingIn (.mbus
    m)).busCheck m bus).1.bump (Reg.MBUS_CNT m 0) 1).busWdata m (bitsOf ((s.chip.mbxArgs (.mbus m)).getD 0 0) 15 8))))).mbxTaken
    (.mbus m) tag 3 (s.chip.mbxArgs (.mbus m)) (some (6, []))))) ∧
  (∀ (s : State) (rq : Req) (tag : BitVec 16) (m : Fin 4) (bus : BusEnv), s.chip.mbxStarts rq (.mbus m) 3 = true → (¬ (32 < (bitsOf
    ((s.chip.mbxArgs (.mbus m)).getD 0 0) 15 8) ∨ 32 < (bitsOf ((s.chip.mbxArgs (.mbus m)).getD 0 0) 23 16) ∨ 2 ^ 24 ≤
    (s.chip.mbxArgs (.mbus m)).getD 0 0 ∨ (s.chip.pendingIn (.mbus m)).on (Reg.MBUS_CTRL m) ⟨0, 1⟩ = false)) → ((s.chip.pendingIn
    (.mbus m)).busCheck m bus).2 = true → bus.arbLost = false → bus.stretchOut = false → bus.addrAck = true → (¬ (0 < (bitsOf
    ((s.chip.mbxArgs (.mbus m)).getD 0 0) 15 8) ∧ bus.dataAck = false)) → (bitOf ((s.chip.mbxArgs (.mbus m)).getD 0 0) 7 &&
    !bus.pecGood) = false → exec (.writeRead rq tag m bus) s = .next (s.withChip ((((((s.chip.pendingIn (.mbus m)).busCheck m
    bus).1.bump (Reg.MBUS_CNT m 0) 1).emit (.mbus m ((s.chip.mbxArgs (.mbus m)).getD 0 0 % 128) ((((s.chip.pendingIn (.mbus
    m)).busCheck m bus).1.bump (Reg.MBUS_CNT m 0) 1).busWdata m (bitsOf ((s.chip.mbxArgs (.mbus m)).getD 0 0) 15 8))))).mbxTaken
    (.mbus m) tag 3 (s.chip.mbxArgs (.mbus m)) (some (0, dataWords (ceilDiv (bitsOf ((s.chip.mbxArgs (.mbus m)).getD 0 0) 23 16) 4)
    (leNat (slice bus.reads 0 (bitsOf ((s.chip.mbxArgs (.mbus m)).getD 0 0) 23 16)))))))) ∧
  (∀ (s : State) (rq : Req) (tag : BitVec 16) (m : Fin 4) (bus : BusEnv), s.chip.mbxStarts rq (.mbus m) 4 = true → exec (.recover rq
    tag m bus) s = .next (s.withChip ((((s.chip.pendingIn (.mbus m)).busCheck m bus).1).mbxTaken (.mbus m) tag 4 (s.chip.mbxArgs
    (.mbus m)) (some (if ((s.chip.pendingIn (.mbus m)).busCheck m bus).2 then 0 else 7, []))))) ∧
  (∀ (s : State) (m : Fin 4) (low : Bool), exec (.alertNChange m low) s = .next (s.withChip (s.chip.setF (Reg.MBUS_STATUS m)
    Fd.MBUS_STATUS_ALERT (b2n low)))) ∧
  (∀ (s : State) (panel : Fin 8) (spare : Fin 2) (n : Nat), s.chip.sparePort panel spare = some n → (s.chip.swapPossible n &&
    !(s.chip.spare panel spare).trained && (s.chip.spare panel spare).retryAt.isNone && s.chip.domOn (9 * panel.val + 8)) = true →
    exec (.spareTrainingDone panel spare true) s = .next (s.withChip ((s.chip.setSpare panel spare
    { s.chip.spare panel spare with trained := true }).placeHello panel spare))) ∧
  (∀ (s : State) (panel : Fin 8) (spare : Fin 2) (n : Nat), s.chip.sparePort panel spare = some n → (s.chip.swapPossible n &&
    !(s.chip.spare panel spare).trained && (s.chip.spare panel spare).retryAt.isNone && s.chip.domOn (9 * panel.val + 8)) = true →
    exec (.spareTrainingDone panel spare false) s = .next (s.withChip (s.chip.setSpare panel spare
    { s.chip.spare panel spare with retryAt := some (s.chip.now + 10 * sPs) })))

/-- A step at a queue that holds a command is that command's exec on the same state with the queue's rest. -/
def Obligations.StepRunsFrontCommand : Prop :=
  ∀ (c : Instr) (q : List Instr) (s : State), step { s with pending := c :: q } = exec c { s with pending := q }

/-- With no command waiting a step answers the same state one tick of 1.25 ns later: the time of day and the time base advance, and
neither the queue nor a byte of memory changes. That a tick takes the idle step's place is the model's choice (log 3). -/
def Obligations.EmptyQueueTicks : Prop :=
  ∀ s : State, s.pending = [] → step s = .next (s.withChip s.chip.datumTick) ∧ s.chip.datumTick.now = s.chip.now + 1250 ∧
    s.chip.datumTick.time.tmBase = s.chip.time.tmBase + 5368709120

/-- No command faults or is refused, and a command changes nothing of the queue of those that wait. -/
def Obligations.EveryCommandCompletes : Prop :=
  ∀ (i : Instr) (s : State), ∃ t, exec i s = .next t ∧ t.pending = s.pending

/-- A command outside the list of those that may store, erase or lose bytes leaves every byte of HBM, of the extension devices and of
flash; and only the flash operations, the register writes that start them and the completion that ends them change flash. -/
def Obligations.CommandsThatStoreNothing : Prop :=
  (∀ (i : Instr) (s t : State), changesBytes i = false → exec i s = .next t → t.store = s.store) ∧
  (∀ (i : Instr) (s t : State), changesFlash i = false → exec i s = .next t → t.store.flash = s.store.flash)

/-- The memories of the state after reset list nothing, so their form is canonical. -/
def Obligations.ResetIsCanonical : Prop :=
  Canonical State.reset

/-- From any state whose flash and memories are in canonical form, a step of any command, or a tick, answers a state whose memories are
in canonical form: addresses strictly rise and no entry equals what an unlisted address reads as. -/
def Obligations.EveryStepKeepsCanonical : Prop :=
  ∀ s t : State, Canonical s → step s = .next t → Canonical t

/-- A mailbox command of a requester that may not write it, or while the mailbox is PENDING, changes nothing but BAD_ACCESS and its
address, one to a powered-off block nothing but OFF_ACCESS and its address; while a core that serves it does not run the operation
is accepted, its RESULT reads PENDING and it waits. -/
def Obligations.MailboxRefusals : Prop :=
  (∀ (i : Instr) (s : State) (rq : Req) (tag : BitVec 16) (m : Mbx) (op : Nat), mailboxOf i = some (rq, tag, m, op) → m.allows rq = false → exec i s = .next (s.withChip (s.chip.err rq errBadAccess m.cmd))) ∧
  (∀ (i : Instr) (s : State) (rq : Req) (tag : BitVec 16) (m : Mbx) (op : Nat), mailboxOf i = some (rq, tag, m, op) → m.allows rq = true → s.chip.addrOff m.cmd = true →
    exec i s = .next (s.withChip (s.chip.err rq errOffAccess m.cmd))) ∧
  (∀ (i : Instr) (s : State) (rq : Req) (tag : BitVec 16) (m : Mbx) (op : Nat), mailboxOf i = some (rq, tag, m, op) → m.allows rq = true → s.chip.addrOff m.cmd = false →
    (s.chip.mbxFind m).isSome = true → exec i s = .next (s.withChip (s.chip.err rq errBadAccess m.cmd))) ∧
  (∀ (i : Instr) (s : State) (rq : Req) (tag : BitVec 16) (m : Mbx) (op : Nat), mailboxOf i = some (rq, tag, m, op) → m.allows rq = true → s.chip.addrOff m.cmd = false →
    s.chip.mbxFind m = none → s.chip.mbxServed m op = false → exec i s = .next (s.withChip
      { s.chip.pendingIn m with mbx := s.chip.mbx ++ [⟨m, tag.toNat, op, s.chip.mbxArgs m, none, false⟩] }))

/-- A command that writes a register with an effect of its own has none from a VF, whose map does not hold the register: only that VF's
BAD_ACCESS flag and error address change; in a powered-off block only OFF_ACCESS and the address change. -/
def Obligations.RegisterCommandRefusals : Prop :=
  (∀ (i : Instr) (s : State) (rq : Req) (a : Nat), registerOf i = some (rq, a) → rq.priv = false → exec i s = .next (s.withChip (s.chip.err rq errBadAccess a))) ∧
  (∀ (i : Instr) (s : State) (rq : Req) (a : Nat), registerOf i = some (rq, a) → rq.priv = true → s.chip.addrOff a = true →
    exec i s = .next (s.withChip (s.chip.err rq errOffAccess a)))

/-- Reading an address that no register of the requester's map holds returns 0, writing it is ignored, and either sets the BAD_ACCESS
flag of the requester: GLB_STATUS, or its own status for a VF. Nothing else changes but the register that keeps the address of a
first error. -/
def Obligations.UnlistedAccess : Prop :=
  (∀ (s : State) (rq : Req) (a : Nat) (v : BitVec 64), a % 4 = 0 → s.chip.target rq a = none →
    exec (.registerWrite rq a v false true) s = .next (s.withChip (s.chip.err rq errBadAccess a))) ∧
  (∀ (s : State) (rq : Req) (a : Nat), a % 4 = 0 → s.chip.target rq a = none →
    exec (.badRead rq a false) s = .next (s.withChip ((s.chip.err rq errBadAccess a).emit (.readData rq a 0)))) ∧
  (∀ (s : State) (rq : Req) (a : Nat), a % 4 = 0 → s.chip.target rq a = none →
    exec (.latchingRead rq a false) s = .next (s.withChip ((s.chip.err rq errBadAccess a).emit (.readData rq a 0)))) ∧
  (∀ (s : State) (rq : Req) (a : Nat) (v : BitVec 64), a % 8 = 0 → s.chip.target rq a = none →
    (s.chip.err rq errBadAccess a).target rq (a + 4) = none → exec (.registerWrite rq a v true true) s
      = .next (s.withChip ((s.chip.err rq errBadAccess a).err rq errBadAccess (a + 4)))) ∧
  (∀ (s : State) (rq : Req) (a : Nat), a % 8 = 0 → s.chip.target rq a = none →
    (s.chip.err rq errBadAccess a).target rq (a + 4) = none → exec (.badRead rq a true) s
      = .next (s.withChip (((s.chip.err rq errBadAccess a).err rq errBadAccess (a + 4)).emit (.readData rq a 0)))) ∧
  (∀ (c : Chip) (rq : Req) (a : Nat), (c.err rq errBadAccess a).on (statusOf rq) ⟨1, 1⟩ = true) ∧
  (∀ (c : Chip) (rq : Req) (a : Nat), ∃ r, c.err rq errBadAccess a = { c with regs := r }) ∧
  (∀ (c : Chip) (rq : Req) (a k : Nat), k ≠ statusOf rq → k ≠ errAddrOf rq → (c.err rq errBadAccess a).reg k = c.reg k)

/-- Reading a listed register of a block that is off returns 0, writing it is ignored, and either sets the requester's OFF_ACCESS flag.
The blocks of AON, GLB, RST, BOOT, PWR and FLT, are never off. -/
def Obligations.PoweredOffAccess : Prop :=
  (∀ (s : State) (rq : Req) (a : Nat) (v : BitVec 64) (k : Nat) (d : RegDesc) (ix : List Nat), a % 4 = 0 →
    s.chip.target rq a = some (k, d, ix) → s.chip.addrOff k = true →
    exec (.registerWrite rq a v false true) s = .next (s.withChip (s.chip.err rq errOffAccess a))) ∧
  (∀ (s : State) (rq : Req) (a k : Nat) (d : RegDesc) (ix : List Nat), a % 4 = 0 →
    s.chip.target rq a = some (k, d, ix) → s.chip.addrOff k = true →
    exec (.badRead rq a false) s = .next (s.withChip ((s.chip.err rq errOffAccess a).emit (.readData rq a 0)))) ∧
  (∀ (c : Chip) (rq : Req) (a : Nat), (c.err rq errOffAccess a).on (statusOf rq) ⟨4, 1⟩ = true) ∧
  (∀ (c : Chip) (a : Nat), a < 0x50000 → c.addrOff a = false)

/-- The first access error of a requester since its flags were clear leaves its kind and address in the error-address register, with the
requester's code in GLB_ERR_ADDR; a later one leaves that register. An error sets its own flag and leaves the other bits of the
status. A VF's errors reach only its own registers, never GLB_STATUS. That the flags all clear is what makes an error the first is
the model's reading (log 22). -/
def Obligations.FirstErrorAddress : Prop :=
  (∀ (c : Chip) (rq : Req) (b a : Nat), b < 5 → c.rd (statusOf rq) % 32 = 0 →
    (c.err rq b a).reg (errAddrOf rq) = BitVec.ofNat 32 (errWord rq b a)) ∧
  (∀ (c : Chip) (rq : Req) (b a : Nat), c.rd (statusOf rq) % 32 ≠ 0 → (c.err rq b a).reg (errAddrOf rq) = c.reg (errAddrOf rq)) ∧
  (∀ (c : Chip) (rq : Req) (b a : Nat) (f : BF), b < 5 → f.lo + f.width ≤ b ∨ b + 1 ≤ f.lo →
    (c.err rq b a).on (statusOf rq) ⟨b, 1⟩ = true ∧ (c.err rq b a).fld (statusOf rq) f = c.fld (statusOf rq) f) ∧
  (∀ (c : Chip) (n : Fin 64) (b a : Nat), (c.err (.vf n) b a).reg Reg.GLB_STATUS = c.reg Reg.GLB_STATUS ∧
    (c.err (.vf n) b a).reg Reg.GLB_ERR_ADDR = c.reg Reg.GLB_ERR_ADDR) ∧
  (∀ (c : Chip) (n j : Fin 64) (b a : Nat), j ≠ n → (c.err (.vf n) b a).reg (Reg.VF_STATUS j) = c.reg (Reg.VF_STATUS j) ∧
    (c.err (.vf n) b a).reg (Reg.VF_ERR_ADDR j) = c.reg (Reg.VF_ERR_ADDR j))

/-- A 64-bit counter that rises by n holds its old value plus n modulo 2^64, and no other counter changes but the programmable counters
that count its event. A 32-bit counter stops at 0xFFFF_FFFF and stays there; no other register changes. -/
def Obligations.CountersWrapOrStop : Prop :=
  (∀ (c : Chip) (k n : Nat), ((c.bump k n).cnt k).toNat = ((c.cnt k).toNat + n) % 2 ^ 64) ∧
  (∀ (c : Chip) (k n j : Nat), j ≠ k → (∀ i, i < 64 → j ≠ Reg.PMC_CTR i) → (c.bump k n).cnt j = c.cnt j) ∧
  (∀ (c : Chip) (k n : Nat), (c.sat k n).rd k = min (c.rd k + n) 0xFFFFFFFF) ∧
  (∀ (c : Chip) (k n : Nat), c.rd k = 0xFFFFFFFF → (c.sat k n).rd k = 0xFFFFFFFF) ∧
  (∀ (c : Chip) (k n j : Nat), j ≠ k → (c.sat k n).reg j = c.reg j)

/-- Bytes stored in HBM or an extension device, or in a flash slot, read back as they were stored, and every other byte reads as before.
A flash part that is erased reads 0xFF throughout and every other byte of flash as before (that erased flash reads 0xFF is the
model's reading, log 7). A reset that loses HBM leaves every byte of the extension devices. -/
def Obligations.ByteMemoriesReadBack : Prop :=
  (∀ (m : Store) (a : Nat) (l : List Byte), (m.wr a l).rd a l.length = l) ∧
  (∀ (m : Store) (a b : Nat) (l : List Byte), b < a ∨ a + l.length ≤ b → (m.wr a l).rd b 1 = m.rd b 1) ∧
  (∀ (m : Store) (s o : Nat) (l : List Byte), (m.flashWr s o l).flashRd s o l.length = l) ∧
  (∀ (m : Store) (s o b : Nat) (l : List Byte), b < s * 2 ^ 28 + o ∨ s * 2 ^ 28 + o + l.length ≤ b →
    (m.flashWr s o l).flashRd 0 b 1 = m.flashRd 0 b 1) ∧
  (∀ (m : Store) (s o n i : Nat), i < n → (m.flashErase s o n).flashRd s (o + i) 1 = [0xFF]) ∧
  (∀ (m : Store) (s o n b : Nat), b < s * 2 ^ 28 + o ∨ s * 2 ^ 28 + o + n ≤ b →
    (m.flashErase s o n).flashRd 0 b 1 = m.flashRd 0 b 1) ∧
  (∀ (m : Store) (b : Nat), 2 ^ 60 ≤ b → m.lostHbm.rd b 1 = m.rd b 1)

/-- With diff(a, b) the signed 16-bit difference, and done(s, e) when slot s is committed or sweeping and diff(e, its epoch) is 0 or
more, a version is visible at epoch e exactly when its CV is 0 or the slot that created it is done, and it is not so that its RV is
1 and the slot that retired it is done. An exact match, a prefix match and an indexed read answer visible versions only, in every
store alike where no store holds a stale entry (one that missed writes while it was down, R178, R343). -/
def Obligations.VersionsVisible : Prop :=
  (∀ a b : BitVec 16, epochDiff a.toNat b.toNat = (a - b).toInt) ∧
  (∀ (c : Chip) (s e : Nat), c.slotDone s e = true ↔
    (c.fld (Reg.UPD_SLOT s) Fd.UPD_SLOT_STATE = 3 ∨ c.fld (Reg.UPD_SLOT s) Fd.UPD_SLOT_STATE = 4) ∧
      0 ≤ epochDiff e (c.fld (Reg.UPD_SLOT s) Fd.UPD_SLOT_EPOCH)) ∧
  (∀ (c : Chip) (t e : Nat), c.visible t e = true ↔
    (bitOf t 17 = false ∨ c.slotDone (bitsOf t 16 9) e = true) ∧ ¬ (bitOf t 8 = true ∧ c.slotDone (bitsOf t 7 0) e = true)) ∧
  (∀ (c : Chip) (k phys e : Nat) (key : List Nat), (c.findEm k phys key e).2.hit = true →
    c.visible ((c.asStore k).emTagAt (c.findEm k phys key e).2.loc) e = true) ∧
  (∀ (c : Chip) (k vrf a e i : Nat) (v6 : Bool) (p : Pfx), (c.findLpm k v6 vrf a e).2.1 = some (i, p) → c.visible p.tag e = true) ∧
  (∀ (c : Chip) (t i e v : Nat), (c.ixRead t i e).1 = some v → c.visible (tagOf (ixBits t) v) e = true) ∧
  (∀ (c : Chip) (j k phys e : Nat) (key : List Nat), c.tbl.staleEm = [] → c.tbl.staleLpm4 = [] → c.tbl.staleLpm6 = [] → c.tbl.staleIdx = [] → 
    (c.findEm j phys key e).2.hit = (c.findEm k phys key e).2.hit ∧
    (c.findEm j phys key e).2.entry = (c.findEm k phys key e).2.entry) ∧
  (∀ (c : Chip) (j k vrf a e : Nat) (v6 : Bool), c.tbl.staleEm = [] → c.tbl.staleLpm4 = [] → c.tbl.staleLpm6 = [] → c.tbl.staleIdx = [] → 
    (c.findLpm j v6 vrf a e).2.1 = (c.findLpm k v6 vrf a e).2.1) ∧
  (∀ (c : Chip) (j k t i e : Nat), c.tbl.staleEm = [] → c.tbl.staleLpm4 = [] → c.tbl.staleLpm6 = [] → c.tbl.staleIdx = [] → 
    (c.findIx j t i e).2.hit = (c.findIx k t i e).2.hit ∧
    (c.findIx j t i e).2.entry = (c.findIx k t i e).2.entry)

/-- A command of an update descriptor does nothing while its ring cannot be served. On a standby it completes with the standby code. A
descriptor whose SEQ leaves a gap completes with SEQ_GAP, one that is not above LAST is counted and gets the remembered completion
again, or STALE_SEQ when it is no longer remembered; LAST is not changed by these. The next descriptor in turn whose reserved fields
are set is taken as the last accepted one and completes with BAD_DESC. -/
def Obligations.DescriptorsOutOfTurn : Prop :=
  (∀ (i : Instr) (s : State) (p r : Nat) (d : Desc), descriptorOf i = some (p, r, d) → s.chip.ringReady p r = false → exec i s = .next s) ∧
  (∀ (i : Instr) (s : State) (p r : Nat) (d : Desc), descriptorOf i = some (p, r, d) → s.chip.ringReady p r = true → (s.chip.ringAdvance p r).standby = true → exec i s = .next (s.withChip
    ((s.chip.ringAdvance p r).putCompl ⟨p, r, d.seq.toNat, d.op.toNat, cStandby, d.slot.val, 0, 0, false⟩ false))) ∧
  (∀ (i : Instr) (s : State) (p r : Nat) (d : Desc), descriptorOf i = some (p, r, d) → s.chip.ringReady p r = true → (s.chip.ringAdvance p r).standby = false → (s.chip.ringAdvance p r).ringLast p r + 1 < d.seq.toNat →
    exec i s = .next (s.withChip
      ((s.chip.ringAdvance p r).putCompl ⟨p, r, d.seq.toNat, d.op.toNat, cSeqGap, d.slot.val, 0, 0, false⟩ false))) ∧
  (∀ (i : Instr) (s : State) (p r : Nat) (d : Desc), descriptorOf i = some (p, r, d) → s.chip.ringReady p r = true → (s.chip.ringAdvance p r).standby = false → d.seq.toNat ≤ (s.chip.ringAdvance p r).ringLast p r →
    (((s.chip.ringAdvance p r).bump (Reg.RING_CNT p r 2) 1).ringHist p r).find? (fun y => y.seq == d.seq.toNat) = none →
    exec i s = .next (s.withChip (((s.chip.ringAdvance p r).bump (Reg.RING_CNT p r 2) 1).putCompl
      ⟨p, r, d.seq.toNat, d.op.toNat, cStaleSeq, d.slot.val, 0, 0, false⟩ false))) ∧
  (∀ (i : Instr) (s : State) (p r : Nat) (d : Desc) (y : Compl), descriptorOf i = some (p, r, d) → s.chip.ringReady p r = true →
    (s.chip.ringAdvance p r).standby = false → d.seq.toNat ≤ (s.chip.ringAdvance p r).ringLast p r →
    (((s.chip.ringAdvance p r).bump (Reg.RING_CNT p r 2) 1).ringHist p r).find? (fun y => y.seq == d.seq.toNat) = some y →
    exec i s = .next (s.withChip (((s.chip.ringAdvance p r).bump (Reg.RING_CNT p r 2) 1).post { y with silent := false } true))) ∧
  (∀ (i : Instr) (s : State) (p r : Nat) (d : Desc), descriptorOf i = some (p, r, d) → s.chip.ringReady p r = true → (s.chip.ringAdvance p r).standby = false → d.seq.toNat = (s.chip.ringAdvance p r).ringLast p r + 1 →
    d.rsv = true → exec i s = .next (s.withChip ((s.chip.descChip p r d).complete { s.chip.descCompl p r d with code := cBadDesc }))) ∧
  (∀ (c : Chip) (p r v : Nat), v < 2 ^ 64 → (c.setLast p r v).ringLast p r = v)

/-- A spare-lane message that no spare in use accepts, or whose check code, spare index, OP or repetition is wrong, changes nothing. A
Tether message with a bad FCS, or while the Tether is disabled, changes nothing. -/
def Obligations.MessagesNotForUs : Prop :=
  (∀ (i : Instr) (s : State) (p j op : Nat) (m : SpareMsg), spareMsgOf i = some (p, j, op, m) → s.chip.sparePort p j = none →
    exec i s = .next s) ∧
  (∀ (i : Instr) (s : State) (p j op : Nat) (m : SpareMsg), spareMsgOf i = some (p, j, op, m) → s.chip.spareMsgOk p j op m = false →
    exec i s = .next s) ∧
  (∀ (c : Chip) (p j op : Nat) (m : SpareMsg), crc8 m.d1 m.d2 ≠ m.d3.toNat → c.spareMsgOk p j op m = false) ∧
  (∀ (c : Chip) (p j op : Nat) (m : SpareMsg), m.slots < 3 → c.spareMsgOk p j op m = false) ∧
  (∀ (c : Chip) (p j op : Nat) (m : SpareMsg), m.d2.toNat / 128 ≠ j → c.spareMsgOk p j op m = false) ∧
  (∀ (i : Instr) (s : State) (m : TetMsg), tetMsgOf i = some m → s.chip.on Reg.TET_CTRL Fd.TET_CTRL_EN = false ∨ m.fcsGood = false →
    exec i s = .next s)

/-- The CRC of R118 is 8 bits wide and is 0 for two zero bytes; two messages that differ in one of D1 and D2 alone never have the same
code, so that every error within one byte is seen. -/
def Obligations.SpareCodeTellsBytes : Prop :=
  (∀ a b : Byte, crc8 a b < 256) ∧ crc8 0 0 = 0 ∧ (∀ a b d : Byte, a ≠ d → crc8 a b ≠ crc8 d b) ∧
  (∀ a b d : Byte, b ≠ d → crc8 a b ≠ crc8 a d)

/-- The two buckets of a key in a physical partition differ, and both are buckets of the profile, 4,096 in Core and 8,192 in Edge; its
logical partition is one of 64. -/
def Obligations.HashBucketsDiffer : Prop :=
  (∀ (c : Chip) (q : Nat) (k : List Nat), (c.emBuckets q k).1 ≠ (c.emBuckets q k).2) ∧
  (∀ (c : Chip) (q : Nat) (k : List Nat), c.edge = false → (c.emBuckets q k).1 < 4096 ∧ (c.emBuckets q k).2 < 4096) ∧
  (∀ (c : Chip) (q : Nat) (k : List Nat), c.edge = true → (c.emBuckets q k).1 < 8192 ∧ (c.emBuckets q k).2 < 8192) ∧
  (∀ k : List Nat, emLogical k < 64)

/-- A selection by a slice from a visible group with base b and size n reads the member slot b + (HASH * n >> 16), which lies in b to b
+ n - 1, and what it answers is the next hop that the slot names, visible and not itself a group; a size of 0 answers reason 0x26.
Equal hashes, sizes and bases take the same slot. -/
def Obligations.MemberOfItsGroup : Prop :=
  (∀ (c : Chip) (k e g hash nhi x : Nat), hash < 65536 → (c.pickMember k e g hash).2 = .ok nhi x →
    bitsOf (c.findIx (storeOf k) 2 g e).2.entry 45 26 + hash * bitsOf (c.findIx (storeOf k) 2 g e).2.entry 25 13 / 65536
        < bitsOf (c.findIx (storeOf k) 2 g e).2.entry 45 26 + bitsOf (c.findIx (storeOf k) 2 g e).2.entry 25 13 ∧
      nhi = bitsOf (((c.findIx (storeOf k) 2 g e).1.bump (Reg.CLS_CNT k 3) 1).findIx (storeOf k) 1 (bitsOf (c.findIx (storeOf k) 2 g e).2.entry 45 26
        + hash * bitsOf (c.findIx (storeOf k) 2 g e).2.entry 25 13 / 65536) e).2.entry 45 26 ∧ bitsOf x 109 108 ≠ 1) ∧
  (∀ (c : Chip) (k e g hash : Nat), (c.findIx (storeOf k) 2 g e).2.err = 0 → (c.findIx (storeOf k) 2 g e).2.hit = true →
    bitsOf (c.findIx (storeOf k) 2 g e).2.entry 25 13 = 0 → (c.pickMember k e g hash).2 = .bad 0x26)

/-- In every register row the fields lie within 32 bits, share no bit, and hold reset values that fit. -/
def Obligations.RegisterTableSound : Prop :=
  (∀ d ∈ regTable, ∀ f ∈ d.fields, f.lo + f.width ≤ 32 ∧ f.reset < 2 ^ f.width) ∧
  (∀ d ∈ regTable, d.fields.Pairwise (fun f g => f.lo + f.width ≤ g.lo ∨ g.lo + g.width ≤ f.lo))

/-- A field locked by GLB_LOCK, or static in a running block, keeps its value; a read-only field and a write-only field keep theirs; a
read-write field takes the value written, unless its row clamps it; a 1 clears a W1C bit and sets a W1S bit, and a 0 leaves it. A
field is held where its type is RWL and the lock is set, or its class is static and its block runs. -/
def Obligations.FieldsByAccessType : Prop :=
  (∀ (l r : Bool) (cur : Word) (k v : Nat) (d : RegDesc) (ix : List Nat) (f : FieldDesc), descOf k = some (d, ix) → f ∈ d.fields → fieldHeld l r f = true → bfGet ⟨f.lo, f.width⟩ (fieldsNew l r d.fields cur v) = bfGet ⟨f.lo, f.width⟩ cur) ∧
  (∀ (l r : Bool) (cur : Word) (k v : Nat) (d : RegDesc) (ix : List Nat) (f : FieldDesc), descOf k = some (d, ix) → f ∈ d.fields → f.type = .ro ∨ f.type = .ros ∨ f.type = .rcs ∨ f.type = .wo → bfGet ⟨f.lo, f.width⟩ (fieldsNew l r d.fields cur v) = bfGet ⟨f.lo, f.width⟩ cur) ∧
  (∀ (l r : Bool) (cur : Word) (k v : Nat) (d : RegDesc) (ix : List Nat) (f : FieldDesc), descOf k = some (d, ix) → f ∈ d.fields → fieldHeld l r f = false → f.type = .rw ∨ f.type = .rwh ∨ f.type = .rwl → (∀ x y, f.limit ≠ .clamp x y) →
    (∀ x y, f.limit ≠ .sclamp x y) → bfGet ⟨f.lo, f.width⟩ (fieldsNew l r d.fields cur v) = bfGet ⟨f.lo, f.width⟩ (BitVec.ofNat 32 v)) ∧
  (∀ (l r : Bool) (cur : Word) (k v : Nat) (d : RegDesc) (ix : List Nat) (f : FieldDesc), descOf k = some (d, ix) → f ∈ d.fields → fieldHeld l r f = false → f.type = .w1c → bfGet ⟨f.lo, f.width⟩ (fieldsNew l r d.fields cur v) = (bfGet ⟨f.lo, f.width⟩ cur &&& (2 ^ f.width - 1 - bfGet ⟨f.lo, f.width⟩ (BitVec.ofNat 32 v)))) ∧
  (∀ (l r : Bool) (cur : Word) (k v : Nat) (d : RegDesc) (ix : List Nat) (f : FieldDesc), descOf k = some (d, ix) → f ∈ d.fields → fieldHeld l r f = false → f.type = .w1s → bfGet ⟨f.lo, f.width⟩ (fieldsNew l r d.fields cur v) = (bfGet ⟨f.lo, f.width⟩ cur ||| bfGet ⟨f.lo, f.width⟩ (BitVec.ofNat 32 v))) ∧
  (∀ (f : FieldDesc) (l r : Bool), fieldHeld l r f = true ↔ (f.type = .rwl ∧ l = true) ∨ (f.cls = .static ∧ r = true))

/-- A 32-bit write by any requester but a VF, of a register that is listed, readable, of plain layout and without an effect of its own:
a value or a combination that the register does not allow sets BAD_VALUE and stores nothing; any other is stored field by field,
LOCK_WRITE and CFG_IGNORED are set where a held field was given another value, SHADOW_PENDING where a field is of the epoch class, a
scheduler whose visit has ended through a write of the traffic manager moves on (R265), and nothing else changes. -/
def Obligations.OrdinaryRegisterWrite : Prop :=
  (∀ (s : State) (rq : Req) (a k v : Nat) (d : RegDesc) (ix : List Nat), v < 2 ^ 32 → rq.priv = true → s.chip.target rq a = some (k, d, ix) → a % 4 = 0 → s.chip.addrOff k = false → d.width = .w32 → d.scope ≠ .bcast →
    d.name ∉ ["FLT_CTRL", "FLT_WDT_KICK", "PWR_RTC_HI", "PWR_RTC_LO", "DTM_CLK_INC_HI", "DTM_CLK_INC_LO", "DTM_CLK_ADJ", "PORT_CTRL", "PRS_RD_ADDR", "RWR_RD_ADDR", "CLS_RD_ADDR", "PAR_CTRL", "VF_DOORBELL", "GLB_LOCK", "DTM_CTRL", "DTM_CFG", "MGT_DBG_CTRL", "MGT_DBG_CFG", "PMC_SNAP_CTRL", "TET_CTRL", "MEM_RANK", "BPM_XP_CFG", "MSIX_TABLE", "TM_POL_CBS", "TM_POL_XBS", "UPD_CFG", "TM_Q_RATE", "TM_Q_BURST", "TM_N_RATE", "TM_N_BURST", "TM_G_RATE", "TM_G_BURST", "TM_P_RATE", "TM_P_BURST", "FLT_STATUS", "BPM_AUDIT_CFG", "TM_SAMP_PROF", "FBK_PORT_SAMPLE", "TM_Q_CFG0", "TM_P_CFG"] → isAction k = false → isBkp k = false →
    (!fieldsOk (fieldsOf d ix) v || !s.chip.comboOk k d.name ix (fieldsNew s.chip.locked (s.chip.running k) (fieldsOf d ix) (s.chip.reg k) v)) = true →
    exec (.registerWrite rq a (BitVec.ofNat 64 v) false true) s = .next (s.withChip (s.chip.err rq errBadValue a))) ∧
  (∀ (s : State) (rq : Req) (a k v : Nat) (d : RegDesc) (ix : List Nat), v < 2 ^ 32 → rq.priv = true → s.chip.target rq a = some (k, d, ix) → a % 4 = 0 → s.chip.addrOff k = false → d.width = .w32 → d.scope ≠ .bcast →
    d.name ∉ ["FLT_CTRL", "FLT_WDT_KICK", "PWR_RTC_HI", "PWR_RTC_LO", "DTM_CLK_INC_HI", "DTM_CLK_INC_LO", "DTM_CLK_ADJ", "PORT_CTRL", "PRS_RD_ADDR", "RWR_RD_ADDR", "CLS_RD_ADDR", "PAR_CTRL", "VF_DOORBELL", "GLB_LOCK", "DTM_CTRL", "DTM_CFG", "MGT_DBG_CTRL", "MGT_DBG_CFG", "PMC_SNAP_CTRL", "TET_CTRL", "MEM_RANK", "BPM_XP_CFG", "MSIX_TABLE", "TM_POL_CBS", "TM_POL_XBS", "UPD_CFG", "TM_Q_RATE", "TM_Q_BURST", "TM_N_RATE", "TM_N_BURST", "TM_G_RATE", "TM_G_BURST", "TM_P_RATE", "TM_P_BURST", "FLT_STATUS", "BPM_AUDIT_CFG", "TM_SAMP_PROF", "FBK_PORT_SAMPLE", "TM_Q_CFG0", "TM_P_CFG"] → isAction k = false → isBkp k = false →
    fieldsOk (fieldsOf d ix) v = true →
    s.chip.comboOk k d.name ix (fieldsNew s.chip.locked (s.chip.running k) (fieldsOf d ix) (s.chip.reg k) v) = true →
    let c1 := if heldDiffers (fun f => f.type == .rwl && s.chip.locked) (fieldsOf d ix) (s.chip.reg k) v then s.chip.err rq errLockWrite a else s.chip
    let c2 := if heldDiffers (fun f => f.cls == .static && s.chip.running k) (fieldsOf d ix) (s.chip.reg k) v then c1.err rq errCfgIgnored a else c1
    let c3 := c2.wr k (fieldsNew c2.locked (s.chip.running k) (fieldsOf d ix) (c2.reg k) v)
    let c4 := if hasEpoch (fieldsOf d ix) then c3.setF Reg.GLB_STATUS Fd.GLB_STATUS_SHADOW_PENDING 1 else c3
    exec (.registerWrite rq a (BitVec.ofNat 64 v) false true) s
      = .next (s.withChip (if Reg.TM_Q_CFG0 0 ≤ k ∧ k < 0x30000000 then c4.settleDrr else c4)))

/-- From any state whose memories are in canonical form, n steps answer a state: none of them faults or is refused, the memories stay
canonical, and n commands, or all that waited, have left the queue. -/
def Obligations.AllRunsAreSafe : Prop :=
  ∀ (n : Nat) (s : State), Canonical s → ∃ t, run n s = some t ∧ Canonical t ∧ t.pending = s.pending.drop n

/-- n steps with no command waiting advance the time of day by n ticks of 1,250 ps and the time base by as many 1.25 ns, wrapping with
its width, and store no byte. That an idle step is one tick is the model's choice (log 3). -/
def Obligations.TicksAddUp : Prop :=
  ∀ (n : Nat) (s : State), s.pending = [] → ∃ t, run n s = some t ∧ t.pending = [] ∧ t.store = s.store ∧
    t.chip.now = s.chip.now + 1250 * n ∧ t.chip.time.tmBase = s.chip.time.tmBase + 5368709120 * BitVec.ofNat 96 n

/-- A descriptor whose OP is listed and which sets no reserved field is read back, with every field, from its 64 bytes; and 64 bytes
that set no reserved field are exactly those of the descriptor that they spell. -/
def Obligations.DescriptorRoundTrip : Prop :=
  (∀ d : Desc, d.rsv = false → opListed d.op.toNat = true → descBack (descBytes d) = d) ∧
  (∀ l : List Byte, l.length = 64 → (descBack l).rsv = false → descBytes (descBack l) = l)

/-- Metering brings the buckets up to date first: each gains the whole bytes that its rate and the time give, the remainder is carried,
and it is capped at its size. A green result takes B from Tc, and from Tp in trTCM; a yellow result takes B from Te or Tp; a red
result takes nothing. A bucket is never left above its size, nothing is taken that is not there, and an incoming red stays red where
the policer sees colours. -/
def Obligations.PolicerBuckets : Prop :=
  (∀ (rate span carry : Nat), 8000000 * 2 ^ 32 * (tokenGain rate span carry).1 + (tokenGain rate span carry).2 = rate * span + carry ∧
    (tokenGain rate span carry).2 < 8000000 * 2 ^ 32) ∧
  (∀ (c : Chip) (i : Nat), let b := c.refillPolicer i
    b.rd (Reg.TM_POL_TC i) = min (c.rd (Reg.TM_POL_TC i) + (tokenGain (c.fld (Reg.TM_POL_CIR i) Fd.TM_POL_CIR_RATE)
      (c.tb - mget (fun _ => 0) c.tm.polAt i) (mget (fun _ => (0, 0)) c.tm.polFrac i).1).1) (c.fld (Reg.TM_POL_CBS i) Fd.TM_POL_CBS_SIZE) ∧
    b.rd (Reg.TM_POL_TX i) ≤ c.fld (Reg.TM_POL_XBS i) Fd.TM_POL_XBS_SIZE ∧
    (∀ j, j ≠ Reg.TM_POL_TC i → j ≠ Reg.TM_POL_TX i → b.reg j = c.reg j)) ∧
  (∀ (c : Chip) (i len colour : Nat), let b := c.refillPolicer i
    let n := adjusted len (c.fld (Reg.TM_POL_CFG i) Fd.TM_POL_CFG_ADJ)
    let r := c.police i len colour
    (r.2 = green ∧ n ≤ b.rd (Reg.TM_POL_TC i) ∧ r.1.rd (Reg.TM_POL_TC i) = b.rd (Reg.TM_POL_TC i) - n ∧
        r.1.rd (Reg.TM_POL_TX i) = b.rd (Reg.TM_POL_TX i) - (if c.on (Reg.TM_POL_CFG i) Fd.TM_POL_CFG_MODE then n else 0)) ∨
      (r.2 = yellow ∧ n ≤ b.rd (Reg.TM_POL_TX i) ∧ r.1.rd (Reg.TM_POL_TC i) = b.rd (Reg.TM_POL_TC i) ∧
        r.1.rd (Reg.TM_POL_TX i) = b.rd (Reg.TM_POL_TX i) - n) ∨
      (r.2 = red ∧ r.1.rd (Reg.TM_POL_TC i) = b.rd (Reg.TM_POL_TC i) ∧ r.1.rd (Reg.TM_POL_TX i) = b.rd (Reg.TM_POL_TX i))) ∧
  (∀ (c : Chip) (i len colour : Nat), c.on (Reg.TM_POL_CFG i) Fd.TM_POL_CFG_AWARE = true → 2 ≤ colour → (c.police i len colour).2 = red) ∧
  (∀ (c : Chip) (i len colour : Nat), c.on (Reg.TM_POL_CFG i) Fd.TM_POL_CFG_AWARE = false →
    (c.police i len colour).2 = (c.police i len green).2)

/-- A restart for a source other than power-on clears every register outside the AON domain and every counter, queue, buffer, table and
mailbox; it keeps the RTC, the boot slot preference and the counts of the other sources, and loses every byte of HBM and none of the
flash or of the extension devices. It records itself as the last cause and counts itself; one that arrives in B0 while causes wait
to be recorded waits after them. -/
def Obligations.RestartKeeps : Prop :=
  (∀ (c : Chip) (code : Nat), 0 < code → code < 7 → let d := c.restarted code
    (∀ k, 0x50000 ≤ k → d.reg k = regDefault k) ∧
    (d.ctrs = [] ∧ d.active = [] ∧ d.prev = [] ∧ d.latches = [] ∧ d.mbx = [] ∧ d.pipe = Chip.reset.pipe ∧ d.bpm = Chip.reset.bpm ∧
      d.tm = Chip.reset.tm ∧ d.tbl = Chip.reset.tbl ∧ d.upd = Chip.reset.upd ∧ d.dtm = Chip.reset.dtm ∧ d.hif = Chip.reset.hif ∧
      d.hbm = Chip.reset.hbm ∧ d.fbk = Chip.reset.fbk ∧ d.tet = Chip.reset.tet ∧ d.pmc = Chip.reset.pmc) ∧
    d.time.rtc = c.time.rtc ∧ d.reg Reg.BOOT_SLOT_PREF = c.reg Reg.BOOT_SLOT_PREF ∧
    (∀ j, j < 7 → j ≠ code → d.reg (Reg.RST_COUNT j) = c.reg (Reg.RST_COUNT j)) ∧
    d.boot.lastReset.map (fun r => (r.cycle, r.code)) = some (c.now / 10000, code) ∧
    (c.boot.phase = 0 ∧ c.boot.trimmed = false ∧ c.boot.causes ≠ [] → d.boot.causes = c.boot.causes ++ [code]) ∧
    (¬ (c.boot.phase = 0 ∧ c.boot.trimmed = false ∧ c.boot.causes ≠ []) →
      d.fld (Reg.RST_COUNT code) Fd.RST_COUNT_COUNT = min (c.fld (Reg.RST_COUNT code) Fd.RST_COUNT_COUNT + 1) 0xFFFF ∧
      d.fld Reg.RST_CAUSE Fd.RST_CAUSE_LAST = code)) ∧
  (∀ (m : Store) (a : Nat), a < 2 ^ 60 → mget memByte m.lostHbm.mem a = memByte a) ∧
  (∀ (m : Store) (a : Nat), 2 ^ 60 ≤ a → mget memByte m.lostHbm.mem a = mget memByte m.mem a) ∧
  (∀ m : Store, m.lostHbm.flash = m.flash)

/-- Bits 31 to 16 of a value written to a mailbox command register are the TAG and bits 15 to 0 the OP. The write starts that operation
with the argument registers as they stand, and RESULT reads PENDING; where a core that serves it does not run, it waits, PENDING.
While PENDING, a command write changes nothing but the requester's BAD_ACCESS flag and the address of a first error. -/
def Obligations.MailboxCommandWrite : Prop :=
  (∀ (s : State) (rq : Req) (a k op : Nat) (tag : BitVec 16) (d : RegDesc) (ix : List Nat) (m : Mbx), op < 2 ^ 16 → s.chip.target rq a = some (k, d, ix) → mbxOfCmd k = some m → a % 4 = 0 → s.chip.addrOff k = false → (m = .rstBlk → op = 1) → (s.chip.mbxFind m).isSome = true →
    exec (.registerWrite rq a (BitVec.ofNat 64 (tag.toNat * 2 ^ 16 + op)) false true) s = .next (s.withChip (s.chip.err rq errBadAccess m.cmd))) ∧
  (∀ (c : Chip) (rq : Req) (a : Nat), (c.err rq errBadAccess a).fld (statusOf rq) ⟨errBadAccess, 1⟩ = 1) ∧
  (∀ (c : Chip) (rq : Req) (a j : Nat), j ≠ statusOf rq → j ≠ errAddrOf rq → (c.err rq errBadAccess a).reg j = c.reg j ∧
    (c.err rq errBadAccess a).mbx = c.mbx) ∧
  (∀ (s : State) (rq : Req) (a k op : Nat) (tag : BitVec 16) (d : RegDesc) (ix : List Nat) (m : Mbx), op < 2 ^ 16 → s.chip.target rq a = some (k, d, ix) → mbxOfCmd k = some m → a % 4 = 0 → s.chip.addrOff k = false → (m = .rstBlk → op = 1) → m.allows rq = true → s.chip.mbxFind m = none →
    s.chip.mbxServed m op = false →
    exec (.registerWrite rq a (BitVec.ofNat 64 (tag.toNat * 2 ^ 16 + op)) false true) s
      = .next (s.withChip { s.chip.pendingIn m with mbx := s.chip.mbx ++ [⟨m, tag.toNat, op, s.chip.mbxArgs m, none, false⟩] })) ∧
  (∀ (s : State) (rq : Req) (a k op : Nat) (tag : BitVec 16) (d : RegDesc) (ix : List Nat) (m : Mbx), op < 2 ^ 16 → s.chip.target rq a = some (k, d, ix) → mbxOfCmd k = some m → a % 4 = 0 → s.chip.addrOff k = false → (m = .rstBlk → op = 1) → m.allows rq = true → s.chip.mbxFind m = none →
    s.chip.mbxServed m op = true → (m = .flt → op = 3 → s.chip.injectCritical (s.chip.mbxArgs m) = false) →
    let r := mbxAct m op (s.chip.mbxArgs m) s.store (s.chip.pendingIn m)
    exec (.registerWrite rq a (BitVec.ofNat 64 (tag.toNat * 2 ^ 16 + op)) false true) s
      = .next (s.withBoth r.1 (r.2.1.mbxTaken m tag op (s.chip.mbxArgs m) r.2.2))) ∧
  (∀ (c : Chip) (m : Mbx), (c.pendingIn m).fld m.result ⟨14, 2⟩ = 1)

/-- A read of CLK_NOW_NS, CLK_PPS_NS, SRV_NOW_NS or SRV_PPS_NS answers the register and latches, for the requester, what the other
registers of its group hold at that tick, in place of what was latched before; no other requester's latch changes. The next read of
such a register by the requester, whatever has happened to the clocks, answers the latched value and uses it up. -/
def Obligations.DatumReadsLatch : Prop :=
  ([0, 1].map (fun x => (nsReg x false, dtmGroup (nsReg x false), nsReg x true, dtmGroup (nsReg x true)))
      = [0, 1].map (fun x => (Reg.DTM_CLK_NOW_NS x, [Reg.DTM_CLK_NOW_NS x + 4, Reg.DTM_CLK_NOW_NS x + 8, Reg.DTM_CLK_NOW_NS x + 12],
          Reg.DTM_CLK_PPS_NS x, [Reg.DTM_CLK_PPS_NS x + 4, Reg.DTM_CLK_PPS_NS x + 8])) ∧
    nsReg 2 false = Reg.DTM_SRV_NOW_NS ∧ dtmGroup (nsReg 2 false) = [4, 8, 12, 16, 20].map (Reg.DTM_SRV_NOW_NS + ·) ∧
    nsReg 2 true = Reg.DTM_SRV_PPS_NS ∧ dtmGroup (nsReg 2 true) = [4, 8].map (Reg.DTM_SRV_PPS_NS + ·)) ∧
  (∀ (s : State) (rq : Req) (clk : Fin 3) (pps : Bool), rq.priv = true → s.chip.addrOff (nsReg clk.val pps) = false → let k := nsReg clk.val pps
    let c := s.chip.setLatch rq latDtm ((dtmGroup k).map (fun j => (j, (s.chip.view j).toNat)))
    exec (.datumNsRead rq clk pps) s = .next (s.withChip (c.emit (.readData rq k (s.chip.view k).toNat))) ∧
    c.latchOf rq latDtm = (dtmGroup k).map (fun j => (j, (s.chip.view j).toNat)) ∧
    (∀ r n, r ≠ rq ∨ n ≠ latDtm → c.latchOf r n = s.chip.latchOf r n)) ∧
  (∀ (s : State) (rq : Req) (clk : Fin 3) (pps : Bool) (j : Nat), rq.priv = true → s.chip.addrOff j = false →
    j ∈ dtmGroup (nsReg clk.val pps) → ∀ v : Nat, (s.chip.latchOf rq latDtm).find? (fun x => x.1 == j) = some (j, v) →
    exec (.latchingRead rq j false) s = .next (s.withChip
      ((s.chip.setLatch rq latDtm ((s.chip.latchOf rq latDtm).filter (fun y => y.1 != j))).emit (.readData rq j v)))) ∧
  (∀ (g : Nat → Nat) (clk : Fin 3) (pps : Bool) (j : Nat), j ∈ dtmGroup (nsReg clk.val pps) →
    ((dtmGroup (nsReg clk.val pps)).map (fun i => (i, g i))).find? (fun x => x.1 == j) = some (j, g j))

/-- A bank with requests serves one of them. In in-order mode, while a request is queued that found one of its row and of the other
direction before it, that is the oldest. Otherwise it is the oldest request beyond the age limit; where none is, the oldest row hit
of the highest class present, and where that class has none, the oldest request of that class. A service takes the request out of
the queue, leaves its row open, and counts in AGE_PROMOTE where the request was picked for its age. -/
def Obligations.BankOrder : Prop :=
  (∀ (b : Bank) (old : BankReq → Bool), (bankPick b old = none ↔ b.queue = [])) ∧
  (∀ (b : Bank) (old : BankReq → Bool) (r : BankReq) (aged : Bool), bankPick b old = some (r, aged) →
    b.queue.any (·.hazard) = true → aged = false ∧ ∃ l, b.queue = r :: l) ∧
  (∀ (b : Bank) (old : BankReq → Bool) (r : BankReq) (aged : Bool), bankPick b old = some (r, aged) →
    b.queue.any (·.hazard) = false → b.queue.any old = true →
    aged = true ∧ old r = true ∧ ∃ l m, b.queue = l ++ r :: m ∧ ∀ x ∈ l, old x = false) ∧
  (∀ (b : Bank) (old : BankReq → Bool) (r : BankReq) (aged : Bool), bankPick b old = some (r, aged) →
    b.queue.any (·.hazard) = false → b.queue.any old = false →
    aged = false ∧ (∀ x ∈ b.queue, r.cls ≤ x.cls) ∧ ∃ l m, b.queue = l ++ r :: m ∧
      if b.queue.any (fun x => decide (x.cls = r.cls) && decide (b.openRow = some x.row)) = true
      then b.openRow = some r.row ∧ ∀ x ∈ l, x.cls = r.cls → b.openRow ≠ some x.row
      else ∀ x ∈ l, x.cls ≠ r.cls) ∧
  (∀ (c : Chip) (key : Nat) (r : BankReq) (aged : Bool),
    bankPick (mget noBank c.hbm.banks key) (c.reqOld (key / 65536)) = some (r, aged) →
    let d := (c.serveReq key).1
    mget noBank d.hbm.banks key = ⟨some r.row, (mget noBank c.hbm.banks key).queue.erase r⟩ ∧
    (∀ j, j ≠ key → mget noBank d.hbm.banks j = mget noBank c.hbm.banks j) ∧
    d.ctrs = (if aged then c.bump (Reg.MEM_CNT (key / 65536) 7) 1 else c).ctrs)

/-- A counter of a hart rises by what it counts, wrapping at 2^64, and no other counter changes. Where it wraps with its overflow
interrupt enabled and none waits, the interrupt waits for at most 6 further retired instructions; it is taken as soon as so many
have retired, and then its mepc lies 0 to 6 instructions after the cause. -/
def Obligations.HartCounters : Prop :=
  (∀ (c : Chip) (h r n : Nat), (pmuCount h r n c).pmuGet h r = c.pmuGet h r + BitVec.ofNat 64 n ∧
    (∀ g k, 8192 * g + k ≠ 8192 * h + r → (pmuCount h r n c).pmuGet g k = c.pmuGet g k) ∧
    (pmuCount h r n c).regs = c.regs ∧ (pmuCount h r n c).dbg.pmuIrq = c.dbg.pmuIrq) ∧
  (∀ (c : Chip) (h r n : Nat), 2 ^ 64 ≤ (c.pmuGet h r).toNat + n →
    (mget (fun _ => 0) c.dbg.pmuIrq h).getLsbD (pmuCtrs.idxOf r) = true → mfind c.dbg.pmuWait h = none →
    ∃ k : Fin 7, mfind (pmuCount h r n c).dbg.pmuWait h = some (k.val, k)) ∧
  (∀ (c : Chip) (h r n : Nat), (c.pmuGet h r).toNat + n < 2 ^ 64 ∨
    (mget (fun _ => 0) c.dbg.pmuIrq h).getLsbD (pmuCtrs.idxOf r) = false ∨ (mfind c.dbg.pmuWait h).isSome = true →
    (pmuCount h r n c).dbg.pmuWait = c.dbg.pmuWait) ∧
  (∀ (c : Chip) (h retired left : Nat) (k : Fin 7), mfind c.dbg.pmuWait h = some (left, k) → left ≤ retired →
    (c.pmuTake h retired).2 = true ∧ mfind (c.pmuTake h retired).1.dbg.pmuWait h = none ∧
    mfind (c.pmuTake h retired).1.dbg.mepcSkid h = some k) ∧
  (∀ (c : Chip) (h retired left : Nat) (k : Fin 7), mfind c.dbg.pmuWait h = some (left, k) → retired < left →
    (c.pmuTake h retired).2 = false ∧ mfind (c.pmuTake h retired).1.dbg.pmuWait h = some (left - retired, k) ∧
    (c.pmuTake h retired).1.dbg.mepcSkid = c.dbg.mepcSkid)
end

