-- ==== Sys2Proof/Laws/Maps.lean ====
section
/-!
SUPPORT. What the sparse maps do: reading after a write, and the canonical form kept by every change. Reading after a write needs no
premise on the map.
-/

namespace Sys2Proof.Machine

variable {α : Type}

theorem mfind_mput_same (m : NMap α) (k : Nat) (v : α) : mfind (mput m k v) k = some v := by
  induction m with
  | nil => simp [mput, mfind]
  | cons x m ih =>
    obtain ⟨j, w⟩ := x
    simp only [mput]
    split
    · simp [mfind]
    · split
      · simp [mfind]
      · rename_i h; simp [mfind, h, ih]

theorem mfind_mput_other (m : NMap α) (k j : Nat) (v : α) (h : j ≠ k) : mfind (mput m k v) j = mfind m j := by
  induction m with
  | nil => simp [mput, mfind, Ne.symm h]
  | cons x m ih =>
    obtain ⟨i, w⟩ := x
    simp only [mput]
    split
    · simp [mfind, Ne.symm h]
    · split
      · rename_i e; subst e; simp [mfind, Ne.symm h]
      · simp only [mfind, ih]

theorem mfind_mdel_same (m : NMap α) (k : Nat) : mfind (mdel m k) k = none := by
  induction m with
  | nil => rfl
  | cons x m ih =>
    obtain ⟨i, w⟩ := x
    simp only [mdel]
    split
    · exact ih
    · rename_i h; simp [mfind, h, ih]

theorem mfind_mdel_other (m : NMap α) (k j : Nat) (h : j ≠ k) : mfind (mdel m k) j = mfind m j := by
  induction m with
  | nil => rfl
  | cons x m ih =>
    obtain ⟨i, w⟩ := x
    simp only [mdel]
    split
    · rename_i e; subst e; simp [mfind, Ne.symm h, ih]
    · simp [mfind, ih]

theorem mget_nil (d : Nat → α) (k : Nat) : mget d [] k = d k := rfl

/-- A read after a write of the same key gives the value written. -/
@[simp] theorem mget_mset_same [DecidableEq α] (d : Nat → α) (m : NMap α) (k : Nat) (v : α) : mget d (mset d m k v) k = v := by
  unfold mget mset
  split
  · rename_i e; rw [mfind_mdel_same]; exact e.symm
  · rw [mfind_mput_same]; rfl

/-- A write leaves every other key alone. -/
theorem mget_mset_other [DecidableEq α] (d : Nat → α) (m : NMap α) (k j : Nat) (v : α) (h : j ≠ k) :
    mget d (mset d m k v) j = mget d m j := by
  unfold mget mset
  split
  · rw [mfind_mdel_other _ _ _ h]
  · rw [mfind_mput_other _ _ _ _ h]

theorem mget_mset [DecidableEq α] (d : Nat → α) (m : NMap α) (k j : Nat) (v : α) :
    mget d (mset d m k v) j = if j = k then v else mget d m j := by
  split
  · rename_i e; subst e; exact mget_mset_same d m j v
  · exact mget_mset_other d m k j v ‹_›

/-! The canonical form. -/

theorem mwfFrom_mono [DecidableEq α] (d : Nat → α) (m : NMap α) (a b : Nat) (h : a ≤ b) (w : mwfFrom d b m = true) :
    mwfFrom d a m = true := by
  cases m with
  | nil => rfl
  | cons x m =>
    simp only [mwfFrom, Bool.and_eq_true, decide_eq_true_eq] at *
    exact ⟨⟨by omega, w.1.2⟩, w.2⟩

theorem mwfFrom_mdel [DecidableEq α] (d : Nat → α) (m : NMap α) (k b : Nat) (w : mwfFrom d b m = true) :
    mwfFrom d b (mdel m k) = true := by
  induction m generalizing b with
  | nil => rfl
  | cons x m ih =>
    obtain ⟨j, v⟩ := x
    simp only [mwfFrom, Bool.and_eq_true, decide_eq_true_eq] at w
    simp only [mdel]
    split
    · exact mwfFrom_mono d _ b (j + 1) (by omega) (ih _ w.2)
    · simp only [mwfFrom, Bool.and_eq_true, decide_eq_true_eq]
      exact ⟨w.1, ih _ w.2⟩

theorem mwfFrom_mput [DecidableEq α] (d : Nat → α) (m : NMap α) (k b : Nat) (v : α) (hv : v ≠ d k) (hb : b ≤ k)
    (w : mwfFrom d b m = true) : mwfFrom d b (mput m k v) = true := by
  induction m generalizing b with
  | nil => simp [mput, mwfFrom, hv, hb]
  | cons x m ih =>
    obtain ⟨j, u⟩ := x
    simp only [mwfFrom, Bool.and_eq_true, decide_eq_true_eq] at w
    simp only [mput]
    split
    · rename_i hlt
      simp only [mwfFrom, Bool.and_eq_true, decide_eq_true_eq]
      exact ⟨⟨hb, by simp [hv]⟩, ⟨⟨by omega, w.1.2⟩, w.2⟩⟩
    · split
      · rename_i e; subst e
        simp only [mwfFrom, Bool.and_eq_true, decide_eq_true_eq]
        exact ⟨⟨hb, by simp [hv]⟩, w.2⟩
      · simp only [mwfFrom, Bool.and_eq_true, decide_eq_true_eq]
        exact ⟨w.1, ih (j + 1) (by omega) w.2⟩

/-- A write keeps the canonical form. -/
theorem mwf_mset [DecidableEq α] (d : Nat → α) (m : NMap α) (k : Nat) (v : α) (w : mwf d m = true) :
    mwf d (mset d m k v) = true := by
  unfold mset
  split
  · exact mwfFrom_mdel d m k 0 w
  · exact mwfFrom_mput d m k 0 v ‹_› (by omega) w

/-- Dropping entries keeps the canonical form. -/
theorem mwfFrom_filter [DecidableEq α] (d : Nat → α) (m : NMap α) (p : Nat × α → Bool) (b : Nat) (w : mwfFrom d b m = true) :
    mwfFrom d b (m.filter p) = true := by
  induction m generalizing b with
  | nil => rfl
  | cons x m ih =>
    obtain ⟨j, v⟩ := x
    simp only [mwfFrom, Bool.and_eq_true, decide_eq_true_eq] at w
    simp only [List.filter]
    split
    · simp only [mwfFrom, Bool.and_eq_true, decide_eq_true_eq]
      exact ⟨w.1, ih _ w.2⟩
    · exact mwfFrom_mono d _ b (j + 1) (by omega) (ih _ w.2)

theorem mwf_filter [DecidableEq α] (d : Nat → α) (m : NMap α) (p : Nat × α → Bool) (w : mwf d m = true) :
    mwf d (m.filter p) = true := mwfFrom_filter d m p 0 w

/-! Runs of bytes. -/

theorem mwf_memWrite (d : Nat → Byte) (l : List Byte) (m : NMap Byte) (a : Nat) (w : mwf d m = true) :
    mwf d (memWrite d m a l) = true := by
  induction l generalizing m a with
  | nil => exact w
  | cons b l ih => exact ih _ _ (mwf_mset d m a b w)

theorem mwf_memFill (d : Nat → Byte) (n : Nat) (m : NMap Byte) (a : Nat) (b : Byte) (w : mwf d m = true) :
    mwf d (memFill d m a b n) = true := by
  induction n generalizing m a with
  | zero => exact w
  | succ n ih => exact ih _ _ (mwf_mset d m a b w)

/-- Bytes outside the run written read as before. -/
theorem mget_memWrite_other (d : Nat → Byte) (l : List Byte) (m : NMap Byte) (a j : Nat) (h : j < a ∨ a + l.length ≤ j) :
    mget d (memWrite d m a l) j = mget d m j := by
  induction l generalizing m a with
  | nil => rfl
  | cons b l ih =>
    simp only [List.length_cons] at h
    rw [memWrite, ih _ _ (by omega), mget_mset_other _ _ _ _ _ (by omega)]

/-- Bytes of the run written read as written. -/
theorem mget_memWrite_same (d : Nat → Byte) (l : List Byte) (m : NMap Byte) (a i : Nat) (h : i < l.length) :
    mget d (memWrite d m a l) (a + i) = l[i] := by
  induction l generalizing m a i with
  | nil => simp at h
  | cons b l ih =>
    cases i with
    | zero => rw [memWrite, mget_memWrite_other _ _ _ _ _ (by omega)]; simp
    | succ i =>
      have := ih (mset d m a b) (a + 1) i (by simpa using h)
      rw [memWrite, show a + (i + 1) = a + 1 + i by omega, this]; rfl

theorem mget_memFill_other (d : Nat → Byte) (n : Nat) (m : NMap Byte) (a j : Nat) (b : Byte) (h : j < a ∨ a + n ≤ j) :
    mget d (memFill d m a b n) j = mget d m j := by
  induction n generalizing m a with
  | zero => rfl
  | succ n ih => rw [memFill, ih _ _ (by omega), mget_mset_other _ _ _ _ _ (by omega)]

/-- A read of the run just written gives what was written. -/
theorem memRead_memWrite (d : Nat → Byte) (m : NMap Byte) (a : Nat) (l : List Byte) :
    memRead (memWrite d m a l) d a l.length = l := by
  apply List.ext_getElem
  · simp [memRead]
  · intro i h1 h2
    simp [memRead, mget_memWrite_same _ _ _ _ _ h2]

namespace Store

theorem wf_wr (m : Store) (a : Nat) (l : List Byte) (w : m.wf = true) : (m.wr a l).wf = true := by
  simp only [wf, wr, Bool.and_eq_true] at *; exact ⟨w.1, mwf_memWrite _ _ _ _ w.2⟩

theorem wf_flashWr (m : Store) (s o : Nat) (l : List Byte) (w : m.wf = true) : (m.flashWr s o l).wf = true := by
  simp only [wf, flashWr, Bool.and_eq_true] at *; exact ⟨mwf_memWrite _ _ _ _ w.1, w.2⟩

theorem wf_flashErase (m : Store) (s o n : Nat) (w : m.wf = true) : (m.flashErase s o n).wf = true := by
  simp only [wf, flashErase, Bool.and_eq_true] at *; exact ⟨mwf_filter _ _ _ w.1, w.2⟩

theorem wf_filterMem (m : Store) (p : Nat × Byte → Bool) (w : m.wf = true) : ({ m with mem := m.mem.filter p } : Store).wf = true := by
  simp only [wf, Bool.and_eq_true] at *; exact ⟨w.1, mwf_filter _ _ _ w.2⟩

end Store

end Sys2Proof.Machine
end

