-- ==== Sys2Proof/Laws/Fields.lean ====
section
/-!
SUPPORT. What a bit field reads after a field of the same register is stored.
-/

namespace Sys2Proof.Machine

/-- The number that bfSet stores, before it is cut to 32 bits. -/
theorem bfSet_lt (f : BF) (w : Word) (v : Nat) (h : f.lo + f.width ≤ 32) :
    w.toNat % 2 ^ f.lo + (v % 2 ^ f.width) * 2 ^ f.lo + w.toNat / 2 ^ (f.lo + f.width) * 2 ^ (f.lo + f.width) < 2 ^ 32 := by
  have h1 : w.toNat % 2 ^ f.lo < 2 ^ f.lo := Nat.mod_lt _ (Nat.two_pow_pos _)
  have h2 : v % 2 ^ f.width < 2 ^ f.width := Nat.mod_lt _ (Nat.two_pow_pos _)
  have h3 : w.toNat / 2 ^ (f.lo + f.width) < 2 ^ (32 - (f.lo + f.width)) := by
    apply Nat.div_lt_of_lt_mul
    rw [← Nat.pow_add]
    have : f.lo + f.width + (32 - (f.lo + f.width)) = 32 := by omega
    rw [this]; exact w.isLt
  have e : 2 ^ 32 = 2 ^ (32 - (f.lo + f.width)) * 2 ^ (f.lo + f.width) := by rw [← Nat.pow_add]; congr 1; omega
  have h4 : (w.toNat / 2 ^ (f.lo + f.width) + 1) * 2 ^ (f.lo + f.width) ≤ 2 ^ 32 := by
    rw [e]; exact Nat.mul_le_mul_right _ h3
  have h5 : (v % 2 ^ f.width + 1) * 2 ^ f.lo ≤ 2 ^ (f.lo + f.width) := by
    rw [Nat.pow_add, Nat.mul_comm (2 ^ f.lo)]; exact Nat.mul_le_mul_right _ h2
  rw [Nat.add_mul] at h4 h5
  omega

theorem toNat_bfSet (f : BF) (w : Word) (v : Nat) (h : f.lo + f.width ≤ 32) :
    (bfSet f w v).toNat = w.toNat % 2 ^ f.lo + 2 ^ f.lo * (v % 2 ^ f.width + 2 ^ f.width * (w.toNat / 2 ^ (f.lo + f.width))) := by
  rw [bfSet, BitVec.toNat_ofNat, Nat.mod_eq_of_lt (bfSet_lt f w v h), Nat.pow_add, Nat.mul_add, Nat.mul_comm (v % 2 ^ f.width),
    Nat.mul_comm (w.toNat / (2 ^ f.lo * 2 ^ f.width)), Nat.mul_assoc, Nat.add_assoc]

/-- A field reads as it was stored. -/
theorem bfGet_bfSet_same (f : BF) (w : Word) (v : Nat) (h : f.lo + f.width ≤ 32) :
    bfGet f (bfSet f w v) = v % 2 ^ f.width := by
  rw [bfGet, toNat_bfSet f w v h, Nat.add_mul_div_left _ _ (Nat.two_pow_pos _),
    Nat.div_eq_of_lt (Nat.mod_lt _ (Nat.two_pow_pos _)), Nat.zero_add, Nat.add_mul_mod_self_left, Nat.mod_mod]

/-- A field that shares no bit with the one stored reads as before. -/
theorem bfGet_bfSet_other (f g : BF) (w : Word) (v : Nat) (h : f.lo + f.width ≤ 32)
    (d : g.lo + g.width ≤ f.lo ∨ f.lo + f.width ≤ g.lo) : bfGet g (bfSet f w v) = bfGet g w := by
  rw [bfGet, bfGet, toNat_bfSet f w v h]
  rcases d with d | d
  · have key : ∀ n : Nat, n / 2 ^ g.lo % 2 ^ g.width = n % 2 ^ (g.lo + g.width) / 2 ^ g.lo := by
      intro n; rw [Nat.pow_add, Nat.mod_mul_right_div_self]
    have e : 2 ^ f.lo = 2 ^ (g.lo + g.width) * 2 ^ (f.lo - (g.lo + g.width)) := by rw [← Nat.pow_add]; congr 1; omega
    rw [key, key]
    congr 1
    rw [Nat.add_mod, e, Nat.mul_assoc, Nat.mul_mod_right, Nat.add_zero, Nat.mod_mod, Nat.mod_mul_right_mod]
  · have e : 2 ^ g.lo = 2 ^ f.lo * (2 ^ f.width * 2 ^ (g.lo - (f.lo + f.width))) := by
      rw [← Nat.pow_add, ← Nat.pow_add]; congr 1; omega
    have e2 : 2 ^ (f.lo + f.width) = 2 ^ f.lo * 2 ^ f.width := Nat.pow_add ..
    rw [e, ← Nat.div_div_eq_div_mul, ← Nat.div_div_eq_div_mul, Nat.add_mul_div_left _ _ (Nat.two_pow_pos _),
      Nat.div_eq_of_lt (Nat.mod_lt _ (Nat.two_pow_pos _)), Nat.zero_add, Nat.add_mul_div_left _ _ (Nat.two_pow_pos _),
      Nat.div_eq_of_lt (Nat.mod_lt _ (Nat.two_pow_pos _)), Nat.zero_add, e2]
    rw [← Nat.div_div_eq_div_mul, ← Nat.div_div_eq_div_mul, ← Nat.div_div_eq_div_mul]

end Sys2Proof.Machine
end

