-- ==== Sys2Proof/Laws/State.lean ====
section
/-!
SUPPORT. What each update of the chip leaves alone, field by field, and what registers, fields and counters read after it.
-/

namespace Sys2Proof.Machine

namespace Chip

variable (c : Chip)

/-! wr changes regs. -/

@[simp] theorem wr_out (k : Nat) (v : Word) : (c.wr k v).out = c.out := rfl
@[simp] theorem wr_freeCtr (k : Nat) (v : Word) : (c.wr k v).freeCtr = c.freeCtr := rfl
@[simp] theorem wr_now (k : Nat) (v : Word) : (c.wr k v).now = c.now := rfl
@[simp] theorem wr_time (k : Nat) (v : Word) : (c.wr k v).time = c.time := rfl
@[simp] theorem wr_active (k : Nat) (v : Word) : (c.wr k v).active = c.active := rfl
@[simp] theorem wr_prev (k : Nat) (v : Word) : (c.wr k v).prev = c.prev := rfl
@[simp] theorem wr_ctrs (k : Nat) (v : Word) : (c.wr k v).ctrs = c.ctrs := rfl
@[simp] theorem wr_snapC (k : Nat) (v : Word) : (c.wr k v).snapC = c.snapC := rfl
@[simp] theorem wr_latches (k : Nat) (v : Word) : (c.wr k v).latches = c.latches := rfl
@[simp] theorem wr_mbx (k : Nat) (v : Word) : (c.wr k v).mbx = c.mbx := rfl
@[simp] theorem wr_bkp (k : Nat) (v : Word) : (c.wr k v).bkp = c.bkp := rfl
@[simp] theorem wr_bkpPend (k : Nat) (v : Word) : (c.wr k v).bkpPend = c.bkpPend := rfl
@[simp] theorem wr_pins (k : Nat) (v : Word) : (c.wr k v).pins = c.pins := rfl
@[simp] theorem wr_boot (k : Nat) (v : Word) : (c.wr k v).boot = c.boot := rfl
@[simp] theorem wr_flt (k : Nat) (v : Word) : (c.wr k v).flt = c.flt := rfl
@[simp] theorem wr_pwr (k : Nat) (v : Word) : (c.wr k v).pwr = c.pwr := rfl
@[simp] theorem wr_pnl (k : Nat) (v : Word) : (c.wr k v).pnl = c.pnl := rfl
@[simp] theorem wr_pipe (k : Nat) (v : Word) : (c.wr k v).pipe = c.pipe := rfl
@[simp] theorem wr_bpm (k : Nat) (v : Word) : (c.wr k v).bpm = c.bpm := rfl
@[simp] theorem wr_dtm (k : Nat) (v : Word) : (c.wr k v).dtm = c.dtm := rfl
@[simp] theorem wr_hif (k : Nat) (v : Word) : (c.wr k v).hif = c.hif := rfl
@[simp] theorem wr_dbg (k : Nat) (v : Word) : (c.wr k v).dbg = c.dbg := rfl
@[simp] theorem wr_tm (k : Nat) (v : Word) : (c.wr k v).tm = c.tm := rfl
@[simp] theorem wr_tbl (k : Nat) (v : Word) : (c.wr k v).tbl = c.tbl := rfl
@[simp] theorem wr_upd (k : Nat) (v : Word) : (c.wr k v).upd = c.upd := rfl
@[simp] theorem wr_tet (k : Nat) (v : Word) : (c.wr k v).tet = c.tet := rfl
@[simp] theorem wr_fbk (k : Nat) (v : Word) : (c.wr k v).fbk = c.fbk := rfl
@[simp] theorem wr_hbm (k : Nat) (v : Word) : (c.wr k v).hbm = c.hbm := rfl
@[simp] theorem wr_pmc (k : Nat) (v : Word) : (c.wr k v).pmc = c.pmc := rfl

/-! wrN changes regs. -/

@[simp] theorem wrN_out (k v : Nat) : (c.wrN k v).out = c.out := wr_out c k _
@[simp] theorem wrN_freeCtr (k v : Nat) : (c.wrN k v).freeCtr = c.freeCtr := wr_freeCtr c k _
@[simp] theorem wrN_now (k v : Nat) : (c.wrN k v).now = c.now := wr_now c k _
@[simp] theorem wrN_time (k v : Nat) : (c.wrN k v).time = c.time := wr_time c k _
@[simp] theorem wrN_active (k v : Nat) : (c.wrN k v).active = c.active := wr_active c k _
@[simp] theorem wrN_prev (k v : Nat) : (c.wrN k v).prev = c.prev := wr_prev c k _
@[simp] theorem wrN_ctrs (k v : Nat) : (c.wrN k v).ctrs = c.ctrs := wr_ctrs c k _
@[simp] theorem wrN_snapC (k v : Nat) : (c.wrN k v).snapC = c.snapC := wr_snapC c k _
@[simp] theorem wrN_latches (k v : Nat) : (c.wrN k v).latches = c.latches := wr_latches c k _
@[simp] theorem wrN_mbx (k v : Nat) : (c.wrN k v).mbx = c.mbx := wr_mbx c k _
@[simp] theorem wrN_bkp (k v : Nat) : (c.wrN k v).bkp = c.bkp := wr_bkp c k _
@[simp] theorem wrN_bkpPend (k v : Nat) : (c.wrN k v).bkpPend = c.bkpPend := wr_bkpPend c k _
@[simp] theorem wrN_pins (k v : Nat) : (c.wrN k v).pins = c.pins := wr_pins c k _
@[simp] theorem wrN_boot (k v : Nat) : (c.wrN k v).boot = c.boot := wr_boot c k _
@[simp] theorem wrN_flt (k v : Nat) : (c.wrN k v).flt = c.flt := wr_flt c k _
@[simp] theorem wrN_pwr (k v : Nat) : (c.wrN k v).pwr = c.pwr := wr_pwr c k _
@[simp] theorem wrN_pnl (k v : Nat) : (c.wrN k v).pnl = c.pnl := wr_pnl c k _
@[simp] theorem wrN_pipe (k v : Nat) : (c.wrN k v).pipe = c.pipe := wr_pipe c k _
@[simp] theorem wrN_bpm (k v : Nat) : (c.wrN k v).bpm = c.bpm := wr_bpm c k _
@[simp] theorem wrN_dtm (k v : Nat) : (c.wrN k v).dtm = c.dtm := wr_dtm c k _
@[simp] theorem wrN_hif (k v : Nat) : (c.wrN k v).hif = c.hif := wr_hif c k _
@[simp] theorem wrN_dbg (k v : Nat) : (c.wrN k v).dbg = c.dbg := wr_dbg c k _
@[simp] theorem wrN_tm (k v : Nat) : (c.wrN k v).tm = c.tm := wr_tm c k _
@[simp] theorem wrN_tbl (k v : Nat) : (c.wrN k v).tbl = c.tbl := wr_tbl c k _
@[simp] theorem wrN_upd (k v : Nat) : (c.wrN k v).upd = c.upd := wr_upd c k _
@[simp] theorem wrN_tet (k v : Nat) : (c.wrN k v).tet = c.tet := wr_tet c k _
@[simp] theorem wrN_fbk (k v : Nat) : (c.wrN k v).fbk = c.fbk := wr_fbk c k _
@[simp] theorem wrN_hbm (k v : Nat) : (c.wrN k v).hbm = c.hbm := wr_hbm c k _
@[simp] theorem wrN_pmc (k v : Nat) : (c.wrN k v).pmc = c.pmc := wr_pmc c k _

/-! setF changes regs. -/

@[simp] theorem setF_out (k : Nat) (f : BF) (v : Nat) : (c.setF k f v).out = c.out := wr_out c k _
@[simp] theorem setF_freeCtr (k : Nat) (f : BF) (v : Nat) : (c.setF k f v).freeCtr = c.freeCtr := wr_freeCtr c k _
@[simp] theorem setF_now (k : Nat) (f : BF) (v : Nat) : (c.setF k f v).now = c.now := wr_now c k _
@[simp] theorem setF_time (k : Nat) (f : BF) (v : Nat) : (c.setF k f v).time = c.time := wr_time c k _
@[simp] theorem setF_active (k : Nat) (f : BF) (v : Nat) : (c.setF k f v).active = c.active := wr_active c k _
@[simp] theorem setF_prev (k : Nat) (f : BF) (v : Nat) : (c.setF k f v).prev = c.prev := wr_prev c k _
@[simp] theorem setF_ctrs (k : Nat) (f : BF) (v : Nat) : (c.setF k f v).ctrs = c.ctrs := wr_ctrs c k _
@[simp] theorem setF_snapC (k : Nat) (f : BF) (v : Nat) : (c.setF k f v).snapC = c.snapC := wr_snapC c k _
@[simp] theorem setF_latches (k : Nat) (f : BF) (v : Nat) : (c.setF k f v).latches = c.latches := wr_latches c k _
@[simp] theorem setF_mbx (k : Nat) (f : BF) (v : Nat) : (c.setF k f v).mbx = c.mbx := wr_mbx c k _
@[simp] theorem setF_bkp (k : Nat) (f : BF) (v : Nat) : (c.setF k f v).bkp = c.bkp := wr_bkp c k _
@[simp] theorem setF_bkpPend (k : Nat) (f : BF) (v : Nat) : (c.setF k f v).bkpPend = c.bkpPend := wr_bkpPend c k _
@[simp] theorem setF_pins (k : Nat) (f : BF) (v : Nat) : (c.setF k f v).pins = c.pins := wr_pins c k _
@[simp] theorem setF_boot (k : Nat) (f : BF) (v : Nat) : (c.setF k f v).boot = c.boot := wr_boot c k _
@[simp] theorem setF_flt (k : Nat) (f : BF) (v : Nat) : (c.setF k f v).flt = c.flt := wr_flt c k _
@[simp] theorem setF_pwr (k : Nat) (f : BF) (v : Nat) : (c.setF k f v).pwr = c.pwr := wr_pwr c k _
@[simp] theorem setF_pnl (k : Nat) (f : BF) (v : Nat) : (c.setF k f v).pnl = c.pnl := wr_pnl c k _
@[simp] theorem setF_pipe (k : Nat) (f : BF) (v : Nat) : (c.setF k f v).pipe = c.pipe := wr_pipe c k _
@[simp] theorem setF_bpm (k : Nat) (f : BF) (v : Nat) : (c.setF k f v).bpm = c.bpm := wr_bpm c k _
@[simp] theorem setF_dtm (k : Nat) (f : BF) (v : Nat) : (c.setF k f v).dtm = c.dtm := wr_dtm c k _
@[simp] theorem setF_hif (k : Nat) (f : BF) (v : Nat) : (c.setF k f v).hif = c.hif := wr_hif c k _
@[simp] theorem setF_dbg (k : Nat) (f : BF) (v : Nat) : (c.setF k f v).dbg = c.dbg := wr_dbg c k _
@[simp] theorem setF_tm (k : Nat) (f : BF) (v : Nat) : (c.setF k f v).tm = c.tm := wr_tm c k _
@[simp] theorem setF_tbl (k : Nat) (f : BF) (v : Nat) : (c.setF k f v).tbl = c.tbl := wr_tbl c k _
@[simp] theorem setF_upd (k : Nat) (f : BF) (v : Nat) : (c.setF k f v).upd = c.upd := wr_upd c k _
@[simp] theorem setF_tet (k : Nat) (f : BF) (v : Nat) : (c.setF k f v).tet = c.tet := wr_tet c k _
@[simp] theorem setF_fbk (k : Nat) (f : BF) (v : Nat) : (c.setF k f v).fbk = c.fbk := wr_fbk c k _
@[simp] theorem setF_hbm (k : Nat) (f : BF) (v : Nat) : (c.setF k f v).hbm = c.hbm := wr_hbm c k _
@[simp] theorem setF_pmc (k : Nat) (f : BF) (v : Nat) : (c.setF k f v).pmc = c.pmc := wr_pmc c k _

/-! satF changes regs. -/

@[simp] theorem satF_out (k : Nat) (f : BF) (n : Nat) : (c.satF k f n).out = c.out := setF_out c k f _
@[simp] theorem satF_freeCtr (k : Nat) (f : BF) (n : Nat) : (c.satF k f n).freeCtr = c.freeCtr := setF_freeCtr c k f _
@[simp] theorem satF_now (k : Nat) (f : BF) (n : Nat) : (c.satF k f n).now = c.now := setF_now c k f _
@[simp] theorem satF_time (k : Nat) (f : BF) (n : Nat) : (c.satF k f n).time = c.time := setF_time c k f _
@[simp] theorem satF_active (k : Nat) (f : BF) (n : Nat) : (c.satF k f n).active = c.active := setF_active c k f _
@[simp] theorem satF_prev (k : Nat) (f : BF) (n : Nat) : (c.satF k f n).prev = c.prev := setF_prev c k f _
@[simp] theorem satF_ctrs (k : Nat) (f : BF) (n : Nat) : (c.satF k f n).ctrs = c.ctrs := setF_ctrs c k f _
@[simp] theorem satF_snapC (k : Nat) (f : BF) (n : Nat) : (c.satF k f n).snapC = c.snapC := setF_snapC c k f _
@[simp] theorem satF_latches (k : Nat) (f : BF) (n : Nat) : (c.satF k f n).latches = c.latches := setF_latches c k f _
@[simp] theorem satF_mbx (k : Nat) (f : BF) (n : Nat) : (c.satF k f n).mbx = c.mbx := setF_mbx c k f _
@[simp] theorem satF_bkp (k : Nat) (f : BF) (n : Nat) : (c.satF k f n).bkp = c.bkp := setF_bkp c k f _
@[simp] theorem satF_bkpPend (k : Nat) (f : BF) (n : Nat) : (c.satF k f n).bkpPend = c.bkpPend := setF_bkpPend c k f _
@[simp] theorem satF_pins (k : Nat) (f : BF) (n : Nat) : (c.satF k f n).pins = c.pins := setF_pins c k f _
@[simp] theorem satF_boot (k : Nat) (f : BF) (n : Nat) : (c.satF k f n).boot = c.boot := setF_boot c k f _
@[simp] theorem satF_flt (k : Nat) (f : BF) (n : Nat) : (c.satF k f n).flt = c.flt := setF_flt c k f _
@[simp] theorem satF_pwr (k : Nat) (f : BF) (n : Nat) : (c.satF k f n).pwr = c.pwr := setF_pwr c k f _
@[simp] theorem satF_pnl (k : Nat) (f : BF) (n : Nat) : (c.satF k f n).pnl = c.pnl := setF_pnl c k f _
@[simp] theorem satF_pipe (k : Nat) (f : BF) (n : Nat) : (c.satF k f n).pipe = c.pipe := setF_pipe c k f _
@[simp] theorem satF_bpm (k : Nat) (f : BF) (n : Nat) : (c.satF k f n).bpm = c.bpm := setF_bpm c k f _
@[simp] theorem satF_dtm (k : Nat) (f : BF) (n : Nat) : (c.satF k f n).dtm = c.dtm := setF_dtm c k f _
@[simp] theorem satF_hif (k : Nat) (f : BF) (n : Nat) : (c.satF k f n).hif = c.hif := setF_hif c k f _
@[simp] theorem satF_dbg (k : Nat) (f : BF) (n : Nat) : (c.satF k f n).dbg = c.dbg := setF_dbg c k f _
@[simp] theorem satF_tm (k : Nat) (f : BF) (n : Nat) : (c.satF k f n).tm = c.tm := setF_tm c k f _
@[simp] theorem satF_tbl (k : Nat) (f : BF) (n : Nat) : (c.satF k f n).tbl = c.tbl := setF_tbl c k f _
@[simp] theorem satF_upd (k : Nat) (f : BF) (n : Nat) : (c.satF k f n).upd = c.upd := setF_upd c k f _
@[simp] theorem satF_tet (k : Nat) (f : BF) (n : Nat) : (c.satF k f n).tet = c.tet := setF_tet c k f _
@[simp] theorem satF_fbk (k : Nat) (f : BF) (n : Nat) : (c.satF k f n).fbk = c.fbk := setF_fbk c k f _
@[simp] theorem satF_hbm (k : Nat) (f : BF) (n : Nat) : (c.satF k f n).hbm = c.hbm := setF_hbm c k f _
@[simp] theorem satF_pmc (k : Nat) (f : BF) (n : Nat) : (c.satF k f n).pmc = c.pmc := setF_pmc c k f _

/-! sat changes regs. -/

@[simp] theorem sat_out (k n : Nat) : (c.sat k n).out = c.out := satF_out c k _ n
@[simp] theorem sat_freeCtr (k n : Nat) : (c.sat k n).freeCtr = c.freeCtr := satF_freeCtr c k _ n
@[simp] theorem sat_now (k n : Nat) : (c.sat k n).now = c.now := satF_now c k _ n
@[simp] theorem sat_time (k n : Nat) : (c.sat k n).time = c.time := satF_time c k _ n
@[simp] theorem sat_active (k n : Nat) : (c.sat k n).active = c.active := satF_active c k _ n
@[simp] theorem sat_prev (k n : Nat) : (c.sat k n).prev = c.prev := satF_prev c k _ n
@[simp] theorem sat_ctrs (k n : Nat) : (c.sat k n).ctrs = c.ctrs := satF_ctrs c k _ n
@[simp] theorem sat_snapC (k n : Nat) : (c.sat k n).snapC = c.snapC := satF_snapC c k _ n
@[simp] theorem sat_latches (k n : Nat) : (c.sat k n).latches = c.latches := satF_latches c k _ n
@[simp] theorem sat_mbx (k n : Nat) : (c.sat k n).mbx = c.mbx := satF_mbx c k _ n
@[simp] theorem sat_bkp (k n : Nat) : (c.sat k n).bkp = c.bkp := satF_bkp c k _ n
@[simp] theorem sat_bkpPend (k n : Nat) : (c.sat k n).bkpPend = c.bkpPend := satF_bkpPend c k _ n
@[simp] theorem sat_pins (k n : Nat) : (c.sat k n).pins = c.pins := satF_pins c k _ n
@[simp] theorem sat_boot (k n : Nat) : (c.sat k n).boot = c.boot := satF_boot c k _ n
@[simp] theorem sat_flt (k n : Nat) : (c.sat k n).flt = c.flt := satF_flt c k _ n
@[simp] theorem sat_pwr (k n : Nat) : (c.sat k n).pwr = c.pwr := satF_pwr c k _ n
@[simp] theorem sat_pnl (k n : Nat) : (c.sat k n).pnl = c.pnl := satF_pnl c k _ n
@[simp] theorem sat_pipe (k n : Nat) : (c.sat k n).pipe = c.pipe := satF_pipe c k _ n
@[simp] theorem sat_bpm (k n : Nat) : (c.sat k n).bpm = c.bpm := satF_bpm c k _ n
@[simp] theorem sat_dtm (k n : Nat) : (c.sat k n).dtm = c.dtm := satF_dtm c k _ n
@[simp] theorem sat_hif (k n : Nat) : (c.sat k n).hif = c.hif := satF_hif c k _ n
@[simp] theorem sat_dbg (k n : Nat) : (c.sat k n).dbg = c.dbg := satF_dbg c k _ n
@[simp] theorem sat_tm (k n : Nat) : (c.sat k n).tm = c.tm := satF_tm c k _ n
@[simp] theorem sat_tbl (k n : Nat) : (c.sat k n).tbl = c.tbl := satF_tbl c k _ n
@[simp] theorem sat_upd (k n : Nat) : (c.sat k n).upd = c.upd := satF_upd c k _ n
@[simp] theorem sat_tet (k n : Nat) : (c.sat k n).tet = c.tet := satF_tet c k _ n
@[simp] theorem sat_fbk (k n : Nat) : (c.sat k n).fbk = c.fbk := satF_fbk c k _ n
@[simp] theorem sat_hbm (k n : Nat) : (c.sat k n).hbm = c.hbm := satF_hbm c k _ n
@[simp] theorem sat_pmc (k n : Nat) : (c.sat k n).pmc = c.pmc := satF_pmc c k _ n

/-! setCnt changes ctrs. -/

@[simp] theorem setCnt_out (k : Nat) (v : BitVec 64) : (c.setCnt k v).out = c.out := rfl
@[simp] theorem setCnt_freeCtr (k : Nat) (v : BitVec 64) : (c.setCnt k v).freeCtr = c.freeCtr := rfl
@[simp] theorem setCnt_now (k : Nat) (v : BitVec 64) : (c.setCnt k v).now = c.now := rfl
@[simp] theorem setCnt_time (k : Nat) (v : BitVec 64) : (c.setCnt k v).time = c.time := rfl
@[simp] theorem setCnt_regs (k : Nat) (v : BitVec 64) : (c.setCnt k v).regs = c.regs := rfl
@[simp] theorem setCnt_active (k : Nat) (v : BitVec 64) : (c.setCnt k v).active = c.active := rfl
@[simp] theorem setCnt_prev (k : Nat) (v : BitVec 64) : (c.setCnt k v).prev = c.prev := rfl
@[simp] theorem setCnt_snapC (k : Nat) (v : BitVec 64) : (c.setCnt k v).snapC = c.snapC := rfl
@[simp] theorem setCnt_latches (k : Nat) (v : BitVec 64) : (c.setCnt k v).latches = c.latches := rfl
@[simp] theorem setCnt_mbx (k : Nat) (v : BitVec 64) : (c.setCnt k v).mbx = c.mbx := rfl
@[simp] theorem setCnt_bkp (k : Nat) (v : BitVec 64) : (c.setCnt k v).bkp = c.bkp := rfl
@[simp] theorem setCnt_bkpPend (k : Nat) (v : BitVec 64) : (c.setCnt k v).bkpPend = c.bkpPend := rfl
@[simp] theorem setCnt_pins (k : Nat) (v : BitVec 64) : (c.setCnt k v).pins = c.pins := rfl
@[simp] theorem setCnt_boot (k : Nat) (v : BitVec 64) : (c.setCnt k v).boot = c.boot := rfl
@[simp] theorem setCnt_flt (k : Nat) (v : BitVec 64) : (c.setCnt k v).flt = c.flt := rfl
@[simp] theorem setCnt_pwr (k : Nat) (v : BitVec 64) : (c.setCnt k v).pwr = c.pwr := rfl
@[simp] theorem setCnt_pnl (k : Nat) (v : BitVec 64) : (c.setCnt k v).pnl = c.pnl := rfl
@[simp] theorem setCnt_pipe (k : Nat) (v : BitVec 64) : (c.setCnt k v).pipe = c.pipe := rfl
@[simp] theorem setCnt_bpm (k : Nat) (v : BitVec 64) : (c.setCnt k v).bpm = c.bpm := rfl
@[simp] theorem setCnt_dtm (k : Nat) (v : BitVec 64) : (c.setCnt k v).dtm = c.dtm := rfl
@[simp] theorem setCnt_hif (k : Nat) (v : BitVec 64) : (c.setCnt k v).hif = c.hif := rfl
@[simp] theorem setCnt_dbg (k : Nat) (v : BitVec 64) : (c.setCnt k v).dbg = c.dbg := rfl
@[simp] theorem setCnt_tm (k : Nat) (v : BitVec 64) : (c.setCnt k v).tm = c.tm := rfl
@[simp] theorem setCnt_tbl (k : Nat) (v : BitVec 64) : (c.setCnt k v).tbl = c.tbl := rfl
@[simp] theorem setCnt_upd (k : Nat) (v : BitVec 64) : (c.setCnt k v).upd = c.upd := rfl
@[simp] theorem setCnt_tet (k : Nat) (v : BitVec 64) : (c.setCnt k v).tet = c.tet := rfl
@[simp] theorem setCnt_fbk (k : Nat) (v : BitVec 64) : (c.setCnt k v).fbk = c.fbk := rfl
@[simp] theorem setCnt_hbm (k : Nat) (v : BitVec 64) : (c.setCnt k v).hbm = c.hbm := rfl
@[simp] theorem setCnt_pmc (k : Nat) (v : BitVec 64) : (c.setCnt k v).pmc = c.pmc := rfl

/-! emit changes out. -/

@[simp] theorem emit_freeCtr (o : Output) : (c.emit o).freeCtr = c.freeCtr := rfl
@[simp] theorem emit_now (o : Output) : (c.emit o).now = c.now := rfl
@[simp] theorem emit_time (o : Output) : (c.emit o).time = c.time := rfl
@[simp] theorem emit_regs (o : Output) : (c.emit o).regs = c.regs := rfl
@[simp] theorem emit_active (o : Output) : (c.emit o).active = c.active := rfl
@[simp] theorem emit_prev (o : Output) : (c.emit o).prev = c.prev := rfl
@[simp] theorem emit_ctrs (o : Output) : (c.emit o).ctrs = c.ctrs := rfl
@[simp] theorem emit_snapC (o : Output) : (c.emit o).snapC = c.snapC := rfl
@[simp] theorem emit_latches (o : Output) : (c.emit o).latches = c.latches := rfl
@[simp] theorem emit_mbx (o : Output) : (c.emit o).mbx = c.mbx := rfl
@[simp] theorem emit_bkp (o : Output) : (c.emit o).bkp = c.bkp := rfl
@[simp] theorem emit_bkpPend (o : Output) : (c.emit o).bkpPend = c.bkpPend := rfl
@[simp] theorem emit_pins (o : Output) : (c.emit o).pins = c.pins := rfl
@[simp] theorem emit_boot (o : Output) : (c.emit o).boot = c.boot := rfl
@[simp] theorem emit_flt (o : Output) : (c.emit o).flt = c.flt := rfl
@[simp] theorem emit_pwr (o : Output) : (c.emit o).pwr = c.pwr := rfl
@[simp] theorem emit_pnl (o : Output) : (c.emit o).pnl = c.pnl := rfl
@[simp] theorem emit_pipe (o : Output) : (c.emit o).pipe = c.pipe := rfl
@[simp] theorem emit_bpm (o : Output) : (c.emit o).bpm = c.bpm := rfl
@[simp] theorem emit_dtm (o : Output) : (c.emit o).dtm = c.dtm := rfl
@[simp] theorem emit_hif (o : Output) : (c.emit o).hif = c.hif := rfl
@[simp] theorem emit_dbg (o : Output) : (c.emit o).dbg = c.dbg := rfl
@[simp] theorem emit_tm (o : Output) : (c.emit o).tm = c.tm := rfl
@[simp] theorem emit_tbl (o : Output) : (c.emit o).tbl = c.tbl := rfl
@[simp] theorem emit_upd (o : Output) : (c.emit o).upd = c.upd := rfl
@[simp] theorem emit_tet (o : Output) : (c.emit o).tet = c.tet := rfl
@[simp] theorem emit_fbk (o : Output) : (c.emit o).fbk = c.fbk := rfl
@[simp] theorem emit_hbm (o : Output) : (c.emit o).hbm = c.hbm := rfl
@[simp] theorem emit_pmc (o : Output) : (c.emit o).pmc = c.pmc := rfl

/-! tick changes freeCtr. -/

@[simp] theorem tick_out : (c.tick).out = c.out := rfl
@[simp] theorem tick_now : (c.tick).now = c.now := rfl
@[simp] theorem tick_time : (c.tick).time = c.time := rfl
@[simp] theorem tick_regs : (c.tick).regs = c.regs := rfl
@[simp] theorem tick_active : (c.tick).active = c.active := rfl
@[simp] theorem tick_prev : (c.tick).prev = c.prev := rfl
@[simp] theorem tick_ctrs : (c.tick).ctrs = c.ctrs := rfl
@[simp] theorem tick_snapC : (c.tick).snapC = c.snapC := rfl
@[simp] theorem tick_latches : (c.tick).latches = c.latches := rfl
@[simp] theorem tick_mbx : (c.tick).mbx = c.mbx := rfl
@[simp] theorem tick_bkp : (c.tick).bkp = c.bkp := rfl
@[simp] theorem tick_bkpPend : (c.tick).bkpPend = c.bkpPend := rfl
@[simp] theorem tick_pins : (c.tick).pins = c.pins := rfl
@[simp] theorem tick_boot : (c.tick).boot = c.boot := rfl
@[simp] theorem tick_flt : (c.tick).flt = c.flt := rfl
@[simp] theorem tick_pwr : (c.tick).pwr = c.pwr := rfl
@[simp] theorem tick_pnl : (c.tick).pnl = c.pnl := rfl
@[simp] theorem tick_pipe : (c.tick).pipe = c.pipe := rfl
@[simp] theorem tick_bpm : (c.tick).bpm = c.bpm := rfl
@[simp] theorem tick_dtm : (c.tick).dtm = c.dtm := rfl
@[simp] theorem tick_hif : (c.tick).hif = c.hif := rfl
@[simp] theorem tick_dbg : (c.tick).dbg = c.dbg := rfl
@[simp] theorem tick_tm : (c.tick).tm = c.tm := rfl
@[simp] theorem tick_tbl : (c.tick).tbl = c.tbl := rfl
@[simp] theorem tick_upd : (c.tick).upd = c.upd := rfl
@[simp] theorem tick_tet : (c.tick).tet = c.tet := rfl
@[simp] theorem tick_fbk : (c.tick).fbk = c.fbk := rfl
@[simp] theorem tick_hbm : (c.tick).hbm = c.hbm := rfl
@[simp] theorem tick_pmc : (c.tick).pmc = c.pmc := rfl

@[simp] theorem emit_out (o : Output) : (c.emit o).out = o :: c.out := rfl
@[simp] theorem tick_freeCtr : c.tick.freeCtr = c.freeCtr + 1 := rfl

/-! bump changes ctrs. -/

theorem pmcUp_frame (n i : Nat) : c.pmcUp n i = { c with ctrs := (c.pmcUp n i).ctrs } := rfl

theorem foldl_pmcUp_frame (n : Nat) (l : List Nat) (c : Chip) :
    l.foldl (pmcUp n) c = { c with ctrs := (l.foldl (pmcUp n) c).ctrs } := by
  induction l generalizing c with
  | nil => rfl
  | cons i l ih => rw [List.foldl_cons, ih (c.pmcUp n i)]; rfl

theorem pmcEvent_frame (u ev n : Nat) : c.pmcEvent u ev n = { c with ctrs := (c.pmcEvent u ev n).ctrs } := by
  unfold pmcEvent
  split
  · exact foldl_pmcUp_frame n _ c
  · rfl

/-- A counter's rise changes counters only: itself, and programmable counters set to its event. -/
theorem bump_frame (k n : Nat) : c.bump k n = { c with ctrs := (c.bump k n).ctrs } := by
  unfold bump
  split
  · exact pmcEvent_frame (c.setCnt k (c.cnt k + BitVec.ofNat 64 n)) _ _ n
  · rfl

@[simp] theorem pmcEvent_out (u ev n : Nat) : (c.pmcEvent u ev n).out = c.out := by rw [pmcEvent_frame]
@[simp] theorem pmcEvent_freeCtr (u ev n : Nat) : (c.pmcEvent u ev n).freeCtr = c.freeCtr := by rw [pmcEvent_frame]
@[simp] theorem pmcEvent_now (u ev n : Nat) : (c.pmcEvent u ev n).now = c.now := by rw [pmcEvent_frame]
@[simp] theorem pmcEvent_time (u ev n : Nat) : (c.pmcEvent u ev n).time = c.time := by rw [pmcEvent_frame]
@[simp] theorem pmcEvent_regs (u ev n : Nat) : (c.pmcEvent u ev n).regs = c.regs := by rw [pmcEvent_frame]
@[simp] theorem pmcEvent_active (u ev n : Nat) : (c.pmcEvent u ev n).active = c.active := by rw [pmcEvent_frame]
@[simp] theorem pmcEvent_prev (u ev n : Nat) : (c.pmcEvent u ev n).prev = c.prev := by rw [pmcEvent_frame]
@[simp] theorem pmcEvent_snapC (u ev n : Nat) : (c.pmcEvent u ev n).snapC = c.snapC := by rw [pmcEvent_frame]
@[simp] theorem pmcEvent_latches (u ev n : Nat) : (c.pmcEvent u ev n).latches = c.latches := by rw [pmcEvent_frame]
@[simp] theorem pmcEvent_mbx (u ev n : Nat) : (c.pmcEvent u ev n).mbx = c.mbx := by rw [pmcEvent_frame]
@[simp] theorem pmcEvent_bkp (u ev n : Nat) : (c.pmcEvent u ev n).bkp = c.bkp := by rw [pmcEvent_frame]
@[simp] theorem pmcEvent_bkpPend (u ev n : Nat) : (c.pmcEvent u ev n).bkpPend = c.bkpPend := by rw [pmcEvent_frame]
@[simp] theorem pmcEvent_pins (u ev n : Nat) : (c.pmcEvent u ev n).pins = c.pins := by rw [pmcEvent_frame]
@[simp] theorem pmcEvent_boot (u ev n : Nat) : (c.pmcEvent u ev n).boot = c.boot := by rw [pmcEvent_frame]
@[simp] theorem pmcEvent_flt (u ev n : Nat) : (c.pmcEvent u ev n).flt = c.flt := by rw [pmcEvent_frame]
@[simp] theorem pmcEvent_pwr (u ev n : Nat) : (c.pmcEvent u ev n).pwr = c.pwr := by rw [pmcEvent_frame]
@[simp] theorem pmcEvent_pnl (u ev n : Nat) : (c.pmcEvent u ev n).pnl = c.pnl := by rw [pmcEvent_frame]
@[simp] theorem pmcEvent_pipe (u ev n : Nat) : (c.pmcEvent u ev n).pipe = c.pipe := by rw [pmcEvent_frame]
@[simp] theorem pmcEvent_bpm (u ev n : Nat) : (c.pmcEvent u ev n).bpm = c.bpm := by rw [pmcEvent_frame]
@[simp] theorem pmcEvent_dtm (u ev n : Nat) : (c.pmcEvent u ev n).dtm = c.dtm := by rw [pmcEvent_frame]
@[simp] theorem pmcEvent_hif (u ev n : Nat) : (c.pmcEvent u ev n).hif = c.hif := by rw [pmcEvent_frame]
@[simp] theorem pmcEvent_dbg (u ev n : Nat) : (c.pmcEvent u ev n).dbg = c.dbg := by rw [pmcEvent_frame]
@[simp] theorem pmcEvent_tm (u ev n : Nat) : (c.pmcEvent u ev n).tm = c.tm := by rw [pmcEvent_frame]
@[simp] theorem pmcEvent_tbl (u ev n : Nat) : (c.pmcEvent u ev n).tbl = c.tbl := by rw [pmcEvent_frame]
@[simp] theorem pmcEvent_upd (u ev n : Nat) : (c.pmcEvent u ev n).upd = c.upd := by rw [pmcEvent_frame]
@[simp] theorem pmcEvent_tet (u ev n : Nat) : (c.pmcEvent u ev n).tet = c.tet := by rw [pmcEvent_frame]
@[simp] theorem pmcEvent_fbk (u ev n : Nat) : (c.pmcEvent u ev n).fbk = c.fbk := by rw [pmcEvent_frame]
@[simp] theorem pmcEvent_hbm (u ev n : Nat) : (c.pmcEvent u ev n).hbm = c.hbm := by rw [pmcEvent_frame]
@[simp] theorem pmcEvent_pmc (u ev n : Nat) : (c.pmcEvent u ev n).pmc = c.pmc := by rw [pmcEvent_frame]
@[simp] theorem bump_out (k n : Nat) : (c.bump k n).out = c.out := by rw [bump_frame]
@[simp] theorem bump_freeCtr (k n : Nat) : (c.bump k n).freeCtr = c.freeCtr := by rw [bump_frame]
@[simp] theorem bump_now (k n : Nat) : (c.bump k n).now = c.now := by rw [bump_frame]
@[simp] theorem bump_time (k n : Nat) : (c.bump k n).time = c.time := by rw [bump_frame]
@[simp] theorem bump_regs (k n : Nat) : (c.bump k n).regs = c.regs := by rw [bump_frame]
@[simp] theorem bump_active (k n : Nat) : (c.bump k n).active = c.active := by rw [bump_frame]
@[simp] theorem bump_prev (k n : Nat) : (c.bump k n).prev = c.prev := by rw [bump_frame]
@[simp] theorem bump_snapC (k n : Nat) : (c.bump k n).snapC = c.snapC := by rw [bump_frame]
@[simp] theorem bump_latches (k n : Nat) : (c.bump k n).latches = c.latches := by rw [bump_frame]
@[simp] theorem bump_mbx (k n : Nat) : (c.bump k n).mbx = c.mbx := by rw [bump_frame]
@[simp] theorem bump_bkp (k n : Nat) : (c.bump k n).bkp = c.bkp := by rw [bump_frame]
@[simp] theorem bump_bkpPend (k n : Nat) : (c.bump k n).bkpPend = c.bkpPend := by rw [bump_frame]
@[simp] theorem bump_pins (k n : Nat) : (c.bump k n).pins = c.pins := by rw [bump_frame]
@[simp] theorem bump_boot (k n : Nat) : (c.bump k n).boot = c.boot := by rw [bump_frame]
@[simp] theorem bump_flt (k n : Nat) : (c.bump k n).flt = c.flt := by rw [bump_frame]
@[simp] theorem bump_pwr (k n : Nat) : (c.bump k n).pwr = c.pwr := by rw [bump_frame]
@[simp] theorem bump_pnl (k n : Nat) : (c.bump k n).pnl = c.pnl := by rw [bump_frame]
@[simp] theorem bump_pipe (k n : Nat) : (c.bump k n).pipe = c.pipe := by rw [bump_frame]
@[simp] theorem bump_bpm (k n : Nat) : (c.bump k n).bpm = c.bpm := by rw [bump_frame]
@[simp] theorem bump_dtm (k n : Nat) : (c.bump k n).dtm = c.dtm := by rw [bump_frame]
@[simp] theorem bump_hif (k n : Nat) : (c.bump k n).hif = c.hif := by rw [bump_frame]
@[simp] theorem bump_dbg (k n : Nat) : (c.bump k n).dbg = c.dbg := by rw [bump_frame]
@[simp] theorem bump_tm (k n : Nat) : (c.bump k n).tm = c.tm := by rw [bump_frame]
@[simp] theorem bump_tbl (k n : Nat) : (c.bump k n).tbl = c.tbl := by rw [bump_frame]
@[simp] theorem bump_upd (k n : Nat) : (c.bump k n).upd = c.upd := by rw [bump_frame]
@[simp] theorem bump_tet (k n : Nat) : (c.bump k n).tet = c.tet := by rw [bump_frame]
@[simp] theorem bump_fbk (k n : Nat) : (c.bump k n).fbk = c.fbk := by rw [bump_frame]
@[simp] theorem bump_hbm (k n : Nat) : (c.bump k n).hbm = c.hbm := by rw [bump_frame]
@[simp] theorem bump_pmc (k n : Nat) : (c.bump k n).pmc = c.pmc := by rw [bump_frame]

/-! Registers and fields after an update. -/

theorem reg_congr {c d : Chip} (h : c.regs = d.regs) (k : Nat) : c.reg k = d.reg k := by unfold reg; rw [h]

theorem fld_congr {c d : Chip} (h : c.regs = d.regs) (k : Nat) (f : BF) : c.fld k f = d.fld k f := by
  unfold fld; rw [reg_congr h]

theorem on_congr {c d : Chip} (h : c.regs = d.regs) (k : Nat) (f : BF) : c.on k f = d.on k f := by unfold on; rw [fld_congr h]

@[simp] theorem reg_wr_same (k : Nat) (v : Word) : (c.wr k v).reg k = v := mget_mset_same _ _ _ _

theorem reg_wr_other (k j : Nat) (v : Word) (h : j ≠ k) : (c.wr k v).reg j = c.reg j := mget_mset_other _ _ _ _ _ h

@[simp] theorem reg_wrN_same (k v : Nat) : (c.wrN k v).reg k = BitVec.ofNat 32 v := reg_wr_same c k _

theorem reg_wrN_other (k j v : Nat) (h : j ≠ k) : (c.wrN k v).reg j = c.reg j := reg_wr_other c k j _ h

theorem rd_wrN_same (k v : Nat) (h : v < 2 ^ 32) : (c.wrN k v).rd k = v := by
  unfold rd; rw [reg_wrN_same, BitVec.toNat_ofNat, Nat.mod_eq_of_lt h]

theorem reg_setF_same (k : Nat) (f : BF) (v : Nat) : (c.setF k f v).reg k = bfSet f (c.reg k) v := reg_wr_same c k _

theorem reg_setF_other (k j : Nat) (f : BF) (v : Nat) (h : j ≠ k) : (c.setF k f v).reg j = c.reg j := reg_wr_other c k j _ h

/-- A field reads as it was stored. -/
theorem fld_setF_same (k : Nat) (f : BF) (v : Nat) (h : f.lo + f.width ≤ 32) : (c.setF k f v).fld k f = v % 2 ^ f.width := by
  unfold fld; rw [reg_setF_same, bfGet_bfSet_same f _ v h]

/-- Another field of the same register reads as before. -/
theorem fld_setF_field (k : Nat) (f g : BF) (v : Nat) (h : f.lo + f.width ≤ 32)
    (d : g.lo + g.width ≤ f.lo ∨ f.lo + f.width ≤ g.lo) : (c.setF k f v).fld k g = c.fld k g := by
  unfold fld; rw [reg_setF_same, bfGet_bfSet_other f g _ v h d]

/-- A field of another register reads as before. -/
theorem fld_setF_other (k j : Nat) (f g : BF) (v : Nat) (h : j ≠ k) : (c.setF k f v).fld j g = c.fld j g := by
  unfold fld; rw [reg_setF_other c k j f v h]

theorem fld_wr_other (k j : Nat) (v : Word) (g : BF) (h : j ≠ k) : (c.wr k v).fld j g = c.fld j g := by
  unfold fld; rw [reg_wr_other c k j v h]

theorem fld_wrN_other (k j v : Nat) (g : BF) (h : j ≠ k) : (c.wrN k v).fld j g = c.fld j g := fld_wr_other c k j _ g h

@[simp] theorem reg_bump (k n j : Nat) : (c.bump k n).reg j = c.reg j := reg_congr (bump_regs c k n) j

@[simp] theorem fld_bump (k n j : Nat) (g : BF) : (c.bump k n).fld j g = c.fld j g := fld_congr (bump_regs c k n) j g

/-! Counters. -/

@[simp] theorem cnt_setCnt_same (k : Nat) (v : BitVec 64) : (c.setCnt k v).cnt k = v := mget_mset_same _ _ _ _

theorem cnt_setCnt_other (k j : Nat) (v : BitVec 64) (h : j ≠ k) : (c.setCnt k v).cnt j = c.cnt j := mget_mset_other _ _ _ _ _ h

/-- A counter that no programmable counter watches rises by n and wraps (R63). -/
theorem cnt_bump_quiet (k n : Nat) (h : pmcOfCounter k = none) : (c.bump k n).cnt k = c.cnt k + BitVec.ofNat 64 n := by
  simp [bump, h]

end Chip

end Sys2Proof.Machine
end

