-- ==== Sys2Proof/Laws/Ops.lean ====
section
/-!
SUPPORT. What each shared operation can do, said once: a register command, a mailbox command, a descriptor, a spare-lane message, a
Tether message, a reset source.
-/

namespace Sys2Proof.Machine.Chip

/-! Register commands. -/

theorem regCmd_vf (c : Chip) (rq : Req) (a : Nat) (f : Chip → Chip) (h : rq.priv = false) : c.regCmd rq a f = c.err rq errBadAccess a := by
  simp [regCmd, h]

theorem regCmd_off (c : Chip) (rq : Req) (a : Nat) (f : Chip → Chip) (h : rq.priv = true) (o : c.addrOff a = true) :
    c.regCmd rq a f = c.err rq errOffAccess a := by
  simp [regCmd, h, o]

theorem regCmd_ok (c : Chip) (rq : Req) (a : Nat) (f : Chip → Chip) (h : rq.priv = true) (o : c.addrOff a = false) :
    c.regCmd rq a f = f c := by
  simp [regCmd, h, o]

/-! Mailbox commands. -/

theorem mbxStarts_iff (c : Chip) (rq : Req) (m : Mbx) (op : Nat) :
    c.mbxStarts rq m op = true ↔ m.allows rq = true ∧ c.addrOff m.cmd = false ∧ c.mbxFind m = none ∧ c.mbxServed m op = true := by
  simp [mbxStarts, and_assoc]

/-- A mailbox command that is taken: the operation runs on the chip whose RESULT reads PENDING. -/
theorem mbxRun_starts (c : Chip) (rq : Req) (tag : BitVec 16) (m : Mbx) (op : Nat)
    (act : Chip → List Nat → Chip × Option (Nat × List Nat)) (h : c.mbxStarts rq m op = true) :
    c.mbxRun rq tag m op act
      = (act (c.pendingIn m) (c.mbxArgs m)).1.mbxTaken m tag op (c.mbxArgs m) (act (c.pendingIn m) (c.mbxArgs m)).2 := by
  obtain ⟨h1, h2, h3, h4⟩ := (mbxStarts_iff c rq m op).1 h
  simp [mbxRun, h1, h2, h3, h4, mbxTaken, pendingIn]

/-- The same for an operation on the byte memories. -/
theorem mbxRunBoth_starts (c : Chip) (rq : Req) (tag : BitVec 16) (mb : Mbx) (op : Nat) (m : Store)
    (act : List Nat → Store → Chip → Store × Chip × Option (Nat × List Nat)) (m1 : Store) (c1 : Chip) (r : Option (Nat × List Nat))
    (h : c.mbxStarts rq mb op = true) (e : act (c.mbxArgs mb) m (c.pendingIn mb) = (m1, c1, r)) :
    c.mbxRunBoth rq tag mb op m act = (m1, c1.mbxTaken mb tag op (c.mbxArgs mb) r) := by
  unfold mbxRunBoth
  rw [mbxRun_starts _ _ _ _ _ _ h, if_pos h]
  simp only [e]
  rw [show c.setF mb.result ⟨14, 2⟩ 1 = c.pendingIn mb from rfl, e]

/-- A mailbox command whose operation answers c1 and r. -/
theorem mbxRun_eq (c : Chip) (rq : Req) (tag : BitVec 16) (m : Mbx) (op : Nat) (act : Chip → List Nat → Chip × Option (Nat × List Nat))
    (c1 : Chip) (r : Option (Nat × List Nat)) (h : c.mbxStarts rq m op = true) (e : act (c.pendingIn m) (c.mbxArgs m) = (c1, r)) :
    c.mbxRun rq tag m op act = c1.mbxTaken m tag op (c.mbxArgs m) r := by
  rw [mbxRun_starts _ _ _ _ _ _ h, e]

theorem mbxRun_denied (c : Chip) (rq : Req) (tag : BitVec 16) (m : Mbx) (op : Nat)
    (act : Chip → List Nat → Chip × Option (Nat × List Nat)) (h : m.allows rq = false) :
    c.mbxRun rq tag m op act = c.err rq errBadAccess m.cmd := by
  simp [mbxRun, h]

theorem mbxRun_off (c : Chip) (rq : Req) (tag : BitVec 16) (m : Mbx) (op : Nat)
    (act : Chip → List Nat → Chip × Option (Nat × List Nat)) (h : m.allows rq = true) (o : c.addrOff m.cmd = true) :
    c.mbxRun rq tag m op act = c.err rq errOffAccess m.cmd := by
  simp [mbxRun, h, o]

/-- A mailbox that is PENDING refuses a command (R71). -/
theorem mbxRun_busy (c : Chip) (rq : Req) (tag : BitVec 16) (m : Mbx) (op : Nat)
    (act : Chip → List Nat → Chip × Option (Nat × List Nat)) (h : m.allows rq = true) (o : c.addrOff m.cmd = false)
    (b : (c.mbxFind m).isSome = true) : c.mbxRun rq tag m op act = c.err rq errBadAccess m.cmd := by
  simp [mbxRun, h, o, b]

/-- While a core that serves it does not run, an operation waits (R407, R409). -/
theorem mbxRun_waits (c : Chip) (rq : Req) (tag : BitVec 16) (m : Mbx) (op : Nat)
    (act : Chip → List Nat → Chip × Option (Nat × List Nat)) (h : m.allows rq = true) (o : c.addrOff m.cmd = false)
    (b : c.mbxFind m = none) (n : c.mbxServed m op = false) :
    c.mbxRun rq tag m op act = { c.pendingIn m with mbx := c.mbx ++ [⟨m, tag.toNat, op, c.mbxArgs m, none, false⟩] } := by
  simp [mbxRun, h, o, b, n, pendingIn]

/-! Access errors. -/

theorem setF_frame (c : Chip) (k : Nat) (f : BF) (v : Nat) : c.setF k f v = { c with regs := (c.setF k f v).regs } := rfl

theorem setErr_frame (c : Chip) (p : Prop) [Decidable p] (k j w v : Nat) (f : BF) :
    (if p then c.wrN j w else c).setF k f v = { c with regs := ((if p then c.wrN j w else c).setF k f v).regs } := by
  split <;> rfl

/-- An access error changes registers only (R73, R74). -/
theorem err_frame (c : Chip) (rq : Req) (bit a : Nat) : c.err rq bit a = { c with regs := (c.err rq bit a).regs } := by
  cases rq with
  | vf n => simp only [err]; exact setErr_frame c _ _ _ _ _ _
  | _ => simp only [err]; exact setErr_frame c _ _ _ _ _ _

/-! Reset sources. -/

/-- A reset source that is alone in its AON cycle ends the frames in transmission and restarts the chip (R75, R331). -/
theorem resetSource_first (c : Chip) (code : Nat) (m : Store) (p : c.plain = false ∨ code < 2) (f : c.firstInCycle = true) :
    resetSource code m c = (m.lostHbm, (c.cutFrames (fun _ => true)).restarted code) := by
  have hp : (c.plain && decide (2 ≤ code)) = false := by
    rcases p with p | p
    · simp [p]
    · simp [show ¬ 2 ≤ code by omega]
  unfold resetSource
  rw [Option.isNone_iff_eq_none.1 f, hp]
  rfl

/-- Under the Plain profile, codes 2 and up that are alone in their AON cycle hold the engine instead (R76). -/
theorem resetSource_plain (c : Chip) (code : Nat) (m : Store) (p : c.plain = true) (h : 2 ≤ code) (f : c.firstInCycle = true) :
    resetSource code m c = (m, c.holdPlain) := by
  unfold resetSource
  rw [Option.isNone_iff_eq_none.1 f]
  simp [p, h]

/-! Descriptors of the update rings. -/

theorem descStep_idle (c : Chip) (p r : Nat) (d : Desc) (act : Chip → Compl → Chip) (h : c.ringReady p r = false) :
    c.descStep p r d act = c := by
  simp [descStep, h]

/-- A descriptor that is taken acts on the chip and the completion that the ring gives it. -/
theorem descStep_ok (c : Chip) (p r : Nat) (d : Desc) (act : Chip → Compl → Chip) (h : c.descAccepts p r d = true) :
    c.descStep p r d act = act (c.descChip p r d) (c.descCompl p r d) := by
  unfold descAccepts at h
  simp only [Bool.and_eq_true, Bool.not_eq_true', beq_iff_eq] at h
  obtain ⟨⟨⟨h1, h2⟩, h3⟩, h4⟩ := h
  unfold descStep applySeq
  exact (if_pos h1).trans ((if_neg (fun h => Bool.false_ne_true (h2.symm.trans h))).trans
    ((if_pos h3).trans (if_neg (fun h => Bool.false_ne_true (h4.symm.trans h)))))

/-! The BPM mailboxes. -/

/-- A BPM mailbox operation that is taken (R243 to R245). -/
theorem poolCmd_starts (rq : Req) (tag : BitVec 16) (mb : Fin 2) (op : Nat) (m : Store) (c : Chip)
    (act : List Nat → Store → Chip → Store × Chip × (Nat × List Nat)) (m1 : Store) (c1 : Chip) (r : Nat × List Nat)
    (h : c.mbxStarts rq (.bpm mb) op = true) (e : act (c.mbxArgs (.bpm mb)) m (c.pendingIn (.bpm mb)) = (m1, c1, r)) :
    poolCmd rq tag mb op m c act = (m1, c1.mbxTaken (.bpm mb) tag op (c.mbxArgs (.bpm mb)) (some r)) := by
  obtain ⟨h1, h2, h3, h4⟩ := (mbxStarts_iff c rq (.bpm mb) op).1 h
  have e' : act (c.mbxArgs (.bpm mb)) m (c.setF (Mbx.bpm mb).result ⟨14, 2⟩ 1) = (m1, c1, r) := e
  unfold poolCmd
  have r' := mbxRun_eq c rq tag (.bpm mb) op (fun c args => ((act args m c).2.1, some (act args m c).2.2)) c1 (some r) h
    (by simp only [e])
  simp only [r', h1, h2, h3, h4, e']
  simp

/-! Spare-lane messages. -/

/-- A message that no spare lane accepts changes nothing (R118, R119). -/
theorem onMsg_none (c : Chip) (p i op : Nat) (m : SpareMsg) (act : Chip → Nat → Nat → Nat → Nat → Chip) (h : c.sparePort p i = none) :
    c.onMsg p i op m act = c := by
  simp [onMsg, h]

/-- A message that a spare takes: the partner is heard, then the message acts (R118). -/
theorem onMsg_ok (c : Chip) (p i op n : Nat) (m : SpareMsg) (act : Chip → Nat → Nat → Nat → Nat → Chip) (h : c.sparePort p i = some n)
    (k : c.spareMsgOk p i op m = true) :
    c.onMsg p i op m act = act (c.spareHeard p i) n (m.d1.toNat % 16) (m.d2.toNat / 8 % 16) (m.d2.toNat % 8) := by
  have k' := k
  unfold spareMsgOk at k'
  simp only [onMsg, h]
  exact if_pos k'

/-- A message with a bad code, or of another OP or spare, changes nothing. -/
theorem onMsg_bad (c : Chip) (p i op : Nat) (m : SpareMsg) (act : Chip → Nat → Nat → Nat → Nat → Chip)
    (k : c.spareMsgOk p i op m = false) : c.onMsg p i op m act = c := by
  have k' := k
  unfold spareMsgOk at k'
  unfold onMsg
  cases c.sparePort p i with
  | none => rfl
  | some n => exact if_neg (by simp [k'])

/-! Tether messages. -/

theorem tetTake_off (c : Chip) (m : TetMsg) (act : Chip → Chip) (h : c.on Reg.TET_CTRL Fd.TET_CTRL_EN = false ∨ m.fcsGood = false) :
    c.tetTake m act = c := by
  rcases h with h | h <;> simp [tetTake, h]

/-- A message of another generation is counted and has no other effect than that the partner is heard (R399). -/
theorem tetTake_other (c : Chip) (m : TetMsg) (act : Chip → Chip) (h : c.on Reg.TET_CTRL Fd.TET_CTRL_EN = true) (g : m.fcsGood = true)
    (n : m.gen.toNat ≠ c.roleGen) : c.tetTake m act = c.tetHear.bump (Reg.TET_CNT 2) 1 := by
  simp [tetTake, h, g, n]

theorem tetTake_ok (c : Chip) (m : TetMsg) (act : Chip → Chip) (h : c.on Reg.TET_CTRL Fd.TET_CTRL_EN = true) (g : m.fcsGood = true)
    (n : m.gen.toNat = c.roleGen) : c.tetTake m act = act c.tetHear := by
  simp [tetTake, h, g, n]

end Sys2Proof.Machine.Chip
end

