-- ==== Sys2Proof/Laws/Store.lean ====
section
/-!
SUPPORT. What each operation on the byte memories keeps: their canonical form, and, but for the flash operations, every byte of flash.
-/

namespace Sys2Proof.Machine

/-- The canonical form is kept; without f, so is flash. -/
def Store.Kept (f : Bool) (m n : Store) : Prop := (m.wf = true → n.wf = true) ∧ (f = false → n.flash = m.flash)

namespace Store.Kept

theorem refl (f : Bool) (m : Store) : Kept f m m := ⟨id, fun _ => rfl⟩

theorem here {B : Type} (f : Bool) (m : Store) (x : B) : Kept f m (m, x).1 := refl f m

theorem trans {f : Bool} {m n k : Store} (a : Kept f m n) (b : Kept f n k) : Kept f m k :=
  ⟨fun w => b.1 (a.1 w), fun e => (b.2 e).trans (a.2 e)⟩

theorem mono {m n : Store} (a : Kept false m n) (f : Bool) : Kept f m n := ⟨a.1, fun _ => a.2 rfl⟩

theorem ite {f : Bool} {p : Prop} [Decidable p] {m a b : Store} (h : Kept f m a) (g : Kept f m b) : Kept f m (if p then a else b) := by
  split
  · exact h
  · exact g

theorem ite1 {f : Bool} {B : Type} {p : Prop} [Decidable p] {m : Store} {a b : Store × B} (h : Kept f m a.1) (g : Kept f m b.1) :
    Kept f m (if p then a else b).1 := by
  split
  · exact h
  · exact g

theorem wr (m : Store) (a : Nat) (l : List Byte) : Kept false m (m.wr a l) := ⟨wf_wr m a l, fun _ => rfl⟩

theorem flashWr (m : Store) (s o : Nat) (l : List Byte) : Kept true m (m.flashWr s o l) := ⟨wf_flashWr m s o l, nofun⟩

theorem flashErase (m : Store) (s o n : Nat) : Kept true m (m.flashErase s o n) := ⟨wf_flashErase m s o n, nofun⟩

theorem lostHbm (m : Store) : Kept false m m.lostHbm := ⟨wf_filterMem m _, fun _ => rfl⟩

theorem lostStack (m : Store) (k : Nat) : Kept false m (m.lostStack k) := ⟨wf_filterMem m _, fun _ => rfl⟩

end Store.Kept

open Store (Kept)

namespace Chip

theorem kept_resetSource (code : Nat) (m : Store) (c : Chip) : Kept false m (resetSource code m c).1 := by
  unfold resetSource
  cases c.sameCycle with
  | none => exact .ite1 (.here _ _ _) (.lostHbm m)
  | some r => exact .ite1 (.here _ _ _) (.here _ _ _)

theorem kept_criticalEvent (b : Bool) (m : Store) (c : Chip) : Kept false m (criticalEvent b m c).1 := by
  unfold criticalEvent
  split
  · with_reducible exact .here _ _ _
  · split
    · with_reducible exact .here _ _ _
    · exact kept_resetSource _ _ _

theorem kept_mbxRunBoth (f : Bool) (c : Chip) (rq : Req) (tag : BitVec 16) (mb : Mbx) (op : Nat) (m : Store)
    (act : List Nat → Store → Chip → Store × Chip × Option (Nat × List Nat)) (h : ∀ a d, Kept f m (act a m d).1) :
    Kept f m (c.mbxRunBoth rq tag mb op m act).1 := Kept.ite (h _ _) (.refl _ _)

theorem kept_poolCmd (rq : Req) (tag : BitVec 16) (mb : Fin 2) (op : Nat) (m : Store) (c : Chip)
    (act : List Nat → Store → Chip → Store × Chip × (Nat × List Nat)) (h : ∀ a d, Kept false m (act a m d).1) :
    Kept false m (poolCmd rq tag mb op m c act).1 := Kept.ite (h _ _) (.refl _ _)

theorem kept_flashRead (err : Bool) (args : List Nat) (m : Store) (c : Chip) : Kept false m (actFlashRead err args m c).1 := by
  unfold actFlashRead
  dsimp only
  repeat' split
  all_goals exact .refl _ _

theorem kept_flashChange (err : Bool) (args : List Nat) (m : Store) (c : Chip) (new : Store → Store) (h : Kept true m (new m)) :
    Kept true m (flashChange err args m c new).1 := by
  unfold flashChange
  split
  · with_reducible exact .here _ _ _
  · split
    · exact .flashWr _ _ _ _
    · exact h

theorem kept_flashErase (err : Bool) (args : List Nat) (m : Store) (c : Chip) : Kept true m (actFlashErase err args m c).1 := by
  unfold actFlashErase
  split
  · with_reducible exact .here _ _ _
  · exact kept_flashChange _ _ _ _ _ (.flashErase _ _ _ _)

theorem kept_flashWrite (err : Bool) (args : List Nat) (m : Store) (c : Chip) : Kept true m (actFlashWrite err args m c).1 := by
  unfold actFlashWrite
  split
  · with_reducible exact .here _ _ _
  · exact kept_flashChange _ _ _ _ _ (.flashWr _ _ _ _)

theorem slotCheck_store (e : FlashEnv) (args : List Nat) (m : Store) (c : Chip) : (actSlotCheck e args m c).1 = m := by
  unfold actSlotCheck
  dsimp only
  split <;> rfl

theorem advanceSvn_store (b : Bool) (args : List Nat) (m : Store) (c : Chip) : (actAdvanceSvn b args m c).1 = m := by
  unfold actAdvanceSvn
  dsimp only
  split
  · rfl
  · split <;> rfl

theorem revokeKey_store (b : Bool) (args : List Nat) (m : Store) (c : Chip) : (actRevokeKey b args m c).1 = m := by
  unfold actRevokeKey
  dsimp only
  repeat' split
  all_goals rfl

theorem flashRead_store (b : Bool) (args : List Nat) (m : Store) (c : Chip) : (actFlashRead b args m c).1 = m := by
  unfold actFlashRead
  dsimp only
  repeat' split
  all_goals rfl

theorem kept_resetUnit (ok : Bool) (n : Nat) (args : List Nat) (m : Store) (c : Chip) : Kept false m (actResetUnit ok n args m c).1 := by
  unfold actResetUnit
  dsimp only
  split
  · with_reducible exact .here _ _ _
  · exact .ite1 (.here _ _ _) (.ite1 (.here _ _ _) (.ite1 (.ite (.lostStack _ _) (.refl _ _)) (.here _ _ _)))

theorem kept_withStack (d : Nat) (act : Chip → Chip) (m : Store) (c : Chip) : Kept false m (withStack d act m c).1 :=
  .ite (.lostStack _ _) (.refl _ _)

theorem kept_xmPut (fuel : Nat) (m : Store) (c : Chip) (xa : Nat) (l : List Byte) : Kept false m (xmPut fuel m c xa l).1 := by
  induction fuel generalizing m c xa l with
  | zero => unfold xmPut; with_reducible exact .here _ _ _
  | succ n ih =>
    unfold xmPut
    refine .ite1 (.here _ _ _) ?_
    generalize c.xmAccess 0 xa true = a
    obtain ⟨c1, o⟩ := a
    cases o with
    | none => unfold xmPutAt; with_reducible exact .here _ _ _
    | some ad => exact (Kept.wr _ _ _).trans (ih _ _ _ _)

theorem kept_save (m : Store) (c : Chip) (args : List Nat) : Kept false m (actSave m c args).1 := by
  unfold actSave
  generalize args.getD 0 0 = p
  dsimp only
  generalize parCmd [3] (fun _ c => (c, none)) c args = g
  generalize c.saveArea p = l
  generalize parXa args = a
  generalize parSize args = b
  have h := kept_xmPut l.length m c a l
  generalize xmPut l.length m c a l = y at h ⊢
  obtain ⟨c1, o⟩ := g
  obtain ⟨m1, c2, ok⟩ := y
  cases o with
  | some x => with_reducible exact .here _ _ _
  | none => exact .ite1 (.here _ _ _) h

theorem kept_poolWrite (c : Chip) (m : Store) (k xa n v : Nat) : Kept false m (c.poolWrite m k xa n v).1 := by
  unfold poolWrite
  generalize c.xmAccess (c.poolParcel k) xa true = a
  obtain ⟨c1, o⟩ := a
  cases o with
  | none => with_reducible exact .here _ _ _
  | some ad => exact .wr _ _ _

theorem kept_setLeaf (c : Chip) (m : Store) (k w v : Nat) : Kept false m (c.setLeaf m k w v).1 := by
  unfold setLeaf
  dsimp only
  with_reducible exact kept_poolWrite _ _ _ _ _ _

theorem kept_xalloc (mb : Nat) (ue : Bool) (args : List Nat) (m : Store) (c : Chip) : Kept false m (actXalloc mb ue args m c).1 := by
  unfold actXalloc
  generalize args.getD 0 0 = k
  dsimp only
  refine .ite1 (.here _ _ _) (.ite1 (.here _ _ _) (.ite1 (.here _ _ _) ?_))
  generalize c.freeLeaf k = fl
  cases fl with
  | none => dsimp only; with_reducible exact .refl _ _
  | some w =>
    dsimp only
    generalize c.leafAddr k w = ad
    generalize c.poolRead m k ad 8 = r
    obtain ⟨c1, o⟩ := r
    cases o with
    | none => dsimp only; with_reducible exact .refl _ _
    | some v =>
      dsimp only
      refine .ite1 (.here _ _ _) ?_
      generalize (List.range 64).find? (bitOf v) = j
      cases j with
      | none => dsimp only; with_reducible exact .refl _ _
      | some j => dsimp only; with_reducible exact (kept_setLeaf _ _ _ _ _).trans (kept_poolWrite _ _ _ _ _ _)

theorem kept_xfree (ue : Bool) (args : List Nat) (m : Store) (c : Chip) : Kept false m (actXfree ue args m c).1 := by
  unfold actXfree
  generalize args.getD 0 0 = k
  generalize args.getD 1 0 = i
  dsimp only
  refine .ite1 (.here _ _ _) (.ite1 (.here _ _ _) (.ite1 (.here _ _ _) ?_))
  generalize c.leafAddr k (i / 64) = ad
  generalize c.poolRead m k ad 8 = r
  obtain ⟨c1, o⟩ := r
  cases o with
  | none => with_reducible exact .here _ _ _
  | some v =>
    refine .ite1 (.here _ _ _) (.ite1 (.here _ _ _) ?_)
    generalize c.auditAddr k i = ae
    generalize c1.poolRead m k ae 2 = r
    obtain ⟨c2, o⟩ := r
    cases o with
    | none => with_reducible exact .here _ _ _
    | some x => with_reducible exact kept_setLeaf _ _ _ _ _

theorem kept_poolFill (k n v : Nat) (l : List Nat) (m : Store) (c : Chip) : Kept false m (poolFill k n v l m c).1 := by
  induction l generalizing m c with
  | nil => exact .refl _ _
  | cons xa l ih =>
    unfold poolFill
    have h := kept_poolWrite c m k xa n v
    generalize c.poolWrite m k xa n v = a at h ⊢
    exact h.trans (ih a.1 a.2)

theorem kept_poolInitDone (k : Nat) (m : Store) (c : Chip) : Kept false m (opPoolInitDone k m c).1 := by
  unfold opPoolInitDone
  refine .ite1 ?_ (.here _ _ _)
  dsimp only
  have h := kept_poolFill k 8 (2 ^ 64 - 1) ((List.range (c.poolLeaves k)).map (c.leafAddr k)) m c
  generalize poolFill k 8 (2 ^ 64 - 1) ((List.range (c.poolLeaves k)).map (c.leafAddr k)) m c = a at h ⊢
  have g := h.trans (kept_poolFill k 2 0 ((List.range (64 * c.poolLeaves k)).map (c.auditAddr k)) a.1 a.2.1)
  exact .ite1 g g

theorem kept_visitBuf (k : Nat) (r : Store × Chip × List Visit) (i : Nat) : Kept false r.1 (visitBuf k r i).1 := by
  unfold visitBuf
  dsimp only
  generalize r.2.1.leafAddr k (i / 64) = ad
  generalize (r.2.1.poolRead r.1 k ad 8).2 = o
  cases o with
  | none => with_reducible exact .refl _ _
  | some v =>
    dsimp only
    refine .ite1 (.refl _ _) ?_
    generalize r.2.1.auditAddr k i = ae
    generalize r.2.1.poolRead r.1 k ae 2 = a
    obtain ⟨c1, o⟩ := a
    cases o with
    | none => with_reducible exact .here _ _ _
    | some x => with_reducible exact kept_poolWrite _ _ _ _ _ _

/-- What every step of a fold keeps of the byte memories, the fold keeps. -/
theorem kept_foldl {A B : Type} (f : Bool) (g : Store × B → A → Store × B) (h : ∀ r a, Kept f r.1 (g r a).1) (l : List A) (r : Store × B) :
    Kept f r.1 (l.foldl g r).1 := by
  induction l generalizing r with
  | nil => exact .refl _ _
  | cons a l ih => exact (h r a).trans (ih _)

theorem kept_visitPool (r : Store × Chip × List Visit) (k : Nat) : Kept false r.1 (visitPool r k).1 := by
  unfold visitPool
  split
  · exact kept_foldl _ _ (kept_visitBuf k) _ _
  · with_reducible exact .here _ _ _

theorem kept_auditPass (m : Store) (c : Chip) : Kept false m (opAuditPass m c).1 := by
  unfold opAuditPass
  split
  · exact kept_foldl false visitPool kept_visitPool _ (m, _, _)
  · with_reducible exact .here _ _ _

theorem kept_fbkRecordWrite (ue : Bool) (accs : List MemAcc) (m : Store) (c : Chip) : Kept false m (opFbkRecordWrite ue accs m c).1 := by
  unfold opFbkRecordWrite
  dsimp only
  repeat' split
  all_goals first
    | with_reducible exact .here _ _ _
    | with_reducible exact .refl _ _
    | exact .wr _ _ _

theorem kept_chipAct (f : Chip → List Nat → Chip × Option (Nat × List Nat)) (args : List Nat) (m : Store) (c : Chip) :
    Kept false m (chipAct f args m c).1 := .refl _ _

theorem kept_bootAct (op : Nat) (args : List Nat) (m : Store) (c : Chip) : Kept true m (bootAct op args m c).1 := by
  unfold bootAct
  split
  · exact (kept_flashRead _ _ _ _).mono _
  · exact kept_flashErase _ _ _ _
  · exact kept_flashWrite _ _ _ _
  · rw [slotCheck_store]; exact .refl _ _
  · rw [advanceSvn_store]; exact .refl _ _
  · rw [revokeKey_store]; exact .refl _ _
  · with_reducible exact .here _ _ _

theorem kept_parAct (op : Nat) (args : List Nat) (m : Store) (c : Chip) : Kept false m (parAct op args m c).1 := by
  unfold parAct
  split
  all_goals first
    | with_reducible exact kept_chipAct _ _ _ _
    | exact kept_save _ _ _
    | with_reducible exact .here _ _ _
    | with_reducible exact .refl _ _

theorem kept_bpmAct (mb op : Nat) (args : List Nat) (m : Store) (c : Chip) : Kept false m (bpmAct mb op args m c).1 := by
  unfold bpmAct
  split
  · exact kept_xalloc _ _ _ _ _
  · exact kept_xfree _ _ _ _
  · exact kept_chipAct _ _ _ _
  · with_reducible exact .here _ _ _

/-- A mailbox operation, however it began. -/
theorem kept_mbxAct (mb : Mbx) (op : Nat) (args : List Nat) (m : Store) (c : Chip) : Kept true m (mbxAct mb op args m c).1 := by
  unfold mbxAct
  dsimp only
  split
  all_goals first
    | with_reducible exact .here _ _ _
    | with_reducible exact .refl _ _
    | exact kept_bootAct _ _ _ _
    | exact (kept_resetUnit _ _ _ _ _).mono _
    | exact (kept_parAct _ _ _ _).mono _
    | exact (kept_bpmAct _ _ _ _ _).mono _
    | exact (kept_chipAct _ _ _ _).mono _

theorem kept_writeAct (c : Chip) (rq : Req) (a k : Nat) (d : RegDesc) (ix : List Nat) (v : Nat) (m : Store) :
    Kept true m (c.writeAct rq a k d ix v m).1 := by
  unfold writeAct
  split
  · split
    · with_reducible exact .here _ _ _
    · exact (kept_mbxRunBoth true _ _ _ _ _ _ _ (fun a d => kept_mbxAct _ _ a m d)).trans ((kept_criticalEvent _ _ _).mono _)
  · split
    · split
      · with_reducible exact .here _ _ _
      · exact (kept_resetSource _ _ _).mono _
    · with_reducible exact .here _ _ _

theorem kept_writeFull (c : Chip) (rq : Req) (a v : Nat) (m : Store) : Kept true m (c.writeFull rq a v m).1 := by
  unfold writeFull
  split
  · with_reducible exact .here _ _ _
  · split
    · with_reducible exact .here _ _ _
    · split
      · with_reducible exact .here _ _ _
      · exact kept_writeAct _ _ _ _ _ _ _ _

theorem kept_writeReg (c : Chip) (rq : Req) (a : Nat) (v : BitVec 64) (w64 be : Bool) (m : Store) :
    Kept true m (c.writeReg rq a v w64 be m).1 := by
  unfold writeReg
  split
  · with_reducible exact .here _ _ _
  · split
    · split
      · with_reducible exact .here _ _ _
      · exact (kept_writeFull _ _ _ _ _).trans (kept_writeFull _ _ _ _ _)
    · exact kept_writeFull _ _ _ _ _

theorem kept_beginOp (c : Chip) (o : MbxOp) (m : Store) : Kept true m (c.beginOp o m).1 := kept_mbxAct _ _ _ _ _

theorem kept_mailboxComplete (mb : Mbx) (m : Store) (c : Chip) : Kept true m (opMailboxComplete mb m c).1 := by
  unfold opMailboxComplete
  split
  · with_reducible exact .here _ _ _
  · split
    · with_reducible exact .here _ _ _
    · refine Kept.trans ?_ ((kept_criticalEvent _ _ _).mono _)
      split
      · with_reducible exact .here _ _ _
      · exact kept_beginOp _ _ _

theorem kept_systemBusAccess (acc : SbAccess) (m : Store) (c : Chip) : Kept true m (opSystemBusAccess acc m c).1 := by
  unfold opSystemBusAccess
  dsimp only
  repeat' split
  all_goals first
    | with_reducible exact .here _ _ _
    | with_reducible exact .refl _ _
    | exact kept_writeReg _ _ _ _ _ _ _

theorem kept_swReset (rq : Req) (code : Nat) (m : Store) (c : Chip) : Kept false m (swReset rq code m c).1 := by
  unfold swReset
  repeat' split
  all_goals first
    | with_reducible exact .here _ _ _
    | with_reducible exact .refl _ _
    | exact kept_resetSource _ _ _

theorem kept_faultEvent (evs : List FaultEv) (m : Store) (c : Chip) : Kept false m (opFaultEvent evs m c).1 := kept_criticalEvent _ _ _

theorem kept_inject (rq : Req) (tag : BitVec 16) (m : Store) (c : Chip) : Kept false m (opInject rq tag m c).1 := kept_criticalEvent _ _ _

theorem kept_resetNLow (held : Nat) (rises : Bool) (s : Straps) (m : Store) (c : Chip) : Kept false m (opResetNLow held rises s m c).1 := by
  unfold opResetNLow
  exact .ite1 (.here _ _ _) (.ite1 (kept_resetSource _ _ _) (.here _ _ _))

theorem kept_supplyGoodHigh (held : Nat) (s : Straps) (m : Store) (c : Chip) : Kept false m (opSupplyGoodHigh held s m c).1 := by
  unfold opSupplyGoodHigh
  refine .ite1 (.here _ _ _) ?_
  dsimp only
  exact .ite1 (kept_resetSource _ _ _) (.here _ _ _)

theorem kept_supplyGoodLow (n : Nat) (m : Store) (c : Chip) : Kept false m (opSupplyGoodLow n m c).1 := by
  unfold opSupplyGoodLow
  dsimp only
  repeat' split
  all_goals first
    | with_reducible exact .here _ _ _
    | with_reducible exact .refl _ _
    | exact kept_resetSource _ _ _

theorem kept_vddAonLoss (m : Store) (c : Chip) : Kept false m (opVddAonLoss m c).1 := by
  unfold opVddAonLoss
  split
  · exact kept_resetSource _ _ _
  · with_reducible exact .here _ _ _

theorem kept_refclkRestored (m : Store) (c : Chip) : Kept false m (opRefclkRestored m c).1 := by
  unfold opRefclkRestored
  dsimp only
  repeat' split
  all_goals first
    | with_reducible exact .here _ _ _
    | with_reducible exact .refl _ _
    | exact kept_resetSource _ _ _

theorem kept_safetyWatchdogExpiry (m : Store) (c : Chip) : Kept false m (opSafetyWatchdogExpiry m c).1 := by
  unfold opSafetyWatchdogExpiry
  split
  · exact kept_resetSource _ _ _
  · with_reducible exact .here _ _ _

theorem kept_bootWatchdogExpiry (m : Store) (c : Chip) : Kept false m (opBootWatchdogExpiry m c).1 := by
  unfold opBootWatchdogExpiry
  exact .ite1 (kept_resetSource _ _ _) (.here _ _ _)

/-! Mailbox operations that leave the byte memories as they were. -/

theorem mbxRunBoth_store (c : Chip) (rq : Req) (tag : BitVec 16) (mb : Mbx) (op : Nat) (m : Store)
    (act : List Nat → Store → Chip → Store × Chip × Option (Nat × List Nat)) (h : ∀ a d, (act a m d).1 = m) :
    (c.mbxRunBoth rq tag mb op m act).1 = m := by
  unfold mbxRunBoth
  dsimp only
  split
  · exact h _ _
  · rfl

theorem opFlashRead_store (rq : Req) (tag : BitVec 16) (b : Bool) (m : Store) (c : Chip) : (opFlashRead rq tag b m c).1 = m :=
  mbxRunBoth_store c rq tag .boot 1 m (actFlashRead b) (fun a d => flashRead_store b a m d)

theorem opSlotCheck_store (rq : Req) (tag : BitVec 16) (e : FlashEnv) (m : Store) (c : Chip) : (opSlotCheck rq tag e m c).1 = m :=
  mbxRunBoth_store c rq tag .boot 4 m (actSlotCheck e) (fun a d => slotCheck_store e a m d)

theorem opAdvanceSvn_store (rq : Req) (tag : BitVec 16) (b : Bool) (m : Store) (c : Chip) : (opAdvanceSvn rq tag b m c).1 = m :=
  mbxRunBoth_store c rq tag .boot 0x10 m (actAdvanceSvn b) (fun a d => advanceSvn_store b a m d)

theorem opRevokeKey_store (rq : Req) (tag : BitVec 16) (b : Bool) (m : Store) (c : Chip) : (opRevokeKey rq tag b m c).1 = m :=
  mbxRunBoth_store c rq tag .boot 0x11 m (actRevokeKey b) (fun a d => revokeKey_store b a m d)

theorem kept_opSave (rq : Req) (tag : BitVec 16) (m : Store) (c : Chip) : Kept false m (opSave rq tag m c).1 :=
  kept_mbxRunBoth false c rq tag .par 4 m (fun args m c => actSave m c args) (fun a d => kept_save m d a)

theorem kept_criticalStateError (m : Store) (c : Chip) : Kept false m (opCriticalStateError m c).1 := kept_resetSource 6 m _

/-! Boot. -/

theorem kept_writeRecs (ph : Nat) (b : Bool) (l : List BootRec) (r : Store × Chip × Bool) : Kept true r.1 (writeRecs ph b l r).1 := by
  induction l generalizing r with
  | nil => exact .refl _ _
  | cons x l ih =>
    obtain ⟨m, c, ok⟩ := r
    unfold writeRecs
    split
    · with_reducible exact .here _ _ _
    · split
      · with_reducible exact .here _ _ _
      · exact (kept_writeFull c .boot x.off (c.recValue x) m).trans
          (ih ((c.writeFull .boot x.off (c.recValue x) m).1, (c.writeFull .boot x.off (c.recValue x) m).2, true))

theorem kept_acceptSlot (c : Chip) (m : Store) (s : Nat) : Kept true m (c.acceptSlot m s).1 := by
  unfold acceptSlot
  dsimp only
  split <;> exact kept_writeRecs 1 false _ (m, c, true)

theorem kept_selectSlot (c : Chip) (e : FlashEnv) (m : Store) (s : Nat) : Kept true m (c.selectSlot e m s).1 := by
  unfold selectSlot
  dsimp only
  repeat' split
  all_goals first
    | with_reducible exact .here _ _ _
    | with_reducible exact kept_acceptSlot _ _ _

theorem kept_bootB1 (s : Straps) (e : FlashEnv) (m : Store) (c : Chip) : Kept true m (opBootB1 s e m c).1 := by
  unfold opBootB1
  dsimp only
  repeat' split
  all_goals first
    | with_reducible exact .here _ _ _
    | with_reducible exact .refl _ _
    | exact kept_selectSlot _ _ _ _

theorem kept_loadSect (R : ImgR) (r : Store × Chip × Bool) (x : Sect) : Kept true r.1 (loadSect R r x).1 := by
  unfold loadSect
  dsimp only
  repeat' split
  all_goals first
    | with_reducible exact .here _ _ _
    | with_reducible exact .refl _ _
    | exact kept_writeRecs 2 true _ (r.1, r.2.1, true)

theorem kept_loadBody (c : Chip) (m : Store) (R : ImgR) : Kept true m (c.loadBody m R).1 := by
  unfold loadBody
  dsimp only
  have h := kept_foldl true (loadSect R) (kept_loadSect R) (((sections R).drop 1).filter (fun x => x.typ != stTables)) (m, c, true)
  generalize (((sections R).drop 1).filter (fun x => x.typ != stTables)).foldl (loadSect R) (m, c, true) = r at h ⊢
  generalize (if r.2.1.boot.phase = 2 then r.2.1.b2Tables else r.2.1) = d
  exact h.trans (kept_foldl true (loadSect R) (kept_loadSect R) _ (r.1, d, r.2.2))

theorem kept_streamBody (c : Chip) (e : FlashEnv) (m : Store) (s : Nat) : Kept true m (c.streamBody e m s).1 := by
  unfold streamBody
  have h := kept_loadBody c m (slotImg m (areaOf e.cs1 s))
  dsimp only
  generalize c.loadBody m (slotImg m (areaOf e.cs1 s)) = r at h ⊢
  refine .ite1 (.refl _ _) (.ite1 h (.ite1 h (.ite1 h h)))

theorem kept_bootB2 (e : FlashEnv) (m : Store) (c : Chip) : Kept true m (opBootB2 e m c).1 := by
  unfold opBootB2 exitB2
  dsimp only
  repeat' split
  all_goals first
    | with_reducible exact .here _ _ _
    | with_reducible exact .refl _ _
    | exact (kept_resetSource _ _ _).mono _
    | exact kept_streamBody _ _ _ _

theorem kept_firstB3 (f : List (Nat × Nat)) (g : List Nat) (m : Store) (c : Chip) : Kept true m (firstB3 f g m c).1 := by
  unfold firstB3
  generalize [0, 1].foldl (trainPort g) ((List.range 4).foldl (trainStack f) c) = c1
  dsimp only
  have h := kept_writeFull (c1.setF Reg.DTM_CTRL ⟨0, 1⟩ 1) .boot Reg.BPM_CTRL 1 m
  generalize (c1.setF Reg.DTM_CTRL ⟨0, 1⟩ 1).writeFull .boot Reg.BPM_CTRL 1 m = w at h ⊢
  exact h.trans (kept_writeRecs 3 false _ (w.1, w.2, true))

theorem kept_bootB3 (f : List (Nat × Nat)) (g : List Nat) (m : Store) (c : Chip) : Kept true m (opBootB3 f g m c).1 := by
  unfold opBootB3
  exact .ite1 (.here _ _ _) (.ite1 (.here _ _ _) (kept_firstB3 _ _ _ _))

theorem kept_bootB5 (m : Store) (c : Chip) : Kept true m (opBootB5 m c).1 := by
  unfold opBootB5
  refine .ite1 (.here _ _ _) (.ite1 (.here _ _ _) ?_)
  unfold firstB5
  with_reducible exact kept_writeRecs 5 false _ (m, _, true)

end Chip

end Sys2Proof.Machine
end

