-- ==== Sys2Proof/Laws/Commands.lean ====
section
/-!
SUPPORT. What a command is made of: a mailbox command is the mailbox's one operation, a command that writes a register the register
command. What each does when it is turned away follows.
-/

namespace Sys2Proof.Machine

open Chip

/-- A command that is a write of register a runs the register command on it. -/
theorem exec_registerOf (i : Instr) (rq : Req) (a : Nat) (h : registerOf i = some (rq, a)) :
    ∃ f, ∀ s, exec i s = .next (s.withChip (s.chip.regCmd rq a f)) := by
  cases i
  case snapshotGo r p =>
    cases p with
    | true => cases h
    | false =>
      simp only [registerOf, Option.some.injEq, Prod.mk.injEq] at h
      obtain ⟨rfl, rfl⟩ := h
      exact ⟨snapTake, fun _ => rfl⟩
  case clkSet r x b =>
    simp only [registerOf, Option.some.injEq, Prod.mk.injEq] at h
    obtain ⟨rfl, rfl⟩ := h
    exact ⟨fun c => c.storeFields r (Reg.DTM_CLK_SET_CMD x) (Reg.DTM_CLK_SET_CMD x) (fieldsAt (Reg.DTM_CLK_SET_CMD x)) (1 + 2 * b2n b),
      fun _ => rfl⟩
  all_goals first
    | cases h; done
    | (simp only [registerOf, Option.some.injEq, Prod.mk.injEq] at h; obtain ⟨rfl, rfl⟩ := h; exact ⟨_, fun _ => rfl⟩)

/-- A mailbox command that does not begin is the mailbox's one operation, and the byte memories are as they were. -/
theorem exec_mailboxOf (i : Instr) (s : State) (rq : Req) (tag : BitVec 16) (m : Mbx) (op : Nat)
    (h : mailboxOf i = some (rq, tag, m, op)) (n : s.chip.mbxStarts rq m op = false) :
    ∃ act, exec i s = .next (s.withChip (s.chip.mbxRun rq tag m op act)) := by
  have both : ∀ act, s.chip.mbxRunBoth rq tag m op s.store act
      = (s.store, s.chip.mbxRun rq tag m op (fun c a => (act a s.store c).2)) := by
    intro act; unfold mbxRunBoth; rw [n]; rfl
  have pool : ∀ (mb : Fin 2) (r : Req) (t : BitVec 16) (o : Nat) (act : List Nat → Store → Chip → Store × Chip × (Nat × List Nat)),
      s.chip.mbxStarts r (.bpm mb) o = false → poolCmd r t mb o s.store s.chip act
        = (s.store, s.chip.mbxRun r t (.bpm mb) o (fun c a => ((act a s.store c).2.1, some (act a s.store c).2.2))) := by
    intro mb r t o act n
    unfold mbxStarts at n
    unfold poolCmd
    simp only [n]
    rfl
  have one : ∀ (f : Store → Chip → Store × Chip) (c : Chip), f s.store s.chip = (s.store, c) → runBoth s f = .next (s.withChip c) := by
    intro f c e; unfold runBoth; rw [e]; rfl
  have bus : ∀ (r : Req) (t : BitVec 16) (mb : Fin 4) (o : Nat) (f : Chip → List Nat → Chip × (Nat × List Nat)),
      runChip s (busMbx r t mb o f)
        = .next (s.withChip (s.chip.mbxRun r t (.mbus mb) o (fun c args => ((f c args).1, some (f c args).2)))) := fun _ _ _ _ _ => rfl
  cases i
  all_goals try (cases h; done)
  all_goals
    simp only [mailboxOf, Option.some.injEq, Prod.mk.injEq] at h
    obtain ⟨rfl, rfl, rfl, rfl⟩ := h
  case resetUnit r t x => exact ⟨_, one _ _ (both (actResetUnit x.ok x.bursts))⟩
  case flashRead r t b => exact ⟨_, one _ _ (both (actFlashRead b))⟩
  case flashErase r t b => exact ⟨_, one _ _ (both (actFlashErase b))⟩
  case flashWrite r t b => exact ⟨_, one _ _ (both (actFlashWrite b))⟩
  case slotCheck r t e => exact ⟨_, one _ _ (both (actSlotCheck e))⟩
  case advanceSvn r t b => exact ⟨_, one _ _ (both (actAdvanceSvn b))⟩
  case revokeKey r t b => exact ⟨_, one _ _ (both (actRevokeKey b))⟩
  case save r t => exact ⟨_, one _ _ (both (fun args m c => actSave m c args))⟩
  case xalloc r t mb ue => exact ⟨_, one _ _ (pool mb r t 1 _ n)⟩
  case xfree r t mb ue => exact ⟨_, one _ _ (pool mb r t 2 _ n)⟩
  case mbusWrite r t mb e => exact ⟨_, bus r t mb 1 (fun c args => c.busRun mb.val e true false args)⟩
  case mbusRead r t mb e => exact ⟨_, bus r t mb 2 (fun c args => c.busRun mb.val e false true args)⟩
  case writeRead r t mb e => exact ⟨_, bus r t mb 3 (fun c args => c.busRun mb.val e true true args)⟩
  case recover r t mb e =>
    exact ⟨_, bus r t mb 4 (fun c _ => ((c.busCheck mb.val e).1, (if (c.busCheck mb.val e).2 then 0 else 7, [])))⟩
  case inject r t =>
    refine ⟨actInject, one _ _ ?_⟩
    unfold opInject
    rw [n]
    rfl
  all_goals exact ⟨_, rfl⟩

/-- A mailbox command that is turned away (R54, R71). -/
theorem exec_mailbox_err (i : Instr) (s : State) (rq : Req) (tag : BitVec 16) (m : Mbx) (op bit : Nat)
    (h : mailboxOf i = some (rq, tag, m, op)) (n : s.chip.mbxStarts rq m op = false)
    (e : ∀ act, s.chip.mbxRun rq tag m op act = s.chip.err rq bit m.cmd) :
    exec i s = .next (s.withChip (s.chip.err rq bit m.cmd)) := by
  obtain ⟨act, x⟩ := exec_mailboxOf i s rq tag m op h n
  rw [x, e]

/-- A descriptor's command is one step of its ring (R383). -/
theorem exec_descriptorOf (i : Instr) (p r : Nat) (d : Desc) (h : descriptorOf i = some (p, r, d)) :
    ∃ act, ∀ s, exec i s = .next (s.withChip (s.chip.descStep p r d act)) := by
  cases i
  all_goals first
    | cases h; done
    | (simp only [descriptorOf, Option.some.injEq, Prod.mk.injEq] at h; obtain ⟨rfl, rfl, rfl⟩ := h; exact ⟨_, fun _ => rfl⟩)

/-- A spare-lane message's command is the spare's one way to take it (R118, R119). -/
theorem exec_spareMsgOf (i : Instr) (p j op : Nat) (m : SpareMsg) (h : spareMsgOf i = some (p, j, op, m)) :
    ∃ act, ∀ s, exec i s = .next (s.withChip (s.chip.onMsg p j op m act)) := by
  cases i
  all_goals first
    | cases h; done
    | (simp only [spareMsgOf, Option.some.injEq, Prod.mk.injEq] at h; obtain ⟨rfl, rfl, rfl, rfl⟩ := h; exact ⟨_, fun _ => rfl⟩)

/-- A Tether message that is not for this engine changes nothing (R399). -/
theorem exec_tetMsg_off (i : Instr) (s : State) (m : TetMsg) (h : tetMsgOf i = some m)
    (e : s.chip.on Reg.TET_CTRL Fd.TET_CTRL_EN = false ∨ m.fcsGood = false) : exec i s = .next s := by
  have one : ∀ f : Chip → Chip, f s.chip = s.chip → runChip s f = .next s := by
    intro f e; unfold runChip; rw [e]
  cases i
  all_goals try (cases h; done)
  all_goals
    simp only [tetMsgOf, Option.some.injEq] at h
    subst h
  case heartbeat => exact one _ (by rcases e with e | e <;> simp [opHeartbeat, e])
  all_goals exact one _ (tetTake_off _ _ _ e)

theorem err_eq (c : Chip) (rq : Req) (bit a : Nat) : c.err rq bit a
    = (if c.rd (statusOf rq) % 32 = 0 then c.wrN (errAddrOf rq) (errWord rq bit a) else c).setF (statusOf rq) ⟨bit, 1⟩ 1 := by
  cases rq <;> rfl

/-- An access error leaves every register but the requester's status and error address (R73, R74). -/
theorem reg_err_other (c : Chip) (rq : Req) (bit a k : Nat) (h : k ≠ statusOf rq) (g : k ≠ errAddrOf rq) :
    (c.err rq bit a).reg k = c.reg k := by
  rw [err_eq, reg_setF_other _ _ _ _ _ h]
  split
  · exact reg_wrN_other _ _ _ _ g
  · rfl

theorem errAddr_ne_status (rq : Req) : errAddrOf rq ≠ statusOf rq := by
  cases rq <;> simp only [errAddrOf, statusOf, Reg.GLB_STATUS, Reg.GLB_ERR_ADDR, Reg.VF_STATUS, Reg.VF_ERR_ADDR] <;> omega

end Sys2Proof.Machine
end

