-- ==== Sys2Proof/Laws/Faults.lean ====
section
/-!
SUPPORT. What the fault collector can change: its own registers, its own state and counters, and nothing else.
-/

namespace Sys2Proof.Machine.Chip

/-- d differs from c in the fault collector alone: its registers (0x40000 to 0x4FFFF), its state, counters; and in the frames in
transmission, which a quench ends (R331). -/
structure FltOnly (c d : Chip) : Prop where
  frame : d = { c with out := d.out, regs := d.regs, ctrs := d.ctrs, flt := d.flt, pnl.txEnd := d.pnl.txEnd }
  out : ∃ l, d.out = l ++ c.out
  regs : ∀ k, k < 0x40000 ∨ 0x50000 ≤ k → d.reg k = c.reg k

namespace FltOnly

theorem refl (c : Chip) : FltOnly c c := ⟨rfl, ⟨[], rfl⟩, fun _ _ => rfl⟩

theorem trans {c d e : Chip} (h : FltOnly c d) (g : FltOnly d e) : FltOnly c e := by
  obtain ⟨l, hl⟩ := h.out
  obtain ⟨k, hk⟩ := g.out
  refine ⟨?_, ⟨k ++ l, by rw [hk, hl, List.append_assoc]⟩, fun k hk => (g.regs k hk).trans (h.regs k hk)⟩
  have a := h.frame
  have b := g.frame
  rw [a] at b
  exact b

theorem wr (c : Chip) (k : Nat) (v : Word) (h : 0x40000 ≤ k ∧ k < 0x50000) : FltOnly c (c.wr k v) :=
  ⟨rfl, ⟨[], rfl⟩, fun j hj => reg_wr_other c k j v (by omega)⟩

theorem wrN (c : Chip) (k v : Nat) (h : 0x40000 ≤ k ∧ k < 0x50000) : FltOnly c (c.wrN k v) := wr c k _ h

theorem setF (c : Chip) (k : Nat) (f : BF) (v : Nat) (h : 0x40000 ≤ k ∧ k < 0x50000) : FltOnly c (c.setF k f v) := wr c k _ h

theorem bump (c : Chip) (k n : Nat) : FltOnly c (c.bump k n) := by
  refine ⟨?_, ⟨[], bump_out c k n⟩, fun j _ => reg_bump c k n j⟩
  rw [bump_regs, bump_flt, bump_out, bump_pnl]; exact bump_frame c k n

theorem flt (c : Chip) (x : Flt) : FltOnly c { c with flt := x } := ⟨rfl, ⟨[], rfl⟩, fun _ _ => rfl⟩

theorem cutFrames (c : Chip) (p : Nat → Bool) : FltOnly c (c.cutFrames p) := ⟨rfl, ⟨_, rfl⟩, fun _ _ => rfl⟩

theorem ite {p : Prop} [Decidable p] {c d e : Chip} (h : FltOnly c d) (g : FltOnly c e) : FltOnly c (if p then d else e) := by
  split
  · exact h
  · exact g

theorem wrList (c : Chip) (key : Nat → Nat) (i : Nat) (l : List Nat)
    (h : ∀ j, i ≤ j → j < i + l.length → 0x40000 ≤ key j ∧ key j < 0x50000) : FltOnly c (c.wrList key i l) := by
  induction l generalizing c i with
  | nil => exact refl c
  | cons v l ih =>
    simp only [List.length_cons] at h
    exact (wrN c _ v (h i (by omega) (by omega))).trans (ih _ _ (fun j a b => h j (by omega) (by omega)))

end FltOnly

theorem fltOnly_assertFaultn (c : Chip) (hold : Bool) : FltOnly c (c.assertFaultn hold) :=
  (FltOnly.setF c Reg.FLT_STATUS Fd.FLT_STATUS_FAULTN 1 (by simp [Reg.FLT_STATUS])).trans (FltOnly.flt _ _)

theorem fltOnly_startQuench (c : Chip) : FltOnly c c.startQuench :=
  ((FltOnly.cutFrames c _).trans (FltOnly.setF _ Reg.FLT_STATUS Fd.FLT_STATUS_QUENCH 1 (by simp [Reg.FLT_STATUS]))).trans
    (FltOnly.flt _ _)

theorem fltOnly_wrFirst (c : Chip) (l : List Byte) : FltOnly c (c.wrRecord Reg.FLT_FIRST l) := by
  refine FltOnly.wrList c _ _ _ (fun j _ h => ?_)
  simp only [List.length_map, List.length_range] at h
  simp only [Reg.FLT_FIRST]; omega

theorem fltOnly_history (c : Chip) (l : List Byte) : FltOnly c (c.history l) := by
  have lt : ∀ i, i < 32 → FltOnly c (c.wrRecord (Reg.FLT_HIST i) l) := fun i hi => by
    refine FltOnly.wrList c _ _ _ (fun j _ h => ?_)
    simp only [List.length_map, List.length_range] at h
    simp only [Reg.FLT_HIST]; omega
  unfold history
  refine (FltOnly.trans ?_ (FltOnly.setF _ _ _ _ (by simp [Reg.FLT_HIST_PTR]))).trans (FltOnly.setF _ _ _ _ (by simp [Reg.FLT_HIST_PTR]))
  refine lt _ ?_
  split
  · decide
  · exact Nat.mod_lt _ (by decide)

theorem fltOnly_jrnPush (c : Chip) (b : Bool) (l : List Byte) : FltOnly c (c.jrnPush b l) :=
  (FltOnly.setF c Reg.FLT_STATUS Fd.FLT_STATUS_JRN_BUSY 1 (by simp [Reg.FLT_STATUS])).trans (FltOnly.flt _ _)

/-- Recognition of an event changes the fault collector alone (R328 to R333). -/
theorem fltOnly_recognise (c : Chip) (ev : FaultEv) (force : Bool) : FltOnly c (c.recognise ev force) := by
  unfold recognise
  extract_lets c1 c2 cfg f x3 c3 c4 low hold x5
  have h1 : FltOnly c c1 := FltOnly.bump _ _ _
  have h2 : FltOnly c c2 := h1.trans (FltOnly.ite (FltOnly.bump _ _ _) (FltOnly.refl _))
  have h3 : FltOnly c c3 := h2.trans (FltOnly.ite (FltOnly.flt _ _) (FltOnly.refl _))
  have h4 : FltOnly c c4 := h3.trans (FltOnly.ite (fltOnly_startQuench _) (FltOnly.refl _))
  exact h4.trans (FltOnly.ite (fltOnly_assertFaultn _ _) (FltOnly.ite (FltOnly.flt _ _) (FltOnly.refl _)))

/-- A record changes the fault collector alone (R349 to R352). -/
theorem fltOnly_writeRecord (c : Chip) (clk : Clk) (ev : FaultEv) (force : Bool) : FltOnly c (c.writeRecord clk ev force) := by
  unfold writeRecord
  extract_lets ev1 cfg q f first bypass jrn takes seq rec32 c6 x6 c7 c8
  have h6 : FltOnly c c6 :=
    FltOnly.ite ((fltOnly_wrFirst _ _).trans (FltOnly.setF _ _ _ _ (by simp [Reg.FLT_STATUS]))) (FltOnly.refl _)
  have h7 : FltOnly c c7 := h6.trans (FltOnly.ite (FltOnly.flt _ _) (FltOnly.refl _))
  have h8 : FltOnly c c8 := h7.trans (FltOnly.ite (fltOnly_history _ _) (FltOnly.refl _))
  exact h8.trans (FltOnly.ite (fltOnly_jrnPush _ _ _) (FltOnly.ite (FltOnly.bump _ _ _) (FltOnly.refl _)))

/-- One event changes the fault collector alone (R328 to R333, R349 to R352). -/
theorem fltOnly_collectWith (c : Chip) (ev : FaultEv) (force : Bool) : FltOnly c (c.collectWith ev force) := by
  unfold collectWith
  split
  · exact FltOnly.refl c
  · exact (fltOnly_recognise _ _ _).trans (fltOnly_writeRecord _ _ _ _)

/-- A report uses one free value and changes the fault collector alone. -/
theorem fltOnly_report (c : Chip) (unit line cls outcome : Nat) : FltOnly c.tick (c.report unit line cls outcome) :=
  fltOnly_collectWith _ _ _

theorem reg_report (c : Chip) (unit line cls outcome k : Nat) (h : k < 0x40000 ∨ 0x50000 ≤ k) :
    (c.report unit line cls outcome).reg k = c.reg k := (fltOnly_report c unit line cls outcome).regs k h

theorem plain_report (c : Chip) (unit line cls outcome : Nat) : (c.report unit line cls outcome).plain = c.plain := by
  unfold plain on fld
  rw [reg_report _ _ _ _ _ _ (by simp [Reg.RST_CAUSE])]

theorem boot_report (c : Chip) (unit line cls outcome : Nat) : (c.report unit line cls outcome).boot = c.boot := by
  rw [(fltOnly_report c unit line cls outcome).frame]; rfl

theorem now_report (c : Chip) (unit line cls outcome : Nat) : (c.report unit line cls outcome).now = c.now := by
  rw [(fltOnly_report c unit line cls outcome).frame]; rfl

theorem firstInCycle_report (c : Chip) (unit line cls outcome : Nat) :
    (c.report unit line cls outcome).firstInCycle = c.firstInCycle := by
  unfold firstInCycle sameCycle; rw [boot_report, now_report]

end Sys2Proof.Machine.Chip
end

