-- ==== Sys2Proof/Laws/Tick.lean ====
section
/-!
SUPPORT. What a tick of the Datum clock does to the machine's times.
-/

namespace Sys2Proof.Machine.Chip

/-- What every step of a fold keeps, the fold keeps. -/
theorem foldl_keep {A B : Type} (g : Chip → B) (f : Chip → A → Chip) (h : ∀ c a, g (f c a) = g c) (l : List A) (c : Chip) :
    g (l.foldl f c) = g c := by
  induction l generalizing c with
  | nil => rfl
  | cons a l ih => exact (ih _).trans (h c a)

theorem pmcCycles_now (n : Nat) (c : Chip) (i : Nat) : (pmcCycles n c i).now = c.now := by
  unfold pmcCycles
  dsimp only
  repeat' split
  all_goals rfl

theorem pmcCycles_time (n : Nat) (c : Chip) (i : Nat) : (pmcCycles n c i).time = c.time := by
  unfold pmcCycles
  dsimp only
  repeat' split
  all_goals rfl

theorem pmcTick_now (c : Chip) (n : Nat) : (c.pmcTick n).now = c.now := by
  unfold pmcTick
  split
  · exact foldl_keep (fun c => c.now) _ (fun c a => pmcCycles_now n c a) _ _
  · rfl

theorem pmcTick_time (c : Chip) (n : Nat) : (c.pmcTick n).time = c.time := by
  unfold pmcTick
  split
  · exact foldl_keep (fun c => c.time) _ (fun c a => pmcCycles_time n c a) _ _
  · rfl

theorem rtcTick_now (c : Chip) : c.rtcTick.now = c.now := by
  unfold rtcTick
  extract_lets a
  clear_value a
  by_cases h : 100000000 ≤ a
  · rw [if_pos h]
  · rw [if_neg h]

theorem setRtc_tmBase (c : Chip) (x y : Nat) : ({ c with time.rtc := x, time.rtcAcc := y } : Chip).time.tmBase = c.time.tmBase := rfl

theorem setRtcAcc_tmBase (c : Chip) (y : Nat) : ({ c with time.rtcAcc := y } : Chip).time.tmBase = c.time.tmBase := rfl

theorem rtcTick_tmBase (c : Chip) : c.rtcTick.time.tmBase = c.time.tmBase := by
  unfold rtcTick
  extract_lets a
  clear_value a
  by_cases h : 100000000 ≤ a
  · exact (congrArg (fun d : Chip => d.time.tmBase) (if_pos h)).trans (setRtc_tmBase c _ _)
  · exact (congrArg (fun d : Chip => d.time.tmBase) (if_neg h)).trans (setRtcAcc_tmBase c _)

/-- The machine's time, and the time counters beside it. -/
def times (c : Chip) : Nat × Time := (c.now, c.time)

theorem times_bump (c : Chip) (k n : Nat) : (c.bump k n).times = c.times := by simp [times]

theorem times_setF (c : Chip) (k : Nat) (f : BF) (v : Nat) : (c.setF k f v).times = c.times := rfl

/-! The clocks. -/

theorem times_setClk (c : Chip) (x : Nat) (k : Clk) : (c.setClk x k).times = c.times := by
  unfold setClk
  split <;> rfl

theorem times_setAdj (c : Chip) (x : Nat) (v : Int) : (c.setAdj x v).times = c.times := rfl

theorem times_applySet (c : Chip) (x : Nat) : (c.applySet x).times = c.times := by
  unfold applySet
  rw [times_setF, times_setAdj, times_setClk]

theorem tickClk_eq (c : Chip) (x : Nat) : ∃ k v, c.tickClk x = (if ((c.setClk x k).setAdj x v).setPending x false then
    ((c.setClk x k).setAdj x v).applySet x else (c.setClk x k).setAdj x v) := ⟨_, _, rfl⟩

theorem times_tickClk (c : Chip) (x : Nat) : (c.tickClk x).times = c.times := by
  obtain ⟨k, v, e⟩ := tickClk_eq c x
  rw [e]
  split
  · rw [times_applySet, times_setAdj, times_setClk]
  · rw [times_setAdj, times_setClk]

theorem times_applySnap (c : Chip) : c.applySnap.times = c.times := by
  unfold applySnap
  split
  · rw [times_bump, times_setF]; rfl
  · rfl

theorem times_histTick (c : Chip) (x : Nat) : (c.histTick x).times = c.times := by
  unfold histTick
  dsimp only
  split <;> rfl

theorem times_edgeTick (c : Chip) : c.edgeTick.times = c.times := by
  unfold edgeTick
  dsimp only
  split <;> rfl

/-- The clocks after a tick, before the PPS output looks at them. -/
theorem times_clocks (c : Chip) (x : Dtm) :
    ((({ (c.tickClk 0).tickClk 1 with dtm := x }.applySnap.histTick 0).histTick 1).edgeTick).times = c.times := by
  rw [times_edgeTick, times_histTick, times_histTick, times_applySnap]
  exact (times_tickClk _ _).trans (times_tickClk _ _)

theorem times_ppsDue (c d : Chip) (b : Bool) (h : d.times = c.times) : ({ d with dtm.ppsDue := b } : Chip).times = c.times := h

theorem times_clocksTick (c : Chip) : c.clocksTick.times = c.times := by
  have h := fun x => times_clocks c x
  unfold clocksTick
  generalize c.servedNext = s
  dsimp only
  split
  · split
    · exact times_ppsDue c _ _ (h _)
    · exact h _
  · rfl

/-! HBM. -/

theorem times_memUsed (w : Nat) (c : Chip) (k : Nat) : (memUsed w c k).times = c.times := times_bump c _ _

theorem times_serveReq (c : Chip) (key : Nat) : (c.serveReq key).1.times = c.times := by
  unfold serveReq
  dsimp only
  split
  · rfl
  · split
    · exact times_bump c _ _
    · rfl

theorem times_serveSome (n : Nat) (c : Chip) (key : Nat) : (serveSome n c key).times = c.times := by
  induction n generalizing c with
  | zero => rfl
  | succ n ih => exact (ih _).trans (times_serveReq c key)

theorem times_backTick (c : Chip) (k : Nat) : (c.backTick k).times = c.times := by
  unfold backTick
  dsimp only
  split
  · rfl
  · split
    · split
      · rfl
      · exact times_memUsed 1 c k
    · rfl

theorem times_hbmTick (c : Chip) : c.hbmTick.times = c.times :=
  (foldl_keep times _ (fun c key => times_serveSome _ c key) _ _).trans (foldl_keep times _ times_backTick _ _)

theorem hbmTick_now (c : Chip) : c.hbmTick.now = c.now := congrArg Prod.fst (times_hbmTick c)

theorem hbmTick_tmBase (c : Chip) : c.hbmTick.time.tmBase = c.time.tmBase := congrArg (fun x => x.2.tmBase) (times_hbmTick c)

/-! The counters of the harts. -/

theorem times_pmuCount (h r n : Nat) (c : Chip) : (pmuCount h r n c).times = c.times := by
  unfold pmuCount
  dsimp only
  split <;> rfl

theorem times_pmuTake (h n : Nat) (c : Chip) : (pmuTake h n c).1.times = c.times := by
  unfold pmuTake
  split
  · rfl
  · split <;> rfl

theorem times_pmuWrite (h : Nat) (c : Chip) (r : Nat) : (pmuWrite h c r).times = c.times := by
  unfold pmuWrite
  split <;> rfl

theorem times_hartRun (h cycles retired : Nat) (c : Chip) : (hartRun h cycles retired c).times = c.times := by
  have w : ∀ d : Chip, d.times = c.times →
      (match Config.coreWrites h c.now c.freeCtr 0 with
        | some v => { d with dbg.pmuIrq := mset (fun _ => 0) d.dbg.pmuIrq h v }
        | none => d).times = c.times := fun d e => by split <;> exact e
  exact w _ (((foldl_keep times _ (times_pmuWrite h) _ _).trans
    (foldl_keep times _ (fun _ _ => times_pmuCount _ _ _ _) _ _)).trans (times_pmuTake h retired c))

theorem times_mgmtCycles (n : Nat) (c : Chip) : (mgmtCycles n c).times = c.times :=
  foldl_keep times _ (fun _ _ => times_hartRun _ _ _ _) _ _

theorem mgmtTick_now (c : Chip) : c.mgmtTick.now = c.now := congrArg Prod.fst (times_mgmtCycles _ _)

theorem mgmtTick_tmBase (c : Chip) : c.mgmtTick.time.tmBase = c.time.tmBase :=
  congrArg (fun x => x.2.tmBase) (times_mgmtCycles _ _)

/-- A tick is 1.25 ns of the machine's time, and of the time base in units of 2^-32 ns (R251, R300). -/
theorem datumTick_times (c : Chip) :
    c.datumTick.now = c.now + 1250 ∧ c.datumTick.time.tmBase = c.time.tmBase + 5368709120 := by
  unfold datumTick
  extract_lets a x d
  have h : d.times = (c.now + tickPs, { c.time with coreAcc := a % 16, coreCyc := c.time.coreCyc + a / 16 }) := times_clocksTick _
  clear_value d
  have hn : d.now = c.now + 1250 := congrArg Prod.fst h
  have ht : d.time.tmBase = c.time.tmBase := congrArg (fun x => x.2.tmBase) h
  refine ⟨?_, ?_⟩
  · rw [pmcTick_now, mgmtTick_now]
    exact (hbmTick_now _).trans ((rtcTick_now _).trans hn)
  · rw [pmcTick_time, mgmtTick_tmBase]
    refine (hbmTick_tmBase _).trans ((rtcTick_tmBase _).trans ?_)
    show d.time.tmBase + _ = _
    rw [ht]

end Sys2Proof.Machine.Chip
end

