-- ==== Sys2Proof/WellFormed.lean ====
section
/-!
DEFINITION. Which commands are well formed: the bounds that the types of the operands do not state. No command's meaning depends on
them; a command that is not well formed is one that no sender of the spec can send.
-/

namespace Sys2Proof

/-- Bytes that the PF's register window has (R53). -/
def pfSize : Nat := 2 ^ 25

/-- A frame of at most 16 KiB, runts among them (R112), with one count of corrected symbols for each of up to 8 lanes. -/
def RxFrame.ok (f : RxFrame) : Bool := decide (f.bytes.length ≤ 16384) && decide (f.syms.length ≤ 8)

/-- A unit code that R6 does not reserve. -/
def unitCode (u : Nat) : Bool :=
  decide (u < 0x15) || (decide (0x17 < u) && decide (u < 0x29)) || (decide (0x2F < u) && decide (u < 0x35))
    || (decide (0x37 < u) && decide (u < 0x3F))

/-- A protected location is in a space of the model. -/
def Loc.ok (l : Loc) : Bool := decide (l.space ≤ 8)

/-- The words of a location of a space. -/
def wordsIn (space : Nat) : Nat :=
  match space with
  | 4 => 17
  | 5 => 8
  | 6 => 8
  | 7 => 16
  | _ => 1

/-- Different bits of a word of a protected location flip: at most the 9 of an automaton byte, and 512 with the check bits elsewhere. -/
def Hit.ok (h : Hit) : Bool :=
  h.loc.ok && decide (h.seg < wordsIn h.loc.space) && !h.bits.isEmpty && decide h.bits.Nodup
    && h.bits.all (fun b => decide (b < if h.loc.space = 5 then 9 else 512))

/-- A unit code of R6, a class of R327, line and outcome as a record has them (R349), a group of the packet SRAM (R9), and a syndrome
not yet lost (R328). -/
def FaultEv.ok (e : FaultEv) : Bool :=
  unitCode e.unit && decide (e.line < 8) && decide (0 < e.cls) && decide (e.cls < 0x1A) && decide (e.outcome < 4)
    && decide (e.group < 8) && !e.lost

/-- At most one event on a pair in one AON cycle (R328). -/
def eventsOk : List FaultEv → Bool
  | [] => true
  | e :: l => e.ok && !l.any (fun x => x.unit == e.unit && x.line == e.line) && eventsOk l

/-- A message block is received in at least one slot (R118). -/
def SpareMsg.ok (m : SpareMsg) : Bool := decide (0 < m.slots)

/-- A body is no longer than BLEN says (R399). -/
def TetMsg.ok (m : TetMsg) : Bool := decide (m.body.length < 32768)

/-- Failed ranks name a controller and one of its 128 physical ranks (R276). -/
def ranksOk (l : List (Nat × Nat)) : Bool := l.all (fun x => decide (x.1 < 4) && decide (x.2 < 128))

/-- Quanta of 16 bits: one, or one for each of eight priorities (R270). -/
def quantaOk (pfc : Bool) (l : List Nat) : Bool := l.length == (if pfc then 8 else 1) && l.all (fun q => decide (q < 65536))

/-- A rule row of 136 bytes, or none (R183, R380). -/
def rowOk (l : List Byte) : Bool := l.isEmpty || l.length == 136

/-- Up to 32 answer bytes (R422). -/
def BusEnv.ok (b : BusEnv) : Bool := decide (b.reads.length ≤ 33)

/-- A register offset of the PF's window, or an address in a hart's memory (R413). -/
def SbAccess.ok : SbAccess → Bool
  | .memRead _ a => decide (a < 2 ^ 64)
  | .memWrite _ a _ => decide (a < 2 ^ 64)
  | .regRead a _ => decide (a < pfSize)
  | .regWrite a _ _ => decide (a < pfSize)

/-- Well-formedness of a command. -/
def Instr.wellFormed (i : Instr) : Bool :=
  match i with
  | .resetNLow _ => true
  | .supplyGoodHigh _ => true
  | .supplyGoodLow _ => true
  | .vddAonLoss => true
  | .railOutOfRange _ => true
  | .tempSample n _ => decide (n.val < 29)
  | .refclkLoss => true
  | .refclkRestored => true
  | .registerWrite _ addr _ _ _ => decide (addr < pfSize)
  | .badRead _ addr _ => decide (addr < pfSize)
  | .latchingRead _ addr _ => decide (addr < pfSize)
  | .datumNsRead _ _ _ => true
  | .mailboxComplete _ => true
  | .glbLockSet _ => true
  | .bkpWrite => true
  | .swWarmReset _ => true
  | .swColdReset _ => true
  | .safetyWatchdogExpiry => true
  | .criticalStateError => true
  | .resetUnit _ _ _ => true
  | .bootB0 => true
  | .bootB1 _ _ _ _ => true
  | .bootB2 _ => true
  | .bootB3 failedRanks cxlGib => ranksOk failedRanks && cxlGib.length == 2 && cxlGib.all (fun g => decide (g < 65536))
  | .bootB4 => true
  | .bootB5 => true
  | .bootWatchdogExpiry => true
  | .bootBackoffEnd => true
  | .flashRead _ _ _ => true
  | .flashErase _ _ _ => true
  | .flashWrite _ _ _ => true
  | .slotCheck _ _ _ => true
  | .advanceSvn _ _ _ => true
  | .revokeKey _ _ _ => true
  | .perstAssert => true
  | .pfFlr => true
  | .vfFlr _ => true
  | .receiveFrame _ f => f.ok
  | .bridleIngress _ => true
  | .pfcRefresh _ => true
  | .parseHead _ hits => hits.all Hit.ok
  | .residenceOverrun _ => true
  | .patternScan _ hits => hits.all Hit.ok
  | .replicationCopy _ hits => hits.all Hit.ok
  | .headCacheRefill _ => true
  | .spillWriteComplete _ => true
  | .readback _ _ _ _ => true
  | .dequeue _ => true
  | .ageSweep _ => true
  | .transmitCopy _ hits => hits.all Hit.ok
  | .portEnable _ _ => true
  | .portDisable _ _ => true
  | .portRestart _ _ => true
  | .portRelease _ _ below => below.all (fun l => decide (l < 8))
  | .autonegComplete _ _ _ => true
  | .trainingComplete _ => true
  | .trainingTimeout _ => true
  | .linkUp _ => true
  | .portFault _ _ => true
  | .faultClear _ => true
  | .holdExpiry _ => true
  | .degradeTrigger _ _ => true
  | .failureTrigger _ _ => true
  | .degradeRetry _ _ => true
  | .hello _ _ msg => msg.ok
  | .bridgeReq _ _ msg => msg.ok
  | .bridgeAck _ _ msg => msg.ok
  | .bridgeNak _ _ msg => msg.ok
  | .swapDone _ _ msg => msg.ok
  | .releaseReq _ _ msg => msg.ok
  | .releaseAck _ _ msg => msg.ok
  | .bridgeAckTimeout _ _ => true
  | .swapSwitch _ _ => true
  | .sparePartnerTimeout _ _ => true
  | .spareTrainRetry _ _ => true
  | .pauseFrameRx _ pfc _ quanta => quantaOk pfc quanta
  | .pauseExpiry _ _ => true
  | .pfcWatchdogTick => true
  | .queueSample _ => true
  | .openSlot _ _ _ => true
  | .write _ _ _ row => rowOk row
  | .delete _ _ _ => true
  | .close _ _ _ => true
  | .closeComplete _ => true
  | .abort _ _ _ => true
  | .abortDone _ => true
  | .commit _ _ _ => true
  | .nop _ _ _ => true
  | .patch _ _ _ _ => true
  | .loadComplete => true
  | .flip => true
  | .sweepStart _ => true
  | .sweepDone _ => true
  | .learnRequest => true
  | .learnTick => true
  | .agingPass => true
  | .probe _ _ hits => hits.all Hit.ok
  | .readRaw _ _ hits => hits.all Hit.ok
  | .rehash _ _ => true
  | .rehashCopyDone => true
  | .rehashCleanup => true
  | .prsTraverse _ hits => hits.all Hit.ok
  | .repairComplete loc _ _ _ => loc.ok
  | .prsRdAddrWrite _ _ _ hits => hits.all Hit.ok
  | .rwrRdAddrWrite _ _ _ hits => hits.all Hit.ok
  | .clsRdAddrWrite _ _ _ hits => hits.all Hit.ok
  | .ruleTraverse _ hits => hits.all Hit.ok
  | .patternTraverse _ hits _ => hits.all Hit.ok
  | .scanTest _ _ _ hits => hits.all Hit.ok
  | .readRule _ _ _ hits => hits.all Hit.ok
  | .fbkRecordWrite _ => true
  | .readRecord _ _ _ => true
  | .poolInit _ _ => true
  | .poolInitDone _ => true
  | .xalloc _ _ _ _ => true
  | .xfree _ _ _ _ => true
  | .cellInfo _ _ _ => true
  | .auditPass => true
  | .hbmRefresh _ _ => true
  | .hbmRetrainStep _ _ => true
  | .parityAlert _ _ => true
  | .retireReq _ _ _ => true
  | .migrationBlock _ => true
  | .backingTraverse oneBad rest => oneBad.all (fun x => x.2.ok) && rest.bothBad.all (fun x => x.ok)
  | .cxlTimeout _ => true
  | .cxlLinkDown _ => true
  | .cxlLinkUp _ => true
  | .clkIncWrite _ _ _ => true
  | .clkAdj _ _ _ => true
  | .clkSet _ _ _ => true
  | .serveSwitch _ _ => true
  | .snap _ => true
  | .datumLock => true
  | .ppsInEdge => true
  | .ppsOutPulse => true
  | .timeRefLoss => true
  | .timeRefReturn => true
  | .servoMode _ _ _ => true
  | .servoSample _ _ _ => true
  | .servoStatus _ _ _ => true
  | .servoHoldover _ => true
  | .faultEvent evs => eventsOk evs
  | .storeReloadComplete _ _ => true
  | .wireFault unit _ _ => unitCode unit.val
  | .wireFaultPersist unit _ => unitCode unit.val
  | .quenchRelease _ => true
  | .faultnRelease _ => true
  | .faultnSet _ => true
  | .faultnPulseEnd => true
  | .journalWrite => true
  | .readJournal _ _ => true
  | .giveback _ _ => true
  | .inject _ _ => true
  | .wdtKick _ _ _ => true
  | .coreWatchdogExpiry _ => true
  | .scrubTraverse hits => hits.all Hit.ok
  | .enter _ _ => true
  | .entryDrainDone => true
  | .entryAbort _ => true
  | .deflatePowerOff => true
  | .exitState _ _ => true
  | .deflatedExit => true
  | .rtcAlarm => true
  | .rtcCountWrite _ _ => true
  | .setLevel _ _ => true
  | .levelSwitch _ => true
  | .domainOff _ _ => true
  | .domainOn _ _ => true
  | .domainClear _ _ => true
  | .rampStart => true
  | .rampDone _ => true
  | .softstartTrip _ => true
  | .doorbell _ _ _ _ => true
  | .ringError _ _ => true
  | .msixInterrupt _ _ => true
  | .injectFetch _ _ entry => decide (32 ≤ entry.length)
  | .parcelCreate _ _ => true
  | .quiesce _ _ => true
  | .resume _ _ => true
  | .freeze _ _ => true
  | .save _ _ => true
  | .restore _ _ => true
  | .parcelReset _ _ => true
  | .remove _ _ => true
  | .vfProbe _ _ _ hits => hits.all Hit.ok
  | .vfReadRecord _ _ _ _ => true
  | .heartbeat msg => msg.ok
  | .heartbeatSend => true
  | .tetUpdate msg rows => msg.ok && rows.all rowOk
  | .tetAck msg => msg.ok
  | .tetherRetransmit => true
  | .tetSwapReq msg => msg.ok
  | .tetSwapGo msg => msg.ok
  | .tetherSwapDone msg => msg.ok
  | .tetResyncChunk msg rows => msg.ok && rows.all rowOk
  | .partnerLoss => true
  | .aloneTimeout => true
  | .tetSwap _ _ => true
  | .tetResync _ _ => true
  | .snapshotGo _ _ => true
  | .snapshotComplete => true
  | .bwWindow => true
  | .loadWindow loads => loads.length == 6 && loads.all (fun l => decide (l ≤ 100))
  | .challenge => true
  | .response data => data.length == 208
  | .authVerdict => true
  | .relock => true
  | .idcode => true
  | .samplePreload _ _ => true
  | .extest => true
  | .clamp => true
  | .highz => true
  | .bypass => true
  | .debugHalt _ => true
  | .debugResume _ => true
  | .debugStep _ => true
  | .abstractCommand _ _ => true
  | .systemBusAccess acc => acc.ok
  | .mbusWrite _ _ _ bus => bus.ok
  | .mbusRead _ _ _ bus => bus.ok
  | .writeRead _ _ _ bus => bus.ok
  | .recover _ _ _ bus => bus.ok
  | .spareTrainingDone _ _ _ => true
  | .perstNRelease => true
  | .domainDrainTimeout _ => true
  | .vbatLoss => true
  | .alertNChange _ _ => true

end Sys2Proof
end

