-- ==== Sys2Proof/Tests/Slice0.lean ====
section
/-!
SUPPORT. The model's own tests: the well-formedness checks, worked examples of the spec, and for every obligation with hypotheses a
state and operands that meet them all together.
-/

open Sys2Proof Sys2Proof.Machine Sys2Proof.Machine.Chip

namespace Sys2Proof.Tests

-- One theorem at a time: each waits for the kernel, and too many that wait at once run out of threads.
set_option Elab.async false

set_option linter.unusedVariables false
set_option maxRecDepth 8000

/-- A state with this chip and empty memories. -/
def st (c : Chip) : State := { State.reset with chip := c }

/-- A chip in Aloft, with its supplies good and no domain on. -/
def up : Chip :=
  { Chip.reset with
    boot.phase := 7, pins.supplyGood := true, pins.vddAon := true, pins.resetN := true, pins.refclk := true, pins.perstN := true }

/-- Domains switched on. -/
def on (l : List Nat) (c : Chip) : Chip := l.foldl (fun c d => c.setF (Reg.PWR_DOM d) Fd.PWR_DOM_STATE 3) c

/-- Cores that run their firmware. -/
def run (l : List Nat) (c : Chip) : Chip := l.foldl (fun c n => c.setF (Reg.MGT_CORE_STATUS n) Fd.MGT_CORE_STATUS_RUN 1) c

/-- Fields set one after the other. -/
def f (c : Chip) : List (Nat × BF × Nat) → Chip
  | [] => c
  | (k, b, v) :: l => f (c.setF k b v) l

/-- Fields of the active copy set one after the other. -/
def fa (c : Chip) : List (Nat × BF × Nat) → Chip
  | [] => c
  | (k, b, v) :: l => fa { c with active := mset regDefault c.active k (bfSet b (mget regDefault c.active k) v) } l

/-- A chip whose servo of clock A is acquiring, at time n. -/
def cb (n : Nat) : Chip := { run [3] up with dtm.servos := [(0, { Servo.free with state := 1 })], now := n }

theorem cb_now (n : Nat) : (cb n).now = n := rfl

theorem cb_srv (n : Nat) : ((cb n).servo 0) = { Servo.free with state := 1 } := rfl

theorem cb_cs (n : Nat) : (cb n).coreServes 3 = true := by
  have e : (cb n).coreServes 3 = (cb 0).coreServes 3 := rfl
  rw [e]
  decide

theorem le_hold (x : Nat) (c : Chip) (h : (c.servo (0 : Fin 2)).lastAt = 0) (k : c.now = x) :
    (c.servo (0 : Fin 2)).lastAt + x ≤ c.now := by
  rw [h, k]
  omega

/-- A chip whose first extension port and window work, with core C0 and the host interface, for a RESTORE of parcel 1 from an area of
n mebibytes. -/
def rst (n : Nat) (m : NMap Byte) : State :=
  { State.reset with
    chip := fa (f (run [0] (on [103, 112, 114] up))
      [(Reg.XM_CTRL 0, Fd.XM_CTRL_EN, 1), (Reg.XM_STATUS 0, Fd.XM_STATUS_LINK_UP, 1), (Reg.XM_STATUS 0, Fd.XM_STATUS_CAP_GIB, 1),
        (Mbx.arg .par 0, ⟨0, 32⟩, 1), (Mbx.arg .par 3, ⟨0, 32⟩, n)])
      [(Reg.XM_XLT_CFG 0, Fd.XM_XLT_CFG_V, 1), (Reg.XM_XLT_CFG 0, Fd.XM_XLT_CFG_WE, 1)],
    store.mem := m }

/-- A save area of a parcel that has no entries and no grants: only the bytes that are not 0 (R394). -/
def areaHead : NMap Byte :=
  [(2 ^ 60, 0x41), (2 ^ 60 + 1, 0x5A), (2 ^ 60 + 2, 0x50), (2 ^ 60 + 3, 0x53), (2 ^ 60 + 4, 1), (2 ^ 60 + 6, 0x20), (2 ^ 60 + 7, 0x51),
    (2 ^ 60 + 8, 0x41), (2 ^ 60 + 9, 1), (2 ^ 60 + 0x10, 0xC0), (2 ^ 60 + 0x11, 0x06), (2 ^ 60 + 0x20, 0xDF), (2 ^ 60 + 0x21, 0xEB),
    (2 ^ 60 + 0x22, 0x64), (2 ^ 60 + 0x23, 0x5A)]

/-- The header that RESTORE reads first. -/
def rstG (n : Nat) (m : NMap Byte) : Chip × Option (List Byte) :=
  xmGet (rst n m).store 1 ((rst n m).chip.pendingIn .par) (parXa ((rst n m).chip.mbxArgs .par)) []

/-- Its bytes. -/
def rstH (n : Nat) (m : NMap Byte) : List Byte := (rstG n m).2.getD []

theorem pair_some {A B : Type} (o : A × Option B) (d : B) (h : o.2.isSome = true) : o = (o.1, some (o.2.getD d)) := by
  obtain ⟨a, b⟩ := o
  cases b with
  | none => cases h
  | some x => rfl

theorem some_getD {B : Type} (o : Option B) (d : B) (h : o.isSome = true) : o = some (o.getD d) := by
  cases o with
  | none => cases h
  | some x => rfl

/-- The whole area that RESTORE reads then. -/
def rstL : Chip × Option (List Byte) :=
  xmGet (rst 1 areaHead).store (ceilDiv (leNat (slice (rstH 1 areaHead) 0x10 8)) 64) (rstG 1 areaHead).1
    (parXa ((rst 1 areaHead).chip.mbxArgs .par)) []

/-- What comes of it. -/
def rstC : Option Chip :=
  rstL.1.restoreArea (((rst 1 areaHead).chip.mbxArgs .par).getD 0 0)
    ((rstL.2.getD []).take (leNat (slice (rstH 1 areaHead) 0x10 8)))

theorem pair_none {A B : Type} (o : A × Option B) (h : o.2.isNone = true) : o = (o.1, none) := by
  obtain ⟨a, b⟩ := o
  cases b with
  | none => rfl
  | some x => cases h

theorem triple_eta {A B C : Type} (o : A × B × C) : o = (o.1, o.2.1, o.2.2) := rfl

/-- A chip with parcel 1 in state n, core C0 and the host interface on, for a PAR command with an area of k mebibytes. -/
def par (n k : Nat) : State :=
  st (f (run [0] (on [103, 114] up)) [(Mbx.arg .par 0, ⟨0, 32⟩, 1), (Reg.PAR_STATUS 1, Fd.PAR_STATUS_STATE, n), (Mbx.arg .par 3, ⟨0, 32⟩, k)])

/-- The area that SAVE writes. -/
def svL : List Byte := ((par 3 1).chip.pendingIn .par).saveArea (((par 3 1).chip.mbxArgs .par).getD 0 0)

/-- What comes of writing it. -/
def svP : Store × Chip × Bool :=
  xmPut svL.length (par 3 1).store ((par 3 1).chip.pendingIn .par) (parXa ((par 3 1).chip.mbxArgs .par)) svL

/-- A chip whose first extension port is down. -/
def rstD : State := { rst 0 [] with chip := (rst 0 []).chip.setF (Reg.XM_STATUS 0) Fd.XM_STATUS_LINK_UP 0 }

/-- A RESTORE from there. -/
def noXm : Chip × Option (List Byte) :=
  xmGet rstD.store 1 (rstD.chip.pendingIn .par) (parXa (rstD.chip.mbxArgs .par)) []

/-- A standby on the Tether with no update slot free. -/
def fullStandby : Chip :=
  { f up [(Reg.TET_CTRL, Fd.TET_CTRL_EN, 1), (Reg.TET_STATUS, Fd.TET_STATUS_ROLE, roleStandby)] with
    regs := (f up [(Reg.TET_CTRL, Fd.TET_CTRL_EN, 1), (Reg.TET_STATUS, Fd.TET_STATUS_ROLE, roleStandby)]).regs
      ++ (List.range 252).map (fun n => (Reg.UPD_SLOT n, BitVec.ofNat 32 (bfSet Fd.UPD_SLOT_STATE 0 1).toNat)) }

theorem isNone_eq {A : Type} (o : Option A) (h : o.isNone = true) : o = none := by
  cases o with
  | none => rfl
  | some x => cases h

/-- The row and indices of a register that is listed. -/
def rowOf (k : Nat) (h : (descOf k).isSome = true) : RegDesc × List Nat := (descOf k).get h

theorem rowOf_eq (k : Nat) (h : (descOf k).isSome = true) : descOf k = some ((rowOf k h).1, (rowOf k h).2) := by
  unfold rowOf
  exact (Option.some_get h).symm

/-- A chip with one copy of queue 0 spilled to page 0, and every rank of controller 0 fenced. -/
def fencedAll : Chip :=
  let c := (List.range 126).foldl (fun c r => c.setF (Reg.MEM_RANK 0 r) Fd.MEM_RANK_FENCED 1)
    (f (on [104, 105, 106, 107] up) [(Reg.MEM_CTRL 0, Fd.MEM_CTRL_EN, 1), (Reg.MEM_CTRL 1, Fd.MEM_CTRL_EN, 1),
      (Reg.MEM_CTRL 2, Fd.MEM_CTRL_EN, 1), (Reg.MEM_CTRL 3, Fd.MEM_CTRL_EN, 1),
      (Reg.BPM_SPILL_PROF 0, Fd.BPM_SPILL_PROF_SPILL_ON, 1)])
  { c with bpm.copies := [{ (default : Copy) with place := .hbm }],
           bpm.qst := [(0, { QSt.idle with claim := 9, pages := [0], tail := 2048 })] }

theorem fencedAll_rank : (List.range 126).all (fun r => fencedAll.on (Reg.MEM_RANK 0 r) Fd.MEM_RANK_FENCED
    && (fencedAll.logicalOf 0 r == some r)) = true := by decide +kernel

theorem fencedAll_page : fencedAll.pageFenced 0 0 = true := by
  obtain ⟨x, e⟩ : ∃ x, x = (List.range 64).getD (Config.pagePch 0 0 3 % (List.range 64).length) 0 := ⟨_, rfl⟩
  obtain ⟨y, ey⟩ : ∃ y, y = Config.pageSid 0 0 3 := ⟨_, rfl⟩
  have hx : x < 64 := by
    have := Nat.mod_lt (Config.pagePch 0 0 3) (show 0 < 64 by decide)
    simp [e, List.getD, this]
  have hl : pageRanks 0 0 = (4 * (x / 2) + y % (if x / 2 = 31 then 2 else 4)) :: pageRanksFrom 0 0 3 ((List.range 64).erase x) := by
    rw [e, ey]
    rfl
  have hr : 4 * (x / 2) + y % (if x / 2 = 31 then 2 else 4) < 126 := by
    split <;> omega
  have hk := List.all_eq_true.1 fencedAll_rank _ (List.mem_range.2 hr)
  simp only [Bool.and_eq_true, beq_iff_eq] at hk
  refine List.any_eq_true.2 ⟨_, List.mem_range.2 (Nat.lt_trans hr (by decide)), ?_⟩
  rw [hk.1, hk.2, hl]
  simp

theorem fencedAll_rec : (st fencedAll).chip.recordFenced (0 : Fin 131072) ((st fencedAll).chip.recordAt (0 : Fin 131072))
    (spillLen ({ (default : Copy) with place := .hbm } : Copy).len) = some ((0 : Fin 4) : Nat) := by
  have hp : (((fencedAll.q 0).pages.drop (fencedAll.recordAt 0 / pageBytes)).take
      ((fencedAll.recordAt 0 + spillLen ({ (default : Copy) with place := .hbm } : Copy).len - 1) / pageBytes
        - fencedAll.recordAt 0 / pageBytes + 1)) = [0] := by decide +kernel
  show fencedAll.recordFenced 0 (fencedAll.recordAt 0) _ = some 0
  unfold recordFenced
  rw [hp]
  simp [List.range_succ_eq_map, fencedAll_page]

/-- A chip with all stacks up and a repair in progress. -/
def repUp : Chip :=
  { f (on [104, 105, 106, 107] up) [(Reg.MEM_CTRL 0, Fd.MEM_CTRL_EN, 1), (Reg.MEM_CTRL 1, Fd.MEM_CTRL_EN, 1),
      (Reg.MEM_CTRL 2, Fd.MEM_CTRL_EN, 1), (Reg.MEM_CTRL 3, Fd.MEM_CTRL_EN, 1)]
    with tbl.repairs := [⟨4, 0, 0⟩], hbm.backed := [0, 1, 2, 3] }

theorem repUp_all : [0].all (fun k => repUp.hbm.backed.contains k && repUp.memUp k && (List.range 126).all (fun r =>
    !bitOf (repUp.rd (Reg.MEM_CH_STATUS k)) (repUp.physOf k r / 4)
      && !repUp.on (Reg.MEM_RANK k (repUp.physOf k r)) Fd.MEM_RANK_FENCED)) = true := by decide +kernel

theorem repUp_copyUp (l : Loc) (k : Nat) (h : k ∈ [0]) : repUp.copyUp l k = true := by
  have g := List.all_eq_true.1 repUp_all k h
  simp only [Bool.and_eq_true] at g
  have q := List.all_eq_true.1 g.2 (Config.backRank k l.space (objLoc l).unit l.index % 126)
    (List.mem_range.2 (Nat.mod_lt _ (by decide)))
  simp only [Bool.and_eq_true] at q
  simp only [copyUp, copyRank, g.1.1, g.1.2, q.1, q.2, Bool.and_self]
/-! A term that is not well formed, for each check of `WellFormed`. -/

theorem test_wf_register_offset : (Instr.registerWrite .pf 0x2000000 0 false true).wellFormed = false := by decide

theorem test_wf_read_offset : (Instr.badRead .pf 0x2000000 false).wellFormed = false ∧ (Instr.latchingRead .pf 0x2000000 false).wellFormed = false := by decide

theorem test_wf_temp_sensor : (Instr.tempSample 29 0).wellFormed = false := by decide

theorem test_wf_failed_ranks : (Instr.bootB3 [(4, 0)] [0, 0]).wellFormed = false ∧ (Instr.bootB3 [(0, 128)] [0, 0]).wellFormed = false ∧
    (Instr.bootB3 [] [0]).wellFormed = false ∧ (Instr.bootB3 [] [0, 65536]).wellFormed = false ∧ (Instr.bootB3 [(3, 127)] [0, 64]).wellFormed = true := by decide

theorem test_wf_frame_length : (Instr.receiveFrame 0 { (default : RxFrame) with bytes := List.replicate 16385 0 }).wellFormed = false := by decide +kernel

theorem test_wf_frame_lanes : (Instr.receiveFrame 0 { (default : RxFrame) with syms := List.replicate 9 0 }).wellFormed = false := by decide

theorem test_wf_hit : [⟨⟨9, 0, 0⟩, 0, [1]⟩, ⟨⟨0, 0, 0⟩, 1, [1]⟩, ⟨⟨5, 0, 0⟩, 0, [9]⟩, ⟨⟨0, 0, 0⟩, 0, []⟩, ⟨⟨0, 0, 0⟩, 0, [3, 3]⟩, (⟨⟨7, 0, 0⟩, 15, [511, 1]⟩ : Hit)].map
    (fun h => (Instr.scrubTraverse [h]).wellFormed) = [false, false, false, false, false, true] := by decide

theorem test_wf_location : (Instr.repairComplete ⟨9, 0, 0⟩ true false false).wellFormed = false := by decide

theorem test_wf_lane_below : (Instr.portRelease .pf 0 [8]).wellFormed = false := by decide

theorem test_wf_spare_message : (Instr.hello 0 0 { (default : SpareMsg) with slots := 0 }).wellFormed = false := by decide

theorem test_wf_quanta : (Instr.pauseFrameRx 0 true 0 [1]).wellFormed = false ∧ (Instr.pauseFrameRx 0 false 0 [65536]).wellFormed = false := by decide

theorem test_wf_rule_row : (Instr.write 0 0 default (List.replicate 135 0)).wellFormed = false := by decide

/-- An event of a well-formed FAULT_EVENT. -/
def wfEvent : FaultEv := ⟨0x20, 1, 0x0D, 1, 0, 0, false⟩

theorem test_wf_fault_event : (Instr.faultEvent [wfEvent]).wellFormed = true ∧
    [{ wfEvent with unit := 0x15 }, { wfEvent with line := 8 }, { wfEvent with cls := 0 }, { wfEvent with cls := 26 }, { wfEvent with outcome := 4 },
      { wfEvent with group := 8 }, { wfEvent with lost := true }].all (fun e => !(Instr.faultEvent [e]).wellFormed) = true ∧
    (Instr.faultEvent [wfEvent, { wfEvent with cls := 1 }]).wellFormed = false := by decide

theorem test_wf_wire_fault : (Instr.wireFault 0x15 0 default).wellFormed = false ∧ (Instr.wireFaultPersist 0x15 0).wellFormed = false := by decide

theorem test_wf_inject_entry : (Instr.injectFetch 0 0 (List.replicate 31 0)).wellFormed = false := by decide

theorem test_wf_tether_body : (Instr.heartbeat { (default : TetMsg) with body := List.replicate 32768 0 }).wellFormed = false := by decide +kernel

theorem test_wf_tether_rows : (Instr.tetUpdate default [List.replicate 5 0]).wellFormed = false ∧ (Instr.tetResyncChunk default [List.replicate 5 0]).wellFormed = false := by decide

theorem test_wf_loads : (Instr.loadWindow [1, 2, 3]).wellFormed = false ∧ (Instr.loadWindow [1, 2, 3, 4, 5, 101]).wellFormed = false := by decide

theorem test_wf_response : (Instr.response (List.replicate 207 0)).wellFormed = false := by decide

theorem test_wf_system_bus : (Instr.systemBusAccess (.regRead 0x2000000 false)).wellFormed = false ∧ (Instr.systemBusAccess (.memRead 0 (2 ^ 64))).wellFormed = false := by decide

theorem test_wf_bus_answer : (Instr.mbusRead .pf 0 1 { (default : BusEnv) with reads := List.replicate 34 0 }).wellFormed = false := by decide

theorem test_wf_backing : (Instr.backingTraverse [(0, ⟨9, 0, 0⟩)] ⟨[], []⟩).wellFormed = false ∧ (Instr.backingTraverse [] ⟨[⟨9, 0, 0⟩], []⟩).wellFormed = false := by decide

/-! Worked examples of the spec. -/

/-- The first identification register of the PF's window: GLB_ID holds part 0x5120 and step A (R73). -/
theorem test_glb_id : (Chip.reset.read32 .pf 0).2 = 0x51204100 := by decide

/-- Example of chapter 5: D3 of a BRIDGE_REQ with D1 0x25 and D2 0x83 (R118). -/
theorem test_crc8 : crc8 0x25 0x83 = 0x6F := by decide

/-- Example of R116: on a port of MAXFRAME 9,216 lengths 63, 64, 9,216 and 9,217 count as runt, good, good, oversize. -/
theorem test_rx_lengths : [63, 64, 9216, 9217].map (fun l => rxCounter l 9216 false true false) = [4, 0, 0, 6] := by decide

/-- Example of R144: epoch 3 comes 5 after epoch 0xFFFE. -/
theorem test_epoch_diff : epochDiff 3 0xFFFE = 5 := by decide

/-- Example of R197: the slots that flows X and Y of group 77 take. -/
theorem test_member_slots : 0x9C41 * 12 / 65536 = 7 ∧ 0x8A3D * 12 / 65536 = 6 := by decide

/-- Example of R211: the trailer of a Sync whose correctionField becomes 530 ns. -/
theorem test_trailer : trailerFix 0 (beBytes 8 0) (beBytes 8 0x02120000) = 0xFDED := by decide

/-- Example of R258: the sixth copy is green, the seventh is yellow and leaves Tp at 9,500. -/
theorem test_policer : polDecide true green 1500 2500 12500 = (green, 1500, 1500) ∧ polDecide true green 1500 1000 11000 = (yellow, 0, 1500) := by decide

/-- Example of R258: 60 us at 100,000 and at 200,000 kb/s. -/
theorem test_refill : tokenGain 100000 (60000 * tbNs) 0 = (750, 0) ∧ tokenGain 200000 (60000 * tbNs) 0 = (1500, 0) := by decide

/-- Example of R304: c for 1,000 ppb. -/
theorem test_slew : slewPart 0x140000000 1000 = 5369 := by decide

/-- Example of R301: INC of clock A after INC_HI 0x01 and INC_LO 0x4000_431C. -/
theorem test_inc : ((up.incHiWrite 0 1).incLoWrite 0 0x4000431C).inc 0 = 0x14000431C := by decide

/-- Example of R310 and R316: residence of a Sync that leaves at 7,200 s 123,456,522 ns. -/
theorem test_residence : up.residence { (default : Copy) with ts := 0x68CD09CE, frac := 49152 } ((7200123456522 : Int) * 65536) = 0x023B4000 := by decide

/-- Example of R296: granule 0x0020_0009 of entry 5. -/
theorem test_xlate : (fa up [(Reg.XM_XLT_CFG 5, Fd.XM_XLT_CFG_V, 1), (Reg.XM_XLT_CFG 5, Fd.XM_XLT_CFG_PARCEL, 12), (Reg.XM_XLT_BASE 5, Fd.XM_XLT_BASE_XA_BASE, 0x200000),
      (Reg.XM_XLT_LIMIT 5, Fd.XM_XLT_LIMIT_XA_LIMIT, 0x207FFF), (Reg.XM_XLT_DEV 5, Fd.XM_XLT_DEV_DEV_BASE, 0x8000)]).xltAddr 5 0x040001234560 = 0x001001234560 := by decide

/-- Example of R352: the record of a takeover. -/
theorem test_fault_record : ((f up [(Reg.UPD_EPOCH, Fd.UPD_EPOCH_CURRENT, 0x1A2C)]).faultRecord ⟨0x6654A3C0, 250000000, 0⟩
      { (default : FaultEv) with unit := 0x23, line := 1, cls := 0x0D, outcome := 1, syn := 0x0000010001080303 } 0x2A31 true false true)
    = ([0x31, 0x2A, 0, 0, 0xC0, 0xA3, 0x54, 0x66, 0, 0, 0x80, 0xB2, 0xE6, 0x0E, 0x23, 0x69, 0x6F, 0, 0x2C, 0x1A, 3, 3, 8, 1, 0, 1, 0, 0, 0, 0, 0x89, 0x81] : List Byte) := by decide

/-- Example of R383: the 64 bytes of a WRITE of next hop 4,002. -/
theorem test_descriptor : descBytes ⟨0x412, 2, 17, 8, 4002, 0, 0, 77 * 2 ^ 71 + 1200 * 2 ^ 90 + 0, false⟩
    = ([0x12, 4, 0, 0, 0, 0, 0, 0, 2, 0x11, 8, 0, 0xA2, 0x0F, 0, 0] : List Byte) ++ List.replicate 24 0
      ++ ([0x80, 0x26, 0, 0xC0, 0x12] : List Byte) ++ List.replicate 19 0 := by decide

/-- IDCODE of step A (R410). -/
theorem test_idcode : up.opIdcode.out.head? = some (.debug 1 0x15120A6B) := by decide

/-! Witnesses: a state and operands that meet all hypotheses of an obligation, or of one of its clauses. -/

theorem wit_SuppliesAct_1 : ∃ (s : State) (held : Nat) (rises : Bool) (straps : Straps), s.chip.pins.resetN = true ∧ s.chip.pins.vddAon = true ∧ ((if s.chip.boot.trimmed then 1000000 else 1100000) ≤ held) ∧ s.chip.firstInCycle = true :=
  ⟨st up, 1100000, true, ⟨false, false, 0⟩, by decide +kernel⟩

theorem wit_SuppliesAct_2 : ∃ (s : State) (held : Nat) (rises : Bool) (straps : Straps), s.chip.pins.resetN = true ∧ (held < (if s.chip.boot.trimmed then 900000 else 850000)) ∧ s.chip.firstInCycle = true :=
  ⟨st up, 800000, true, ⟨false, false, 0⟩, by decide +kernel⟩

theorem wit_SuppliesAct_3 : ∃ (s : State) (held : Nat) (rises : Bool) (straps : Straps), s.chip.pins.resetN = false :=
  ⟨st { up with pins.resetN := false }, 0, true, ⟨false, false, 0⟩, by decide +kernel⟩

theorem wit_SuppliesAct_4 : ∃ (s : State) (held : Nat) (straps : Straps), 100 * usPs ≤ held ∧ s.chip.pins.supplyGood = false ∧ s.chip.pwrState ≠ 3 :=
  ⟨st { up with pins.supplyGood := false }, 100000000, ⟨false, false, 0⟩, by decide +kernel⟩

theorem wit_SuppliesAct_5 : ∃ (s : State) (held : Nat) (straps : Straps), 100 * usPs ≤ held ∧ s.chip.pins.supplyGood = false ∧ s.chip.pwrState = 3 ∧ s.chip.firstInCycle = true :=
  ⟨st ({ up with pins.supplyGood := false }.setF Reg.PWR_STATUS Fd.PWR_STATUS_STATE 3), 100000000, ⟨false, false, 0⟩, by decide +kernel⟩

theorem wit_SuppliesAct_6 : ∃ (s : State) (n : Nat), 10 ≤ n ∧ s.chip.pins.supplyGood = true ∧ s.chip.pwrState ≠ 3 ∧ s.chip.firstInCycle = true :=
  ⟨st up, 10, by decide +kernel⟩

theorem wit_SuppliesAct_7 : ∃ (s : State) (n : Nat), 10 ≤ n ∧ s.chip.pins.supplyGood = true ∧ s.chip.pwrState = 3 :=
  ⟨st (up.setF Reg.PWR_STATUS Fd.PWR_STATUS_STATE 3), 10, by decide +kernel⟩

theorem wit_SuppliesAct_8 : ∃ (s : State), s.chip.pins.vddAon = true ∧ s.chip.firstInCycle = true :=
  ⟨st up, by decide +kernel⟩

theorem wit_SuppliesAct_9 : ∃ (s : State) (dom : Fin 117), s.chip.pins.supplyGood = true ∧ s.chip.domState dom ∈ [domRamping, domUp, domDraining, domRetained] ∧ (dom.val < 104 ∨ 108 ≤ dom.val) :=
  ⟨st (on [80] up), 80, by decide +kernel⟩

theorem wit_SuppliesAct_10 : ∃ (s : State) (dom : Fin 117), s.chip.pins.supplyGood = true ∧ s.chip.domState dom ∈ [domRamping, domUp, domDraining, domRetained] ∧ (104 ≤ dom.val ∧ dom.val < 108) :=
  ⟨st (on [104] up), 104, by decide +kernel⟩

theorem wit_SuppliesAct_11 : ∃ (s : State) (n : Fin 32) (t : BitVec 12), n.val < 29 :=
  ⟨st up, 28, 0, by decide +kernel⟩

theorem wit_SuppliesAct_12 : ∃ (s : State), s.chip.pins.refclk = true ∧ s.chip.boot.phase ≠ 0 :=
  ⟨st up, by decide +kernel⟩

theorem wit_SuppliesAct_13 : ∃ (s : State), s.chip.pins.refclk = true ∧ s.chip.boot.phase = 0 :=
  ⟨st { up with boot.phase := 0 }, by decide +kernel⟩

theorem wit_SuppliesAct_14 : ∃ (s : State), s.chip.pins.refclk = false ∧ s.chip.plain = false ∧ s.chip.safetyHalted = false ∧ s.chip.safetyRuns = true ∧ s.chip.firstInCycle = true :=
  ⟨st { up with pins.refclk := false }, by decide +kernel⟩

theorem wit_SuppliesAct_15 : ∃ (s : State), s.chip.pins.refclk = false ∧ (s.chip.plain = true ∨ s.chip.safetyHalted = true ∨ s.chip.safetyRuns = false) :=
  ⟨st { (up.setF Reg.RST_CAUSE Fd.RST_CAUSE_PROFILE 1) with pins.refclk := false }, by decide +kernel⟩

theorem wit_SuppliesAct_16 : ∃ (s : State), s.chip.pins.vddAon = false :=
  ⟨st { up with pins.vddAon := false }, by decide +kernel⟩

theorem wit_SuppliesAct_17 : ∃ (s : State), s.chip.pins.perstN = true :=
  ⟨st { up with pins.perstN := true }, by decide +kernel⟩

theorem wit_SuppliesAct_19 : ∃ (s : State), s.chip.safetyRuns = true ∧ s.chip.plain = false ∧ s.chip.firstInCycle = true :=
  ⟨st up, by decide +kernel⟩

theorem wit_SuppliesAct_20 : ∃ (s : State), s.chip.safetyRuns = true ∧ s.chip.plain = true ∧ s.chip.firstInCycle = true :=
  ⟨st (up.setF Reg.RST_CAUSE Fd.RST_CAUSE_PROFILE 1), by decide +kernel⟩

theorem wit_SuppliesAct_21 : ∃ (s : State), s.chip.plain = false ∧ s.chip.firstInCycle = true :=
  ⟨st up, by decide +kernel⟩

theorem wit_SuppliesAct_22 : ∃ (s : State), s.chip.plain = true ∧ s.chip.firstInCycle = true :=
  ⟨st (up.setF Reg.RST_CAUSE Fd.RST_CAUSE_PROFILE 1), by decide +kernel⟩

theorem wit_RegisterAccessActs_1 : ∃ (s : State) (rq : Req) (a : Nat) (v : BitVec 64) (k : Nat) (d : RegDesc) (ix : List Nat), a % 4 = 0 ∧ s.chip.target rq a = some (k, d, ix) ∧ s.chip.addrOff k = false ∧ Chip.mbxOfCmd k = none ∧ k ≠ Reg.RST_SWRESET :=
  ⟨st up, .pf, 0x40004, 8, Reg.FLT_CTRL, ((descOf Reg.FLT_CTRL).map (·.1)).getD ⟨"", 0, [], .w32, .plain, []⟩, [], by decide +kernel⟩

theorem wit_RegisterAccessActs_2 : ∃ (s : State) (rq : Req) (a : Nat), (a % 4 ≠ 0 ∨ s.chip.target rq a = none) :=
  ⟨st up, .pf, 1, by decide +kernel⟩

theorem wit_RegisterAccessActs_3 : ∃ (s : State) (rq : Req) (a k : Nat) (d : RegDesc) (ix : List Nat), a % 4 = 0 ∧ s.chip.target rq a = some (k, d, ix) ∧ s.chip.addrOff k = true :=
  ⟨st up, .pf, 0x50000, 0x50000, ((descOf 0x50000).map (·.1)).getD ⟨"", 0, [], .w32, .plain, []⟩, [], by decide +kernel⟩

theorem wit_RegisterAccessActs_4 : ∃ (s : State) (rq : Req) (a k : Nat) (d : RegDesc) (ix : List Nat), a % 4 = 0 ∧ s.chip.target rq a = some (k, d, ix) ∧ s.chip.addrOff k = false :=
  ⟨st up, .pf, 0x40000, 0x40000, ((descOf 0x40000).map (·.1)).getD ⟨"", 0, [], .w32, .plain, []⟩, [], by decide +kernel⟩

theorem wit_RegisterAccessActs_5 : ∃ (s : State) (rq : Req) (clk : Fin 3) (pps : Bool) (k : Nat) (d : RegDesc) (ix : List Nat), Chip.nsReg clk pps % 4 = 0 ∧ s.chip.target rq (Chip.nsReg clk pps) = some (k, d, ix) ∧ s.chip.addrOff k = false :=
  ⟨st (on [116] up), .pf, 2, false, Reg.DTM_SRV_NOW_NS, ((descOf Reg.DTM_SRV_NOW_NS).map (·.1)).getD ⟨"", 0, [], .w32, .plain, []⟩, [], by decide +kernel⟩

theorem wit_RegisterAccessActs_6 : ∃ (s : State) (rq : Req), rq.priv = true ∧ s.chip.addrOff Reg.GLB_LOCK = false :=
  ⟨st up, .pf, by decide +kernel⟩

theorem wit_RegisterAccessActs_7 : ∃ (s : State) (k : Nat) (v : Word) (l : List (Nat × Word)), s.chip.bkpPend = (k, v) :: l ∧ k ≠ Reg.PWR_RTC_HI :=
  ⟨st { up with bkpPend := [(Reg.PWR_RTC_CTRL, 1)] }, Reg.PWR_RTC_CTRL, 1, [], by decide +kernel⟩

theorem wit_RegisterAccessActs_8 : ∃ (s : State) (v lo : Word) (j : Nat) (l : List (Nat × Word)), s.chip.bkpPend = (Reg.PWR_RTC_HI, v) :: (j, lo) :: l :=
  ⟨st { up with bkpPend := [(Reg.PWR_RTC_HI, 1), (Reg.PWR_RTC_LO, 5)] }, 1, 5, Reg.PWR_RTC_LO, [], by decide +kernel⟩

theorem wit_RegisterAccessActs_9 : ∃ (s : State) (rq : Req), rq.priv = true ∧ s.chip.plain = false ∧ s.chip.firstInCycle = true :=
  ⟨st up, .pf, by decide +kernel⟩

theorem wit_RegisterAccessActs_10 : ∃ (s : State) (rq : Req), rq.priv = true ∧ s.chip.plain = false ∧ s.chip.firstInCycle = true :=
  ⟨st up, .pf, by decide +kernel⟩

theorem wit_BootPhasesAct_1 : ∃ (s : State), s.chip.boot.phase = 0 ∧ s.chip.boot.trimmed = false ∧ s.chip.pins.refclk = true ∧ s.chip.boot.bkpLost = false :=
  ⟨st { up with boot.phase := 0, boot.causes := [0] }, by decide +kernel⟩

theorem wit_BootPhasesAct_2 : ∃ (s : State), s.chip.boot.phase = 0 ∧ s.chip.boot.trimmed = false ∧ s.chip.pins.refclk = true ∧ s.chip.boot.bkpLost = true :=
  ⟨st { up with boot.phase := 0, boot.causes := [0], boot.bkpLost := true }, by decide +kernel⟩

theorem wit_BootPhasesAct_3 : ∃ (s : State) (straps : Straps) (e : FlashEnv), s.chip.boot.phase = 1 ∧ s.chip.pins.testmode = false ∧ s.chip.boot.exitForm = false ∧ s.chip.boot.failedSlot = none :=
  ⟨st { up with boot.phase := 1 }, ⟨false, false, 0⟩, ⟨true, true, false, false⟩, by decide +kernel⟩

theorem wit_BootPhasesAct_4 : ∃ (s : State) (straps : Straps) (e : FlashEnv) (n : Nat), s.chip.boot.phase = 1 ∧ s.chip.pins.testmode = false ∧ s.chip.boot.exitForm = false ∧ s.chip.boot.failedSlot = some n :=
  ⟨st { up with boot.phase := 1, boot.failedSlot := some 1 }, ⟨false, false, 0⟩, ⟨true, true, false, false⟩, 1, by decide +kernel⟩

theorem wit_BootPhasesAct_5 : ∃ (s : State) (straps : Straps) (e : FlashEnv), s.chip.boot.phase = 1 ∧ s.chip.pins.testmode = true :=
  ⟨st { up with boot.phase := 1, pins.testmode := true }, ⟨false, false, 0⟩, ⟨true, true, false, false⟩, by decide +kernel⟩

theorem wit_BootPhasesAct_6 : ∃ (s : State) (e : FlashEnv), s.chip.boot.phase = 2 ∧ s.chip.boot.exitForm = true ∧ slotAnswers e (s.chip.fld Reg.BOOT_STATUS Fd.BOOT_STATUS_SLOT) = true ∧ slotTimeout e (s.chip.fld Reg.BOOT_STATUS Fd.BOOT_STATUS_SLOT) = false ∧ imgFirmware (slotImg s.store (areaOf e.cs1 (s.chip.fld Reg.BOOT_STATUS Fd.BOOT_STATUS_SLOT))) = s.chip.boot.fwDigests :=
  ⟨st { up with boot.phase := 2, boot.exitForm := true }, ⟨true, true, false, false⟩, by decide +kernel⟩

theorem wit_BootPhasesAct_7 : ∃ (s : State) (e : FlashEnv), s.chip.boot.phase = 2 ∧ s.chip.boot.exitForm = false :=
  ⟨st { up with boot.phase := 2 }, ⟨true, true, false, false⟩, by decide +kernel⟩

theorem wit_BootPhasesAct_8 : ∃ (s : State) (ranks : List (Nat × Nat)) (gib : List Nat), s.chip.boot.phase = 3 ∧ s.chip.boot.exitForm = true :=
  ⟨st { up with boot.phase := 3, boot.exitForm := true }, [], [], by decide +kernel⟩

theorem wit_BootPhasesAct_9 : ∃ (s : State) (ranks : List (Nat × Nat)) (gib : List Nat), s.chip.boot.phase = 3 ∧ s.chip.boot.exitForm = false :=
  ⟨st { up with boot.phase := 3 }, [], [], by decide +kernel⟩

theorem wit_BootPhasesAct_10 : ∃ (s : State), s.chip.boot.phase = 4 ∧ s.chip.boot.exitForm = false :=
  ⟨st { up with boot.phase := 4 }, by decide +kernel⟩

theorem wit_BootPhasesAct_11 : ∃ (s : State), s.chip.boot.phase = 5 ∧ s.chip.boot.exitForm = false :=
  ⟨st { up with boot.phase := 5 }, by decide +kernel⟩

theorem wit_BootPhasesAct_12 : ∃ (s : State), s.chip.boot.phase = 5 ∧ s.chip.boot.exitForm = true :=
  ⟨st { up with boot.phase := 5, boot.exitForm := true }, by decide +kernel⟩

theorem wit_BootPhasesAct_13 : ∃ (s : State), 1 ≤ s.chip.boot.phase ∧ s.chip.boot.phase ≤ 5 ∧ s.chip.pins.testmode = false ∧ s.chip.boot.phaseStart + s.chip.phaseLimit s.store ≤ s.chip.now ∧ s.chip.plain = false ∧ s.chip.firstInCycle = true :=
  ⟨st { up with boot.phase := 1, now := 10 ^ 15 }, by decide +kernel⟩

theorem wit_BootPhasesAct_14 : ∃ (s : State), s.chip.boot.phase = 6 ∧ s.chip.boot.waitEnd ≤ s.chip.now :=
  ⟨st { up with boot.phase := 6 }, by decide +kernel⟩

theorem wit_FlashMailboxActs_1 : ∃ (s : State) (rq : Req) (tag : BitVec 16), s.chip.mbxStarts rq .boot 1 = true ∧ Chip.flashArgsOk (s.chip.mbxArgs .boot) 4 4 4096 = true :=
  ⟨st (f (run [4] up) [(Reg.BOOT_MBX_ARG 2, ⟨0, 32⟩, 4)]), .pf, 0, by decide +kernel⟩

theorem wit_FlashMailboxActs_2 : ∃ (s : State) (rq : Req) (tag : BitVec 16), s.chip.mbxStarts rq .boot 2 = true ∧ Chip.flashArgsOk (s.chip.mbxArgs .boot) 65536 0 0x10000000 = true ∧ (s.chip.pendingIn .boot).runningSlot ≠ some ((s.chip.mbxArgs .boot).getD 0 0) :=
  ⟨st (f (run [4] up) [(Reg.BOOT_MBX_ARG 0, ⟨0, 32⟩, 1), (Reg.BOOT_MBX_ARG 2, ⟨0, 32⟩, 65536)]), .pf, 0, by decide +kernel⟩

theorem wit_FlashMailboxActs_3 : ∃ (s : State) (rq : Req) (tag : BitVec 16), s.chip.mbxStarts rq .boot 3 = true ∧ Chip.flashArgsOk (s.chip.mbxArgs .boot) 256 256 4096 = true ∧ (s.chip.pendingIn .boot).runningSlot ≠ some ((s.chip.mbxArgs .boot).getD 0 0) :=
  ⟨st (f (run [4] up) [(Reg.BOOT_MBX_ARG 0, ⟨0, 32⟩, 1), (Reg.BOOT_MBX_ARG 2, ⟨0, 32⟩, 256)]), .pf, 0, by decide +kernel⟩

theorem wit_FlashMailboxActs_4 : ∃ (s : State) (rq : Req) (tag : BitVec 16) (dev : FlashEnv) (reason : Nat), s.chip.mbxStarts rq .boot 4 = true ∧ (s.chip.mbxArgs .boot).getD 0 0 < 2 ∧ reason = firstFail (((s.chip.pendingIn .boot).wiped 1).b1Checks dev s.store ((s.chip.mbxArgs .boot).getD 0 0) ++ [(0x0D, Chip.readable (slotImg s.store (areaOf dev.cs1 ((s.chip.mbxArgs .boot).getD 0 0))) && (s.chip.pendingIn .boot).bodyDigestOk s.store (areaOf dev.cs1 ((s.chip.mbxArgs .boot).getD 0 0)))]) :=
  ⟨st (run [4] up), .pf, 0, ⟨false, false, false, false⟩, 1, by decide +kernel⟩

theorem wit_FlashMailboxActs_5 : ∃ (s : State) (rq : Req) (tag : BitVec 16), s.chip.mbxStarts rq .boot 0x10 = true ∧ (s.chip.pendingIn .boot).fld Reg.BOOT_FUSE Fd.BOOT_FUSE_SVN_MIN < (s.chip.mbxArgs .boot).getD 0 0 ∧ (s.chip.mbxArgs .boot).getD 0 0 ≤ (s.chip.pendingIn .boot).fld Reg.BOOT_STATUS Fd.BOOT_STATUS_SVN :=
  ⟨st (f up [(Reg.BOOT_MBX_ARG 0, ⟨0, 32⟩, 2), (Reg.BOOT_STATUS, Fd.BOOT_STATUS_SVN, 5)]), .pf, 0, by decide +kernel⟩

theorem wit_FlashMailboxActs_6 : ∃ (s : State) (rq : Req) (tag : BitVec 16), s.chip.mbxStarts rq .boot 0x11 = true ∧ (s.chip.mbxArgs .boot).getD 0 0 < 3 ∧ ((s.chip.pendingIn .boot).runningSlot.isSome && (s.chip.pendingIn .boot).fld Reg.BOOT_STATUS Fd.BOOT_STATUS_KEY == (s.chip.mbxArgs .boot).getD 0 0) = false ∧ ([0, 1, 2].all (fun j => j == (s.chip.mbxArgs .boot).getD 0 0 || bitOf ((s.chip.pendingIn .boot).fld Reg.BOOT_FUSE Fd.BOOT_FUSE_REVOKED) j) = false) :=
  ⟨st (f up [(Reg.BOOT_MBX_ARG 0, ⟨0, 32⟩, 1)]), .pf, 0, by decide +kernel⟩

theorem wit_FlashMailboxActs_7 : ∃ (s : State) (rq : Req) (tag : BitVec 16) (bursts u lo hi : Nat) (dom : Option Nat), s.chip.mbxStarts rq .rstBlk 1 = true ∧ u = (s.chip.mbxArgs .rstBlk).headD 0 % 256 ∧ unitRange u = some (lo, hi, dom) ∧ (dom.all (fun d => (s.chip.pendingIn .rstBlk).domOn d) = true) ∧ (s.chip.pendingIn .rstBlk).unitDisabled u = true :=
  ⟨st (f up [(Reg.RST_BLK_ARG, ⟨0, 32⟩, 0x3D)]), .pf, 0, 2, 0x3D, 0x1110000, 0x1120000, none, by decide +kernel⟩

theorem wit_FlashMailboxActs_8 : ∃ (s : State) (rq : Req) (tag : BitVec 16) (bursts u lo hi : Nat) (dom : Option Nat), s.chip.mbxStarts rq .rstBlk 1 = true ∧ u = (s.chip.mbxArgs .rstBlk).headD 0 % 256 ∧ unitRange u = some (lo, hi, dom) ∧ (dom.all (fun d => (s.chip.pendingIn .rstBlk).domOn d) = true) ∧ (s.chip.pendingIn .rstBlk).unitDisabled u = true :=
  ⟨st (f up [(Reg.RST_BLK_ARG, ⟨0, 32⟩, 0x3D)]), .pf, 0, 2, 0x3D, 0x1110000, 0x1120000, none, by decide +kernel⟩

theorem wit_FlashMailboxActs_9 : ∃ (s : State) (m : Mbx) (tag op code : Nat) (args data : List Nat), s.chip.mbxFind m = some ⟨m, tag, op, args, some (code, data), true⟩ ∧ s.chip.mbxServed m op = true :=
  ⟨st { run [3] up with mbx := [⟨.tet, 5, 1, [], some (0, []), true⟩] }, .tet, 5, 1, 0, [], [], by decide +kernel⟩

theorem wit_FlashMailboxActs_11 : ∃ (s : State) (n : Fin 64), n.val ≠ 0 ∧ s.chip.parState n ≠ 0 :=
  ⟨st (up.setPar 3 1), 3, by decide +kernel⟩

theorem wit_FramePathActs_1 : ∃ (s : State) (port : Fin 256) (f : RxFrame) (k : Nat), s.chip.rxLocked port = true ∧ f.noFrame = false ∧ s.chip.pState port ≠ pFault ∧ rxCounter (f.bytes.length + 4) ((s.chip.countFec port f).fld (Reg.PORT_CFG port) Fd.PORT_CFG_MAXFRAME) (f.codeErr || decide (0 < f.uncorrCw)) f.fcsGood (etherType f.bytes == 0x8808) = k ∧ (k ≠ 0 ∧ k ≠ 8) :=
  ⟨st ((on [72] up).setF (Reg.PORT_STATUS 0) Fd.PORT_STATUS_STATE 4), 0, ⟨(List.replicate 60 0), false, false, 0, 0, [], false⟩, 2, by decide +kernel⟩

theorem wit_FramePathActs_2 : ∃ (s : State) (port : Fin 256) (f : RxFrame), s.chip.rxLocked port = true ∧ f.noFrame = false ∧ s.chip.pState port ≠ pFault ∧ rxCounter (f.bytes.length + 4) ((s.chip.countFec port f).fld (Reg.PORT_CFG port) Fd.PORT_CFG_MAXFRAME) (f.codeErr || decide (0 < f.uncorrCw)) f.fcsGood (etherType f.bytes == 0x8808) = 8 ∧ beNat (slice f.bytes 14 2) = 0x0101 :=
  ⟨st ((on [72] up).setF (Reg.PORT_STATUS 0) Fd.PORT_STATUS_STATE 4), 0, ⟨(List.replicate 12 0 ++ [0x88, 0x08, 0x01, 0x01, 0, 0xFF] ++ List.replicate 42 0), true, false, 0, 0, [], false⟩, by decide +kernel⟩

theorem wit_FramePathActs_3 : ∃ (s : State) (port : Fin 256) (f : RxFrame), s.chip.rxLocked port = true ∧ f.noFrame = false ∧ s.chip.pState port ≠ pFault ∧ rxCounter (f.bytes.length + 4) ((s.chip.countFec port f).fld (Reg.PORT_CFG port) Fd.PORT_CFG_MAXFRAME) (f.codeErr || decide (0 < f.uncorrCw)) f.fcsGood (etherType f.bytes == 0x8808) = 8 ∧ beNat (slice f.bytes 14 2) = 0x0001 :=
  ⟨st ((on [72] up).setF (Reg.PORT_STATUS 0) Fd.PORT_STATUS_STATE 4), 0, ⟨(List.replicate 12 0 ++ [0x88, 0x08, 0x00, 0x01, 0, 0xFF] ++ List.replicate 42 0), true, false, 0, 0, [], false⟩, by decide +kernel⟩

theorem wit_FramePathActs_4 : ∃ (s : State) (port : Fin 256) (f : RxFrame), s.chip.rxLocked port = true ∧ f.noFrame = false ∧ s.chip.pState port ≠ pFault ∧ rxCounter (f.bytes.length + 4) ((s.chip.countFec port f).fld (Reg.PORT_CFG port) Fd.PORT_CFG_MAXFRAME) (f.codeErr || decide (0 < f.uncorrCw)) f.fcsGood (etherType f.bytes == 0x8808) = 8 ∧ (beNat (slice f.bytes 14 2) ≠ 0x0101 ∧ beNat (slice f.bytes 14 2) ≠ 0x0001) :=
  ⟨st ((on [72] up).setF (Reg.PORT_STATUS 0) Fd.PORT_STATUS_STATE 4), 0, ⟨(List.replicate 12 0 ++ [0x88, 0x08, 0x00, 0x09, 0, 0xFF] ++ List.replicate 42 0), true, false, 0, 0, [], false⟩, by decide +kernel⟩

theorem wit_FramePathActs_5 : ∃ (s : State) (port : Fin 256) (f : RxFrame), s.chip.rxLocked port = true ∧ f.noFrame = false ∧ s.chip.pState port ≠ pFault ∧ rxCounter (f.bytes.length + 4) ((s.chip.countFec port f).fld (Reg.PORT_CFG port) Fd.PORT_CFG_MAXFRAME) (f.codeErr || decide (0 < f.uncorrCw)) f.fcsGood (etherType f.bytes == 0x8808) = 0 ∧ ((((((s.chip.countFec port f).bump (Reg.PORT_CNT port 0) 1).bump (Reg.PORT_CNT port 1) (f.bytes.length + 4)).pmcEvent (0x18 + port / 32) 1 1).bridleWaits (port / 32) && decide (64 ≤ (((((s.chip.countFec port f).bump (Reg.PORT_CNT port 0) 1).bump (Reg.PORT_CNT port 1) (f.bytes.length + 4)).pmcEvent (0x18 + port / 32) 1 1).pipe.bridle.filter (fun g => g.port / 32 == port.val / 32)).length)) = false) :=
  ⟨st ((on [72] up).setF (Reg.PORT_STATUS 0) Fd.PORT_STATUS_STATE 4), 0, ⟨(List.replicate 60 0), true, false, 0, 0, [], false⟩, by decide +kernel⟩

theorem wit_FramePathActs_6 : ∃ (s : State) (port : Fin 256) (f : RxFrame), s.chip.rxLocked port = true ∧ f.noFrame = false ∧ s.chip.pState port ≠ pFault ∧ rxCounter (f.bytes.length + 4) ((s.chip.countFec port f).fld (Reg.PORT_CFG port) Fd.PORT_CFG_MAXFRAME) (f.codeErr || decide (0 < f.uncorrCw)) f.fcsGood (etherType f.bytes == 0x8808) = 0 ∧ ((((((s.chip.countFec port f).bump (Reg.PORT_CNT port 0) 1).bump (Reg.PORT_CNT port 1) (f.bytes.length + 4)).pmcEvent (0x18 + port / 32) 1 1).bridleWaits (port / 32) && decide (64 ≤ (((((s.chip.countFec port f).bump (Reg.PORT_CNT port 0) 1).bump (Reg.PORT_CNT port 1) (f.bytes.length + 4)).pmcEvent (0x18 + port / 32) 1 1).pipe.bridle.filter (fun g => g.port / 32 == port.val / 32)).length)) = true) :=
  ⟨st { (on [72, 80] up).setF (Reg.PORT_STATUS 0) Fd.PORT_STATUS_STATE 4 with pipe.bridle := List.replicate 64 ⟨3, [], 0, 0⟩ }, 0, ⟨(List.replicate 60 0), true, false, 0, 0, [], false⟩, by decide +kernel⟩

theorem wit_FramePathActs_7 : ∃ (s : State) (port : Fin 256) (f : RxFrame), s.chip.rxLocked port = true ∧ f.noFrame = true :=
  ⟨st ((on [72] up).setF (Reg.PORT_STATUS 0) Fd.PORT_STATUS_STATE 4), 0, ⟨(List.replicate 60 0), true, false, 0, 0, [], true⟩, by decide +kernel⟩

theorem wit_FramePathActs_8 : ∃ (s : State) (port : Fin 256) (f : RxFrame), s.chip.rxLocked port = true ∧ f.noFrame = false ∧ s.chip.pState port = pFault :=
  ⟨st ((on [72] up).setF (Reg.PORT_STATUS 0) Fd.PORT_STATUS_STATE 5), 0, ⟨[], true, false, 0, 0, [], false⟩, by decide +kernel⟩

theorem wit_FramePathActs_9 : ∃ (s : State) (port : Fin 256) (f : RxFrame), s.chip.rxLocked port = false :=
  ⟨st up, 0, default, by decide +kernel⟩

theorem wit_FramePathActs_10 : ∃ (s : State) (panel : Fin 8), (s.chip.pipe.bridle.find? (fun f => f.port / 32 == panel.val) = none) :=
  ⟨st up, 0, by decide +kernel⟩

theorem wit_FramePathActs_11 : ∃ (s : State) (panel : Fin 8) (f : BFrame), (s.chip.pipe.bridle.find? (fun f => f.port / 32 == panel.val) = some f) ∧ s.chip.forwards = true ∧ s.chip.standby = true :=
  ⟨st { up with tet.dead := true, pipe.bridle := [⟨3, [], 0, 0⟩] }, 0, ⟨3, [], 0, 0⟩, by decide +kernel⟩

theorem wit_FramePathActs_12 : ∃ (s : State) (panel : Fin 8) (f : BFrame), (s.chip.pipe.bridle.find? (fun f => f.port / 32 == panel.val) = some f) ∧ s.chip.forwards = true ∧ s.chip.standby = false ∧ s.chip.pwr.entry.isSome = true :=
  ⟨st { up with pipe.bridle := [⟨3, [], 0, 0⟩], pwr.entry := some default }, 0, ⟨3, [], 0, 0⟩, by decide +kernel⟩

theorem wit_FramePathActs_13 : ∃ (s : State) (panel : Fin 8) (f : BFrame), (s.chip.pipe.bridle.find? (fun f => f.port / 32 == panel.val) = some f) ∧ s.chip.forwards = true ∧ s.chip.standby = false ∧ s.chip.pwr.entry.isSome = false ∧ (s.chip).bridleStopped panel = true :=
  ⟨st { (f up [(Reg.FLT_TKO_STATUS, Fd.FLT_TKO_STATUS_UNSERVED, 1)]) with pipe.bridle := [⟨3, [], 0, 0⟩] }, 0, ⟨3, [], 0, 0⟩, by decide +kernel⟩

theorem wit_FramePathActs_14 : ∃ (s : State) (panel : Fin 8) (f : BFrame), (s.chip.pipe.bridle.find? (fun f => f.port / 32 == panel.val) = some f) ∧ s.chip.forwards = true ∧ s.chip.standby = false ∧ s.chip.pwr.entry.isSome = false ∧ s.chip.bridleStopped panel = false :=
  ⟨st { up with pipe.bridle := [⟨3, [], 0, 0⟩] }, 0, ⟨3, [], 0, 0⟩, by decide +kernel⟩

theorem wit_FramePathActs_15 : ∃ (s : State) (slice : Fin 9) (hits : List Hit) (h : Head), ((s.chip.strike hits).pipe.heads.find? (fun h => h.slice == slice.val) = some h) ∧ (mget (fun _ => 0) (s.chip.strike hits).pipe.slotNo slice ≠ 383 ∨ (s.chip.strike hits).otherWaits slice = false) :=
  ⟨st { up with pipe.heads := [default] }, 0, [], default, by decide +kernel⟩

theorem wit_FramePathActs_16 : ∃ (s : State) (slice : Fin 9) (hits : List Hit) (h : Head), ((s.chip.strike hits).pipe.heads.find? (fun h => h.slice == slice.val) = some h) ∧ (mget (fun _ => 0) (s.chip.strike hits).pipe.slotNo slice = 383) ∧ (s.chip.strike hits).otherWaits slice = true :=
  ⟨st { up with pipe.heads := [default], pipe.injQ := [default], pipe.slotNo := [(0, 383)] }, 0, [], default, by decide +kernel⟩

theorem wit_FramePathActs_17 : ∃ (s : State) (slice : Fin 9) (hits : List Hit), ((s.chip.strike hits).pipe.heads.find? (fun h => h.slice == slice.val) = none) ∧ (s.chip.strike hits).otherWaits slice = true :=
  ⟨st { up with pipe.injQ := [default] }, 0, [], by decide +kernel⟩

theorem wit_FramePathActs_18 : ∃ (s : State) (slice : Fin 9) (hits : List Hit), ((s.chip.strike hits).pipe.heads.find? (fun h => h.slice == slice.val) = none) ∧ (s.chip.strike hits).otherWaits slice = false :=
  ⟨st up, 0, [], by decide +kernel⟩

theorem wit_FramePathActs_19 : ∃ (s : State) (slice : Fin 9) (x : PatReq), (s.chip.pipe.patQ.find? (fun x => x.pkt.md.slice == slice.val && x.pkt.gen == s.chip.gen slice && s.chip.overdue x.pkt.stampAt) = some x) :=
  ⟨st { up with pipe.patQ := [default], now := 4000000 }, 0, default, by decide +kernel⟩

theorem wit_FramePathActs_20 : ∃ (s : State) (slice : Fin 9) (x : ReplReq), (s.chip.pipe.patQ.find? (fun x => x.pkt.md.slice == slice.val && x.pkt.gen == s.chip.gen slice && s.chip.overdue x.pkt.stampAt) = none) ∧ (s.chip.pipe.replQ.find? (fun x => x.pkt.md.slice == slice.val && s.chip.overdue x.pkt.stampAt) = some x) :=
  ⟨st { up with pipe.replQ := [default], now := 4000000 }, 0, default, by decide +kernel⟩

theorem wit_FramePathActs_21 : ∃ (s : State) (engine : Fin 4) (hits : List Hit) (x : PatReq), ((s.chip.strike hits).pipe.patQ.find? (fun x => x.engine == engine.val) = some x) ∧ x.pkt.gen ≠ (s.chip.strike hits).gen x.pkt.md.slice :=
  ⟨st { up with pipe.patQ := [{ (default : PatReq) with pkt.gen := 1 }] }, 0, [], { (default : PatReq) with pkt.gen := 1 }, by decide +kernel⟩

theorem wit_FramePathActs_22 : ∃ (s : State) (engine : Fin 4) (hits : List Hit) (x : PatReq), ((s.chip.strike hits).pipe.patQ.find? (fun x => x.engine == engine.val) = some x) ∧ x.pkt.gen = (s.chip.strike hits).gen x.pkt.md.slice ∧ (s.chip.strike hits).overdue x.pkt.stampAt = true :=
  ⟨st { up with pipe.patQ := [default], now := 4000000 }, 0, [], default, by decide +kernel⟩

theorem wit_FramePathActs_23 : ∃ (s : State) (engine : Fin 4) (hits : List Hit) (x : PatReq), ((s.chip.strike hits).pipe.patQ.find? (fun x => x.engine == engine.val) = some x) ∧ x.pkt.gen = (s.chip.strike hits).gen x.pkt.md.slice ∧ (s.chip.strike hits).overdue x.pkt.stampAt = false ∧ ((s.chip.strike hits).readCells ((s.chip.strike hits).cellsOfBytes x.pkt.head.chain x.first x.last)).2 = false :=
  ⟨st { up with pipe.patQ := [default] }, 0, [], default, by decide +kernel⟩

theorem wit_FramePathActs_24 : ∃ (s : State) (engine : Fin 4) (hits : List Hit) (x : PatReq), ((s.chip.strike hits).pipe.patQ.find? (fun x => x.engine == engine.val) = some x) ∧ x.pkt.gen = (s.chip.strike hits).gen x.pkt.md.slice ∧ (s.chip.strike hits).overdue x.pkt.stampAt = false ∧ ((s.chip.strike hits).readCells ((s.chip.strike hits).cellsOfBytes x.pkt.head.chain x.first x.last)).2 = true :=
  ⟨st { up with pipe.patQ := [{ (default : PatReq) with last := 1 }], bpm.chains := [(0, { (default : Chain) with cells := [0] })] }, 0, [], { (default : PatReq) with last := 1 }, by decide +kernel⟩

theorem wit_FramePathActs_25 : ∃ (s : State) (slice : Fin 9) (hits : List Hit) (x : ReplReq), ((s.chip.strike hits).pipe.replQ.find? (fun x => x.pkt.head.slice == slice.val) = some x) ∧ (s.chip.strike hits).overdue x.pkt.stampAt = false :=
  ⟨st { up with pipe.replQ := [default] }, 0, [], default, by decide +kernel⟩

theorem wit_FramePathActs_26 : ∃ (s : State) (slice : Fin 9) (hits : List Hit) (x : ReplReq), ((s.chip.strike hits).pipe.replQ.find? (fun x => x.pkt.head.slice == slice.val) = some x) ∧ (s.chip.strike hits).overdue x.pkt.stampAt = true :=
  ⟨st { up with pipe.replQ := [default], now := 4000000 }, 0, [], default, by decide +kernel⟩

theorem wit_FramePathActs_27 : ∃ (s : State) (slice : Fin 9), s.chip.on Reg.BPM_CTRL Fd.BPM_CTRL_EN = true ∧ s.chip.domOn (80 + slice) = true :=
  ⟨st (on [80] (f up [(Reg.BPM_CTRL, Fd.BPM_CTRL_EN, 1)])), 0, by decide +kernel⟩

theorem wit_PortActs_1 : ∃ (s : State) (rq : Req) (port : Fin 256), rq.priv = true ∧ s.chip.addrOff (Reg.PORT_CTRL port) = false ∧ s.chip.on (Reg.PORT_CTRL port) Fd.PORT_CTRL_EN = true :=
  ⟨st (f (on [0, 72] up) [(Reg.PORT_CTRL 0, Fd.PORT_CTRL_EN, 1)]), .pf, 0, by decide +kernel⟩

theorem wit_PortActs_2 : ∃ (s : State) (rq : Req) (port : Fin 256), rq.priv = true ∧ s.chip.addrOff (Reg.PORT_CTRL port) = false ∧ s.chip.on (Reg.PORT_CTRL port) Fd.PORT_CTRL_EN = false ∧ s.chip.enableRefused port = false :=
  ⟨st (f (on [0, 72] up) [(Reg.PORT_CFG 0, Fd.PORT_CFG_WIDTH, 1)]), .pf, 0, by decide +kernel⟩

theorem wit_PortActs_3 : ∃ (s : State) (rq : Req) (port : Fin 256), rq.priv = true ∧ s.chip.addrOff (Reg.PORT_CTRL port) = false ∧ s.chip.on (Reg.PORT_CTRL port) Fd.PORT_CTRL_EN = false ∧ s.chip.enableRefused port = true :=
  ⟨st (on [72] up), .pf, 0, by decide +kernel⟩

theorem wit_PortActs_4 : ∃ (s : State) (rq : Req) (port : Fin 256), rq.priv = true ∧ s.chip.addrOff (Reg.PORT_CTRL port) = false :=
  ⟨st (on [72] up), .pf, 0, by decide +kernel⟩

theorem wit_PortActs_5 : ∃ (s : State) (rq : Req) (port : Fin 256), rq.priv = true ∧ s.chip.addrOff (Reg.PORT_CTRL port) = false ∧ s.chip.pEnabled port = true :=
  ⟨st (f (on [72] up) [(Reg.PORT_CTRL 0, Fd.PORT_CTRL_EN, 1), (Reg.PORT_STATUS 0, Fd.PORT_STATUS_STATE, 4)]), .pf, 0, by decide +kernel⟩

theorem wit_PortActs_6 : ∃ (s : State) (rq : Req) (port : Fin 256), rq.priv = true ∧ s.chip.addrOff (Reg.PORT_CTRL port) = false ∧ s.chip.pEnabled port = false :=
  ⟨st (on [72] up), .pf, 0, by decide +kernel⟩

theorem wit_PortActs_7 : ∃ (s : State) (rq : Req) (port : Fin 256) (below : List Nat), rq.priv = true ∧ s.chip.addrOff (Reg.PORT_CTRL port) = false :=
  ⟨st (on [72] up), .pf, 0, [], by decide +kernel⟩

theorem wit_PortActs_8 : ∃ (s : State) (port : Fin 256) (partner : AnPage) (pages t : Nat) (fc : Nat), s.chip.pState port = pAn ∧ (typePrio.find? (fun t => bitOf (s.chip.advTypes port (s.chip.fallenType port)) t && bitOf (partnerTypes partner) t) = some t) ∧ s.chip.pFec port t (s.chip.resolveFec port t partner) = some fc :=
  ⟨st (f up [(Reg.PORT_STATUS 0, Fd.PORT_STATUS_STATE, 1), (Reg.PORT_CFG 0, Fd.PORT_CFG_WIDTH, 1), (Reg.PORT_ADV 0, Fd.PORT_ADV_TYPES, 1)]), 0, { types := 1, krS := false, fec := 0, parallel := false }, 1, 0, 1, by decide +kernel⟩

theorem wit_PortActs_9 : ∃ (s : State) (port : Fin 256) (partner : AnPage) (pages : Nat), s.chip.pState port = pAn ∧ (typePrio.find? (fun t => bitOf (s.chip.advTypes port (s.chip.fallenType port)) t && bitOf (partnerTypes partner) t) = none) :=
  ⟨st (f up [(Reg.PORT_STATUS 0, Fd.PORT_STATUS_STATE, 1), (Reg.PORT_ADV 0, Fd.PORT_ADV_TYPES, 0)]), 0, { types := 1, krS := false, fec := 0, parallel := false }, 1, by decide +kernel⟩

theorem wit_PortActs_10 : ∃ (s : State) (port : Fin 256) (partner : AnPage) (pages t : Nat), s.chip.pState port = pAn ∧ (typePrio.find? (fun t => bitOf (s.chip.advTypes port (s.chip.fallenType port)) t && bitOf (partnerTypes partner) t) = some t) ∧ s.chip.pFec port t (s.chip.resolveFec port t partner) = none :=
  ⟨st (f up [(Reg.PORT_STATUS 0, Fd.PORT_STATUS_STATE, 1), (Reg.PORT_CFG 0, Fd.PORT_CFG_WIDTH, 1), (Reg.PORT_CFG 0, Fd.PORT_CFG_FEC, 3), (Reg.PORT_ADV 0, Fd.PORT_ADV_TYPES, 1)]), 0, { types := 1, krS := false, fec := 0, parallel := false }, 1, 0, by decide +kernel⟩

theorem wit_PortActs_11 : ∃ (s : State) (port : Fin 256), s.chip.pState port = pTrain ∧ s.chip.now < (s.chip.port port).since + 4 * sPs :=
  ⟨st (f up [(Reg.PORT_STATUS 0, Fd.PORT_STATUS_STATE, 2)]), 0, by decide +kernel⟩

theorem wit_PortActs_12 : ∃ (s : State) (port : Fin 256), s.chip.pState port = pTrain ∧ (s.chip.port port).since + 4 * sPs ≤ s.chip.now :=
  ⟨st { f up [(Reg.PORT_STATUS 0, Fd.PORT_STATUS_STATE, 2)] with now := 4 * sPs }, 0, by decide +kernel⟩

theorem wit_PortActs_13 : ∃ (s : State) (port : Fin 256), s.chip.pState port = pLock :=
  ⟨st (f up [(Reg.PORT_STATUS 0, Fd.PORT_STATUS_STATE, 3)]), 0, by decide +kernel⟩

theorem wit_PortActs_14 : ∃ (s : State) (port : Fin 256) (kind : Fin 3), s.chip.pState port = pUp :=
  ⟨st (f up [(Reg.PORT_STATUS 0, Fd.PORT_STATUS_STATE, 4)]), 0, 1, by decide +kernel⟩

theorem wit_PortActs_15 : ∃ (s : State) (port : Fin 256), s.chip.pState port = pFault ∧ s.chip.holdOver port = false :=
  ⟨st { f up [(Reg.PORT_STATUS 0, Fd.PORT_STATUS_STATE, 5)] with now := 0, pnl.ports := [(0, { PortX.idle with faultAt := 1 })] }, 0, by decide +kernel⟩

theorem wit_PortActs_16 : ∃ (s : State) (port : Fin 256), s.chip.pState port = pFault ∧ s.chip.holdOver port = true :=
  ⟨st { f up [(Reg.PORT_STATUS 0, Fd.PORT_STATUS_STATE, 5)] with now := 4 * sPs }, 0, by decide +kernel⟩

theorem wit_SpareLaneActs_1 : ∃ (s : State) (port : Fin 256) (lane : Fin 8), s.chip.linkOn port = true ∧ s.chip.laneOk port lane = true ∧ (((s.chip.markBad port lane).swapPossible port && (s.chip.markBad port lane).pState port == pUp && (s.chip.markBad port lane).laneOk port lane && !(s.chip.markBad port lane).laneSwapped port lane && !(s.chip.markBad port lane).laneTrying port lane && (s.chip.markBad port lane).fld (Reg.PORT_CFG port) Fd.PORT_CFG_SWAP_SER != 0 && !((s.chip.markBad port lane).port port).retry.any (fun r => r.1 == lane.val)) = true) :=
  ⟨st (f up [(Reg.PORT_STATUS 0, Fd.PORT_STATUS_STATE, 4), (Reg.PORT_STATUS 0, Fd.PORT_STATUS_LINK, 1), (Reg.PORT_STATUS 0, Fd.PORT_STATUS_TYPE, 4), (Reg.PORT_CFG 0, Fd.PORT_CFG_SWAP_SER, 1)]), 0, 0, by decide +kernel⟩

theorem wit_SpareLaneActs_2 : ∃ (s : State) (port : Fin 256) (lane : Fin 8), s.chip.linkOn port = true ∧ s.chip.laneOk port lane = true ∧ (((s.chip.markBad port lane).swapPossible port && (s.chip.markBad port lane).pState port == pUp && (s.chip.markBad port lane).laneOk port lane && !(s.chip.markBad port lane).laneSwapped port lane && !(s.chip.markBad port lane).laneTrying port lane && (s.chip.markBad port lane).fld (Reg.PORT_CFG port) Fd.PORT_CFG_SWAP_SER != 0 && !((s.chip.markBad port lane).port port).retry.any (fun r => r.1 == lane.val)) = false) :=
  ⟨st (f up [(Reg.PORT_STATUS 0, Fd.PORT_STATUS_STATE, 4), (Reg.PORT_STATUS 0, Fd.PORT_STATUS_LINK, 1), (Reg.PORT_STATUS 0, Fd.PORT_STATUS_TYPE, 4), (Reg.PORT_CFG 0, Fd.PORT_CFG_SWAP_SER, 0)]), 0, 0, by decide +kernel⟩

theorem wit_SpareLaneActs_3 : ∃ (s : State) (port : Fin 256) (lane : Fin 8), s.chip.linkOn port = true ∧ s.chip.laneOk port lane = true ∧ s.chip.laneSwapped port lane = true :=
  ⟨st { f up [(Reg.PORT_STATUS 0, Fd.PORT_STATUS_STATE, 4), (Reg.PORT_STATUS 0, Fd.PORT_STATUS_LINK, 1), (Reg.PORT_STATUS 0, Fd.PORT_STATUS_TYPE, 4), (Reg.PNL_SPARE_CFG 0 0, Fd.PNL_SPARE_CFG_EN, 1), (Reg.PNL_SPARE_STATUS 0 0, Fd.PNL_SPARE_STATUS_RX_USED, 1)] with now := 0 }, 0, 0, by decide +kernel⟩

theorem wit_SpareLaneActs_4 : ∃ (s : State) (port : Fin 256) (lane : Fin 8), s.chip.linkOn port = true ∧ s.chip.laneOk port lane = true ∧ s.chip.laneSwapped port lane = false ∧ s.chip.laneTrying port lane = true :=
  ⟨st { f up [(Reg.PORT_STATUS 0, Fd.PORT_STATUS_STATE, 4), (Reg.PORT_STATUS 0, Fd.PORT_STATUS_LINK, 1), (Reg.PORT_STATUS 0, Fd.PORT_STATUS_TYPE, 4)] with pnl.spares := [(0, { Spare.idle with attempt := some default })] }, 0, 0, by decide +kernel⟩

theorem wit_SpareLaneActs_5 : ∃ (s : State) (port : Fin 256) (lane : Fin 8), s.chip.linkOn port = true ∧ s.chip.laneOk port lane = true ∧ s.chip.laneSwapped port lane = false ∧ s.chip.laneTrying port lane = false ∧ s.chip.swapPossible port = true :=
  ⟨st (f up [(Reg.PORT_STATUS 0, Fd.PORT_STATUS_STATE, 4), (Reg.PORT_STATUS 0, Fd.PORT_STATUS_LINK, 1), (Reg.PORT_STATUS 0, Fd.PORT_STATUS_TYPE, 4)]), 0, 0, by decide +kernel⟩

theorem wit_SpareLaneActs_6 : ∃ (s : State) (port : Fin 256) (lane : Fin 8), s.chip.linkOn port = true ∧ s.chip.laneOk port lane = true ∧ s.chip.laneSwapped port lane = false ∧ s.chip.laneTrying port lane = false ∧ s.chip.swapPossible port = false :=
  ⟨st (f up [(Reg.PORT_STATUS 0, Fd.PORT_STATUS_STATE, 4), (Reg.PORT_STATUS 0, Fd.PORT_STATUS_LINK, 1), (Reg.PORT_STATUS 0, Fd.PORT_STATUS_TYPE, 0)]), 0, 0, by decide +kernel⟩

theorem wit_SpareLaneActs_8 : ∃ (s : State) (port : Fin 256) (lane : Fin 8) (r : Nat × Nat), ((s.chip.port port).retry.find? (fun r => r.1 == lane.val) = some r) ∧ r.2 + sPs ≤ s.chip.now ∧ (((s.chip.setPort port { s.chip.port port with retry := (s.chip.port port).retry.filter (fun r => r.1 != lane.val) }).swapPossible port && (s.chip.setPort port { s.chip.port port with retry := (s.chip.port port).retry.filter (fun r => r.1 != lane.val) }).fld (Reg.PORT_CFG port) Fd.PORT_CFG_SWAP_SER != 0 && (s.chip.setPort port { s.chip.port port with retry := (s.chip.port port).retry.filter (fun r => r.1 != lane.val) }).laneOk port lane && !(s.chip.setPort port { s.chip.port port with retry := (s.chip.port port).retry.filter (fun r => r.1 != lane.val) }).laneSwapped port lane) = true) :=
  ⟨st { f up [(Reg.PORT_STATUS 0, Fd.PORT_STATUS_STATE, 4), (Reg.PORT_STATUS 0, Fd.PORT_STATUS_LINK, 1), (Reg.PORT_STATUS 0, Fd.PORT_STATUS_TYPE, 4), (Reg.PORT_CFG 0, Fd.PORT_CFG_SWAP_SER, 1)] with now := sPs, pnl.ports := [(0, { PortX.idle with retry := [(0, 0)] })] }, 0, 0, (0, 0), by decide +kernel⟩

theorem wit_SpareLaneActs_9 : ∃ (s : State) (panel : Fin 8) (spare : Fin 2) (msg : SpareMsg) (n : Nat), s.chip.sparePort panel spare = some n ∧ s.chip.spareMsgOk panel spare msgHello msg = true :=
  ⟨st { f up [(Reg.PNL_SPARE_CFG 0 0, Fd.PNL_SPARE_CFG_EN, 1)] with pnl.spares := [(0, { Spare.idle with trained := true })] }, 0, 0, ⟨16, 0, BitVec.ofNat 8 (crc8 16 0), 3⟩, 0, by decide +kernel⟩

theorem wit_SpareLaneActs_10 : ∃ (s : State) (panel : Fin 8) (spare : Fin 2) (msg : SpareMsg) (n : Nat), s.chip.sparePort panel spare = some n ∧ s.chip.spareMsgOk panel spare msgSwapDone msg = true :=
  ⟨st { f up [(Reg.PNL_SPARE_CFG 0 0, Fd.PNL_SPARE_CFG_EN, 1)] with pnl.spares := [(0, { Spare.idle with trained := true })] }, 0, 0, ⟨80, 0, BitVec.ofNat 8 (crc8 80 0), 3⟩, 0, by decide +kernel⟩

theorem wit_SpareLaneActs_11 : ∃ (s : State) (panel : Fin 8) (spare : Fin 2) (msg : SpareMsg) (n : Nat) (d : Nat × Nat), s.chip.sparePort panel spare = some n ∧ s.chip.spareMsgOk panel spare msgBridgeReq msg = true ∧ (s.chip.spareHeard panel spare).repeated panel spare msgBridgeReq (msg.d1.toNat % 16) = some d :=
  ⟨st { f up [(Reg.PNL_SPARE_CFG 0 0, Fd.PNL_SPARE_CFG_EN, 1)] with pnl.spares := [(0, { Spare.idle with trained := true, lastReq := some (1, 2, 7, 8) })] }, 0, 0, ⟨33, 0, BitVec.ofNat 8 (crc8 33 0), 3⟩, 0, (7, 8), by decide +kernel⟩

theorem wit_SpareLaneActs_12 : ∃ (s : State) (panel : Fin 8) (spare : Fin 2) (msg : SpareMsg) (n : Nat) (arg : Nat), s.chip.sparePort panel spare = some n ∧ s.chip.spareMsgOk panel spare msgBridgeReq msg = true ∧ (s.chip.spareHeard panel spare).repeated panel spare msgBridgeReq (msg.d1.toNat % 16) = none ∧ (s.chip.spareHeard panel spare).nakArg n panel spare (msg.d2.toNat % 8) = some arg :=
  ⟨st { f up [(Reg.PNL_SPARE_CFG 0 0, Fd.PNL_SPARE_CFG_EN, 1)] with pnl.spares := [(0, { Spare.idle with trained := true })] }, 0, 0, ⟨33, 0, BitVec.ofNat 8 (crc8 33 0), 3⟩, 0, 3, by decide +kernel⟩

theorem wit_SpareLaneActs_13 : ∃ (s : State) (panel : Fin 8) (spare : Fin 2) (msg : SpareMsg) (n : Nat), s.chip.sparePort panel spare = some n ∧ s.chip.spareMsgOk panel spare msgBridgeReq msg = true ∧ (s.chip.spareHeard panel spare).repeated panel spare msgBridgeReq (msg.d1.toNat % 16) = none ∧ (s.chip.spareHeard panel spare).nakArg n panel spare (msg.d2.toNat % 8) = none ∧ ((s.chip.spareHeard panel spare).spare panel spare).attempt = none :=
  ⟨st { f up [(Reg.PNL_SPARE_CFG 0 0, Fd.PNL_SPARE_CFG_EN, 1), (Reg.PORT_STATUS 0, Fd.PORT_STATUS_LINK, 1), (Reg.PORT_STATUS 0, Fd.PORT_STATUS_TYPE, 4)] with pnl.spares := [(0, { Spare.idle with trained := true })] }, 0, 0, ⟨33, 0, BitVec.ofNat 8 (crc8 33 0), 3⟩, 0, by decide +kernel⟩

theorem wit_SpareLaneActs_14 : ∃ (s : State) (panel : Fin 8) (spare : Fin 2) (msg : SpareMsg) (n : Nat) (a : SwapTry), s.chip.sparePort panel spare = some n ∧ s.chip.spareMsgOk panel spare msgBridgeReq msg = true ∧ (s.chip.spareHeard panel spare).repeated panel spare msgBridgeReq (msg.d1.toNat % 16) = none ∧ (s.chip.spareHeard panel spare).nakArg n panel spare (msg.d2.toNat % 8) = none ∧ ((s.chip.spareHeard panel spare).spare panel spare).attempt = some a ∧ a.acked = false :=
  ⟨st { f up [(Reg.PNL_SPARE_CFG 0 0, Fd.PNL_SPARE_CFG_EN, 1), (Reg.PORT_STATUS 0, Fd.PORT_STATUS_LINK, 1), (Reg.PORT_STATUS 0, Fd.PORT_STATUS_TYPE, 4)] with pnl.spares := [(0, { Spare.idle with trained := true, attempt := some default })] }, 0, 0, ⟨33, 0, BitVec.ofNat 8 (crc8 33 0), 3⟩, 0, default, by decide +kernel⟩

theorem wit_SpareLaneActs_15 : ∃ (s : State) (panel : Fin 8) (spare : Fin 2) (msg : SpareMsg) (n : Nat) (a : SwapTry), s.chip.sparePort panel spare = some n ∧ s.chip.spareMsgOk panel spare msgBridgeReq msg = true ∧ (s.chip.spareHeard panel spare).repeated panel spare msgBridgeReq (msg.d1.toNat % 16) = none ∧ (s.chip.spareHeard panel spare).nakArg n panel spare (msg.d2.toNat % 8) = none ∧ ((s.chip.spareHeard panel spare).spare panel spare).attempt = some a ∧ a.acked = true :=
  ⟨st { f up [(Reg.PNL_SPARE_CFG 0 0, Fd.PNL_SPARE_CFG_EN, 1), (Reg.PORT_STATUS 0, Fd.PORT_STATUS_LINK, 1), (Reg.PORT_STATUS 0, Fd.PORT_STATUS_TYPE, 4)] with pnl.spares := [(0, { Spare.idle with trained := true, attempt := some { (default : SwapTry) with acked := true } })] }, 0, 0, ⟨33, 0, BitVec.ofNat 8 (crc8 33 0), 3⟩, 0, { (default : SwapTry) with acked := true }, by decide +kernel⟩

theorem wit_SpareLaneActs_16 : ∃ (s : State) (panel : Fin 8) (spare : Fin 2) (msg : SpareMsg) (n : Nat) (a : SwapTry), s.chip.sparePort panel spare = some n ∧ s.chip.spareMsgOk panel spare msgBridgeAck msg = true ∧ ((s.chip.spareHeard panel spare).spare panel spare).attempt = some a ∧ (msg.d1.toNat % 16) = ((s.chip.spareHeard panel spare).spare panel spare).seq ∧ (msg.d2.toNat % 8) = a.lane ∧ (a.acked = true ∨ (s.chip.spareHeard panel spare).now < a.start + 2 * msPs) :=
  ⟨st { f up [(Reg.PNL_SPARE_CFG 0 0, Fd.PNL_SPARE_CFG_EN, 1)] with pnl.spares := [(0, { Spare.idle with trained := true, attempt := some default })] }, 0, 0, ⟨48, 0, BitVec.ofNat 8 (crc8 48 0), 3⟩, 0, default, by decide +kernel⟩

theorem wit_SpareLaneActs_17 : ∃ (s : State) (panel : Fin 8) (spare : Fin 2) (msg : SpareMsg) (n : Nat) (a : SwapTry), s.chip.sparePort panel spare = some n ∧ s.chip.spareMsgOk panel spare msgBridgeNak msg = true ∧ ((s.chip.spareHeard panel spare).spare panel spare).attempt = some a ∧ (msg.d1.toNat % 16) = ((s.chip.spareHeard panel spare).spare panel spare).seq ∧ a.acked = false :=
  ⟨st { f up [(Reg.PNL_SPARE_CFG 0 0, Fd.PNL_SPARE_CFG_EN, 1)] with pnl.spares := [(0, { Spare.idle with trained := true, attempt := some default })] }, 0, 0, ⟨64, 0, BitVec.ofNat 8 (crc8 64 0), 3⟩, 0, default, by decide +kernel⟩

theorem wit_SpareLaneActs_18 : ∃ (s : State) (panel : Fin 8) (spare : Fin 2) (msg : SpareMsg) (n : Nat), s.chip.sparePort panel spare = some n ∧ s.chip.spareMsgOk panel spare msgBridgeNak msg = true ∧ ((s.chip.spareHeard panel spare).spare panel spare).attempt = none :=
  ⟨st { f up [(Reg.PNL_SPARE_CFG 0 0, Fd.PNL_SPARE_CFG_EN, 1)] with pnl.spares := [(0, { Spare.idle with trained := true })] }, 0, 0, ⟨64, 0, BitVec.ofNat 8 (crc8 64 0), 3⟩, 0, by decide +kernel⟩

theorem wit_SpareLaneActs_19 : ∃ (s : State) (panel : Fin 8) (spare : Fin 2) (msg : SpareMsg) (n : Nat) (d : Nat × Nat), s.chip.sparePort panel spare = some n ∧ s.chip.spareMsgOk panel spare msgReleaseReq msg = true ∧ (s.chip.spareHeard panel spare).repeated panel spare msgReleaseReq (msg.d1.toNat % 16) = some d :=
  ⟨st { f up [(Reg.PNL_SPARE_CFG 0 0, Fd.PNL_SPARE_CFG_EN, 1)] with pnl.spares := [(0, { Spare.idle with trained := true, lastReq := some (1, 6, 7, 8) })] }, 0, 0, ⟨97, 0, BitVec.ofNat 8 (crc8 97 0), 3⟩, 0, (7, 8), by decide +kernel⟩

theorem wit_SpareLaneActs_20 : ∃ (s : State) (panel : Fin 8) (spare : Fin 2) (msg : SpareMsg) (n : Nat), s.chip.sparePort panel spare = some n ∧ s.chip.spareMsgOk panel spare msgReleaseReq msg = true ∧ (s.chip.spareHeard panel spare).repeated panel spare msgReleaseReq (msg.d1.toNat % 16) = none ∧ ((s.chip.spareHeard panel spare).spFlag panel spare Fd.PNL_SPARE_STATUS_TX_USED && (s.chip.spareHeard panel spare).fld (Reg.PNL_SPARE_STATUS panel spare) Fd.PNL_SPARE_STATUS_TX_LANE == (msg.d2.toNat % 8)) = true :=
  ⟨st { f up [(Reg.PNL_SPARE_CFG 0 0, Fd.PNL_SPARE_CFG_EN, 1), (Reg.PNL_SPARE_STATUS 0 0, Fd.PNL_SPARE_STATUS_TX_USED, 1)] with pnl.spares := [(0, { Spare.idle with trained := true })] }, 0, 0, ⟨97, 0, BitVec.ofNat 8 (crc8 97 0), 3⟩, 0, by decide +kernel⟩

theorem wit_SpareLaneActs_21 : ∃ (s : State) (panel : Fin 8) (spare : Fin 2) (msg : SpareMsg) (n : Nat), s.chip.sparePort panel spare = some n ∧ s.chip.spareMsgOk panel spare msgReleaseAck msg = true ∧ (msg.d1.toNat % 16) = ((s.chip.spareHeard panel spare).spare panel spare).seq ∧ ((s.chip.spareHeard panel spare).spare panel spare).msg.1 / 16 = msgReleaseReq :=
  ⟨st { f up [(Reg.PNL_SPARE_CFG 0 0, Fd.PNL_SPARE_CFG_EN, 1)] with pnl.spares := [(0, { Spare.idle with trained := true, msg := (0x60, 0) })] }, 0, 0, ⟨112, 0, BitVec.ofNat 8 (crc8 112 0), 3⟩, 0, by decide +kernel⟩

theorem wit_SpareLaneActs_22 : ∃ (s : State) (panel : Fin 8) (spare : Fin 2) (a : SwapTry), (s.chip.spare panel spare).attempt = some a ∧ a.acked = false ∧ a.start + 2 * msPs ≤ s.chip.now :=
  ⟨st { up with now := 2 * msPs, pnl.spares := [(0, { Spare.idle with attempt := some default })] }, 0, 0, default, by decide +kernel⟩

theorem wit_SpareLaneActs_23 : ∃ (s : State) (panel : Fin 8) (spare : Fin 2) (a : SwapTry) (c : Chip), (s.chip.spare panel spare).attempt = some a ∧ a.acked = true ∧ (c = (((((s.chip.setSpare panel spare { s.chip.spare panel spare with attempt := none }).setF (Reg.PNL_SPARE_STATUS panel spare) Fd.PNL_SPARE_STATUS_RX_USED 1).setF (Reg.PNL_SPARE_STATUS panel spare) Fd.PNL_SPARE_STATUS_RX_LANE a.lane).setFBit (Reg.PORT_STATUS a.port) Fd.PORT_STATUS_SWAP_RX spare true).bump (Reg.PORT_CNT a.port 15) 1).linkEvent a.port true ((((((s.chip.setSpare panel spare { s.chip.spare panel spare with attempt := none }).setF (Reg.PNL_SPARE_STATUS panel spare) Fd.PNL_SPARE_STATUS_RX_USED 1).setF (Reg.PNL_SPARE_STATUS panel spare) Fd.PNL_SPARE_STATUS_RX_LANE a.lane).setFBit (Reg.PORT_STATUS a.port) Fd.PORT_STATUS_SWAP_RX spare true).bump (Reg.PORT_CNT a.port 15) 1).fallen a.port) 0x0B (if a.degrade then outMasked else outDegraded)) ∧ c.spFlag panel spare Fd.PNL_SPARE_STATUS_TX_USED = true :=
  ⟨st { f up [(Reg.PNL_SPARE_STATUS 0 0, Fd.PNL_SPARE_STATUS_TX_USED, 1)] with now := 0, pnl.spares := [(0, { Spare.idle with attempt := some { (default : SwapTry) with acked := true } })] }, 0, 0, { (default : SwapTry) with acked := true }, _, by decide +kernel, by decide +kernel, rfl, by decide +kernel⟩

theorem wit_SpareLaneActs_24 : ∃ (s : State) (panel : Fin 8) (spare : Fin 2) (a : SwapTry) (c : Chip), (s.chip.spare panel spare).attempt = some a ∧ a.acked = true ∧ (c = (((((s.chip.setSpare panel spare { s.chip.spare panel spare with attempt := none }).setF (Reg.PNL_SPARE_STATUS panel spare) Fd.PNL_SPARE_STATUS_RX_USED 1).setF (Reg.PNL_SPARE_STATUS panel spare) Fd.PNL_SPARE_STATUS_RX_LANE a.lane).setFBit (Reg.PORT_STATUS a.port) Fd.PORT_STATUS_SWAP_RX spare true).bump (Reg.PORT_CNT a.port 15) 1).linkEvent a.port true ((((((s.chip.setSpare panel spare { s.chip.spare panel spare with attempt := none }).setF (Reg.PNL_SPARE_STATUS panel spare) Fd.PNL_SPARE_STATUS_RX_USED 1).setF (Reg.PNL_SPARE_STATUS panel spare) Fd.PNL_SPARE_STATUS_RX_LANE a.lane).setFBit (Reg.PORT_STATUS a.port) Fd.PORT_STATUS_SWAP_RX spare true).bump (Reg.PORT_CNT a.port 15) 1).fallen a.port) 0x0B (if a.degrade then outMasked else outDegraded)) ∧ c.spFlag panel spare Fd.PNL_SPARE_STATUS_TX_USED = false :=
  ⟨st { up with now := 0, pnl.spares := [(0, { Spare.idle with attempt := some { (default : SwapTry) with acked := true } })] }, 0, 0, { (default : SwapTry) with acked := true }, _, by decide +kernel, by decide +kernel, rfl, by decide +kernel⟩

theorem wit_SpareLaneActs_25 : ∃ (s : State) (panel : Fin 8) (spare : Fin 2) (t : Nat), (s.chip.spare panel spare).heard = some t ∧ t + 10 * msPs ≤ s.chip.now :=
  ⟨st { up with now := 10 * msPs, pnl.spares := [(0, { Spare.idle with heard := some 0 })] }, 0, 0, 0, by decide +kernel⟩

theorem wit_SpareLaneActs_26 : ∃ (s : State) (panel : Fin 8) (spare : Fin 2) (t : Nat), (s.chip.spare panel spare).retryAt = some t ∧ t ≤ s.chip.now :=
  ⟨st { up with now := 0, pnl.spares := [(0, { Spare.idle with retryAt := some 0 })] }, 0, 0, 0, by decide +kernel⟩

theorem wit_TrafficManagerActs_1 : ∃ (s : State) (port : Fin 256) (ch : Choice) (x : Copy), s.chip.forwards = true ∧ s.chip.on Reg.TM_CTRL ⟨0, 1⟩ = true ∧ s.chip.domOn 103 = true ∧ ((s.chip.bpm.txq.filter (fun x => x.port == port.val)).length < 2) ∧ s.chip.choicePort port = some ch ∧ s.chip.qHead ch.queue = some x ∧ s.chip.wdDrops ch.queue port = true :=
  ⟨st { (f (on [103] up) [(Reg.TM_CTRL, ⟨0, 1⟩, 1), (Reg.TM_P_CFG 0, Fd.TM_P_CFG_FC_MODE, 1), (Reg.TM_P_CFG 0, Fd.TM_P_CFG_WD_ACTION, 1), (Reg.TM_P_STATUS 0, Fd.TM_P_STATUS_WD_ACTIVE, 255)]) with bpm.copies := [default] }, 0, ((st { (f (on [103] up) [(Reg.TM_CTRL, ⟨0, 1⟩, 1), (Reg.TM_P_CFG 0, Fd.TM_P_CFG_FC_MODE, 1), (Reg.TM_P_CFG 0, Fd.TM_P_CFG_WD_ACTION, 1), (Reg.TM_P_STATUS 0, Fd.TM_P_STATUS_WD_ACTIVE, 255)]) with bpm.copies := [default] }).chip.choicePort 0).get (by decide +kernel), default, by decide +kernel⟩

theorem wit_TrafficManagerActs_2 : ∃ (s : State) (port : Fin 256) (ch : Choice) (x : Copy), s.chip.forwards = true ∧ s.chip.on Reg.TM_CTRL ⟨0, 1⟩ = true ∧ s.chip.domOn 103 = true ∧ ((s.chip.bpm.txq.filter (fun x => x.port == port.val)).length < 2) ∧ s.chip.choicePort port = some ch ∧ s.chip.qHead ch.queue = some x ∧ s.chip.wdDrops ch.queue port = false ∧ s.chip.drainDiscards port = true :=
  ⟨st { (f (on [103] up) [(Reg.TM_CTRL, ⟨0, 1⟩, 1)]) with bpm.copies := [default], pwr.entry := some { (default : Entry) with discard := true } }, 0, ((st { (f (on [103] up) [(Reg.TM_CTRL, ⟨0, 1⟩, 1)]) with bpm.copies := [default], pwr.entry := some { (default : Entry) with discard := true } }).chip.choicePort 0).get (by decide +kernel), default, by decide +kernel⟩

theorem wit_TrafficManagerActs_3 : ∃ (s : State) (port : Fin 256) (ch : Choice) (x : Copy), s.chip.forwards = true ∧ s.chip.on Reg.TM_CTRL ⟨0, 1⟩ = true ∧ s.chip.domOn 103 = true ∧ ((s.chip.bpm.txq.filter (fun x => x.port == port.val)).length < 2) ∧ s.chip.choicePort port = some ch ∧ s.chip.qHead ch.queue = some x ∧ s.chip.wdDrops ch.queue port = false ∧ s.chip.drainDiscards port = false ∧ s.chip.aged x = true :=
  ⟨st { (f (on [103] up) [(Reg.TM_CTRL, ⟨0, 1⟩, 1)]) with bpm.copies := [default], time.tmBase := BitVec.ofNat 96 (61000 * tbMs) }, 0, ((st { (f (on [103] up) [(Reg.TM_CTRL, ⟨0, 1⟩, 1)]) with bpm.copies := [default], time.tmBase := BitVec.ofNat 96 (61000 * tbMs) }).chip.choicePort 0).get (by decide +kernel), default, by decide +kernel⟩

theorem wit_TrafficManagerActs_4 : ∃ (s : State) (port : Fin 256) (ch : Choice) (x : Copy), s.chip.forwards = true ∧ s.chip.on Reg.TM_CTRL ⟨0, 1⟩ = true ∧ s.chip.domOn 103 = true ∧ ((s.chip.bpm.txq.filter (fun x => x.port == port.val)).length < 2) ∧ s.chip.choicePort port = some ch ∧ s.chip.qHead ch.queue = some x ∧ s.chip.wdDrops ch.queue port = false ∧ s.chip.drainDiscards port = false ∧ s.chip.aged x = false :=
  ⟨st { (f (on [103] up) [(Reg.TM_CTRL, ⟨0, 1⟩, 1)]) with bpm.copies := [default] }, 0, ((st { (f (on [103] up) [(Reg.TM_CTRL, ⟨0, 1⟩, 1)]) with bpm.copies := [default] }).chip.choicePort 0).get (by decide +kernel), default, by decide +kernel⟩

theorem wit_TrafficManagerActs_6 : ∃ (s : State) (port : Fin 256) (hits : List Hit) (x : Copy) (c : Chip), c = s.chip.strike hits ∧ (c.bpm.txq.find? (fun x => x.port == port.val) = some x) ∧ c.quenched (port / 32) = true :=
  ⟨st { f up [(Reg.PORT_STATUS 0, Fd.PORT_STATUS_STATE, 4), (Reg.FLT_STATUS, Fd.FLT_STATUS_QUENCH, 1)] with bpm.txq := [default] }, 0, [], default, _, rfl, by decide +kernel, by decide +kernel⟩

theorem wit_TrafficManagerActs_7 : ∃ (s : State) (port : Fin 256) (hits : List Hit) (x : Copy) (c : Chip), c = s.chip.strike hits ∧ (c.bpm.txq.find? (fun x => x.port == port.val) = some x) ∧ c.quenched (port / 32) = false ∧ (({ c with bpm.txq := c.bpm.txq.erase x } : Chip).staleCopy x = true) :=
  ⟨st { f up [(Reg.PORT_STATUS 0, Fd.PORT_STATUS_STATE, 4), (Reg.FLT_SLICE_GEN 0, Fd.FLT_SLICE_GEN_GEN, 1)] with bpm.txq := [default], flt.corrupt := [(0, 1, 0)] }, 0, [], default, _, rfl, by decide +kernel, by decide +kernel⟩

theorem wit_TrafficManagerActs_8 : ∃ (s : State) (port : Fin 256) (hits : List Hit) (x : Copy) (c : Chip), c = s.chip.strike hits ∧ (c.bpm.txq.find? (fun x => x.port == port.val) = some x) ∧ c.quenched (port / 32) = false ∧ (({ c with bpm.txq := c.bpm.txq.erase x } : Chip).staleCopy x = false) ∧ ((!({ c with bpm.txq := c.bpm.txq.erase x } : Chip).linkOn port || ({ c with bpm.txq := c.bpm.txq.erase x } : Chip).pState port == pFault) = true) :=
  ⟨st { f up [(Reg.PORT_STATUS 0, Fd.PORT_STATUS_STATE, 4)] with bpm.txq := [default] }, 0, [], default, _, rfl, by decide +kernel, by decide +kernel⟩

theorem wit_TrafficManagerActs_9 : ∃ (s : State) (port : Fin 256) (hits : List Hit) (x : Copy) (c : Chip), c = s.chip.strike hits ∧ (c.bpm.txq.find? (fun x => x.port == port.val) = some x) ∧ c.quenched (port / 32) = false ∧ (({ c with bpm.txq := c.bpm.txq.erase x } : Chip).staleCopy x = false) ∧ ((!({ c with bpm.txq := c.bpm.txq.erase x } : Chip).linkOn port || ({ c with bpm.txq := c.bpm.txq.erase x } : Chip).pState port == pFault) = false) :=
  ⟨st { f up [(Reg.PORT_STATUS 0, Fd.PORT_STATUS_STATE, 4), (Reg.PORT_STATUS 0, Fd.PORT_STATUS_LINK, 1)] with bpm.txq := [default] }, 0, [], default, _, rfl, by decide +kernel, by decide +kernel⟩

theorem wit_TrafficManagerActs_10 : ∃ (s : State) (port : Fin 256), s.chip.fld (Reg.TM_P_STATUS port) Fd.TM_P_STATUS_XOFF_SENT ≠ 0 ∧ (mget (fun _ => 0) s.chip.tm.fcAt port + s.chip.fld (Reg.TM_P_QUANTA port) Fd.TM_P_QUANTA_REFRESH_US * 1000 * tbNs ≤ s.chip.tb) :=
  ⟨st { f up [(Reg.TM_P_STATUS 0, Fd.TM_P_STATUS_XOFF_SENT, 1)] with time.tmBase := BitVec.ofNat 96 (61000 * tbMs) }, 0, by decide +kernel⟩

theorem wit_TrafficManagerActs_11 : ∃ (s : State) (port : Fin 256) (pfc : Bool) (enable : BitVec 8) (quanta : List Nat), s.chip.rxLocked port = true ∧ s.chip.pState port ≠ pFault ∧ ((((s.chip.bump (Reg.PORT_CNT port 8) 1).fld (Reg.TM_P_CFG port) Fd.TM_P_CFG_FC_MODE = 1 ∧ pfc = false) ∨ ((s.chip.bump (Reg.PORT_CNT port 8) 1).fld (Reg.TM_P_CFG port) Fd.TM_P_CFG_FC_MODE = 2 ∧ pfc = true))) :=
  ⟨st (f (on [72] up) [(Reg.PORT_STATUS 0, Fd.PORT_STATUS_STATE, 4), (Reg.TM_P_CFG 0, Fd.TM_P_CFG_FC_MODE, 2)]), 0, true, 1, [], by decide +kernel⟩

theorem wit_TrafficManagerActs_12 : ∃ (s : State) (port : Fin 256) (pfc : Bool) (enable : BitVec 8) (quanta : List Nat), s.chip.rxLocked port = true ∧ s.chip.pState port ≠ pFault ∧ (¬ (((s.chip.bump (Reg.PORT_CNT port 8) 1).fld (Reg.TM_P_CFG port) Fd.TM_P_CFG_FC_MODE = 1 ∧ pfc = false) ∨ ((s.chip.bump (Reg.PORT_CNT port 8) 1).fld (Reg.TM_P_CFG port) Fd.TM_P_CFG_FC_MODE = 2 ∧ pfc = true))) :=
  ⟨st (f (on [72] up) [(Reg.PORT_STATUS 0, Fd.PORT_STATUS_STATE, 4)]), 0, true, 1, [], by decide +kernel⟩

theorem wit_TrafficManagerActs_13 : ∃ (s : State) (port : Fin 256) (pfc : Bool) (enable : BitVec 8) (quanta : List Nat), s.chip.rxLocked port = true ∧ s.chip.pState port = pFault :=
  ⟨st (f (on [72] up) [(Reg.PORT_STATUS 0, Fd.PORT_STATUS_STATE, 5)]), 0, true, 1, [], by decide +kernel⟩

theorem wit_TrafficManagerActs_14 : ∃ (s : State) (port : Fin 256) (pri : Fin 8) (p : Nat), (p = if s.chip.fld (Reg.TM_P_CFG port) Fd.TM_P_CFG_FC_MODE = 1 then 0 else pri.val) ∧ bitOf (s.chip.fld (Reg.TM_P_STATUS port) Fd.TM_P_STATUS_PAUSED) p = true ∧ (s.chip.pause port p).ends ≤ s.chip.tb :=
  ⟨st (f up [(Reg.TM_P_STATUS 0, Fd.TM_P_STATUS_PAUSED, 1)]), 0, 0, 0, by decide +kernel⟩

theorem wit_TrafficManagerActs_15 : ∃ (s : State), s.chip.tm.wdAt < s.chip.tb / tbMs :=
  ⟨st { up with time.tmBase := BitVec.ofNat 96 (61000 * tbMs) }, by decide +kernel⟩

theorem wit_TrafficManagerActs_16 : ∃ (s : State) (q : Fin 131072), s.chip.fld (Reg.TM_SAMP_PROF (s.chip.fld (Reg.TM_Q_CFG0 q) Fd.TM_Q_CFG0_SAMP_PROF)) Fd.TM_SAMP_PROF_PERIOD_US ≠ 0 ∧ ((max (mget (fun _ => 0) s.chip.tm.sampAt q) (mget (fun _ => 0) s.chip.tm.sampFrom (s.chip.fld (Reg.TM_Q_CFG0 q) Fd.TM_Q_CFG0_SAMP_PROF))) / s.chip.fld (Reg.TM_SAMP_PROF (s.chip.fld (Reg.TM_Q_CFG0 q) Fd.TM_Q_CFG0_SAMP_PROF)) Fd.TM_SAMP_PROF_PERIOD_US < s.chip.tbUs / s.chip.fld (Reg.TM_SAMP_PROF (s.chip.fld (Reg.TM_Q_CFG0 q) Fd.TM_Q_CFG0_SAMP_PROF)) Fd.TM_SAMP_PROF_PERIOD_US) :=
  ⟨st { f up [(Reg.TM_SAMP_PROF 0, Fd.TM_SAMP_PROF_PERIOD_US, 1)] with time.tmBase := BitVec.ofNat 96 (61000 * tbMs) }, 0, by decide +kernel⟩

theorem wit_BufferActs_1 : ∃ (s : State) (q : Fin 131072) (accs : List MemAcc) (x : Copy), s.chip.oldestAt q .marked = some x ∧ ((List.range 4).all (fun k => s.chip.memUp k) = true) ∧ s.chip.capAdmits s.chip.hbm.spillAt Fd.MEM_SPILL_CAP_WR_GBPS = false :=
  ⟨st { (f (on [104, 105, 106, 107] up) [(Reg.MEM_CTRL 0, Fd.MEM_CTRL_EN, 1), (Reg.MEM_CTRL 1, Fd.MEM_CTRL_EN, 1), (Reg.MEM_CTRL 2, Fd.MEM_CTRL_EN, 1), (Reg.MEM_CTRL 3, Fd.MEM_CTRL_EN, 1), (Reg.MEM_SPILL_CAP 0, Fd.MEM_SPILL_CAP_WR_GBPS, 0), (Reg.MEM_SPILL_CAP 1, Fd.MEM_SPILL_CAP_WR_GBPS, 0), (Reg.MEM_SPILL_CAP 2, Fd.MEM_SPILL_CAP_WR_GBPS, 0), (Reg.MEM_SPILL_CAP 3, Fd.MEM_SPILL_CAP_WR_GBPS, 0)]) with bpm.copies := [{ (default : Copy) with place := .marked }] }, 0, [], { (default : Copy) with place := .marked }, by decide +kernel⟩

theorem wit_BufferActs_2 : ∃ (s : State) (q : Fin 131072) (accs : List MemAcc) (x : Copy), s.chip.oldestAt q .marked = some x ∧ ((List.range 4).all (fun k => s.chip.memUp k) = true) ∧ s.chip.capAdmits s.chip.hbm.spillAt Fd.MEM_SPILL_CAP_WR_GBPS = true ∧ (s.chip.pagesFree < ceilDiv (spillLen x.len - (if (s.chip.q q).pages.isEmpty then 0 else pageBytes - (s.chip.q q).tail)) pageBytes) :=
  ⟨st { (f (on [104, 105, 106, 107] up) [(Reg.MEM_CTRL 0, Fd.MEM_CTRL_EN, 1), (Reg.MEM_CTRL 1, Fd.MEM_CTRL_EN, 1), (Reg.MEM_CTRL 2, Fd.MEM_CTRL_EN, 1), (Reg.MEM_CTRL 3, Fd.MEM_CTRL_EN, 1)]) with bpm.copies := [{ (default : Copy) with place := .marked, len := 10 ^ 12 }] }, 0, [], { (default : Copy) with place := .marked, len := 10 ^ 12 }, ⟨by decide +kernel, by decide +kernel, by decide +kernel, by show (if Config.isH96 = true then 24510464 else 12124160) - _ - _ < _; generalize Config.isH96 = b; cases b <;> decide⟩⟩

theorem wit_BufferActs_3 : ∃ (s : State) (q : Fin 131072) (accs : List MemAcc) (x : Copy), s.chip.oldestAt q .marked = some x ∧ ((List.range 4).all (fun k => s.chip.memUp k) = true) ∧ s.chip.capAdmits s.chip.hbm.spillAt Fd.MEM_SPILL_CAP_WR_GBPS = true ∧ (ceilDiv (spillLen x.len - (if (s.chip.q q).pages.isEmpty then 0 else pageBytes - (s.chip.q q).tail)) pageBytes ≤ s.chip.pagesFree) :=
  ⟨st { (f (on [104, 105, 106, 107] up) [(Reg.MEM_CTRL 0, Fd.MEM_CTRL_EN, 1), (Reg.MEM_CTRL 1, Fd.MEM_CTRL_EN, 1), (Reg.MEM_CTRL 2, Fd.MEM_CTRL_EN, 1), (Reg.MEM_CTRL 3, Fd.MEM_CTRL_EN, 1)]) with bpm.copies := [{ (default : Copy) with place := .marked }] }, 0, [], { (default : Copy) with place := .marked }, ⟨by decide +kernel, by decide +kernel, by decide +kernel, by show _ ≤ (if Config.isH96 = true then 24510464 else 12124160) - _ - _; generalize Config.isH96 = b; cases b <;> decide⟩⟩

theorem wit_BufferActs_4 : ∃ (s : State) (q : Fin 131072) (errs : List (Fin 4 × Fin 128)) (desc : DescErrs) (accs : List MemAcc) (x : Copy) (k : Nat), s.chip.oldestAt q .hbm = some x ∧ ((List.range 4).all (fun k => s.chip.memUp k) = true) ∧ s.chip.capAdmits s.chip.hbm.fillAt Fd.MEM_SPILL_CAP_RD_GBPS = true ∧ s.chip.refillUsed q + cellsOf x.len ≤ (s.chip.q q).claim ∧ s.chip.dieDepth q < s.chip.fld (Reg.BPM_SPILL_PROF (s.chip.fld (Reg.TM_Q_CFG1 q) Fd.TM_Q_CFG1_SPILL_PROF)) Fd.BPM_SPILL_PROF_SPILL_ON ∧ s.chip.recordFenced q (s.chip.recordAt q) (spillLen x.len) = some k :=
  ⟨st fencedAll, 0, [], ⟨[], []⟩, [], { (default : Copy) with place := .hbm }, 0, ⟨by decide +kernel, by decide +kernel, by decide +kernel, by decide +kernel, (show _ from by decide +kernel), fencedAll_rec⟩⟩

theorem wit_BufferActs_5 : ∃ (s : State) (q : Fin 131072) (errs : List (Fin 4 × Fin 128)) (desc : DescErrs) (accs : List MemAcc) (x : Copy) (y : Nat × Nat) (l : List (Nat × Nat)), s.chip.oldestAt q .hbm = some x ∧ ((List.range 4).all (fun k => s.chip.memUp k) = true) ∧ s.chip.capAdmits s.chip.hbm.fillAt Fd.MEM_SPILL_CAP_RD_GBPS = true ∧ s.chip.refillUsed q + cellsOf x.len ≤ (s.chip.q q).claim ∧ s.chip.dieDepth q < s.chip.fld (Reg.BPM_SPILL_PROF (s.chip.fld (Reg.TM_Q_CFG1 q) Fd.TM_Q_CFG1_SPILL_PROF)) Fd.BPM_SPILL_PROF_SPILL_ON ∧ s.chip.recordFenced q (s.chip.recordAt q) (spillLen x.len) = none ∧ ((desc.both.map (fun y => (y.1.val, y.2.val)) ++ (s.chip.marksIn q (s.chip.recordAt q) (spillLen x.len) 2).map (fun w => (w.1, w.2.1))) = y :: l) :=
  ⟨st { (f (on [104, 105, 106, 107] up) [(Reg.MEM_CTRL 0, Fd.MEM_CTRL_EN, 1), (Reg.MEM_CTRL 1, Fd.MEM_CTRL_EN, 1), (Reg.MEM_CTRL 2, Fd.MEM_CTRL_EN, 1), (Reg.MEM_CTRL 3, Fd.MEM_CTRL_EN, 1), (Reg.BPM_SPILL_PROF 0, Fd.BPM_SPILL_PROF_SPILL_ON, 1)]) with bpm.copies := [{ (default : Copy) with place := .hbm }], bpm.qst := [(0, { QSt.idle with claim := 9 })] }, 0, [], ⟨[], [(1, 2)]⟩, [], { (default : Copy) with place := .hbm }, (1, 2), [], by decide +kernel⟩

theorem wit_BufferActs_6 : ∃ (s : State) (q : Fin 131072) (errs : List (Fin 4 × Fin 128)) (desc : DescErrs) (accs : List MemAcc) (x : Copy) (y : Nat × Nat) (l : List (Nat × Nat)), s.chip.oldestAt q .hbm = some x ∧ ((List.range 4).all (fun k => s.chip.memUp k) = true) ∧ s.chip.capAdmits s.chip.hbm.fillAt Fd.MEM_SPILL_CAP_RD_GBPS = true ∧ s.chip.refillUsed q + cellsOf x.len ≤ (s.chip.q q).claim ∧ s.chip.dieDepth q < s.chip.fld (Reg.BPM_SPILL_PROF (s.chip.fld (Reg.TM_Q_CFG1 q) Fd.TM_Q_CFG1_SPILL_PROF)) Fd.BPM_SPILL_PROF_SPILL_ON ∧ s.chip.recordFenced q (s.chip.recordAt q) (spillLen x.len) = none ∧ ((desc.both.map (fun y => (y.1.val, y.2.val)) ++ (s.chip.marksIn q (s.chip.recordAt q) (spillLen x.len) 2).map (fun w => (w.1, w.2.1))) = []) ∧ ((errs.map (fun y => (y.1.val, y.2.val)) ++ (s.chip.marksIn q (s.chip.recordAt q) (spillLen x.len) 1).map (fun w => (w.1, w.2.1))) = y :: l) :=
  ⟨st { (f (on [104, 105, 106, 107] up) [(Reg.MEM_CTRL 0, Fd.MEM_CTRL_EN, 1), (Reg.MEM_CTRL 1, Fd.MEM_CTRL_EN, 1), (Reg.MEM_CTRL 2, Fd.MEM_CTRL_EN, 1), (Reg.MEM_CTRL 3, Fd.MEM_CTRL_EN, 1), (Reg.BPM_SPILL_PROF 0, Fd.BPM_SPILL_PROF_SPILL_ON, 1)]) with bpm.copies := [{ (default : Copy) with place := .hbm }], bpm.qst := [(0, { QSt.idle with claim := 9 })] }, 0, [(1, 2)], ⟨[], []⟩, [], { (default : Copy) with place := .hbm }, (1, 2), [], by decide +kernel⟩

theorem wit_BufferActs_7 : ∃ (s : State) (q : Fin 131072) (errs : List (Fin 4 × Fin 128)) (desc : DescErrs) (accs : List MemAcc) (x : Copy) (c1 : Chip), s.chip.oldestAt q .hbm = some x ∧ ((List.range 4).all (fun k => s.chip.memUp k) = true) ∧ s.chip.capAdmits s.chip.hbm.fillAt Fd.MEM_SPILL_CAP_RD_GBPS = true ∧ s.chip.refillUsed q + cellsOf x.len ≤ (s.chip.q q).claim ∧ s.chip.dieDepth q < s.chip.fld (Reg.BPM_SPILL_PROF (s.chip.fld (Reg.TM_Q_CFG1 q) Fd.TM_Q_CFG1_SPILL_PROF)) Fd.BPM_SPILL_PROF_SPILL_ON ∧ s.chip.recordFenced q (s.chip.recordAt q) (spillLen x.len) = none ∧ ((desc.both.map (fun y => (y.1.val, y.2.val)) ++ (s.chip.marksIn q (s.chip.recordAt q) (spillLen x.len) 2).map (fun w => (w.1, w.2.1))) = []) ∧ ((errs.map (fun y => (y.1.val, y.2.val)) ++ (s.chip.marksIn q (s.chip.recordAt q) (spillLen x.len) 1).map (fun w => (w.1, w.2.1))) = []) ∧ (c1 = ((desc.both.map (fun y => (y.1.val, y.2.val)) ++ (s.chip.marksIn q (s.chip.recordAt q) (spillLen x.len) 2).map (fun w => (w.1, w.2.1))) ++ (errs.map (fun y => (y.1.val, y.2.val)) ++ (s.chip.marksIn q (s.chip.recordAt q) (spillLen x.len) 1).map (fun w => (w.1, w.2.1)))).foldl (fun c y => c.rankUe y.1 y.2) (((({ s.chip with hbm.fillAt := s.chip.capAfter s.chip.hbm.fillAt Fd.MEM_SPILL_CAP_RD_GBPS (s.chip.recordAt q) (spillLen x.len) } : Chip).memAccs 1 false accs).memTouched 0).ranksUe desc.half)) ∧ cellsOf x.len ≤ (c1.allocCells (cellsOf x.len) 3 (c1.ownerOf 0x13 x.parcel)).2.length :=
  ⟨st { (f (on [104, 105, 106, 107] up) [(Reg.MEM_CTRL 0, Fd.MEM_CTRL_EN, 1), (Reg.MEM_CTRL 1, Fd.MEM_CTRL_EN, 1), (Reg.MEM_CTRL 2, Fd.MEM_CTRL_EN, 1), (Reg.MEM_CTRL 3, Fd.MEM_CTRL_EN, 1), (Reg.BPM_SPILL_PROF 0, Fd.BPM_SPILL_PROF_SPILL_ON, 1)]) with bpm.copies := [{ (default : Copy) with place := .hbm }], bpm.qst := [(0, { QSt.idle with claim := 9 })] }, 0, [], ⟨[], []⟩, [], { (default : Copy) with place := .hbm }, _, ⟨by decide +kernel, by decide +kernel, by decide +kernel, by decide +kernel, (show _ from by decide +kernel), by decide +kernel, by decide +kernel, by decide +kernel, rfl, by decide +kernel⟩⟩

theorem wit_BufferActs_8 : ∃ (s : State) (rq : Req) (pool : Fin 16), rq.priv = true ∧ s.chip.addrOff (Reg.BPM_XP_CFG pool) = false ∧ s.chip.on (Reg.BPM_XP_CFG pool) Fd.BPM_XP_CFG_EN = false ∧ (¬ (s.chip.poolLeaves pool = 0 ∨ 67108864 < (List.range 16).foldl (fun t j => if j ≠ pool.val ∧ s.chip.on (Reg.BPM_XP_CFG j) Fd.BPM_XP_CFG_EN then t + s.chip.poolLeaves j else t) 0 + s.chip.poolLeaves pool)) :=
  ⟨st (f (on [103] up) [(Reg.BPM_XP_LEAVES 0, Fd.BPM_XP_LEAVES_LEAVES, 1)]), .pf, 0, by decide +kernel⟩

theorem wit_BufferActs_9 : ∃ (s : State) (rq : Req) (pool : Fin 16), rq.priv = true ∧ s.chip.addrOff (Reg.BPM_XP_CFG pool) = false ∧ s.chip.on (Reg.BPM_XP_CFG pool) Fd.BPM_XP_CFG_EN = false ∧ (s.chip.poolLeaves pool = 0 ∨ 67108864 < (List.range 16).foldl (fun t j => if j ≠ pool.val ∧ s.chip.on (Reg.BPM_XP_CFG j) Fd.BPM_XP_CFG_EN then t + s.chip.poolLeaves j else t) 0 + s.chip.poolLeaves pool) :=
  ⟨st (on [103] up), .pf, 0, by decide +kernel⟩

theorem wit_BufferActs_10 : ∃ (s : State) (pool : Fin 16), s.chip.on (Reg.BPM_XP_CFG pool) Fd.BPM_XP_CFG_EN = true ∧ s.chip.on (Reg.BPM_XP_STATUS pool) Fd.BPM_XP_STATUS_READY = false ∧ ((poolFill pool 8 (2 ^ 64 - 1) ((List.range (s.chip.poolLeaves pool)).map (s.chip.leafAddr pool)) s.store s.chip).2.2 && (poolFill pool 2 0 ((List.range (64 * s.chip.poolLeaves pool)).map (s.chip.auditAddr pool)) (poolFill pool 8 (2 ^ 64 - 1) ((List.range (s.chip.poolLeaves pool)).map (s.chip.leafAddr pool)) s.store s.chip).1 (poolFill pool 8 (2 ^ 64 - 1) ((List.range (s.chip.poolLeaves pool)).map (s.chip.leafAddr pool)) s.store s.chip).2.1).2.2) = true :=
  ⟨st (fa (f (on [103, 112] up) [(Reg.XM_CTRL 0, Fd.XM_CTRL_EN, 1), (Reg.XM_STATUS 0, Fd.XM_STATUS_LINK_UP, 1), (Reg.XM_STATUS 0, Fd.XM_STATUS_CAP_GIB, 1), (Reg.BPM_XP_CFG 0, Fd.BPM_XP_CFG_EN, 1), (Reg.BPM_XP_LEAVES 0, Fd.BPM_XP_LEAVES_LEAVES, 1)]) [(Reg.XM_XLT_CFG 0, Fd.XM_XLT_CFG_V, 1), (Reg.XM_XLT_CFG 0, Fd.XM_XLT_CFG_WE, 1)]), 0, by decide +kernel⟩

theorem wit_BufferActs_11 : ∃ (s : State) (pool : Fin 16), s.chip.on (Reg.BPM_XP_CFG pool) Fd.BPM_XP_CFG_EN = true ∧ s.chip.on (Reg.BPM_XP_STATUS pool) Fd.BPM_XP_STATUS_READY = false ∧ ((poolFill pool 8 (2 ^ 64 - 1) ((List.range (s.chip.poolLeaves pool)).map (s.chip.leafAddr pool)) s.store s.chip).2.2 && (poolFill pool 2 0 ((List.range (64 * s.chip.poolLeaves pool)).map (s.chip.auditAddr pool)) (poolFill pool 8 (2 ^ 64 - 1) ((List.range (s.chip.poolLeaves pool)).map (s.chip.leafAddr pool)) s.store s.chip).1 (poolFill pool 8 (2 ^ 64 - 1) ((List.range (s.chip.poolLeaves pool)).map (s.chip.leafAddr pool)) s.store s.chip).2.1).2.2) = false :=
  ⟨st (f (on [103] up) [(Reg.BPM_XP_CFG 0, Fd.BPM_XP_CFG_EN, 1), (Reg.BPM_XP_LEAVES 0, Fd.BPM_XP_LEAVES_LEAVES, 1)]), 0, by decide +kernel⟩

theorem wit_BufferActs_12 : ∃ (s : State) (rq : Req) (tag : BitVec 16) (m : Fin 2) (w v j : Nat) (c1 : Chip), s.chip.mbxStarts rq (.bpm m) 1 = true ∧ (s.chip.mbxArgs (.bpm m)).getD 0 0 < 16 ∧ (s.chip.pendingIn (.bpm m)).poolReady ((s.chip.mbxArgs (.bpm m)).getD 0 0) = true ∧ (s.chip.pendingIn (.bpm m)).xmUp ((s.chip.pendingIn (.bpm m)).poolPort ((s.chip.mbxArgs (.bpm m)).getD 0 0)) = true ∧ (s.chip.pendingIn (.bpm m)).freeLeaf ((s.chip.mbxArgs (.bpm m)).getD 0 0) = some w ∧ (s.chip.pendingIn (.bpm m)).poolRead s.store ((s.chip.mbxArgs (.bpm m)).getD 0 0) ((s.chip.pendingIn (.bpm m)).leafAddr ((s.chip.mbxArgs (.bpm m)).getD 0 0) w) 8 = (c1, some v) ∧ (List.range 64).find? (bitOf v) = some j :=
  ⟨{ st (run [0] (fa (f (on [103, 112] up) [(Reg.XM_CTRL 0, Fd.XM_CTRL_EN, 1), (Reg.XM_STATUS 0, Fd.XM_STATUS_LINK_UP, 1), (Reg.XM_STATUS 0, Fd.XM_STATUS_CAP_GIB, 1), (Reg.BPM_XP_CFG 0, Fd.BPM_XP_CFG_EN, 1), (Reg.BPM_XP_LEAVES 0, Fd.BPM_XP_LEAVES_LEAVES, 1), (Reg.BPM_XP_STATUS 0, Fd.BPM_XP_STATUS_READY, 1)]) [(Reg.XM_XLT_CFG 0, Fd.XM_XLT_CFG_V, 1), (Reg.XM_XLT_CFG 0, Fd.XM_XLT_CFG_WE, 1)])) with store.mem := [(xmKey 0 0, 1)] }, .pf, 0, 0, 0, 1, 0, _, ⟨by decide +kernel, by decide +kernel, by decide +kernel, by decide +kernel, (show _ from by decide +kernel), rfl, by decide +kernel⟩⟩

theorem wit_BufferActs_13 : ∃ (s : State) (rq : Req) (tag : BitVec 16) (m : Fin 2) (v rec16 : Nat) (c1 c2 : Chip), s.chip.mbxStarts rq (.bpm m) 2 = true ∧ (s.chip.mbxArgs (.bpm m)).getD 0 0 < 16 ∧ (s.chip.pendingIn (.bpm m)).poolReady ((s.chip.mbxArgs (.bpm m)).getD 0 0) = true ∧ (s.chip.mbxArgs (.bpm m)).getD 1 0 < 64 * (s.chip.pendingIn (.bpm m)).poolLeaves ((s.chip.mbxArgs (.bpm m)).getD 0 0) ∧ (s.chip.pendingIn (.bpm m)).xmUp ((s.chip.pendingIn (.bpm m)).poolPort ((s.chip.mbxArgs (.bpm m)).getD 0 0)) = true ∧ (s.chip.pendingIn (.bpm m)).poolRead s.store ((s.chip.mbxArgs (.bpm m)).getD 0 0) ((s.chip.pendingIn (.bpm m)).leafAddr ((s.chip.mbxArgs (.bpm m)).getD 0 0) ((s.chip.mbxArgs (.bpm m)).getD 1 0 / 64)) 8 = (c1, some v) ∧ bitOf v ((s.chip.mbxArgs (.bpm m)).getD 1 0 % 64) = false ∧ c1.poolRead s.store ((s.chip.mbxArgs (.bpm m)).getD 0 0) ((s.chip.pendingIn (.bpm m)).auditAddr ((s.chip.mbxArgs (.bpm m)).getD 0 0) ((s.chip.mbxArgs (.bpm m)).getD 1 0)) 2 = (c2, some rec16) :=
  ⟨st (run [0] (fa (f (on [103, 112] up) [(Reg.XM_CTRL 0, Fd.XM_CTRL_EN, 1), (Reg.XM_STATUS 0, Fd.XM_STATUS_LINK_UP, 1), (Reg.XM_STATUS 0, Fd.XM_STATUS_CAP_GIB, 1), (Reg.BPM_XP_CFG 0, Fd.BPM_XP_CFG_EN, 1), (Reg.BPM_XP_LEAVES 0, Fd.BPM_XP_LEAVES_LEAVES, 1), (Reg.BPM_XP_STATUS 0, Fd.BPM_XP_STATUS_READY, 1)]) [(Reg.XM_XLT_CFG 0, Fd.XM_XLT_CFG_V, 1), (Reg.XM_XLT_CFG 0, Fd.XM_XLT_CFG_WE, 1)])), .pf, 0, 0, 0, 0, _, _, ⟨by decide +kernel, by decide +kernel, by decide +kernel, by decide +kernel, (show _ from by decide +kernel), rfl, by decide +kernel, rfl⟩⟩

theorem wit_BufferActs_14 : ∃ (s : State) (rq : Req) (tag : BitVec 16) (m : Fin 2), s.chip.mbxStarts rq (.bpm m) 3 = true ∧ (s.chip.mbxArgs (.bpm m)).getD 0 0 < 524288 ∧ ((s.chip.pendingIn (.bpm m)).cell ((s.chip.mbxArgs (.bpm m)).getD 0 0)).kind ≠ 0 :=
  ⟨st { run [0] (on [103] up) with bpm.cells := [(0, ⟨0, false, 1, 0, 0⟩)] }, .pf, 0, 0, by decide +kernel⟩

theorem wit_BufferActs_15 : ∃ (s : State) (rq : Req) (tag : BitVec 16) (m : Fin 2), s.chip.mbxStarts rq (.bpm m) 3 = true ∧ (s.chip.mbxArgs (.bpm m)).getD 0 0 < 524288 ∧ ((s.chip.pendingIn (.bpm m)).cell ((s.chip.mbxArgs (.bpm m)).getD 0 0)).kind = 0 :=
  ⟨st (run [0] (on [103] up)), .pf, 0, 0, by decide +kernel⟩

theorem wit_BufferActs_16 : ∃ (s : State) (rq : Req) (tag : BitVec 16) (m : Fin 2), s.chip.mbxStarts rq (.bpm m) 3 = true ∧ 524288 ≤ (s.chip.mbxArgs (.bpm m)).getD 0 0 :=
  ⟨st (f (run [0] (on [103] up)) [(Mbx.arg (.bpm 0) 0, ⟨0, 32⟩, 524288)]), .pf, 0, 0, by decide +kernel⟩

theorem wit_BufferActs_17 : ∃ (s : State), s.chip.on Reg.BPM_AUDIT_CFG Fd.BPM_AUDIT_CFG_EN = true ∧ s.chip.bpm.auditAt + s.chip.fld Reg.BPM_AUDIT_CFG Fd.BPM_AUDIT_CFG_PERIOD * msPs ≤ s.chip.now :=
  ⟨st (f up [(Reg.BPM_AUDIT_CFG, Fd.BPM_AUDIT_CFG_EN, 1), (Reg.BPM_AUDIT_CFG, Fd.BPM_AUDIT_CFG_PERIOD, 0)]), by decide +kernel⟩

theorem wit_UpdateDescriptorsAct_1 : ∃ (s : State) (parcel : Fin 64) (ring : Fin 4) (d : Desc), s.chip.descAccepts parcel ring d = true ∧ (¬ ((s.chip.descCompl parcel ring d).parcel ≠ 0 ∧ (s.chip.descChip parcel ring d).act (Reg.PAR_QUOTA (s.chip.descCompl parcel ring d).parcel) Fd.PAR_QUOTA_SLOTS ≤ (s.chip.descChip parcel ring d).slotsUsed (s.chip.descCompl parcel ring d).parcel)) :=
  ⟨st ((f (run [0] (on [89, 90, 91, 92, 93, 114] up)) ([(Reg.RING_CFG 0 0, Fd.RING_CFG_EN, 1), (Reg.RING_HOST 0 0, ⟨0, 32⟩, 1), (Reg.UPD_CTRL, Fd.UPD_CTRL_EN, 1)]))), 0, 0, { (default : Desc) with seq := 1 }, by decide +kernel⟩

theorem wit_UpdateDescriptorsAct_2 : ∃ (s : State) (parcel : Fin 64) (ring : Fin 4) (d : Desc), s.chip.descAccepts parcel ring d = true ∧ ((s.chip.descCompl parcel ring d).parcel ≠ 0 ∧ (s.chip.descChip parcel ring d).act (Reg.PAR_QUOTA (s.chip.descCompl parcel ring d).parcel) Fd.PAR_QUOTA_SLOTS ≤ (s.chip.descChip parcel ring d).slotsUsed (s.chip.descCompl parcel ring d).parcel) :=
  ⟨st (f (run [0] (on [114] up)) [(Reg.RING_CFG 1 0, Fd.RING_CFG_EN, 1), (Reg.RING_HOST 1 0, ⟨0, 32⟩, 1), (Reg.UPD_CTRL, Fd.UPD_CTRL_EN, 1), (Reg.PAR_STATUS 1, Fd.PAR_STATUS_STATE, 1)]), 1, 0, { (default : Desc) with seq := 1 }, ⟨by decide +kernel, by decide +kernel, Nat.zero_le _⟩⟩

theorem wit_UpdateDescriptorsAct_3 : ∃ (s : State) (parcel : Fin 64) (ring : Fin 4) (d : Desc) (row : List Byte) (t : Target), s.chip.descAccepts parcel ring d = true ∧ targetOf d row false = some t ∧ (s.chip.descChip parcel ring d).slotCode d.slot parcel = cOk ∧ ((s.chip.descChip parcel ring d).change d.slot parcel d.table.val false t).2 = cOk :=
  ⟨st ((f (run [0] (on [89, 90, 91, 92, 93, 114] up)) ([(Reg.RING_CFG 0 0, Fd.RING_CFG_EN, 1), (Reg.RING_HOST 0 0, ⟨0, 32⟩, 1), (Reg.UPD_CTRL, Fd.UPD_CTRL_EN, 1), (Reg.UPD_SLOT 0, Fd.UPD_SLOT_STATE, 1)]))), 0, 0, { (default : Desc) with seq := 1, table := 8, index := 1 }, [], (targetOf ({ (default : Desc) with seq := 1, table := 8, index := 1 }) [] false).get (by decide +kernel), by decide +kernel⟩

theorem wit_UpdateDescriptorsAct_4 : ∃ (s : State) (parcel : Fin 64) (ring : Fin 4) (d : Desc) (row : List Byte) (t : Target), s.chip.descAccepts parcel ring d = true ∧ targetOf d row false = some t ∧ (s.chip.descChip parcel ring d).slotCode d.slot parcel = cOk ∧ ((s.chip.descChip parcel ring d).change d.slot parcel d.table.val false t).2 ≠ cOk :=
  ⟨st ((f (run [0] (on [89, 90, 91, 92, 93, 114] up)) ([(Reg.RING_CFG 0 0, Fd.RING_CFG_EN, 1), (Reg.RING_HOST 0 0, ⟨0, 32⟩, 1), (Reg.UPD_CTRL, Fd.UPD_CTRL_EN, 1), (Reg.UPD_SLOT 0, Fd.UPD_SLOT_STATE, 1)]))), 0, 0, { (default : Desc) with seq := 1, table := 8, index := 0xFFFFFFFF }, [], (targetOf ({ (default : Desc) with seq := 1, table := 8, index := 0xFFFFFFFF }) [] false).get (by decide +kernel), by decide +kernel⟩

theorem wit_UpdateDescriptorsAct_5 : ∃ (s : State) (parcel : Fin 64) (ring : Fin 4) (d : Desc) (row : List Byte) (t : Target), s.chip.descAccepts parcel ring d = true ∧ targetOf d row false = some t ∧ (s.chip.descChip parcel ring d).slotCode d.slot parcel ≠ cOk :=
  ⟨st ((f (run [0] (on [89, 90, 91, 92, 93, 114] up)) ([(Reg.RING_CFG 0 0, Fd.RING_CFG_EN, 1), (Reg.RING_HOST 0 0, ⟨0, 32⟩, 1), (Reg.UPD_CTRL, Fd.UPD_CTRL_EN, 1)]))), 0, 0, { (default : Desc) with seq := 1, table := 8, index := 1 }, [], (targetOf ({ (default : Desc) with seq := 1, table := 8, index := 1 }) [] false).get (by decide +kernel), by decide +kernel⟩

theorem wit_UpdateDescriptorsAct_6 : ∃ (s : State) (parcel : Fin 64) (ring : Fin 4) (d : Desc) (row : List Byte), s.chip.descAccepts parcel ring d = true ∧ targetOf d row false = none :=
  ⟨st ((f (run [0] (on [89, 90, 91, 92, 93, 114] up)) ([(Reg.RING_CFG 0 0, Fd.RING_CFG_EN, 1), (Reg.RING_HOST 0 0, ⟨0, 32⟩, 1), (Reg.UPD_CTRL, Fd.UPD_CTRL_EN, 1)]))), 0, 0, { (default : Desc) with seq := 1, table := 6 }, [], by decide +kernel⟩

theorem wit_UpdateDescriptorsAct_7 : ∃ (s : State) (parcel : Fin 64) (ring : Fin 4) (d : Desc) (t : Target), s.chip.descAccepts parcel ring d = true ∧ targetOf d [] true = some t ∧ (s.chip.descChip parcel ring d).slotCode d.slot parcel = cOk ∧ ((s.chip.descChip parcel ring d).change d.slot parcel d.table.val true t).2 = cOk :=
  ⟨st ((f (run [0] (on [89, 90, 91, 92, 93, 114] up)) ([(Reg.RING_CFG 0 0, Fd.RING_CFG_EN, 1), (Reg.RING_HOST 0 0, ⟨0, 32⟩, 1), (Reg.UPD_CTRL, Fd.UPD_CTRL_EN, 1), (Reg.UPD_SLOT 0, Fd.UPD_SLOT_STATE, 1)])).ixPut (ixKey 0 1) (some 0)), 0, 0, { (default : Desc) with seq := 1, table := 8, index := 1 }, (targetOf ({ (default : Desc) with seq := 1, table := 8, index := 1 }) [] true).get (by decide +kernel), by decide +kernel⟩

theorem wit_UpdateDescriptorsAct_8 : ∃ (s : State) (parcel : Fin 64) (ring : Fin 4) (d : Desc) (t : Target), s.chip.descAccepts parcel ring d = true ∧ targetOf d [] true = some t ∧ (s.chip.descChip parcel ring d).slotCode d.slot parcel = cOk ∧ ((s.chip.descChip parcel ring d).change d.slot parcel d.table.val true t).2 ≠ cOk :=
  ⟨st ((f (run [0] (on [89, 90, 91, 92, 93, 114] up)) ([(Reg.RING_CFG 0 0, Fd.RING_CFG_EN, 1), (Reg.RING_HOST 0 0, ⟨0, 32⟩, 1), (Reg.UPD_CTRL, Fd.UPD_CTRL_EN, 1), (Reg.UPD_SLOT 0, Fd.UPD_SLOT_STATE, 1)]))), 0, 0, { (default : Desc) with seq := 1, table := 8, index := 0xFFFFFFFF }, (targetOf ({ (default : Desc) with seq := 1, table := 8, index := 0xFFFFFFFF }) [] true).get (by decide +kernel), by decide +kernel⟩

theorem wit_UpdateDescriptorsAct_9 : ∃ (s : State) (parcel : Fin 64) (ring : Fin 4) (d : Desc) (t : Target), s.chip.descAccepts parcel ring d = true ∧ targetOf d [] true = some t ∧ (s.chip.descChip parcel ring d).slotCode d.slot parcel ≠ cOk :=
  ⟨st ((f (run [0] (on [89, 90, 91, 92, 93, 114] up)) ([(Reg.RING_CFG 0 0, Fd.RING_CFG_EN, 1), (Reg.RING_HOST 0 0, ⟨0, 32⟩, 1), (Reg.UPD_CTRL, Fd.UPD_CTRL_EN, 1)]))), 0, 0, { (default : Desc) with seq := 1, table := 8, index := 1 }, (targetOf ({ (default : Desc) with seq := 1, table := 8, index := 1 }) [] true).get (by decide +kernel), by decide +kernel⟩

theorem wit_UpdateDescriptorsAct_10 : ∃ (s : State) (parcel : Fin 64) (ring : Fin 4) (d : Desc), s.chip.descAccepts parcel ring d = true ∧ targetOf d [] true = none :=
  ⟨st ((f (run [0] (on [89, 90, 91, 92, 93, 114] up)) ([(Reg.RING_CFG 0 0, Fd.RING_CFG_EN, 1), (Reg.RING_HOST 0 0, ⟨0, 32⟩, 1), (Reg.UPD_CTRL, Fd.UPD_CTRL_EN, 1)]))), 0, 0, { (default : Desc) with seq := 1, table := 6 }, by decide +kernel⟩

theorem wit_UpdateDescriptorsAct_11 : ∃ (s : State) (parcel : Fin 64) (ring : Fin 4) (d : Desc), s.chip.descAccepts parcel ring d = true ∧ (s.chip.descChip parcel ring d).slotCode d.slot parcel = cOk :=
  ⟨st ((f (run [0] (on [89, 90, 91, 92, 93, 114] up)) ([(Reg.RING_CFG 0 0, Fd.RING_CFG_EN, 1), (Reg.RING_HOST 0 0, ⟨0, 32⟩, 1), (Reg.UPD_CTRL, Fd.UPD_CTRL_EN, 1), (Reg.UPD_SLOT 0, Fd.UPD_SLOT_STATE, 1)]))), 0, 0, { (default : Desc) with seq := 1 }, by decide +kernel⟩

theorem wit_UpdateDescriptorsAct_12 : ∃ (s : State) (parcel : Fin 64) (ring : Fin 4) (d : Desc), s.chip.descAccepts parcel ring d = true ∧ (s.chip.descChip parcel ring d).slotCode d.slot parcel ≠ cOk :=
  ⟨st ((f (run [0] (on [89, 90, 91, 92, 93, 114] up)) ([(Reg.RING_CFG 0 0, Fd.RING_CFG_EN, 1), (Reg.RING_HOST 0 0, ⟨0, 32⟩, 1), (Reg.UPD_CTRL, Fd.UPD_CTRL_EN, 1)]))), 0, 0, { (default : Desc) with seq := 1 }, by decide +kernel⟩

theorem wit_UpdateDescriptorsAct_13 : ∃ (s : State) (parcel : Fin 64) (ring : Fin 4) (d : Desc), s.chip.descAccepts parcel ring d = true ∧ (s.chip.descChip parcel ring d).slotOf d.slot parcel = true ∧ ((s.chip.descChip parcel ring d).slotState d.slot = sOpen ∨ (s.chip.descChip parcel ring d).slotState d.slot = sClosed ∨ (s.chip.descChip parcel ring d).slotState d.slot = sFailed) :=
  ⟨st ((f (run [0] (on [89, 90, 91, 92, 93, 114] up)) ([(Reg.RING_CFG 0 0, Fd.RING_CFG_EN, 1), (Reg.RING_HOST 0 0, ⟨0, 32⟩, 1), (Reg.UPD_CTRL, Fd.UPD_CTRL_EN, 1), (Reg.UPD_SLOT 0, Fd.UPD_SLOT_STATE, 1)]))), 0, 0, { (default : Desc) with seq := 1 }, by decide +kernel⟩

theorem wit_UpdateDescriptorsAct_14 : ∃ (s : State) (parcel : Fin 64) (ring : Fin 4) (d : Desc), s.chip.descAccepts parcel ring d = true ∧ (s.chip.descChip parcel ring d).slotOf d.slot parcel = true ∧ ((s.chip.descChip parcel ring d).slotState d.slot = sCommitted ∨ (s.chip.descChip parcel ring d).slotState d.slot = sSweeping) :=
  ⟨st ((f (run [0] (on [89, 90, 91, 92, 93, 114] up)) ([(Reg.RING_CFG 0 0, Fd.RING_CFG_EN, 1), (Reg.RING_HOST 0 0, ⟨0, 32⟩, 1), (Reg.UPD_CTRL, Fd.UPD_CTRL_EN, 1), (Reg.UPD_SLOT 0, Fd.UPD_SLOT_STATE, 3)]))), 0, 0, { (default : Desc) with seq := 1 }, by decide +kernel⟩

theorem wit_UpdateDescriptorsAct_15 : ∃ (s : State) (parcel : Fin 64) (ring : Fin 4) (d : Desc), s.chip.descAccepts parcel ring d = true ∧ (s.chip.descChip parcel ring d).slotOf d.slot parcel = false :=
  ⟨st ((f (run [0] (on [89, 90, 91, 92, 93, 114] up)) ([(Reg.RING_CFG 0 0, Fd.RING_CFG_EN, 1), (Reg.RING_HOST 0 0, ⟨0, 32⟩, 1), (Reg.UPD_CTRL, Fd.UPD_CTRL_EN, 1)]))), 0, 0, { (default : Desc) with seq := 1, slot := 253 }, by decide +kernel⟩

theorem wit_UpdateDescriptorsAct_16 : ∃ (s : State) (parcel : Fin 64) (ring : Fin 4) (d : Desc), s.chip.descAccepts parcel ring d = true :=
  ⟨st ((f (run [0] (on [89, 90, 91, 92, 93, 114] up)) ([(Reg.RING_CFG 0 0, Fd.RING_CFG_EN, 1), (Reg.RING_HOST 0 0, ⟨0, 32⟩, 1), (Reg.UPD_CTRL, Fd.UPD_CTRL_EN, 1)]))), 0, 0, { (default : Desc) with seq := 1 }, by decide +kernel⟩

theorem wit_UpdateDescriptorsAct_17 : ∃ (s : State) (parcel : Fin 64) (ring : Fin 4) (d : Desc), s.chip.descAccepts parcel ring d = true :=
  ⟨st ((f (run [0] (on [89, 90, 91, 92, 93, 114] up)) ([(Reg.RING_CFG 0 0, Fd.RING_CFG_EN, 1), (Reg.RING_HOST 0 0, ⟨0, 32⟩, 1), (Reg.UPD_CTRL, Fd.UPD_CTRL_EN, 1)]))), 0, 0, { (default : Desc) with seq := 1 }, by decide +kernel⟩

theorem wit_UpdateDescriptorsAct_18 : ∃ (s : State) (parcel : Fin 64) (ring : Fin 4) (d : Desc) (image : List Byte), s.chip.descAccepts parcel ring d = true ∧ parcel = 0 ∧ (imgLen (fun o n => slice image o n) ≤ d.len.toNat) :=
  ⟨st ((f (run [0] (on [89, 90, 91, 92, 93, 114] up)) ([(Reg.RING_CFG 0 0, Fd.RING_CFG_EN, 1), (Reg.RING_HOST 0 0, ⟨0, 32⟩, 1), (Reg.UPD_CTRL, Fd.UPD_CTRL_EN, 1)]))), 0, 0, { (default : Desc) with seq := 1 }, [], by decide +kernel⟩

theorem wit_UpdateDescriptorsAct_19 : ∃ (s : State) (parcel : Fin 64) (ring : Fin 4) (d : Desc) (image : List Byte), s.chip.descAccepts parcel ring d = true ∧ parcel = 0 ∧ (d.len.toNat < imgLen (fun o n => slice image o n)) :=
  ⟨st ((f (run [0] (on [89, 90, 91, 92, 93, 114] up)) ([(Reg.RING_CFG 0 0, Fd.RING_CFG_EN, 1), (Reg.RING_HOST 0 0, ⟨0, 32⟩, 1), (Reg.UPD_CTRL, Fd.UPD_CTRL_EN, 1)]))), 0, 0, { (default : Desc) with seq := 1 }, List.replicate 64 1, by decide +kernel⟩

theorem wit_UpdateDescriptorsAct_20 : ∃ (s : State) (parcel : Fin 64) (ring : Fin 4) (d : Desc) (image : List Byte), s.chip.descAccepts parcel ring d = true ∧ parcel ≠ 0 :=
  ⟨st (f (run [0] (on [114] up)) [(Reg.RING_CFG 1 0, Fd.RING_CFG_EN, 1), (Reg.RING_HOST 1 0, ⟨0, 32⟩, 1), (Reg.UPD_CTRL, Fd.UPD_CTRL_EN, 1), (Reg.PAR_STATUS 1, Fd.PAR_STATUS_STATE, 1)]), 1, 0, { (default : Desc) with seq := 1 }, [], by decide +kernel⟩

theorem wit_UpdateDescriptorsAct_21 : ∃ (s : State) (parcel : Fin 64) (ring : Fin 4) (d : Desc), s.chip.ringReady parcel ring = true ∧ (s.chip.ringAdvance parcel ring).standby = true :=
  ⟨st { (f (run [0] (on [89, 90, 91, 92, 93, 114] up)) ([(Reg.RING_CFG 0 0, Fd.RING_CFG_EN, 1), (Reg.RING_HOST 0 0, ⟨0, 32⟩, 1), (Reg.UPD_CTRL, Fd.UPD_CTRL_EN, 1)])) with tet.dead := true }, 0, 0, { (default : Desc) with seq := 1 }, by decide +kernel⟩

theorem wit_EngineActs_1 : ∃ (s : State) (slot : Fin 256) (w : SlotWait), (s.chip.upd.closing.find? (fun w => w.slot == slot.val) = some w) ∧ s.chip.backFull = false :=
  ⟨st { up with upd.closing := [default] }, 0, default, by decide +kernel⟩

theorem wit_EngineActs_2 : ∃ (s : State) (slot : Fin 256), s.chip.backFull = true :=
  ⟨st { up with hbm.backQ := [(0, List.replicate 65537 default)] }, 0, by decide +kernel⟩

theorem wit_EngineActs_3 : ∃ (s : State) (slot : Fin 256), s.chip.slotState slot = sAborting :=
  ⟨st (f up [(Reg.UPD_SLOT 0, Fd.UPD_SLOT_STATE, sAborting)]), 0, by decide +kernel⟩

theorem wit_EngineActs_4 : ∃ (s : State) (l : Load) (rest : List Load), s.chip.upd.loads = l :: rest :=
  ⟨st { up with upd.loads := [default] }, default, [], by decide +kernel⟩

theorem wit_EngineActs_6 : ∃ (s : State) (slot : Fin 256), s.chip.slotState slot = sCommitted ∧ (mget (fun _ => 0) s.chip.upd.slotAt slot + 8 * usPs ≤ s.chip.now) :=
  ⟨st { f up [(Reg.UPD_SLOT 0, Fd.UPD_SLOT_STATE, sCommitted)] with now := 8 * usPs }, 0, by decide +kernel⟩

theorem wit_EngineActs_7 : ∃ (s : State) (slot : Fin 256), s.chip.slotState slot = sSweeping :=
  ⟨st (f up [(Reg.UPD_SLOT 0, Fd.UPD_SLOT_STATE, sSweeping)]), 0, by decide +kernel⟩

theorem wit_EngineActs_8 : ∃ (s : State) (x : LearnReq) (rest : List LearnReq), s.chip.pipe.learnQ = x :: rest ∧ s.chip.on Reg.LRN_CTRL Fd.LRN_CTRL_EN = false :=
  ⟨st { f up [(Reg.LRN_CTRL, Fd.LRN_CTRL_EN, 0)] with pipe.learnQ := [default] }, default, [], by decide +kernel⟩

theorem wit_EngineActs_9 : ∃ (s : State) (x : LearnReq) (rest : List LearnReq), s.chip.pipe.learnQ = x :: rest ∧ s.chip.on Reg.LRN_CTRL Fd.LRN_CTRL_EN = true ∧ (({ s.chip.pmcEvent 0x3D 1 1 with pipe.learnQ := rest }).gen x.slice ≠ x.gen) :=
  ⟨st { f up [(Reg.LRN_CTRL, Fd.LRN_CTRL_EN, 1)] with pipe.learnQ := [{ (default : LearnReq) with gen := 1 }] }, { (default : LearnReq) with gen := 1 }, [], by decide +kernel⟩

theorem wit_EngineActs_10 : ∃ (s : State) (x : LearnReq) (rest : List LearnReq), s.chip.pipe.learnQ = x :: rest ∧ s.chip.on Reg.LRN_CTRL Fd.LRN_CTRL_EN = true ∧ (({ s.chip.pmcEvent 0x3D 1 1 with pipe.learnQ := rest }).gen x.slice = x.gen) ∧ (({ s.chip.pmcEvent 0x3D 1 1 with pipe.learnQ := rest }).upd.lrnFilter.contains (x.mac, x.vlan, x.port) = true) :=
  ⟨st { f up [(Reg.LRN_CTRL, Fd.LRN_CTRL_EN, 1)] with pipe.learnQ := [default], upd.lrnFilter := [(0, 0, 0)] }, default, [], by decide +kernel⟩

theorem wit_EngineActs_11 : ∃ (s : State) (x : LearnReq) (rest : List LearnReq), s.chip.pipe.learnQ = x :: rest ∧ s.chip.on Reg.LRN_CTRL Fd.LRN_CTRL_EN = true ∧ (({ s.chip.pmcEvent 0x3D 1 1 with pipe.learnQ := rest }).gen x.slice = x.gen) ∧ (({ s.chip.pmcEvent 0x3D 1 1 with pipe.learnQ := rest }).upd.lrnFilter.contains (x.mac, x.vlan, x.port) = false) ∧ (({ s.chip.pmcEvent 0x3D 1 1 with pipe.learnQ := rest }).standby = true) :=
  ⟨st { f up [(Reg.LRN_CTRL, Fd.LRN_CTRL_EN, 1)] with pipe.learnQ := [default], tet.dead := true }, default, [], by decide +kernel⟩

theorem wit_EngineActs_12 : ∃ (s : State) (x : LearnReq) (rest : List LearnReq), s.chip.pipe.learnQ = x :: rest ∧ s.chip.on Reg.LRN_CTRL Fd.LRN_CTRL_EN = true ∧ (({ s.chip.pmcEvent 0x3D 1 1 with pipe.learnQ := rest }).gen x.slice = x.gen) ∧ (({ s.chip.pmcEvent 0x3D 1 1 with pipe.learnQ := rest }).upd.lrnFilter.contains (x.mac, x.vlan, x.port) = false) ∧ (({ s.chip.pmcEvent 0x3D 1 1 with pipe.learnQ := rest }).standby = false) :=
  ⟨st { f up [(Reg.LRN_CTRL, Fd.LRN_CTRL_EN, 1)] with pipe.learnQ := [default] }, default, [], by decide +kernel⟩

theorem wit_EngineActs_13 : ∃ (s : State), s.chip.upd.lrnTickAt + s.chip.upd.lrnPeriod * usPs ≤ s.chip.now ∧ (s.chip.upd.lrnChanges = 0 ∨ (List.range 4).any (fun i => s.chip.slotState (252 + i) == sClosed) = true) :=
  ⟨st { up with now := 10 ^ 15 }, by decide +kernel⟩

theorem wit_EngineActs_14 : ∃ (s : State) (t : Nat), s.chip.upd.lrnTickAt + s.chip.upd.lrnPeriod * usPs ≤ s.chip.now ∧ s.chip.upd.lrnChanges ≠ 0 ∧ ((List.range 4).any (fun i => s.chip.slotState (252 + i) == sClosed) = false) ∧ (({ s.chip with upd.lrnTickAt := s.chip.now, upd.lrnPeriod := s.chip.fld Reg.LRN_CFG Fd.LRN_CFG_TICK, upd.lrnFilter := [] }).lrnNext ({ s.chip with upd.lrnTickAt := s.chip.now, upd.lrnPeriod := s.chip.fld Reg.LRN_CFG Fd.LRN_CFG_TICK, upd.lrnFilter := [] }).lrnSlot = some t) :=
  ⟨st { f up [(Reg.LRN_STATUS, Fd.LRN_STATUS_SLOT, 252)] with now := 10 ^ 15, upd.lrnChanges := 1 }, 253, by decide +kernel⟩

theorem wit_EngineActs_15 : ∃ (s : State), s.chip.fld Reg.LRN_CFG Fd.LRN_CFG_AGE ≠ 0 ∧ s.chip.upd.lrnAgeAt + s.chip.fld Reg.LRN_CFG Fd.LRN_CFG_AGE * sPs ≤ s.chip.now ∧ s.chip.standby = false :=
  ⟨st { up with now := 10 ^ 18 }, ⟨by decide +kernel, by decide +kernel, by decide +kernel⟩⟩

theorem wit_EngineActs_16 : ∃ (s : State) (r : Rehash), s.chip.upd.rehash = some r ∧ r.done = false :=
  ⟨st { up with upd.rehash := some default }, default, by decide +kernel⟩

theorem wit_EngineActs_17 : ∃ (s : State) (old t : Nat), s.chip.upd.cleanup = some (old, t) ∧ t + 8 * usPs ≤ s.chip.now :=
  ⟨st { up with upd.cleanup := some (0, 0), now := 8 * usPs }, 0, 0, by decide +kernel⟩

theorem wit_TableMailboxActs_1 : ∃ (s : State) (rq : Req) (tag : BitVec 16) (hits : List Hit), s.chip.mbxStarts rq .upd 1 = true ∧ (s.chip.pendingIn .upd).probeCode (s.chip.mbxArgs .upd) = 0 :=
  ⟨st (f (on [89, 90, 91, 92, 93, 103] up) [(Mbx.arg .upd 1, ⟨0, 32⟩, 0x80)]), .pf, 0, [], by decide +kernel⟩

theorem wit_TableMailboxActs_2 : ∃ (s : State) (rq : Req) (tag : BitVec 16) (hits : List Hit), s.chip.mbxStarts rq .upd 1 = true ∧ (s.chip.pendingIn .upd).probeCode (s.chip.mbxArgs .upd) ≠ 0 :=
  ⟨st (f (on [89, 90, 91, 92, 93, 103] up) [(Mbx.arg .upd 1, ⟨0, 32⟩, 0x60)]), .pf, 0, [], by decide +kernel⟩

theorem wit_TableMailboxActs_3 : ∃ (s : State) (rq : Req) (tag : BitVec 16) (hits : List Hit) (loc : Loc) (e : Nat) (hit : Bool), s.chip.mbxStarts rq .upd 2 = true ∧ (¬ (bitsOf ((s.chip.mbxArgs .upd).getD 1 0) 7 4 = 6 ∨ bitsOf ((s.chip.mbxArgs .upd).getD 1 0) 7 4 = 7 ∨ 12 ≤ bitsOf ((s.chip.mbxArgs .upd).getD 1 0) 7 4 ∨ 5 ≤ ((s.chip.mbxArgs .upd).getD 1 0) % 8)) ∧ (s.chip.pendingIn .upd).domOn (89 + ((s.chip.mbxArgs .upd).getD 1 0) % 8) = true ∧ ((s.chip.pendingIn .upd).asStore (((s.chip.mbxArgs .upd).getD 1 0) % 8)).rawAt (bitsOf ((s.chip.mbxArgs .upd).getD 1 0) 7 4) (((s.chip.mbxArgs .upd).getD 1 0) % 8) ((s.chip.mbxArgs .upd).getD 2 0) = some (loc, e, hit) ∧ (((s.chip.pendingIn .upd).strike hits).readLoc loc).2 = 0 :=
  ⟨st (f (on [89, 90, 91, 92, 93, 103] up) [(Mbx.arg .upd 1, ⟨0, 32⟩, 0x80)]), .pf, 0, [], ⟨6, 64, 0⟩, 0, false, by decide +kernel⟩

theorem wit_TableMailboxActs_4 : ∃ (s : State) (rq : Req) (tag : BitVec 16) (hits : List Hit) (loc : Loc) (e : Nat) (hit : Bool), s.chip.mbxStarts rq .upd 2 = true ∧ (¬ (bitsOf ((s.chip.mbxArgs .upd).getD 1 0) 7 4 = 6 ∨ bitsOf ((s.chip.mbxArgs .upd).getD 1 0) 7 4 = 7 ∨ 12 ≤ bitsOf ((s.chip.mbxArgs .upd).getD 1 0) 7 4 ∨ 5 ≤ ((s.chip.mbxArgs .upd).getD 1 0) % 8)) ∧ (s.chip.pendingIn .upd).domOn (89 + ((s.chip.mbxArgs .upd).getD 1 0) % 8) = true ∧ ((s.chip.pendingIn .upd).asStore (((s.chip.mbxArgs .upd).getD 1 0) % 8)).rawAt (bitsOf ((s.chip.mbxArgs .upd).getD 1 0) 7 4) (((s.chip.mbxArgs .upd).getD 1 0) % 8) ((s.chip.mbxArgs .upd).getD 2 0) = some (loc, e, hit) ∧ (((s.chip.pendingIn .upd).strike hits).readLoc loc).2 ≠ 0 :=
  ⟨st (f (on [89, 90, 91, 92, 93, 103] up) [(Mbx.arg .upd 1, ⟨0, 32⟩, 0x80)]), .pf, 0, [⟨⟨6, 64, 0⟩, 0, [0, 1]⟩], ⟨6, 64, 0⟩, 0, false, by decide +kernel⟩

theorem wit_TableMailboxActs_5 : ∃ (s : State) (rq : Req) (tag : BitVec 16) (c2 : Chip), s.chip.mbxStarts rq .upd 0x10 = true ∧ (s.chip.mbxArgs .upd).getD 2 0 < 64 ∧ (s.chip.pendingIn .upd).upd.rehash.isSome = false ∧ (s.chip.pendingIn .upd).upd.cleanup.isSome = false ∧ ((((s.chip.pendingIn .upd).wrN (Reg.UPD_SEED ((s.chip.pendingIn .upd).fld Reg.UPD_PART_SPARE Fd.UPD_PART_SPARE_PHYS) 0) (if (s.chip.mbxArgs .upd).getD 3 0 = 0 ∧ (s.chip.mbxArgs .upd).getD 4 0 = 0 then ((s.chip.pendingIn .upd).rd (Reg.UPD_SEED ((s.chip.pendingIn .upd).emPhys ((s.chip.mbxArgs .upd).getD 2 0)) 0) + 0x9E3779B9) % 2 ^ 32 else (s.chip.mbxArgs .upd).getD (3 + 0) 0)).wrN (Reg.UPD_SEED ((s.chip.pendingIn .upd).fld Reg.UPD_PART_SPARE Fd.UPD_PART_SPARE_PHYS) 1) (if (s.chip.mbxArgs .upd).getD 3 0 = 0 ∧ (s.chip.mbxArgs .upd).getD 4 0 = 0 then ((s.chip.pendingIn .upd).rd (Reg.UPD_SEED ((s.chip.pendingIn .upd).emPhys ((s.chip.mbxArgs .upd).getD 2 0)) 1) + 0x9E3779B9) % 2 ^ 32 else (s.chip.mbxArgs .upd).getD (3 + 1) 0)).emCopy ((s.chip.pendingIn .upd).emPhys ((s.chip.mbxArgs .upd).getD 2 0)) ((s.chip.pendingIn .upd).fld Reg.UPD_PART_SPARE Fd.UPD_PART_SPARE_PHYS) = some c2) :=
  ⟨st (run [1] (on [103] up)), .pf, 0, _, ⟨by decide +kernel, by decide +kernel, by decide +kernel, by decide +kernel, rfl⟩⟩

theorem wit_TableMailboxActs_6 : ∃ (s : State) (rq : Req) (tag : BitVec 16), s.chip.mbxStarts rq .upd 0x10 = true ∧ 64 ≤ (s.chip.mbxArgs .upd).getD 2 0 :=
  ⟨st (f (run [1] (on [103] up)) [(Mbx.arg .upd 2, ⟨0, 32⟩, 64)]), .pf, 0, by decide +kernel⟩

theorem wit_TableMailboxActs_7 : ∃ (s : State) (rq : Req) (tag : BitVec 16) (engine : Fin 4) (hits : List Hit), s.chip.mbxStarts rq (.pat engine) 1 = true ∧ (¬ ((s.chip.mbxArgs (.pat engine)).getD 1 0 = 0 ∨ 256 < (s.chip.mbxArgs (.pat engine)).getD 1 0)) ∧ (s.chip.pendingIn (.pat engine)).domOn (108 + engine) = true ∧ bitOf ((s.chip.pendingIn (.pat engine)).fld (Reg.PAT_STATUS engine) Fd.PAT_STATUS_VALID) ((s.chip.pendingIn (.pat engine)).patArgRegion engine ((s.chip.mbxArgs (.pat engine)).getD 0 0)) = true :=
  ⟨st (f (on [108] up) [(Reg.PAT_STATUS 0, Fd.PAT_STATUS_VALID, 3), (Mbx.arg (.pat 0) 1, ⟨0, 32⟩, 1)]), .pf, 0, 0, [], by decide +kernel⟩

theorem wit_TableMailboxActs_8 : ∃ (s : State) (rq : Req) (tag : BitVec 16) (engine : Fin 4) (hits : List Hit), s.chip.mbxStarts rq (.pat engine) 2 = true ∧ (s.chip.mbxArgs (.pat engine)).getD 1 0 < 16384 ∧ (s.chip.pendingIn (.pat engine)).domOn (108 + engine) = true ∧ bitOf ((s.chip.pendingIn (.pat engine)).fld (Reg.PAT_STATUS engine) Fd.PAT_STATUS_VALID) (bitsOf ((s.chip.mbxArgs (.pat engine)).getD 0 0) 17 17) = true :=
  ⟨st (f (on [108] up) [(Reg.PAT_STATUS 0, Fd.PAT_STATUS_VALID, 3)]), .pf, 0, 0, [], by decide +kernel⟩

theorem wit_ProtectionActs_1 : ∃ (s : State) (slice : Fin 9) (hits : List Hit), s.chip.domOn (80 + slice) = true :=
  ⟨st (on [80] up), 0, [], by decide +kernel⟩

theorem wit_ProtectionActs_2 : ∃ (s : State) (slice : Fin 9) (hits : List Hit), s.chip.domOn (80 + slice) = true :=
  ⟨st (on [80] up), 0, [], by decide +kernel⟩

theorem wit_ProtectionActs_3 : ∃ (s : State) (engine : Fin 4) (hits : List Hit), s.chip.domOn (108 + engine) = true :=
  ⟨st (on [108] up), 0, [], by decide +kernel⟩

theorem wit_ProtectionActs_4 : ∃ (s : State) (engine : Fin 4) (hits : List Hit), s.chip.domOn (108 + engine) = true :=
  ⟨st (on [108] up), 0, [], by decide +kernel⟩

theorem wit_ProtectionActs_5 : ∃ (s : State) (loc : Loc) (copyA copyB sibling : Bool), s.chip.tbl.repairs.contains loc = true ∧ s.chip.backWaits (objLoc loc) = false ∧ (copyA && !(((backStacks loc).take 1).filter (s.chip.copyUp loc)).isEmpty) = true :=
  ⟨st repUp, ⟨4, 0, 0⟩, true, false, false, ⟨by decide +kernel, by decide +kernel, by show (_ && !(List.filter (repUp.copyUp ⟨4, 0, 0⟩) [0]).isEmpty) = _; rw [List.filter_cons_of_pos (repUp_copyUp _ _ (by decide +kernel))]; rfl⟩⟩

theorem wit_ProtectionActs_6 : ∃ (s : State) (loc : Loc) (copyA copyB sibling : Bool), s.chip.tbl.repairs.contains loc = true ∧ s.chip.backWaits (objLoc loc) = false ∧ (copyA && !(((backStacks loc).take 1).filter (s.chip.copyUp loc)).isEmpty) = false ∧ ((copyB && !(((backStacks loc).drop 1).filter (s.chip.copyUp loc)).isEmpty) || (sibling && loc.space != 5)) = true :=
  ⟨st repUp, ⟨4, 0, 0⟩, false, false, true, by decide +kernel⟩

theorem wit_ProtectionActs_7 : ∃ (s : State) (loc : Loc) (copyA copyB sibling : Bool), s.chip.tbl.repairs.contains loc = true ∧ s.chip.backWaits (objLoc loc) = false ∧ (copyA && !(((backStacks loc).take 1).filter (s.chip.copyUp loc)).isEmpty) = false ∧ ((copyB && !(((backStacks loc).drop 1).filter (s.chip.copyUp loc)).isEmpty) || (sibling && loc.space != 5)) = false :=
  ⟨st repUp, ⟨4, 0, 0⟩, false, false, false, by decide +kernel⟩

theorem wit_ProtectionActs_8 : ∃ (s : State) (rq : Req) (slice : Fin 9) (value : BitVec 32) (hits : List Hit), rq.priv = true ∧ (s.chip.strike hits).addrOff (Reg.PRS_RD_ADDR slice) = false ∧ prsRdOk value.toNat = true :=
  ⟨st (on [80] up), .pf, 0, 0, [], by decide +kernel⟩

theorem wit_ProtectionActs_9 : ∃ (s : State) (rq : Req) (slice : Fin 9) (value : BitVec 32) (hits : List Hit), rq.priv = true ∧ (s.chip.strike hits).addrOff (Reg.PRS_RD_ADDR slice) = false ∧ prsRdOk value.toNat = false :=
  ⟨st (on [80] up), .pf, 0, 0x3000, [], by decide +kernel⟩

theorem wit_ProtectionActs_10 : ∃ (s : State) (rq : Req) (slice : Fin 9) (value : BitVec 32) (hits : List Hit), rq.priv = true ∧ (s.chip.strike hits).addrOff (Reg.RWR_RD_ADDR slice) = false :=
  ⟨st (on [80] up), .pf, 0, 0, [], by decide +kernel⟩

theorem wit_ProtectionActs_11 : ∃ (s : State) (rq : Req) (slice : Fin 9) (value : BitVec 32) (hits : List Hit), rq.priv = true ∧ (s.chip.strike hits).addrOff (Reg.CLS_RD_ADDR slice) = false :=
  ⟨st (on [80] up), .pf, 0, 0, [], by decide +kernel⟩

theorem wit_FieldBookActs_1 : ∃ (s : State) (ue : Bool) (accs : List MemAcc) (x : Capture) (l : List Capture), s.chip.fbk.staged = x :: l ∧ (({ s.chip with fbk.staged := l }).fbkRefuses x.ring = true) :=
  ⟨st { up with fbk.staged := [default] }, false, [], default, [], by decide +kernel⟩

theorem wit_FieldBookActs_2 : ∃ (s : State) (accs : List MemAcc) (x : Capture) (l : List Capture) (c : Chip) (ad : Nat), s.chip.fbk.staged = x :: l ∧ (({ s.chip with fbk.staged := l }).fbkRefuses x.ring = false) ∧ ((({ s.chip with fbk.staged := l }).fbkReqs x.ring accs).fbkAccess x.ring (({ s.chip with fbk.staged := l }).rd (Reg.FBK_RING_PROD x.ring)) true = (c, some ad)) :=
  ⟨st { (f (on [104, 105, 106, 107] up) [(Reg.MEM_CTRL 0, Fd.MEM_CTRL_EN, 1), (Reg.MEM_CTRL 1, Fd.MEM_CTRL_EN, 1), (Reg.MEM_CTRL 2, Fd.MEM_CTRL_EN, 1), (Reg.MEM_CTRL 3, Fd.MEM_CTRL_EN, 1), (Reg.FBK_RING_CFG 0, Fd.FBK_RING_CFG_EN, 1)]) with fbk.staged := [default] }, [], default, [], _, _, ⟨by decide +kernel, by decide +kernel, rfl⟩⟩

theorem wit_FieldBookActs_3 : ∃ (s : State) (ue : Bool) (accs : List MemAcc) (x : Capture) (l : List Capture) (c : Chip), s.chip.fbk.staged = x :: l ∧ (({ s.chip with fbk.staged := l }).fbkRefuses x.ring = false) ∧ ((({ s.chip with fbk.staged := l }).fbkReqs x.ring accs).fbkAccess x.ring (({ s.chip with fbk.staged := l }).rd (Reg.FBK_RING_PROD x.ring)) true = (c, none)) :=
  ⟨st { (f up [(Reg.FBK_RING_CFG 0, Fd.FBK_RING_CFG_EN, 1)]) with fbk.staged := [default] }, false, [], default, [], _, ⟨by decide +kernel, by decide +kernel, rfl⟩⟩

theorem wit_FieldBookActs_4 : ∃ (s : State) (rq : Req) (tag : BitVec 16) (c : Chip) (ad : Nat), s.chip.mbxStarts rq .fbk 1 = true ∧ (s.chip.mbxArgs .fbk).getD 0 0 < 64 ∧ (s.chip.pendingIn .fbk).on (Reg.FBK_RING_CFG ((s.chip.mbxArgs .fbk).getD 0 0)) Fd.FBK_RING_CFG_EN = true ∧ (s.chip.pendingIn .fbk).fbkHolds ((s.chip.mbxArgs .fbk).getD 0 0) ((s.chip.mbxArgs .fbk).getD 1 0) = true ∧ (s.chip.pendingIn .fbk).fbkOff ((s.chip.mbxArgs .fbk).getD 0 0) ((s.chip.mbxArgs .fbk).getD 1 0) = false ∧ (s.chip.pendingIn .fbk).fbkAccess ((s.chip.mbxArgs .fbk).getD 0 0) ((s.chip.mbxArgs .fbk).getD 1 0) false = (c, some ad) :=
  ⟨st ((f (on [104, 105, 106, 107] up) [(Reg.MEM_CTRL 0, Fd.MEM_CTRL_EN, 1), (Reg.MEM_CTRL 1, Fd.MEM_CTRL_EN, 1), (Reg.MEM_CTRL 2, Fd.MEM_CTRL_EN, 1), (Reg.MEM_CTRL 3, Fd.MEM_CTRL_EN, 1), (Reg.FBK_RING_CFG 0, Fd.FBK_RING_CFG_EN, 1)]).fbkWritten 0), .pf, 0, _, _, ⟨by decide +kernel, by decide +kernel, by decide +kernel, by decide +kernel, (show _ from by decide +kernel), rfl⟩⟩

theorem wit_MemoryControllerActs_1 : ∃ (s : State) (k : Fin 4) (ch : Fin 32), s.chip.chanUp k ch = true ∧ (mget (fun _ => 0) s.chip.hbm.refAt (32 * k.val + ch.val) + s.chip.refreshPs k ≤ s.chip.now) :=
  ⟨st { f (on [104] up) [(Reg.MEM_CTRL 0, Fd.MEM_CTRL_EN, 1)] with now := 10 ^ 15 }, 0, 0, by decide +kernel⟩

theorem wit_MemoryControllerActs_2 : ∃ (s : State) (k : Fin 4) (ch : Fin 32), s.chip.chanUp k ch = true ∧ (mget (fun _ => 0) s.chip.hbm.stepAt (32 * k.val + ch.val) + 40 * usPs ≤ s.chip.now) :=
  ⟨st { f (on [104] up) [(Reg.MEM_CTRL 0, Fd.MEM_CTRL_EN, 1)] with now := 10 ^ 15 }, 0, 0, by decide +kernel⟩

theorem wit_MemoryControllerActs_3 : ∃ (s : State) (k : Fin 4) (ch : Fin 32), s.chip.chanUp k ch = true ∧ ((mget chanQuiet s.chip.hbm.chans (32 * k.val + ch.val)).retrainAt.any (fun t => decide (s.chip.now < t + msPs)) = true) :=
  ⟨st { f (on [104] up) [(Reg.MEM_CTRL 0, Fd.MEM_CTRL_EN, 1)] with now := 10 ^ 15, hbm.chans := [(0, ⟨none, 0, some (10 ^ 15)⟩)] }, 0, 0, by decide +kernel⟩

theorem wit_MemoryControllerActs_4 : ∃ (s : State) (k : Fin 4) (ch : Fin 32), s.chip.chanUp k ch = true ∧ ((mget chanQuiet s.chip.hbm.chans (32 * k.val + ch.val)).retrainAt.any (fun t => decide (s.chip.now < t + msPs)) = false) ∧ (3 ≤ (if (mget chanQuiet s.chip.hbm.chans (32 * k.val + ch.val)).replayAt.any (fun t => decide (s.chip.now < t + 500 * nsPs)) then (mget chanQuiet s.chip.hbm.chans (32 * k.val + ch.val)).met + 1 else 0)) :=
  ⟨st { f (on [104] up) [(Reg.MEM_CTRL 0, Fd.MEM_CTRL_EN, 1)] with now := 10 ^ 15, hbm.chans := [(0, ⟨some (10 ^ 15), 2, none⟩)] }, 0, 0, by decide +kernel⟩

theorem wit_MemoryControllerActs_5 : ∃ (s : State) (k : Fin 4) (ch : Fin 32), s.chip.chanUp k ch = true ∧ ((mget chanQuiet s.chip.hbm.chans (32 * k.val + ch.val)).retrainAt.any (fun t => decide (s.chip.now < t + msPs)) = false) ∧ ((if (mget chanQuiet s.chip.hbm.chans (32 * k.val + ch.val)).replayAt.any (fun t => decide (s.chip.now < t + 500 * nsPs)) then (mget chanQuiet s.chip.hbm.chans (32 * k.val + ch.val)).met + 1 else 0) < 3) :=
  ⟨st { f (on [104] up) [(Reg.MEM_CTRL 0, Fd.MEM_CTRL_EN, 1)] with now := 10 ^ 15 }, 0, 0, by decide +kernel⟩

theorem wit_MemoryControllerActs_6 : ∃ (s : State) (rq : Req) (k : Fin 4) (r : Fin 128), rq.priv = true ∧ s.chip.addrOff (Reg.MEM_RANK k r) = false ∧ s.chip.retirable k r = true :=
  ⟨st (on [104] up), .pf, 0, 0, by decide +kernel⟩

theorem wit_MemoryControllerActs_7 : ∃ (s : State) (k : Fin 4) (held : Nat) (bad : List (Fin 128)) (accs : List MemAcc), s.chip.memUp k = true ∧ s.chip.on (Reg.MEM_STATUS k) Fd.MEM_STATUS_MIGRATING = true ∧ (mget (fun _ => 0) s.chip.hbm.migAt k + 4 * usPs ≤ s.chip.now) :=
  ⟨st { f (on [104] up) [(Reg.MEM_CTRL 0, Fd.MEM_CTRL_EN, 1), (Reg.MEM_STATUS 0, Fd.MEM_STATUS_MIGRATING, 1)] with now := 10 ^ 15 }, 0, 0, [], [], by decide +kernel⟩

theorem wit_MemoryControllerActs_8 : ∃ (s : State) (oneBad : List (Fin 4 × Loc)) (bothBad : List Loc) (accs : List MemAcc), s.chip.hbm.backAt + 10000 * msPs ≤ s.chip.now :=
  ⟨st { up with now := 10 ^ 15 }, [], [], [], by decide +kernel⟩

theorem wit_MemoryControllerActs_9 : ∃ (s : State) (oneBad : List (Fin 4 × Loc)) (bothBad : List Loc) (accs : List MemAcc), s.chip.now < s.chip.hbm.backAt + 10000 * msPs :=
  ⟨st up, [], [], [], by decide +kernel⟩

theorem wit_MemoryControllerActs_10 : ∃ (s : State) (n : Fin 2), s.chip.xmUp n = true ∧ (mget (fun _ => 0) s.chip.hbm.timeouts n + 1 < 16) :=
  ⟨st (f (on [112] up) [(Reg.XM_CTRL 0, Fd.XM_CTRL_EN, 1), (Reg.XM_STATUS 0, Fd.XM_STATUS_LINK_UP, 1)]), 0, by decide +kernel⟩

theorem wit_MemoryControllerActs_11 : ∃ (s : State) (n : Fin 2), s.chip.xmUp n = true ∧ (16 ≤ mget (fun _ => 0) s.chip.hbm.timeouts n + 1) :=
  ⟨st { f (on [112] up) [(Reg.XM_CTRL 0, Fd.XM_CTRL_EN, 1), (Reg.XM_STATUS 0, Fd.XM_STATUS_LINK_UP, 1)] with hbm.timeouts := [(0, 15)] }, 0, by decide +kernel⟩

theorem wit_MemoryControllerActs_12 : ∃ (s : State) (n : Fin 2), s.chip.on (Reg.XM_STATUS n) Fd.XM_STATUS_LINK_UP = true :=
  ⟨st (f (on [112] up) [(Reg.XM_CTRL 0, Fd.XM_CTRL_EN, 1), (Reg.XM_STATUS 0, Fd.XM_STATUS_LINK_UP, 1)]), 0, by decide +kernel⟩

theorem wit_MemoryControllerActs_13 : ∃ (s : State) (n : Fin 2), s.chip.domOn (112 + n) = true :=
  ⟨st (on [112] up), 0, by decide +kernel⟩

theorem wit_DatumActs_1 : ∃ (s : State) (rq : Req) (x : Fin 2) (value : BitVec 32), rq.priv = true ∧ s.chip.addrOff (Reg.DTM_CLK_INC_LO x) = false :=
  ⟨st (on [116] up), .pf, 0, 0, by decide +kernel⟩

theorem wit_DatumActs_2 : ∃ (s : State) (rq : Req) (x : Fin 2) (value : BitVec 32), rq.priv = true ∧ s.chip.addrOff (Reg.DTM_CLK_ADJ x) = false :=
  ⟨st (on [116] up), .pf, 0, 0, by decide +kernel⟩

theorem wit_DatumActs_3 : ∃ (s : State) (rq : Req) (x : Fin 2) (atPps : Bool), rq.priv = true ∧ s.chip.addrOff (Reg.DTM_CLK_SET_CMD x) = false :=
  ⟨st (on [116] up), .pf, 0, false, by decide +kernel⟩

theorem wit_DatumActs_4 : ∃ (s : State) (rq : Req) (value : BitVec 32), rq.priv = true ∧ s.chip.addrOff (Reg.DTM_SERVE) = false :=
  ⟨st (on [116] up), .pf, 0, by decide +kernel⟩

theorem wit_DatumActs_5 : ∃ (s : State) (rq : Req), rq.priv = true ∧ s.chip.addrOff (Reg.DTM_SERVE) = false :=
  ⟨st (on [116] up), .pf, by decide +kernel⟩

theorem wit_DatumActs_6 : ∃ (s : State), s.chip.datumOn = true :=
  ⟨st (f (on [116] up) [(Reg.DTM_CTRL, ⟨0, 1⟩, 1)]), by decide +kernel⟩

theorem wit_DatumActs_7 : ∃ (s : State), s.chip.datumRun = true :=
  ⟨st (f (on [116] up) [(Reg.DTM_CTRL, ⟨0, 1⟩, 1), (Reg.DTM_STATUS, Fd.DTM_STATUS_LOCK, 1)]), by decide +kernel⟩

theorem wit_DatumActs_8 : ∃ (s : State), s.chip.pins.ppsOut = false ∧ s.chip.dtm.ppsDue = true :=
  ⟨st { up with dtm.ppsDue := true }, by decide +kernel⟩

theorem wit_DatumActs_9 : ∃ (s : State), s.chip.pins.ppsOut = true ∧ s.chip.dtm.ppsEnd ≤ s.chip.now :=
  ⟨st { up with pins.ppsOut := true }, by decide +kernel⟩

theorem wit_DatumActs_10 : ∃ (s : State), s.chip.on Reg.DTM_STATUS Fd.DTM_STATUS_REF_LOST = false ∧ s.chip.domOn 116 = true :=
  ⟨st (f (on [116] up) [(Reg.DTM_STATUS, Fd.DTM_STATUS_REF_LOST, 0)]), by decide +kernel⟩

theorem wit_ServoActs_1 : ∃ (s : State) (rq : Req) (tag : BitVec 16) (m : Fin 2), s.chip.mbxStarts rq (.dtm m) 1 = true ∧ (s.chip.mbxArgs (.dtm m)).getD 0 0 < 2 ∧ (s.chip.mbxArgs (.dtm m)).getD 1 0 < 3 ∧ (s.chip.pendingIn (.dtm m)).datumOn = true :=
  ⟨st (run [2, 3] (f (on [116] up) [(Reg.DTM_CTRL, ⟨0, 1⟩, 1)])), .pf, 0, 0, by decide +kernel⟩

theorem wit_ServoActs_2 : ∃ (s : State) (rq : Req) (tag : BitVec 16) (m : Fin 2), s.chip.mbxStarts rq (.dtm m) 1 = true ∧ (2 ≤ (s.chip.mbxArgs (.dtm m)).getD 0 0 ∨ 3 ≤ (s.chip.mbxArgs (.dtm m)).getD 1 0) :=
  ⟨st (run [2, 3] (f (on [116] up) [(Reg.DTM_CTRL, ⟨0, 1⟩, 1), (Mbx.arg (.dtm 0) 0, ⟨0, 32⟩, 2)])), .pf, 0, 0, by decide +kernel⟩

theorem wit_ServoActs_3 : ∃ (s : State) (rq : Req) (tag : BitVec 16) (m : Fin 2), s.chip.mbxStarts rq (.dtm m) 2 = true ∧ bitsOf ((s.chip.mbxArgs (.dtm m)).getD 0 0) 15 1 = 0 ∧ (s.chip.pendingIn (.dtm m)).datumOn = true ∧ ((s.chip.pendingIn (.dtm m)).servo (((s.chip.mbxArgs (.dtm m)).getD 0 0) % 2)).mode = 1 ∧ 0 ≤ timeDiff (s.chip.pendingIn (.dtm m)).served32 ((s.chip.mbxArgs (.dtm m)).getD 2 0) ∧ timeDiff (s.chip.pendingIn (.dtm m)).served32 ((s.chip.mbxArgs (.dtm m)).getD 2 0) ≤ 4000000000 :=
  ⟨st { run [2, 3] (f (on [116] up) [(Reg.DTM_CTRL, ⟨0, 1⟩, 1)]) with dtm.servos := [(0, { Servo.free with mode := 1 })] }, .pf, 0, 0, by decide +kernel⟩

theorem wit_ServoActs_4 : ∃ (s : State) (rq : Req) (tag : BitVec 16) (m : Fin 2), s.chip.mbxStarts rq (.dtm m) 3 = true ∧ (s.chip.mbxArgs (.dtm m)).getD 0 0 < 2 ∧ (s.chip.pendingIn (.dtm m)).datumOn = true :=
  ⟨st (run [2, 3] (f (on [116] up) [(Reg.DTM_CTRL, ⟨0, 1⟩, 1)])), .pf, 0, 0, by decide +kernel⟩

theorem wit_ServoActs_5 : ∃ (s : State) (x : Fin 2), s.chip.coreServes 3 = true ∧ ((s.chip.servo x).state = 1 ∨ (s.chip.servo x).state = 2) ∧ (s.chip.servo x).lastAt + Config.servoHoldS x * sPs ≤ s.chip.now :=
  ⟨st (cb (Config.servoHoldS (0 : Fin 2) * sPs)), 0, ⟨cb_cs _, Or.inl (congrArg Servo.state (cb_srv _)), le_hold _ _ (congrArg Servo.lastAt (cb_srv _)) (cb_now _)⟩⟩

theorem wit_FaultActs_1 : ∃ (s : State) (evs : List FaultEv), ((evs.foldl arrive s.chip).takeDies.2.any (fun ev => ev.cls == 0x15) = false) :=
  ⟨st up, [], by decide +kernel⟩

theorem wit_FaultActs_2 : ∃ (s : State) (evs : List FaultEv), ((evs.foldl arrive s.chip).takeDies.2.any (fun ev => ev.cls == 0x15) = true) ∧ ((evs.foldl arrive s.chip).takeDies.1.faultEvents (evs.foldl arrive s.chip).takeDies.2).plain = false ∧ ((evs.foldl arrive s.chip).takeDies.1.faultEvents (evs.foldl arrive s.chip).takeDies.2).firstInCycle = true :=
  ⟨st up, [⟨1, 0, 0x15, outCritical, 0, 0, false⟩], by decide +kernel⟩

theorem wit_FaultActs_3 : ∃ (s : State) (evs : List FaultEv), ((evs.foldl arrive s.chip).takeDies.2.any (fun ev => ev.cls == 0x15) = true) ∧ ((evs.foldl arrive s.chip).takeDies.1.faultEvents (evs.foldl arrive s.chip).takeDies.2).plain = true :=
  ⟨st (f up [(Reg.RST_CAUSE, Fd.RST_CAUSE_PROFILE, 1)]), [⟨1, 0, 0x15, outCritical, 0, 0, false⟩], by decide +kernel⟩

theorem wit_FaultActs_4 : ∃ (s : State) (k : Fin 5), ((s.chip.flt.reloads.filter (fun r => r.1 == k.val)).isEmpty = false) :=
  ⟨st { up with flt.reloads := [(0, none)] }, 0, by decide +kernel⟩

theorem wit_FaultActs_5 : ∃ (s : State) (k : Fin 5), ((s.chip.flt.reloads.filter (fun r => r.1 == k.val)).isEmpty = false) :=
  ⟨st { up with flt.reloads := [(0, none)] }, 0, by decide +kernel⟩

theorem wit_FaultActs_6 : ∃ (s : State) (unit : Fin 256) (line : Fin 8) (level : Bool), unitListed unit = true ∧ (s.chip.flt.wires.any (fun w => w.unit == unit.val && w.line == line.val) = false) :=
  ⟨st up, 0x20, 0, true, by decide +kernel⟩

theorem wit_FaultActs_7 : ∃ (s : State) (unit : Fin 256) (line : Fin 8) (level : Bool), unitListed unit = false :=
  ⟨st up, 0x15, 0, true, by decide +kernel⟩

theorem wit_FaultActs_8 : ∃ (s : State) (unit : Fin 256) (line : Fin 8) (level : Bool), (s.chip.flt.wires.any (fun w => w.unit == unit.val && w.line == line.val) = true) :=
  ⟨st { up with flt.wires := [⟨0, 0, 0, true, false⟩] }, 0, 0, true, by decide +kernel⟩

theorem wit_FaultActs_9 : ∃ (s : State) (unit : Fin 256) (line : Fin 8) (w : WireFault), (s.chip.flt.wires.find? (fun w => w.unit == unit.val && w.line == line.val) = some w) ∧ w.acted = false ∧ w.since + msPs ≤ s.chip.now ∧ 0x20 ≤ unit.val ∧ unit.val ≤ 0x28 :=
  ⟨st { up with now := msPs, flt.wires := [⟨32, 0, 0, true, false⟩] }, 32, 0, ⟨32, 0, 0, true, false⟩, by decide +kernel⟩

theorem wit_FaultActs_10 : ∃ (s : State) (unit : Fin 256) (line : Fin 8) (w : WireFault), (s.chip.flt.wires.find? (fun w => w.unit == unit.val && w.line == line.val) = some w) ∧ w.acted = false ∧ w.since + msPs ≤ s.chip.now ∧ 0x30 ≤ unit.val ∧ unit.val ≤ 0x34 :=
  ⟨st { up with now := msPs, flt.wires := [⟨48, 0, 0, true, false⟩] }, 48, 0, ⟨48, 0, 0, true, false⟩, by decide +kernel⟩

theorem wit_FaultActs_11 : ∃ (s : State) (unit : Fin 256) (line : Fin 8) (w : WireFault), (s.chip.flt.wires.find? (fun w => w.unit == unit.val && w.line == line.val) = some w) ∧ w.acted = false ∧ w.since + msPs ≤ s.chip.now ∧ (¬ (0x20 ≤ unit.val ∧ unit.val ≤ 0x28)) ∧ (¬ (0x30 ≤ unit.val ∧ unit.val ≤ 0x34)) :=
  ⟨st { up with now := msPs, flt.wires := [⟨0, 0, 0, true, false⟩] }, 0, 0, ⟨0, 0, 0, true, false⟩, by decide +kernel⟩

theorem wit_FaultActs_12 : ∃ (s : State) (rq : Req), rq.priv = true ∧ s.chip.addrOff Reg.FLT_CTRL = false ∧ s.chip.flt.critical = false ∧ s.chip.boot.plainHold = false ∧ (s.chip.flt.quenchAt == some s.chip.aonCycle) = false :=
  ⟨st up, .pf, by decide +kernel⟩

theorem wit_FaultActs_13 : ∃ (s : State) (rq : Req), rq.priv = true ∧ s.chip.addrOff Reg.FLT_CTRL = false ∧ s.chip.on Reg.FLT_STATUS Fd.FLT_STATUS_FAULTN = true ∧ (s.chip.flt.faultnAt == some s.chip.aonCycle) = false ∧ s.chip.flt.faultnEnd ≤ s.chip.now :=
  ⟨st (f up [(Reg.FLT_STATUS, Fd.FLT_STATUS_FAULTN, 1)]), .pf, by decide +kernel⟩

theorem wit_FaultActs_14 : ∃ (s : State) (rq : Req), rq.priv = true ∧ s.chip.addrOff Reg.FLT_CTRL = false ∧ s.chip.on Reg.FLT_STATUS Fd.FLT_STATUS_FAULTN = true ∧ (s.chip.flt.faultnAt == some s.chip.aonCycle) = false ∧ s.chip.now < s.chip.flt.faultnEnd :=
  ⟨st { f up [(Reg.FLT_STATUS, Fd.FLT_STATUS_FAULTN, 1)] with flt.faultnEnd := 1 }, .pf, by decide +kernel⟩

theorem wit_FaultActs_15 : ∃ (s : State) (rq : Req), rq.priv = true ∧ s.chip.addrOff Reg.FLT_CTRL = false :=
  ⟨st up, .pf, by decide +kernel⟩

theorem wit_FaultActs_16 : ∃ (s : State), s.chip.on Reg.FLT_STATUS Fd.FLT_STATUS_FAULTN = true ∧ s.chip.flt.faultnEnd ≤ s.chip.now ∧ (s.chip.flt.held = false ∨ s.chip.flt.relPending = true) :=
  ⟨st (f up [(Reg.FLT_STATUS, Fd.FLT_STATUS_FAULTN, 1)]), by decide +kernel⟩

theorem wit_FaultActs_17 : ∃ (s : State) (r : JrnRec) (l : List JrnRec), s.chip.flt.jrnQ = r :: l :=
  ⟨st { up with flt.jrnQ := [default] }, default, [], by decide +kernel⟩

theorem wit_FaultMailboxActs_1 : ∃ (s : State) (rq : Req) (tag : BitVec 16), s.chip.mbxStarts rq .flt 1 = true ∧ (s.chip.mbxArgs .flt).getD 0 0 < 4096 ∧ recordValid ((s.chip.pendingIn .flt).jrnSlot ((s.chip.mbxArgs .flt).getD 0 0)) = true :=
  ⟨st { run [2] up with flt.journal := [(0, BitVec.ofNat 256 (leNat [0x31, 0x2a, 0, 0, 0xc0, 0xa3, 0x54, 0x66, 0, 0, 0x80, 0xb2, 0xe6, 0x0e, 0x23, 0x69, 0x6f, 0, 0x2c, 0x1a, 3, 3, 8, 1, 0, 1, 0, 0, 0, 0, 0x89, 0x81]))] }, .pf, 0, by decide +kernel⟩

theorem wit_FaultMailboxActs_2 : ∃ (s : State) (rq : Req) (tag : BitVec 16), s.chip.mbxStarts rq .flt 1 = true ∧ (s.chip.mbxArgs .flt).getD 0 0 < 4096 ∧ recordValid ((s.chip.pendingIn .flt).jrnSlot ((s.chip.mbxArgs .flt).getD 0 0)) = false :=
  ⟨st (f (run [2] up) []), .pf, 0, by decide +kernel⟩

theorem wit_FaultMailboxActs_3 : ∃ (s : State) (rq : Req) (tag : BitVec 16), s.chip.mbxStarts rq .flt 2 = true ∧ (s.chip.mbxArgs .flt).getD 0 0 < 8 ∧ (s.chip.pendingIn .flt).on Reg.FLT_TKO_STATUS Fd.FLT_TKO_STATUS_ACTIVE = false ∧ (s.chip.pendingIn .flt).serving ((s.chip.mbxArgs .flt).getD 0 0) = some 8 ∧ (s.chip.pendingIn .flt).sliceFailed ((s.chip.mbxArgs .flt).getD 0 0) = false ∧ (s.chip.pendingIn .flt).domOn (80 + (s.chip.mbxArgs .flt).getD 0 0) = true :=
  ⟨st (f (run [2] (on [80] up)) [(Reg.FLT_TKO_STATUS, Fd.FLT_TKO_STATUS_BUSY, 1)]), .pf, 0, by decide +kernel⟩

theorem wit_FaultMailboxActs_4 : ∃ (s : State) (rq : Req) (tag : BitVec 16), s.chip.mbxStarts rq .flt 3 = true ∧ (s.chip.mbxStarts rq .flt 3 && s.chip.injectCritical (s.chip.mbxArgs .flt)) = false ∧ (s.chip.pendingIn .flt).on Reg.FLT_CTRL Fd.FLT_CTRL_INJECT_EN = true ∧ (¬ (65536 ≤ (s.chip.mbxArgs .flt).getD 0 0 ∨ 2 ≤ (s.chip.mbxArgs .flt).getD 1 0 ∨ unitListed (bitsOf ((s.chip.mbxArgs .flt).getD 0 0) 7 0) = false ∨ bitsOf ((s.chip.mbxArgs .flt).getD 0 0) 15 11 = 0 ∨ 0x1A ≤ bitsOf ((s.chip.mbxArgs .flt).getD 0 0) 15 11)) ∧ (s.chip.mbxArgs .flt).getD 1 0 = 1 :=
  ⟨st (f (run [2] up) [(Reg.FLT_CTRL, Fd.FLT_CTRL_INJECT_EN, 1), (Mbx.arg .flt 0, ⟨0, 32⟩, 0x0800), (Mbx.arg .flt 1, ⟨0, 32⟩, 1)]), .pf, 0, by decide +kernel⟩

theorem wit_FaultMailboxActs_5 : ∃ (s : State) (rq : Req) (tag : BitVec 16), s.chip.mbxStarts rq .flt 3 = true ∧ (s.chip.mbxStarts rq .flt 3 && s.chip.injectCritical (s.chip.mbxArgs .flt)) = false ∧ (s.chip.pendingIn .flt).on Reg.FLT_CTRL Fd.FLT_CTRL_INJECT_EN = true ∧ (¬ (65536 ≤ (s.chip.mbxArgs .flt).getD 0 0 ∨ 2 ≤ (s.chip.mbxArgs .flt).getD 1 0 ∨ unitListed (bitsOf ((s.chip.mbxArgs .flt).getD 0 0) 7 0) = false ∨ bitsOf ((s.chip.mbxArgs .flt).getD 0 0) 15 11 = 0 ∨ 0x1A ≤ bitsOf ((s.chip.mbxArgs .flt).getD 0 0) 15 11)) ∧ (s.chip.mbxArgs .flt).getD 1 0 ≠ 1 ∧ (s.chip.pendingIn .flt).unseen ⟨bitsOf ((s.chip.mbxArgs .flt).getD 0 0) 7 0, bitsOf ((s.chip.mbxArgs .flt).getD 0 0) 10 8, bitsOf ((s.chip.mbxArgs .flt).getD 0 0) 15 11, classOutcome (bitsOf ((s.chip.mbxArgs .flt).getD 0 0) 15 11), (s.chip.pendingIn .flt).free, 0, false⟩ = false :=
  ⟨st (f (run [2] up) [(Reg.FLT_CTRL, Fd.FLT_CTRL_INJECT_EN, 1), (Mbx.arg .flt 0, ⟨0, 32⟩, 0x0800)]), .pf, 0, ⟨by decide +kernel, by decide +kernel, by decide +kernel, by decide +kernel, (show _ from by decide +kernel), rfl⟩⟩

theorem wit_FaultMailboxActs_6 : ∃ (s : State) (rq : Req) (tag : BitVec 16), s.chip.mbxStarts rq .flt 3 = true ∧ (s.chip.mbxStarts rq .flt 3 && s.chip.injectCritical (s.chip.mbxArgs .flt)) = false ∧ (s.chip.pendingIn .flt).on Reg.FLT_CTRL Fd.FLT_CTRL_INJECT_EN = true ∧ (¬ (65536 ≤ (s.chip.mbxArgs .flt).getD 0 0 ∨ 2 ≤ (s.chip.mbxArgs .flt).getD 1 0 ∨ unitListed (bitsOf ((s.chip.mbxArgs .flt).getD 0 0) 7 0) = false ∨ bitsOf ((s.chip.mbxArgs .flt).getD 0 0) 15 11 = 0 ∨ 0x1A ≤ bitsOf ((s.chip.mbxArgs .flt).getD 0 0) 15 11)) ∧ (s.chip.mbxArgs .flt).getD 1 0 ≠ 1 ∧ (s.chip.pendingIn .flt).unseen ⟨bitsOf ((s.chip.mbxArgs .flt).getD 0 0) 7 0, bitsOf ((s.chip.mbxArgs .flt).getD 0 0) 10 8, bitsOf ((s.chip.mbxArgs .flt).getD 0 0) 15 11, classOutcome (bitsOf ((s.chip.mbxArgs .flt).getD 0 0) 15 11), (s.chip.pendingIn .flt).free, 0, false⟩ = true :=
  ⟨st (f { run [2] up with flt.wires := [⟨0, 0, 0, true, false⟩] } [(Reg.FLT_CTRL, Fd.FLT_CTRL_INJECT_EN, 1), (Mbx.arg .flt 0, ⟨0, 32⟩, 0x0800)]), .pf, 0, ⟨by decide +kernel, by decide +kernel, by decide +kernel, by decide +kernel, (show _ from by decide +kernel), rfl⟩⟩

theorem wit_FaultMailboxActs_7 : ∃ (s : State) (rq : Req) (c : Fin 4), rq.priv = true ∧ s.chip.addrOff (Reg.FLT_WDT_KICK c) = false :=
  ⟨st up, .pf, 0, by decide +kernel⟩

theorem wit_FaultMailboxActs_8 : ∃ (s : State) (rq : Req) (c : Fin 4) (key : BitVec 16), rq.priv = true ∧ s.chip.addrOff (Reg.FLT_WDT_KICK c) = false ∧ key ≠ 0x6B1C :=
  ⟨st up, .pf, 0, 0, by decide +kernel⟩

theorem wit_FaultMailboxActs_9 : ∃ (s : State) (c : Fin 4), s.chip.fld (Reg.FLT_WDT c) Fd.FLT_WDT_TIMEOUT ≠ 0 ∧ s.chip.coreServes c = true ∧ (mget (fun _ => 0) s.chip.flt.kicks c + s.chip.fld (Reg.FLT_WDT c) Fd.FLT_WDT_TIMEOUT * msPs ≤ s.chip.now) :=
  ⟨st { f (run [0] up) [(Reg.FLT_WDT 0, Fd.FLT_WDT_TIMEOUT, 1)] with now := msPs }, 0, by decide +kernel⟩

theorem wit_FaultMailboxActs_10 : ∃ (s : State) (c : Fin 4), (¬ (s.chip.fld (Reg.FLT_WDT c) Fd.FLT_WDT_TIMEOUT ≠ 0 ∧ s.chip.coreServes c = true ∧ mget (fun _ => 0) s.chip.flt.kicks c + s.chip.fld (Reg.FLT_WDT c) Fd.FLT_WDT_TIMEOUT * msPs ≤ s.chip.now)) :=
  ⟨st up, 0, by decide +kernel⟩

theorem wit_PowerStateActs_1 : ∃ (s : State) (rq : Req) (tag : BitVec 16), s.chip.mbxStarts rq .pwr 1 = true ∧ ((s.chip.mbxArgs .pwr).getD 0 0 % 4) ≠ 0 :=
  ⟨st (f up [(Mbx.arg .pwr 0, ⟨0, 32⟩, 1)]), .pf, 0, by decide +kernel⟩

theorem wit_PowerStateActs_2 : ∃ (s : State) (rq : Req) (tag : BitVec 16), s.chip.mbxStarts rq .pwr 1 = true ∧ ((s.chip.mbxArgs .pwr).getD 0 0 % 4) = 0 :=
  ⟨st up, .pf, 0, by decide +kernel⟩

theorem wit_PowerStateActs_3 : ∃ (s : State) (e : Entry), s.chip.pwr.entry = some e ∧ s.chip.pwr.offAt = none ∧ (e.fromMoored || (s.chip.drained && s.chip.learnIdle && decide (e.start + 4 * usPs ≤ s.chip.now))) = true ∧ e.target = 1 :=
  ⟨st { up with now := 10 ^ 13, pwr.entry := some { (default : Entry) with target := 1 } }, { (default : Entry) with target := 1 }, by decide +kernel⟩

theorem wit_PowerStateActs_4 : ∃ (s : State) (e : Entry), s.chip.pwr.entry = some e ∧ s.chip.pwr.offAt = none ∧ (e.fromMoored || (s.chip.drained && s.chip.learnIdle && decide (e.start + 4 * usPs ≤ s.chip.now))) = true ∧ e.target ≠ 1 :=
  ⟨st { up with now := 10 ^ 13, pwr.entry := some { (default : Entry) with target := 2 } }, { (default : Entry) with target := 2 }, by decide +kernel⟩

theorem wit_PowerStateActs_5 : ∃ (s : State) (e : Entry), s.chip.pwr.entry = some e ∧ s.chip.pwr.offAt = none ∧ e.fromMoored = false ∧ s.chip.drained = false ∧ e.start + s.chip.fld Reg.PWR_CFG Fd.PWR_CFG_DRAIN_MS * msPs ≤ s.chip.now :=
  ⟨st { up with now := 10 ^ 18, pwr.entry := some { (default : Entry) with target := 1 }, bpm.txq := [default] }, { (default : Entry) with target := 1 }, by decide +kernel⟩

theorem wit_PowerStateActs_6 : ∃ (s : State) (e : Entry) (k : Fin 4), s.chip.pwr.entry = some e ∧ s.chip.pwr.offAt = none ∧ e.fromMoored = false ∧ s.chip.drained = true ∧ s.chip.learnIdle = true ∧ e.start + 4 * usPs ≤ s.chip.now :=
  ⟨st { up with now := 10 ^ 13, pwr.entry := some { (default : Entry) with target := 1 } }, { (default : Entry) with target := 1 }, 0, by decide +kernel⟩

theorem wit_PowerStateActs_7 : ∃ (s : State) (e : Entry) (t : Nat), s.chip.pwr.entry = some e ∧ s.chip.pwr.offAt = some t ∧ t + 10 * msPs ≤ s.chip.now :=
  ⟨st { up with now := 10 ^ 13, pwr.entry := some { (default : Entry) with target := 2 }, pwr.offAt := some 0 }, { (default : Entry) with target := 2 }, 0, by decide +kernel⟩

theorem wit_PowerStateActs_8 : ∃ (s : State) (rq : Req) (tag : BitVec 16), s.chip.mbxStarts rq .pwr 2 = true ∧ (s.chip.pendingIn .pwr).pwrState = 1 ∧ (s.chip.pendingIn .pwr).pwr.entry.isNone = true ∧ (s.chip.pendingIn .pwr).pwr.exiting = false :=
  ⟨st (f up [(Reg.PWR_STATUS, Fd.PWR_STATUS_STATE, 1)]), .pf, 0, by decide +kernel⟩

theorem wit_PowerStateActs_9 : ∃ (s : State) (rq : Req) (tag : BitVec 16), s.chip.mbxStarts rq .pwr 2 = true ∧ (¬ ((s.chip.pendingIn .pwr).pwrState = 1 ∧ (s.chip.pendingIn .pwr).pwr.entry.isNone = true ∧ (s.chip.pendingIn .pwr).pwr.exiting = false)) :=
  ⟨st up, .pf, 0, by decide +kernel⟩

theorem wit_PowerStateActs_10 : ∃ (s : State), s.chip.pwrState = 2 ∧ s.chip.pwr.exiting = false :=
  ⟨st (f up [(Reg.PWR_STATUS, Fd.PWR_STATUS_STATE, 2)]), by decide +kernel⟩

theorem wit_PowerStateActs_11 : ∃ (s : State), bfGet Fd.PWR_RTC_CTRL_ALARM_EN (s.chip.inBkp Reg.PWR_RTC_CTRL) = 1 ∧ s.chip.time.rtc = s.chip.alarmTick ∧ s.chip.pwr.entry = none ∧ s.chip.pwr.stowed = false ∧ (s.chip.pwr.exiting = true ∨ s.chip.pwrState = 0) :=
  ⟨st { up with bkp := [(Reg.PWR_RTC_CTRL, bfSet Fd.PWR_RTC_CTRL_ALARM_EN 0 1)] }, by decide +kernel⟩

theorem wit_PowerStateActs_12 : ∃ (s : State), bfGet Fd.PWR_RTC_CTRL_ALARM_EN (s.chip.inBkp Reg.PWR_RTC_CTRL) = 1 ∧ s.chip.time.rtc = s.chip.alarmTick ∧ s.chip.pwr.entry = none ∧ s.chip.pwr.stowed = true :=
  ⟨st { up with bkp := [(Reg.PWR_RTC_CTRL, bfSet Fd.PWR_RTC_CTRL_ALARM_EN 0 1)], pwr.stowed := true }, by decide +kernel⟩

theorem wit_PowerStateActs_13 : ∃ (s : State), bfGet Fd.PWR_RTC_CTRL_ALARM_EN (s.chip.inBkp Reg.PWR_RTC_CTRL) = 1 ∧ s.chip.time.rtc = s.chip.alarmTick ∧ s.chip.pwr.entry = none ∧ s.chip.pwr.stowed = false ∧ s.chip.pwr.exiting = false ∧ s.chip.pwrState ≠ 0 :=
  ⟨st { (f up [(Reg.PWR_STATUS, Fd.PWR_STATUS_STATE, 1)]) with bkp := [(Reg.PWR_RTC_CTRL, bfSet Fd.PWR_RTC_CTRL_ALARM_EN 0 1)] }, by decide +kernel⟩

theorem wit_PowerStateActs_14 : ∃ (s : State) (e : Entry), bfGet Fd.PWR_RTC_CTRL_ALARM_EN (s.chip.inBkp Reg.PWR_RTC_CTRL) = 1 ∧ s.chip.time.rtc = s.chip.alarmTick ∧ s.chip.pwr.entry = some e :=
  ⟨st { up with bkp := [(Reg.PWR_RTC_CTRL, bfSet Fd.PWR_RTC_CTRL_ALARM_EN 0 1)], pwr.entry := some default }, default, by decide +kernel⟩

theorem wit_PowerStateActs_15 : ∃ (s : State) (rq : Req) (value : BitVec 32), rq.priv = true ∧ s.chip.addrOff Reg.PWR_RTC_LO = false :=
  ⟨st up, .pf, 0, by decide +kernel⟩

theorem wit_PowerDomainActs_1 : ∃ (s : State) (rq : Req) (tag : BitVec 16), s.chip.mbxStarts rq .pwr 3 = true ∧ ((s.chip.mbxArgs .pwr).getD 0 0 % 4) = ((s.chip.pendingIn .pwr).fld Reg.PWR_STATUS Fd.PWR_STATUS_LEVEL) :=
  ⟨st (f up [(Reg.PWR_STATUS, Fd.PWR_STATUS_LEVEL, 0)]), .pf, 0, by decide +kernel⟩

theorem wit_PowerDomainActs_2 : ∃ (s : State) (rq : Req) (tag : BitVec 16), s.chip.mbxStarts rq .pwr 3 = true ∧ ((s.chip.mbxArgs .pwr).getD 0 0 % 4) ≠ ((s.chip.pendingIn .pwr).fld Reg.PWR_STATUS Fd.PWR_STATUS_LEVEL) ∧ (¬ ((s.chip.pendingIn .pwr).pwrState ≠ 0 ∨ (s.chip.pendingIn .pwr).pwr.entry.isSome = true ∨ (s.chip.pendingIn .pwr).pwr.change.isSome = true)) :=
  ⟨st (f up [(Reg.PWR_STATUS, Fd.PWR_STATUS_LEVEL, 1)]), .pf, 0, by decide +kernel⟩

theorem wit_PowerDomainActs_3 : ∃ (s : State) (rq : Req) (tag : BitVec 16), s.chip.mbxStarts rq .pwr 3 = true ∧ ((s.chip.mbxArgs .pwr).getD 0 0 % 4) ≠ ((s.chip.pendingIn .pwr).fld Reg.PWR_STATUS Fd.PWR_STATUS_LEVEL) ∧ ((s.chip.pendingIn .pwr).pwrState ≠ 0 ∨ (s.chip.pendingIn .pwr).pwr.entry.isSome = true ∨ (s.chip.pendingIn .pwr).pwr.change.isSome = true) :=
  ⟨st (f up [(Reg.PWR_STATUS, Fd.PWR_STATUS_LEVEL, 1), (Reg.PWR_STATUS, Fd.PWR_STATUS_STATE, 1)]), .pf, 0, by decide +kernel⟩

theorem wit_PowerDomainActs_4 : ∃ (s : State) (x : LevelChange), s.chip.pwr.change = some x ∧ x.start + 50 * usPs ≤ s.chip.now :=
  ⟨st { up with now := 10 ^ 9, pwr.change := some default }, default, by decide +kernel⟩

theorem wit_PowerDomainActs_5 : ∃ (s : State) (x : LevelChange), s.chip.pwr.change = some x ∧ x.start + 50 * usPs ≤ s.chip.now :=
  ⟨st { up with now := 10 ^ 9, pwr.change := some default }, default, by decide +kernel⟩

theorem wit_PowerDomainActs_6 : ∃ (s : State) (rq : Req) (tag : BitVec 16), s.chip.mbxStarts rq .pwr 4 = true ∧ ((s.chip.mbxArgs .pwr).getD 0 0 % 128) < 117 ∧ stateDom ((s.chip.mbxArgs .pwr).getD 0 0 % 128) = true :=
  ⟨st (f up [(Mbx.arg .pwr 0, ⟨0, 32⟩, 103), (Reg.PWR_DOM 103, Fd.PWR_DOM_STATE, domUp)]), .pf, 0, by decide +kernel⟩

theorem wit_PowerDomainActs_7 : ∃ (s : State) (rq : Req) (tag : BitVec 16), s.chip.mbxStarts rq .pwr 4 = true ∧ ((s.chip.mbxArgs .pwr).getD 0 0 % 128) < 117 ∧ stateDom ((s.chip.mbxArgs .pwr).getD 0 0 % 128) = false ∧ (s.chip.pendingIn .pwr).domState ((s.chip.mbxArgs .pwr).getD 0 0 % 128) = domOff :=
  ⟨st (f up [(Mbx.arg .pwr 0, ⟨0, 32⟩, 0), (Reg.PWR_DOM 0, Fd.PWR_DOM_STATE, domOff)]), .pf, 0, by decide +kernel⟩

theorem wit_PowerDomainActs_8 : ∃ (s : State) (rq : Req) (tag : BitVec 16), s.chip.mbxStarts rq .pwr 4 = true ∧ ((s.chip.mbxArgs .pwr).getD 0 0 % 128) < 117 ∧ stateDom ((s.chip.mbxArgs .pwr).getD 0 0 % 128) = false ∧ (s.chip.pendingIn .pwr).domState ((s.chip.mbxArgs .pwr).getD 0 0 % 128) = domUp ∧ (s.chip.pendingIn .pwr).pwrState = 0 ∧ (s.chip.pendingIn .pwr).pwr.entry.isSome = false ∧ ((((s.chip.mbxArgs .pwr).getD 0 0 % 128) < 72 ∧ ((s.chip.mbxArgs .pwr).getD 0 0 % 128) % 9 < 8) ∨ (94 ≤ ((s.chip.mbxArgs .pwr).getD 0 0 % 128) ∧ ((s.chip.mbxArgs .pwr).getD 0 0 % 128) < 102)) :=
  ⟨st (f up [(Mbx.arg .pwr 0, ⟨0, 32⟩, 0), (Reg.PWR_DOM 0, Fd.PWR_DOM_STATE, domUp)]), .pf, 0, by decide +kernel⟩

theorem wit_PowerDomainActs_9 : ∃ (s : State) (rq : Req) (tag : BitVec 16), s.chip.mbxStarts rq .pwr 4 = true ∧ ((s.chip.mbxArgs .pwr).getD 0 0 % 128) < 117 ∧ stateDom ((s.chip.mbxArgs .pwr).getD 0 0 % 128) = false ∧ (s.chip.pendingIn .pwr).domState ((s.chip.mbxArgs .pwr).getD 0 0 % 128) = domUp ∧ (s.chip.pendingIn .pwr).pwrState = 0 ∧ (s.chip.pendingIn .pwr).pwr.entry.isSome = false ∧ (¬ ((((s.chip.mbxArgs .pwr).getD 0 0 % 128) < 72 ∧ ((s.chip.mbxArgs .pwr).getD 0 0 % 128) % 9 < 8) ∨ (94 ≤ ((s.chip.mbxArgs .pwr).getD 0 0 % 128) ∧ ((s.chip.mbxArgs .pwr).getD 0 0 % 128) < 102))) ∧ (s.chip.pendingIn .pwr).offCheck ((s.chip.mbxArgs .pwr).getD 0 0 % 128) = none :=
  ⟨st (f up [(Mbx.arg .pwr 0, ⟨0, 32⟩, 108), (Reg.PWR_DOM 108, Fd.PWR_DOM_STATE, domUp)]), .pf, 0, by decide +kernel⟩

theorem wit_PowerDomainActs_10 : ∃ (s : State) (rq : Req) (tag : BitVec 16) (r : Nat × Nat), s.chip.mbxStarts rq .pwr 4 = true ∧ ((s.chip.mbxArgs .pwr).getD 0 0 % 128) < 117 ∧ stateDom ((s.chip.mbxArgs .pwr).getD 0 0 % 128) = false ∧ (s.chip.pendingIn .pwr).domState ((s.chip.mbxArgs .pwr).getD 0 0 % 128) = domUp ∧ (s.chip.pendingIn .pwr).pwrState = 0 ∧ (s.chip.pendingIn .pwr).pwr.entry.isSome = false ∧ (¬ ((((s.chip.mbxArgs .pwr).getD 0 0 % 128) < 72 ∧ ((s.chip.mbxArgs .pwr).getD 0 0 % 128) % 9 < 8) ∨ (94 ≤ ((s.chip.mbxArgs .pwr).getD 0 0 % 128) ∧ ((s.chip.mbxArgs .pwr).getD 0 0 % 128) < 102))) ∧ (s.chip.pendingIn .pwr).offCheck ((s.chip.mbxArgs .pwr).getD 0 0 % 128) = some r :=
  ⟨st (f up [(Mbx.arg .pwr 0, ⟨0, 32⟩, 108), (Reg.PWR_DOM 108, Fd.PWR_DOM_STATE, domUp), (Reg.PAT_CTRL 0, ⟨0, 1⟩, 1)]), .pf, 0, (8, 0x38), by decide +kernel⟩

theorem wit_PowerDomainActs_11 : ∃ (s : State) (rq : Req) (tag : BitVec 16), s.chip.mbxStarts rq .pwr 5 = true ∧ ((s.chip.mbxArgs .pwr).getD 0 0 % 128) < 117 ∧ stateDom ((s.chip.mbxArgs .pwr).getD 0 0 % 128) = false ∧ (s.chip.pendingIn .pwr).domState ((s.chip.mbxArgs .pwr).getD 0 0 % 128) = domOff ∧ (s.chip.pendingIn .pwr).pwrState = 0 ∧ (s.chip.pendingIn .pwr).pwr.entry.isSome = false :=
  ⟨st (f up [(Mbx.arg .pwr 0, ⟨0, 32⟩, 0), (Reg.PWR_DOM 0, Fd.PWR_DOM_STATE, domOff)]), .pf, 0, by decide +kernel⟩

theorem wit_PowerDomainActs_12 : ∃ (s : State) (rq : Req) (tag : BitVec 16), s.chip.mbxStarts rq .pwr 5 = true ∧ ((s.chip.mbxArgs .pwr).getD 0 0 % 128) < 117 ∧ stateDom ((s.chip.mbxArgs .pwr).getD 0 0 % 128) = false ∧ (s.chip.pendingIn .pwr).domState ((s.chip.mbxArgs .pwr).getD 0 0 % 128) = domFailed :=
  ⟨st (f up [(Mbx.arg .pwr 0, ⟨0, 32⟩, 0), (Reg.PWR_DOM 0, Fd.PWR_DOM_STATE, domFailed)]), .pf, 0, by decide +kernel⟩

theorem wit_PowerDomainActs_13 : ∃ (s : State) (rq : Req) (tag : BitVec 16), s.chip.mbxStarts rq .pwr 5 = true ∧ ((s.chip.mbxArgs .pwr).getD 0 0 % 128) < 117 ∧ stateDom ((s.chip.mbxArgs .pwr).getD 0 0 % 128) = false ∧ (s.chip.pendingIn .pwr).domState ((s.chip.mbxArgs .pwr).getD 0 0 % 128) ≠ domFailed ∧ (s.chip.pendingIn .pwr).domOn ((s.chip.mbxArgs .pwr).getD 0 0 % 128) = true :=
  ⟨st (f up [(Mbx.arg .pwr 0, ⟨0, 32⟩, 0), (Reg.PWR_DOM 0, Fd.PWR_DOM_STATE, domUp)]), .pf, 0, by decide +kernel⟩

theorem wit_PowerDomainActs_14 : ∃ (s : State) (rq : Req) (tag : BitVec 16), s.chip.mbxStarts rq .pwr 6 = true ∧ ((s.chip.mbxArgs .pwr).getD 0 0 % 128) < 117 ∧ (s.chip.pendingIn .pwr).domState ((s.chip.mbxArgs .pwr).getD 0 0 % 128) = domFailed ∧ (s.chip.pendingIn .pwr).pwr.stuck.contains ((s.chip.mbxArgs .pwr).getD 0 0 % 128) = false :=
  ⟨st (f up [(Mbx.arg .pwr 0, ⟨0, 32⟩, 0), (Reg.PWR_DOM 0, Fd.PWR_DOM_STATE, domFailed)]), .pf, 0, by decide +kernel⟩

theorem wit_PowerDomainActs_15 : ∃ (s : State) (r : DomReq) (l : List DomReq), s.chip.pwr.queue = r :: l ∧ s.chip.mayStart = true :=
  ⟨st { up with pwr.queue := [default] }, default, [], by decide +kernel⟩

theorem wit_PowerDomainActs_16 : ∃ (s : State) (dom : Fin 117), s.chip.domState dom = domRamping :=
  ⟨st (f up [(Reg.PWR_DOM 0, Fd.PWR_DOM_STATE, domRamping)]), 0, by decide +kernel⟩

theorem wit_PowerDomainActs_17 : ∃ (s : State) (dom : Fin 117) (c : Chip), s.chip.domState dom = domRamping ∧ (c = (((({ ((s.chip.satF (Reg.PWR_DOM dom) Fd.PWR_DOM_TRIPS 1).bump (Reg.PWR_CNT 12) 1) with pwr.tripAt := mput ((s.chip.satF (Reg.PWR_DOM dom) Fd.PWR_DOM_TRIPS 1).bump (Reg.PWR_CNT 12) 1).pwr.tripAt dom s.chip.now, pwr.stuck := if (mfind s.chip.pwr.tripAt dom).any (fun t => decide (s.chip.now < t + sPs)) then ((s.chip.satF (Reg.PWR_DOM dom) Fd.PWR_DOM_TRIPS 1).bump (Reg.PWR_CNT 12) 1).pwr.stuck ++ [dom.val] else ((s.chip.satF (Reg.PWR_DOM dom) Fd.PWR_DOM_TRIPS 1).bump (Reg.PWR_CNT 12) 1).pwr.stuck } : Chip).domainFault dom domFailed).pwrEndDom 5 dom 4).exitStep dom)) :=
  ⟨st (f up [(Reg.PWR_DOM 0, Fd.PWR_DOM_STATE, domRamping)]), 0, _, ⟨by decide +kernel, rfl⟩⟩

theorem wit_PowerDomainActs_18 : ∃ (s : State) (dom : Fin 117) (x : Drain), (s.chip.pwr.drains.find? (fun x => x.dom == dom.val) = some x) ∧ s.chip.drainReady x = true :=
  ⟨st { up with now := 10 ^ 18, pwr.drains := [default] }, 0, default, by decide +kernel⟩

theorem wit_PowerDomainActs_19 : ∃ (s : State) (dom : Fin 117) (x : Drain), (s.chip.pwr.drains.find? (fun x => x.dom == dom.val) = some x) ∧ s.chip.drainReady x = false ∧ x.start + s.chip.fld Reg.PWR_CFG Fd.PWR_CFG_DRAIN_MS * msPs ≤ s.chip.now :=
  ⟨st { f up [(Reg.PORT_CTRL 0, Fd.PORT_CTRL_EN, 1), (Reg.PORT_CFG 0, Fd.PORT_CFG_WIDTH, 1)] with now := 10 ^ 18, pwr.drains := [default], bpm.copies := [default] }, 0, default, by decide +kernel⟩

theorem wit_RingActs_1 : ∃ (s : State) (rq : Req) (parcel : Fin 64) (ring : Fin 16) (value : BitVec 32), ownsWindow rq parcel = true ∧ s.chip.addrOff (Reg.VF_DOORBELL parcel ring) = false ∧ s.chip.doorbellBad parcel ring value.toNat = false :=
  ⟨st (on [114] up), .pf, 0, 0, 0, by decide +kernel⟩

theorem wit_RingActs_2 : ∃ (s : State) (rq : Req) (parcel : Fin 64) (ring : Fin 16) (value : BitVec 32), ownsWindow rq parcel = true ∧ s.chip.addrOff (Reg.VF_DOORBELL parcel ring) = false ∧ s.chip.doorbellBad parcel ring value.toNat = true :=
  ⟨st (on [114] up), .pf, 0, 0, 0xFFFFFFFF, by decide +kernel⟩

theorem wit_RingActs_3 : ∃ (s : State) (rq : Req) (parcel : Fin 64) (ring : Fin 16) (value : BitVec 32), ownsWindow rq parcel = false :=
  ⟨st (on [114] up), .pf, 1, 0, 0, by decide +kernel⟩

theorem wit_RingActs_4 : ∃ (s : State) (parcel : Fin 64) (ring : Fin 16), s.chip.ringOn parcel ring = true :=
  ⟨st (f (on [114] up) [(Reg.RING_CFG 0 0, Fd.RING_CFG_EN, 1)]), 0, 0, by decide +kernel⟩

theorem wit_RingActs_5 : ∃ (s : State) (parcel : Fin 64) (ring : Fin 16), s.chip.hif.irqPend.contains (16 * parcel.val + ring.val) = true ∧ (mget (fun _ => 0) s.chip.hif.irqLast (16 * parcel.val + ring.val) + s.chip.fld (Reg.RING_CFG parcel ring) Fd.RING_CFG_MOD * usPs ≤ s.chip.now + 1) :=
  ⟨st { up with hif.irqPend := [0] }, 0, 0, by decide +kernel⟩

theorem wit_RingActs_6 : ∃ (s : State) (parcel : Fin 64) (ring : Fin 4) (entry : List Byte), s.chip.domOn 114 = true ∧ s.chip.ringOn parcel (12 + ring.val) = true ∧ s.chip.parcelActive parcel = true ∧ (s.chip.rd (Reg.RING_HOST parcel (12 + ring.val)) == s.chip.rd (Reg.RING_ENG parcel (12 + ring.val))) = false ∧ s.chip.panelMoves ((injEntry entry).port / 32) = false ∧ s.chip.injBad parcel (12 + ring.val) (injEntry entry) = true :=
  ⟨st { f (on [72, 80, 93, 94, 103, 114] up) [(Reg.RING_CFG 0 12, Fd.RING_CFG_EN, 1), (Reg.RING_HOST 0 12, ⟨0, 32⟩, 1)] with now := 0 }, 0, 0, ((leBytes 2 59 ++ leBytes 2 0 ++ [0, 0, 0, 0] ++ leBytes 2 0 ++ leBytes 22 0 ++ leBytes 60 0) : List Byte), by decide +kernel⟩

theorem wit_RingActs_7 : ∃ (s : State) (parcel : Fin 64) (ring : Fin 4) (entry : List Byte), s.chip.domOn 114 = true ∧ s.chip.ringOn parcel (12 + ring.val) = true ∧ s.chip.parcelActive parcel = true ∧ (s.chip.rd (Reg.RING_HOST parcel (12 + ring.val)) == s.chip.rd (Reg.RING_ENG parcel (12 + ring.val))) = false ∧ s.chip.panelMoves ((injEntry entry).port / 32) = false ∧ s.chip.injBad parcel (12 + ring.val) (injEntry entry) = false ∧ ((injEntry entry).sliceV && s.chip.gen (injEntry entry).slice != (injEntry entry).gen) = true :=
  ⟨st { f (on [72, 80, 93, 94, 103, 114] up) [(Reg.RING_CFG 0 12, Fd.RING_CFG_EN, 1), (Reg.RING_HOST 0 12, ⟨0, 32⟩, 1)] with now := 0 }, 0, 0, ((leBytes 2 60 ++ leBytes 2 0 ++ [0, 0, 8, 0] ++ leBytes 2 1 ++ leBytes 22 0 ++ leBytes 60 0) : List Byte), by decide +kernel⟩

theorem wit_RingActs_8 : ∃ (s : State) (parcel : Fin 64) (ring : Fin 4) (entry : List Byte) (rsv : Bool), s.chip.domOn 114 = true ∧ s.chip.ringOn parcel (12 + ring.val) = true ∧ s.chip.parcelActive parcel = true ∧ (s.chip.rd (Reg.RING_HOST parcel (12 + ring.val)) == s.chip.rd (Reg.RING_ENG parcel (12 + ring.val))) = false ∧ s.chip.panelMoves ((injEntry entry).port / 32) = false ∧ s.chip.injBad parcel (12 + ring.val) (injEntry entry) = false ∧ ((injEntry entry).sliceV && s.chip.gen (injEntry entry).slice != (injEntry entry).gen) = false ∧ ((s.chip.pipe.injQ.filter (fun h => h.slice == (if (injEntry entry).sliceV then (injEntry entry).slice else (s.chip.serving ((injEntry entry).port / 32)).getD 0))).length < 64) ∧ s.chip.admitPart (injEntry entry).port (ceilDiv (injEntry entry).len 256) = some rsv :=
  ⟨st { f (on [72, 80, 93, 94, 103, 114] up) [(Reg.RING_CFG 0 12, Fd.RING_CFG_EN, 1), (Reg.RING_HOST 0 12, ⟨0, 32⟩, 1), (Reg.BPM_CTRL, Fd.BPM_CTRL_EN, 1), (Reg.BPM_PORT_RSV 0, Fd.BPM_PORT_RSV_RSV, 1)] with now := 0 }, 0, 0, ((leBytes 2 60 ++ leBytes 2 0 ++ [0, 0, 8, 0] ++ leBytes 2 0 ++ leBytes 22 0 ++ leBytes 60 0) : List Byte), true, ⟨by decide +kernel, by decide +kernel, by decide +kernel, by decide +kernel, (show _ from by decide +kernel), by decide +kernel, by decide +kernel, by decide +kernel, by decide +kernel⟩⟩

theorem wit_RingActs_9 : ∃ (s : State) (rq : Req) (tag : BitVec 16) (parcel : Fin 64) (hits : List Hit), s.chip.mbxStarts rq (.vf parcel 0) 1 = true ∧ (s.chip.pendingIn (.vf parcel 0)).probeCode (s.chip.mbxArgs (.vf parcel 0)) = 0 ∧ parcel.val = 0 :=
  ⟨st (f (on [89, 90, 91, 92, 93, 103, 114] up) [(Mbx.arg (.vf 0 0) 1, ⟨0, 32⟩, 0x80), (Reg.PAR_STATUS 0, Fd.PAR_STATUS_STATE, 1)]), .pf, 0, 0, [], by decide +kernel⟩

theorem wit_RingActs_10 : ∃ (s : State) (rq : Req) (tag : BitVec 16) (parcel : Fin 64) (hits : List Hit), s.chip.mbxStarts rq (.vf parcel 0) 1 = true ∧ (s.chip.pendingIn (.vf parcel 0)).probeCode (s.chip.mbxArgs (.vf parcel 0)) = 0 ∧ parcel.val ≠ 0 :=
  ⟨st (f (on [89, 90, 91, 92, 93, 103, 114] up) [(Mbx.arg (.vf 1 0) 1, ⟨0, 32⟩, 0x80), (Reg.PAR_STATUS 1, Fd.PAR_STATUS_STATE, 1)]), .vf 1, 0, 1, [], by decide +kernel⟩

theorem wit_RingActs_11 : ∃ (s : State) (rq : Req) (tag : BitVec 16) (parcel : Fin 64) (hits : List Hit), s.chip.mbxStarts rq (.vf parcel 0) 1 = true ∧ (s.chip.pendingIn (.vf parcel 0)).probeCode (s.chip.mbxArgs (.vf parcel 0)) ≠ 0 :=
  ⟨st (f (on [89, 90, 91, 92, 93, 103, 114] up) [(Mbx.arg (.vf 1 0) 1, ⟨0, 32⟩, 0x60), (Reg.PAR_STATUS 1, Fd.PAR_STATUS_STATE, 1)]), .vf 1, 0, 1, [], by decide +kernel⟩

theorem wit_RingActs_12 : ∃ (s : State) (rq : Req) (tag : BitVec 16) (parcel : Fin 64) (bad : List (Fin 5)), s.chip.mbxStarts rq (.vf parcel 1) 1 = true ∧ (s.chip.mbxArgs (.vf parcel 1)).getD 0 0 < 64 ∧ parcel.val ≠ 0 ∧ (s.chip.pendingIn (.vf parcel 1)).fld (Reg.FBK_RING_CFG ((s.chip.mbxArgs (.vf parcel 1)).getD 0 0)) Fd.FBK_RING_CFG_PARCEL ≠ parcel.val :=
  ⟨st (f (on [104, 105, 106, 107, 114] up) [(Reg.PAR_STATUS 1, Fd.PAR_STATUS_STATE, 1)]), .vf 1, 0, 1, [], by decide +kernel⟩

theorem wit_RingActs_13 : ∃ (s : State) (rq : Req) (tag : BitVec 16) (parcel : Fin 64) (c : Chip) (ad : Nat), s.chip.mbxStarts rq (.vf parcel 1) 1 = true ∧ (s.chip.mbxArgs (.vf parcel 1)).getD 0 0 < 64 ∧ (parcel.val = 0 ∨ (s.chip.pendingIn (.vf parcel 1)).fld (Reg.FBK_RING_CFG ((s.chip.mbxArgs (.vf parcel 1)).getD 0 0)) Fd.FBK_RING_CFG_PARCEL = parcel.val) ∧ (s.chip.pendingIn (.vf parcel 1)).on (Reg.FBK_RING_CFG ((s.chip.mbxArgs (.vf parcel 1)).getD 0 0)) Fd.FBK_RING_CFG_EN = true ∧ (s.chip.pendingIn (.vf parcel 1)).fbkHolds ((s.chip.mbxArgs (.vf parcel 1)).getD 0 0) ((s.chip.mbxArgs (.vf parcel 1)).getD 1 0) = true ∧ (s.chip.pendingIn (.vf parcel 1)).fbkOff ((s.chip.mbxArgs (.vf parcel 1)).getD 0 0) ((s.chip.mbxArgs (.vf parcel 1)).getD 1 0) = false ∧ (s.chip.pendingIn (.vf parcel 1)).fbkAccess ((s.chip.mbxArgs (.vf parcel 1)).getD 0 0) ((s.chip.mbxArgs (.vf parcel 1)).getD 1 0) false = (c, some ad) :=
  ⟨st ((f (on [104, 105, 106, 107, 114] up) [(Reg.MEM_CTRL 0, Fd.MEM_CTRL_EN, 1), (Reg.MEM_CTRL 1, Fd.MEM_CTRL_EN, 1), (Reg.MEM_CTRL 2, Fd.MEM_CTRL_EN, 1), (Reg.MEM_CTRL 3, Fd.MEM_CTRL_EN, 1), (Reg.FBK_RING_CFG 0, Fd.FBK_RING_CFG_EN, 1)]).fbkWritten 0), .pf, 0, 0, _, _, ⟨by decide +kernel, by decide +kernel, by decide +kernel, by decide +kernel, (show _ from by decide +kernel), by decide +kernel, rfl⟩⟩

theorem wit_ParcelActs_1 : ∃ (s : State) (rq : Req) (p : Fin 64), rq.priv = true ∧ s.chip.addrOff (Reg.PAR_CTRL p) = false ∧ s.chip.parState p = 0 :=
  ⟨st (on [114] up), .pf, 1, by decide +kernel⟩

theorem wit_ParcelActs_2 : ∃ (s : State) (rq : Req) (tag : BitVec 16), s.chip.mbxStarts rq .par 1 = true ∧ (s.chip.mbxArgs .par).getD 0 0 ≠ 0 ∧ (s.chip.mbxArgs .par).getD 0 0 < 64 ∧ [1].contains ((s.chip.pendingIn .par).parState ((s.chip.mbxArgs .par).getD 0 0)) = true :=
  ⟨st (f (run [0] (on [103, 114] up)) [(Mbx.arg .par 0, ⟨0, 32⟩, 1), (Reg.PAR_STATUS 1, Fd.PAR_STATUS_STATE, 1)]), .pf, 0, by decide +kernel⟩

theorem wit_ParcelActs_3 : ∃ (s : State) (rq : Req) (tag : BitVec 16), s.chip.mbxStarts rq .par 3 = true ∧ (s.chip.mbxArgs .par).getD 0 0 ≠ 0 ∧ (s.chip.mbxArgs .par).getD 0 0 < 64 ∧ [1, 2].contains ((s.chip.pendingIn .par).parState ((s.chip.mbxArgs .par).getD 0 0)) = true :=
  ⟨st (f (run [0] (on [103, 114] up)) [(Mbx.arg .par 0, ⟨0, 32⟩, 1), (Reg.PAR_STATUS 1, Fd.PAR_STATUS_STATE, 1)]), .pf, 0, by decide +kernel⟩

theorem wit_ParcelActs_4 : ∃ (s : State) (rq : Req) (tag : BitVec 16), s.chip.mbxStarts rq .par 2 = true ∧ (s.chip.mbxArgs .par).getD 0 0 ≠ 0 ∧ (s.chip.mbxArgs .par).getD 0 0 < 64 ∧ [2, 3].contains ((s.chip.pendingIn .par).parState ((s.chip.mbxArgs .par).getD 0 0)) = true :=
  ⟨st (f (run [0] (on [103, 114] up)) [(Mbx.arg .par 0, ⟨0, 32⟩, 1), (Reg.PAR_STATUS 1, Fd.PAR_STATUS_STATE, 2)]), .pf, 0, by decide +kernel⟩

theorem wit_ParcelActs_5 : ∃ (s : State) (rq : Req) (tag : BitVec 16), s.chip.mbxStarts rq .par 6 = true ∧ (s.chip.mbxArgs .par).getD 0 0 ≠ 0 ∧ (s.chip.mbxArgs .par).getD 0 0 < 64 ∧ [2, 3].contains ((s.chip.pendingIn .par).parState ((s.chip.mbxArgs .par).getD 0 0)) = true :=
  ⟨st (f (run [0] (on [103, 114] up)) [(Mbx.arg .par 0, ⟨0, 32⟩, 1), (Reg.PAR_STATUS 1, Fd.PAR_STATUS_STATE, 3)]), .pf, 0, by decide +kernel⟩

theorem wit_ParcelActs_6 : ∃ (s : State) (rq : Req) (tag : BitVec 16), s.chip.mbxStarts rq .par 7 = true ∧ (s.chip.mbxArgs .par).getD 0 0 ≠ 0 ∧ (s.chip.mbxArgs .par).getD 0 0 < 64 ∧ [2, 3].contains ((s.chip.pendingIn .par).parState ((s.chip.mbxArgs .par).getD 0 0)) = true ∧ (s.chip.pendingIn .par).portNames ((s.chip.mbxArgs .par).getD 0 0) = false :=
  ⟨st (f (run [0] (on [103, 114] up)) [(Mbx.arg .par 0, ⟨0, 32⟩, 1), (Reg.PAR_STATUS 1, Fd.PAR_STATUS_STATE, 2)]), .pf, 0, ⟨by decide +kernel, by decide +kernel, by decide +kernel, by decide +kernel, (show _ from by decide +kernel)⟩⟩

theorem wit_ParcelActs_7 : ∃ (s : State) (rq : Req) (tag : BitVec 16), s.chip.mbxStarts rq .par 7 = true ∧ (s.chip.mbxArgs .par).getD 0 0 ≠ 0 ∧ (s.chip.mbxArgs .par).getD 0 0 < 64 ∧ [2, 3].contains ((s.chip.pendingIn .par).parState ((s.chip.mbxArgs .par).getD 0 0)) = true ∧ (s.chip.pendingIn .par).portNames ((s.chip.mbxArgs .par).getD 0 0) = true :=
  ⟨st (f (run [0] (on [103, 114] up)) [(Mbx.arg .par 0, ⟨0, 32⟩, 1), (Reg.PAR_STATUS 1, Fd.PAR_STATUS_STATE, 2), (Reg.PRS_PORT_CFG 0 0, Fd.PRS_PORT_CFG_PARCEL, 1)]), .pf, 0, ⟨by decide +kernel, by decide +kernel, by decide +kernel, by decide +kernel, (show _ from by decide +kernel)⟩⟩

theorem wit_ParcelActs_8 : ∃ (s : State) (rq : Req) (tag : BitVec 16), s.chip.mbxStarts rq .par 1 = true ∧ (s.chip.mbxArgs .par).getD 0 0 ≠ 0 ∧ (s.chip.mbxArgs .par).getD 0 0 < 64 ∧ [1].contains ((s.chip.pendingIn .par).parState ((s.chip.mbxArgs .par).getD 0 0)) = false :=
  ⟨st (f (run [0] (on [103, 114] up)) [(Mbx.arg .par 0, ⟨0, 32⟩, 1), (Reg.PAR_STATUS 1, Fd.PAR_STATUS_STATE, 0)]), .pf, 0, by decide +kernel⟩

theorem wit_ParcelActs_9 : ∃ (s : State) (rq : Req) (tag : BitVec 16), s.chip.mbxStarts rq .par 1 = true ∧ ((s.chip.mbxArgs .par).getD 0 0 = 0 ∨ 64 ≤ (s.chip.mbxArgs .par).getD 0 0) :=
  ⟨st (run [0] (on [103, 114] up)), .pf, 0, by decide +kernel⟩

theorem wit_ParcelActs_10 : ∃ (s : State) (rq : Req) (tag : BitVec 16), s.chip.mbxStarts rq .par 2 = true ∧ (s.chip.mbxArgs .par).getD 0 0 ≠ 0 ∧ (s.chip.mbxArgs .par).getD 0 0 < 64 ∧ [2, 3].contains ((s.chip.pendingIn .par).parState ((s.chip.mbxArgs .par).getD 0 0)) = false :=
  ⟨st (f (run [0] (on [103, 114] up)) [(Mbx.arg .par 0, ⟨0, 32⟩, 1), (Reg.PAR_STATUS 1, Fd.PAR_STATUS_STATE, 0)]), .pf, 0, by decide +kernel⟩

theorem wit_ParcelActs_11 : ∃ (s : State) (rq : Req) (tag : BitVec 16), s.chip.mbxStarts rq .par 2 = true ∧ ((s.chip.mbxArgs .par).getD 0 0 = 0 ∨ 64 ≤ (s.chip.mbxArgs .par).getD 0 0) :=
  ⟨st (run [0] (on [103, 114] up)), .pf, 0, by decide +kernel⟩

theorem wit_ParcelActs_12 : ∃ (s : State) (rq : Req) (tag : BitVec 16), s.chip.mbxStarts rq .par 3 = true ∧ (s.chip.mbxArgs .par).getD 0 0 ≠ 0 ∧ (s.chip.mbxArgs .par).getD 0 0 < 64 ∧ [1, 2].contains ((s.chip.pendingIn .par).parState ((s.chip.mbxArgs .par).getD 0 0)) = false :=
  ⟨st (f (run [0] (on [103, 114] up)) [(Mbx.arg .par 0, ⟨0, 32⟩, 1), (Reg.PAR_STATUS 1, Fd.PAR_STATUS_STATE, 0)]), .pf, 0, by decide +kernel⟩

theorem wit_ParcelActs_13 : ∃ (s : State) (rq : Req) (tag : BitVec 16), s.chip.mbxStarts rq .par 3 = true ∧ ((s.chip.mbxArgs .par).getD 0 0 = 0 ∨ 64 ≤ (s.chip.mbxArgs .par).getD 0 0) :=
  ⟨st (run [0] (on [103, 114] up)), .pf, 0, by decide +kernel⟩

theorem wit_ParcelActs_14 : ∃ (s : State) (rq : Req) (tag : BitVec 16), s.chip.mbxStarts rq .par 6 = true ∧ (s.chip.mbxArgs .par).getD 0 0 ≠ 0 ∧ (s.chip.mbxArgs .par).getD 0 0 < 64 ∧ [2, 3].contains ((s.chip.pendingIn .par).parState ((s.chip.mbxArgs .par).getD 0 0)) = false :=
  ⟨st (f (run [0] (on [103, 114] up)) [(Mbx.arg .par 0, ⟨0, 32⟩, 1), (Reg.PAR_STATUS 1, Fd.PAR_STATUS_STATE, 0)]), .pf, 0, by decide +kernel⟩

theorem wit_ParcelActs_15 : ∃ (s : State) (rq : Req) (tag : BitVec 16), s.chip.mbxStarts rq .par 6 = true ∧ ((s.chip.mbxArgs .par).getD 0 0 = 0 ∨ 64 ≤ (s.chip.mbxArgs .par).getD 0 0) :=
  ⟨st (run [0] (on [103, 114] up)), .pf, 0, by decide +kernel⟩

theorem wit_ParcelActs_16 : ∃ (s : State) (rq : Req) (tag : BitVec 16), s.chip.mbxStarts rq .par 7 = true ∧ (s.chip.mbxArgs .par).getD 0 0 ≠ 0 ∧ (s.chip.mbxArgs .par).getD 0 0 < 64 ∧ [2, 3].contains ((s.chip.pendingIn .par).parState ((s.chip.mbxArgs .par).getD 0 0)) = false :=
  ⟨st (f (run [0] (on [103, 114] up)) [(Mbx.arg .par 0, ⟨0, 32⟩, 1), (Reg.PAR_STATUS 1, Fd.PAR_STATUS_STATE, 0)]), .pf, 0, by decide +kernel⟩

theorem wit_ParcelActs_17 : ∃ (s : State) (rq : Req) (tag : BitVec 16), s.chip.mbxStarts rq .par 7 = true ∧ ((s.chip.mbxArgs .par).getD 0 0 = 0 ∨ 64 ≤ (s.chip.mbxArgs .par).getD 0 0) :=
  ⟨st (run [0] (on [103, 114] up)), .pf, 0, by decide +kernel⟩

theorem wit_ParcelActs_18 : ∃ (s : State) (rq : Req) (tag : BitVec 16), s.chip.mbxStarts rq .par 4 = true ∧ (s.chip.mbxArgs .par).getD 0 0 ≠ 0 ∧ (s.chip.mbxArgs .par).getD 0 0 < 64 ∧ [3].contains ((s.chip.pendingIn .par).parState ((s.chip.mbxArgs .par).getD 0 0)) = true ∧ parSize (s.chip.mbxArgs .par) < ((s.chip.pendingIn .par).saveArea ((s.chip.mbxArgs .par).getD 0 0)).length :=
  ⟨st (f (run [0] (on [103, 114] up)) [(Mbx.arg .par 0, ⟨0, 32⟩, 1), (Reg.PAR_STATUS 1, Fd.PAR_STATUS_STATE, 3)]), .pf, 0, ⟨by decide +kernel, by decide +kernel, by decide +kernel, by decide +kernel, (show _ from by decide +kernel)⟩⟩

theorem wit_ParcelActs_19 : ∃ (s : State) (rq : Req) (tag : BitVec 16) (m1 : Store) (c1 : Chip) (ok : Bool), s.chip.mbxStarts rq .par 4 = true ∧ (s.chip.mbxArgs .par).getD 0 0 ≠ 0 ∧ (s.chip.mbxArgs .par).getD 0 0 < 64 ∧ [3].contains ((s.chip.pendingIn .par).parState ((s.chip.mbxArgs .par).getD 0 0)) = true ∧ ¬ (parSize (s.chip.mbxArgs .par) < ((s.chip.pendingIn .par).saveArea ((s.chip.mbxArgs .par).getD 0 0)).length) ∧ xmPut ((s.chip.pendingIn .par).saveArea ((s.chip.mbxArgs .par).getD 0 0)).length s.store (s.chip.pendingIn .par) (parXa (s.chip.mbxArgs .par)) ((s.chip.pendingIn .par).saveArea ((s.chip.mbxArgs .par).getD 0 0)) = (m1, c1, ok) :=
  ⟨par 3 1, .pf, 0, svP.1, svP.2.1, svP.2.2, ⟨by decide +kernel, by decide +kernel, by decide +kernel, by decide +kernel, (show _ from by decide +kernel), triple_eta svP⟩⟩

theorem wit_ParcelActs_20 : ∃ (s : State) (rq : Req) (tag : BitVec 16), s.chip.mbxStarts rq .par 4 = true ∧ (s.chip.mbxArgs .par).getD 0 0 ≠ 0 ∧ (s.chip.mbxArgs .par).getD 0 0 < 64 ∧ [3].contains ((s.chip.pendingIn .par).parState ((s.chip.mbxArgs .par).getD 0 0)) = false :=
  ⟨st (f (run [0] (on [103, 114] up)) [(Mbx.arg .par 0, ⟨0, 32⟩, 1), (Reg.PAR_STATUS 1, Fd.PAR_STATUS_STATE, 0)]), .pf, 0, by decide +kernel⟩

theorem wit_ParcelActs_21 : ∃ (s : State) (rq : Req) (tag : BitVec 16) (c1 : Chip), s.chip.mbxStarts rq .par 5 = true ∧ (s.chip.mbxArgs .par).getD 0 0 ≠ 0 ∧ (s.chip.mbxArgs .par).getD 0 0 < 64 ∧ [0].contains ((s.chip.pendingIn .par).parState ((s.chip.mbxArgs .par).getD 0 0)) = true ∧ xmGet s.store 1 (s.chip.pendingIn .par) (parXa (s.chip.mbxArgs .par)) [] = (c1, none) :=
  ⟨rstD, .pf, 0, noXm.1, ⟨by decide +kernel, by decide +kernel, by decide +kernel, by decide +kernel, pair_none noXm (by decide +kernel)⟩⟩

theorem wit_ParcelActs_22 : ∃ (s : State) (rq : Req) (tag : BitVec 16) (c1 : Chip) (h : List Byte), s.chip.mbxStarts rq .par 5 = true ∧ (s.chip.mbxArgs .par).getD 0 0 ≠ 0 ∧ (s.chip.mbxArgs .par).getD 0 0 < 64 ∧ [0].contains ((s.chip.pendingIn .par).parState ((s.chip.mbxArgs .par).getD 0 0)) = true ∧ xmGet s.store 1 (s.chip.pendingIn .par) (parXa (s.chip.mbxArgs .par)) [] = (c1, some h) ∧ areaOk h = false :=
  ⟨rst 0 [], .pf, 0, (rstG 0 []).1, rstH 0 [], ⟨by decide +kernel, by decide +kernel, by decide +kernel, by decide +kernel, pair_some (rstG 0 []) [] (by decide +kernel), by decide +kernel⟩⟩

theorem wit_ParcelActs_23 : ∃ (s : State) (rq : Req) (tag : BitVec 16) (c1 : Chip) (h : List Byte), s.chip.mbxStarts rq .par 5 = true ∧ (s.chip.mbxArgs .par).getD 0 0 ≠ 0 ∧ (s.chip.mbxArgs .par).getD 0 0 < 64 ∧ [0].contains ((s.chip.pendingIn .par).parState ((s.chip.mbxArgs .par).getD 0 0)) = true ∧ xmGet s.store 1 (s.chip.pendingIn .par) (parXa (s.chip.mbxArgs .par)) [] = (c1, some h) ∧ areaOk h = true ∧ parSize (s.chip.mbxArgs .par) < (leNat (slice h 0x10 8)) :=
  ⟨rst 0 areaHead, .pf, 0, (rstG 0 areaHead).1, rstH 0 areaHead, ⟨by decide +kernel, by decide +kernel, by decide +kernel, by decide +kernel, pair_some (rstG 0 areaHead) [] (by decide +kernel), by decide +kernel, by decide +kernel⟩⟩

theorem wit_ParcelActs_24 : ∃ (s : State) (rq : Req) (tag : BitVec 16) (c1 : Chip) (h : List Byte) (c2 : Chip) (l : List Byte) (c3 : Chip), s.chip.mbxStarts rq .par 5 = true ∧ (s.chip.mbxArgs .par).getD 0 0 ≠ 0 ∧ (s.chip.mbxArgs .par).getD 0 0 < 64 ∧ [0].contains ((s.chip.pendingIn .par).parState ((s.chip.mbxArgs .par).getD 0 0)) = true ∧ xmGet s.store 1 (s.chip.pendingIn .par) (parXa (s.chip.mbxArgs .par)) [] = (c1, some h) ∧ areaOk h = true ∧ ¬ (parSize (s.chip.mbxArgs .par) < (leNat (slice h 0x10 8))) ∧ xmGet s.store (ceilDiv (leNat (slice h 0x10 8)) 64) c1 (parXa (s.chip.mbxArgs .par)) [] = (c2, some l) ∧ c2.restoreArea ((s.chip.mbxArgs .par).getD 0 0) (l.take (leNat (slice h 0x10 8))) = some c3 :=
  ⟨rst 1 areaHead, .pf, 0, (rstG 1 areaHead).1, rstH 1 areaHead, rstL.1, rstL.2.getD [], rstC.getD default, ⟨by decide +kernel, by decide +kernel, by decide +kernel, by decide +kernel, pair_some (rstG 1 areaHead) [] (by decide +kernel), by decide +kernel, by decide +kernel, pair_some rstL [] (by decide +kernel), some_getD rstC default (by decide +kernel)⟩⟩

theorem wit_TetherMessageActs_1 : ∃ (s : State) (m : TetMsg) (rows : List (List Byte)), s.chip.on Reg.TET_CTRL Fd.TET_CTRL_EN = true ∧ m.fcsGood = true ∧ m.gen.toNat = s.chip.roleGen ∧ s.chip.tetHear.follows = true ∧ m.tseq.toNat = s.chip.tetHear.tet.recv + 1 :=
  ⟨st (f up [(Reg.TET_CTRL, Fd.TET_CTRL_EN, 1), (Reg.TET_STATUS, Fd.TET_STATUS_ROLE, roleStandby)]), { (default : TetMsg) with fcsGood := true, tseq := 1 }, [], by decide +kernel⟩

theorem wit_TetherMessageActs_2 : ∃ (s : State) (m : TetMsg) (rows : List (List Byte)), s.chip.on Reg.TET_CTRL Fd.TET_CTRL_EN = true ∧ m.fcsGood = true ∧ m.gen.toNat = s.chip.roleGen ∧ s.chip.tetHear.follows = true ∧ m.tseq.toNat ≠ s.chip.tetHear.tet.recv + 1 :=
  ⟨st (f up [(Reg.TET_CTRL, Fd.TET_CTRL_EN, 1), (Reg.TET_STATUS, Fd.TET_STATUS_ROLE, roleStandby)]), { (default : TetMsg) with fcsGood := true }, [], by decide +kernel⟩

theorem wit_TetherMessageActs_3 : ∃ (s : State) (m : TetMsg) (rows : List (List Byte)), s.chip.on Reg.TET_CTRL Fd.TET_CTRL_EN = true ∧ m.fcsGood = true ∧ m.gen.toNat = s.chip.roleGen ∧ s.chip.tetHear.follows = false :=
  ⟨st (f up [(Reg.TET_CTRL, Fd.TET_CTRL_EN, 1)]), { (default : TetMsg) with fcsGood := true }, [], by decide +kernel⟩

theorem wit_TetherMessageActs_4 : ∃ (s : State) (m : TetMsg) (rows : List (List Byte)) (c1 : Chip) (t : Nat), s.chip.on Reg.TET_CTRL Fd.TET_CTRL_EN = true ∧ m.fcsGood = true ∧ m.gen.toNat = s.chip.roleGen ∧ s.chip.tetHear.follows = true ∧ m.tseq.toNat = s.chip.tetHear.tet.recv + 1 ∧ s.chip.tetHear.resyncOpen = some (c1, t) :=
  ⟨st { (f up [(Reg.TET_CTRL, Fd.TET_CTRL_EN, 1), (Reg.TET_STATUS, Fd.TET_STATUS_ROLE, roleStandby)]) with tet.resyncSlot := some 0 }, { (default : TetMsg) with fcsGood := true, tseq := 1 }, [], { (f up [(Reg.TET_CTRL, Fd.TET_CTRL_EN, 1), (Reg.TET_STATUS, Fd.TET_STATUS_ROLE, roleStandby)]) with tet.resyncSlot := some 0 }.tetHear, 0, ⟨by decide +kernel, by decide +kernel, by decide +kernel, by decide +kernel, (show _ from by decide +kernel), rfl⟩⟩

theorem wit_TetherMessageActs_5 : ∃ (s : State) (m : TetMsg) (rows : List (List Byte)), s.chip.on Reg.TET_CTRL Fd.TET_CTRL_EN = true ∧ m.fcsGood = true ∧ m.gen.toNat = s.chip.roleGen ∧ s.chip.tetHear.follows = true ∧ m.tseq.toNat = s.chip.tetHear.tet.recv + 1 ∧ s.chip.tetHear.resyncOpen = none :=
  ⟨st fullStandby, { (default : TetMsg) with fcsGood := true, tseq := 1 }, [], ⟨by decide +kernel, by decide +kernel, by decide +kernel, by decide +kernel, (show _ from by decide +kernel), isNone_eq _ (by decide +kernel)⟩⟩

theorem wit_TetherMessageActs_6 : ∃ (s : State) (m : TetMsg) (rows : List (List Byte)), s.chip.on Reg.TET_CTRL Fd.TET_CTRL_EN = true ∧ m.fcsGood = true ∧ m.gen.toNat = s.chip.roleGen ∧ s.chip.tetHear.follows = true ∧ m.tseq.toNat ≠ s.chip.tetHear.tet.recv + 1 :=
  ⟨st (f up [(Reg.TET_CTRL, Fd.TET_CTRL_EN, 1), (Reg.TET_STATUS, Fd.TET_STATUS_ROLE, roleStandby)]), { (default : TetMsg) with fcsGood := true }, [], by decide +kernel⟩

theorem wit_TetherMessageActs_7 : ∃ (s : State) (m : TetMsg) (rows : List (List Byte)), s.chip.on Reg.TET_CTRL Fd.TET_CTRL_EN = true ∧ m.fcsGood = true ∧ m.gen.toNat = s.chip.roleGen ∧ s.chip.tetHear.follows = false :=
  ⟨st (f up [(Reg.TET_CTRL, Fd.TET_CTRL_EN, 1)]), { (default : TetMsg) with fcsGood := true }, [], by decide +kernel⟩

theorem wit_TetherMessageActs_8 : ∃ (s : State) (m : TetMsg), s.chip.on Reg.TET_CTRL Fd.TET_CTRL_EN = true ∧ m.fcsGood = true ∧ m.gen.toNat = s.chip.roleGen :=
  ⟨st (f up [(Reg.TET_CTRL, Fd.TET_CTRL_EN, 1)]), { (default : TetMsg) with fcsGood := true }, by decide +kernel⟩

theorem wit_TetherMessageActs_9 : ∃ (s : State) (m : TetMsg), s.chip.on Reg.TET_CTRL Fd.TET_CTRL_EN = true ∧ m.fcsGood = true ∧ m.gen.toNat = s.chip.roleGen ∧ (s.chip.tetHear.role == roleActive && s.chip.tetHear.syncedPair) = true :=
  ⟨st { (f up [(Reg.TET_CTRL, Fd.TET_CTRL_EN, 1), (Reg.TET_STATUS, Fd.TET_STATUS_ROLE, roleActive), (Reg.TET_STATUS, Fd.TET_STATUS_PARTNER_ROLE, roleStandby)]) with tet.partnerSynced := true }, { (default : TetMsg) with fcsGood := true }, by decide +kernel⟩

theorem wit_TetherMessageActs_10 : ∃ (s : State) (m : TetMsg), s.chip.on Reg.TET_CTRL Fd.TET_CTRL_EN = true ∧ m.fcsGood = true ∧ m.gen.toNat = s.chip.roleGen ∧ (s.chip.tetHear.role == roleActive && s.chip.tetHear.syncedPair) = false :=
  ⟨st (f up [(Reg.TET_CTRL, Fd.TET_CTRL_EN, 1)]), { (default : TetMsg) with fcsGood := true }, by decide +kernel⟩

theorem wit_TetherMessageActs_11 : ∃ (s : State) (m : TetMsg), s.chip.on Reg.TET_CTRL Fd.TET_CTRL_EN = true ∧ m.fcsGood = true ∧ m.gen.toNat = s.chip.roleGen ∧ s.chip.tetHear.role = roleStandby :=
  ⟨st (f up [(Reg.TET_CTRL, Fd.TET_CTRL_EN, 1), (Reg.TET_STATUS, Fd.TET_STATUS_ROLE, roleStandby)]), { (default : TetMsg) with fcsGood := true }, by decide +kernel⟩

theorem wit_TetherMessageActs_12 : ∃ (s : State) (m : TetMsg), s.chip.on Reg.TET_CTRL Fd.TET_CTRL_EN = true ∧ m.fcsGood = true ∧ m.gen.toNat = s.chip.roleGen ∧ s.chip.tetHear.role ≠ roleStandby :=
  ⟨st (f up [(Reg.TET_CTRL, Fd.TET_CTRL_EN, 1)]), { (default : TetMsg) with fcsGood := true }, by decide +kernel⟩

theorem wit_TetherMessageActs_13 : ∃ (s : State) (m : TetMsg), s.chip.on Reg.TET_CTRL Fd.TET_CTRL_EN = true ∧ m.fcsGood = true ∧ m.gen.toNat = s.chip.roleGen ∧ (s.chip.tetHear.tet.swap.isSome && s.chip.tetHear.role == roleStandby) = true :=
  ⟨st { (f up [(Reg.TET_CTRL, Fd.TET_CTRL_EN, 1), (Reg.TET_STATUS, Fd.TET_STATUS_ROLE, roleStandby)]) with tet.swap := some 0 }, { (default : TetMsg) with fcsGood := true }, by decide +kernel⟩

theorem wit_TetherMessageActs_14 : ∃ (s : State) (m : TetMsg), s.chip.on Reg.TET_CTRL Fd.TET_CTRL_EN = true ∧ m.fcsGood = true ∧ m.gen.toNat = s.chip.roleGen ∧ (s.chip.tetHear.tet.swap.isSome && s.chip.tetHear.role == roleStandby) = false :=
  ⟨st (f up [(Reg.TET_CTRL, Fd.TET_CTRL_EN, 1)]), { (default : TetMsg) with fcsGood := true }, by decide +kernel⟩

theorem wit_TetherMessageActs_15 : ∃ (s : State) (m : TetMsg) (rows : List (List Byte)), s.chip.on Reg.TET_CTRL Fd.TET_CTRL_EN = true ∧ m.fcsGood = true ∧ m.gen.toNat ≠ s.chip.roleGen :=
  ⟨st (f up [(Reg.TET_CTRL, Fd.TET_CTRL_EN, 1)]), { (default : TetMsg) with fcsGood := true, gen := 1 }, [], by decide +kernel⟩

theorem wit_TetherMessageActs_16 : ∃ (s : State) (m : TetMsg) (rows : List (List Byte)), s.chip.on Reg.TET_CTRL Fd.TET_CTRL_EN = true ∧ m.fcsGood = true ∧ m.gen.toNat ≠ s.chip.roleGen :=
  ⟨st (f up [(Reg.TET_CTRL, Fd.TET_CTRL_EN, 1)]), { (default : TetMsg) with fcsGood := true, gen := 1 }, [], by decide +kernel⟩

theorem wit_TetherMessageActs_17 : ∃ (s : State) (m : TetMsg), s.chip.on Reg.TET_CTRL Fd.TET_CTRL_EN = true ∧ m.fcsGood = true ∧ m.gen.toNat ≠ s.chip.roleGen :=
  ⟨st (f up [(Reg.TET_CTRL, Fd.TET_CTRL_EN, 1)]), { (default : TetMsg) with fcsGood := true, gen := 1 }, by decide +kernel⟩

theorem wit_TetherMessageActs_18 : ∃ (s : State) (m : TetMsg), s.chip.on Reg.TET_CTRL Fd.TET_CTRL_EN = true ∧ m.fcsGood = true ∧ m.gen.toNat ≠ s.chip.roleGen :=
  ⟨st (f up [(Reg.TET_CTRL, Fd.TET_CTRL_EN, 1)]), { (default : TetMsg) with fcsGood := true, gen := 1 }, by decide +kernel⟩

theorem wit_TetherMessageActs_19 : ∃ (s : State) (m : TetMsg), s.chip.on Reg.TET_CTRL Fd.TET_CTRL_EN = true ∧ m.fcsGood = true ∧ m.gen.toNat ≠ s.chip.roleGen :=
  ⟨st (f up [(Reg.TET_CTRL, Fd.TET_CTRL_EN, 1)]), { (default : TetMsg) with fcsGood := true, gen := 1 }, by decide +kernel⟩

theorem wit_TetherMessageActs_20 : ∃ (s : State) (m : TetMsg), s.chip.on Reg.TET_CTRL Fd.TET_CTRL_EN = true ∧ m.fcsGood = true ∧ m.gen.toNat ≠ s.chip.roleGen :=
  ⟨st (f up [(Reg.TET_CTRL, Fd.TET_CTRL_EN, 1)]), { (default : TetMsg) with fcsGood := true, gen := 1 }, by decide +kernel⟩

theorem wit_TetherMessageActs_21 : ∃ (s : State) (m : TetMsg), s.chip.on Reg.TET_CTRL Fd.TET_CTRL_EN = true ∧ m.fcsGood = true ∧ (¬ (m.role.val ≠ roleNone ∧ epochDiff m.gen.toNat s.chip.roleGen < 0)) :=
  ⟨st (f up [(Reg.TET_CTRL, Fd.TET_CTRL_EN, 1)]), { (default : TetMsg) with fcsGood := true }, by decide +kernel⟩

theorem wit_TetherMessageActs_22 : ∃ (s : State) (m : TetMsg), s.chip.on Reg.TET_CTRL Fd.TET_CTRL_EN = true ∧ m.fcsGood = true ∧ (m.role.val ≠ roleNone ∧ epochDiff m.gen.toNat s.chip.roleGen < 0) :=
  ⟨st (f up [(Reg.TET_CTRL, Fd.TET_CTRL_EN, 1), (Reg.TET_STATUS, Fd.TET_STATUS_GEN, 2)]), { (default : TetMsg) with fcsGood := true, role := 1, gen := 1 }, by decide +kernel⟩

theorem wit_TetherRoleActs_1 : ∃ (s : State), s.chip.on Reg.TET_CTRL Fd.TET_CTRL_EN = true ∧ s.chip.tet.hbAt + s.chip.fld Reg.TET_CFG Fd.TET_CFG_HB_US * usPs ≤ s.chip.now :=
  ⟨st { (f up [(Reg.TET_CTRL, Fd.TET_CTRL_EN, 1)]) with now := 10 ^ 18 }, by decide +kernel⟩

theorem wit_TetherRoleActs_2 : ∃ (s : State), s.chip.tet.unacked.isEmpty = false ∧ s.chip.tet.progressAt + 50 * usPs ≤ s.chip.now ∧ s.chip.role = roleActive :=
  ⟨st { (f up [(Reg.TET_CTRL, Fd.TET_CTRL_EN, 1), (Reg.TET_STATUS, Fd.TET_STATUS_ROLE, roleActive)]) with tet.unacked := [default], now := 10 ^ 18 }, by decide +kernel⟩

theorem wit_TetherRoleActs_3 : ∃ (s : State) (t : Nat), s.chip.tet.heard = some t ∧ s.chip.partner = true ∧ s.chip.coreServes 3 = true ∧ t + s.chip.fld Reg.TET_CFG Fd.TET_CFG_HB_MISS * s.chip.fld Reg.TET_CFG Fd.TET_CFG_HB_US * usPs ≤ s.chip.now :=
  ⟨st { run [3] (f up [(Reg.TET_STATUS, Fd.TET_STATUS_PARTNER, 1)]) with tet.heard := some 0, now := 10 ^ 18 }, 0, by decide +kernel⟩

theorem wit_TetherRoleActs_4 : ∃ (s : State), s.chip.on Reg.TET_CTRL Fd.TET_CTRL_EN = true ∧ s.chip.role = roleNone ∧ s.chip.partner = false ∧ s.chip.tet.dead = false ∧ s.chip.coreServes 3 = true ∧ s.chip.tet.aloneAt + s.chip.fld Reg.TET_CFG2 Fd.TET_CFG2_ALONE_MS * msPs ≤ s.chip.now :=
  ⟨st { run [3] (f up [(Reg.TET_CTRL, Fd.TET_CTRL_EN, 1)]) with now := 10 ^ 18 }, by decide +kernel⟩

theorem wit_TetherRoleActs_5 : ∃ (s : State) (rq : Req) (tag : BitVec 16), s.chip.mbxStarts rq .tet 1 = true ∧ (s.chip.pendingIn .tet).syncedPair = true ∧ (s.chip.pendingIn .tet).role = roleStandby :=
  ⟨st { run [3] (on [103] (f up [(Reg.TET_CTRL, Fd.TET_CTRL_EN, 1), (Reg.TET_STATUS, Fd.TET_STATUS_PARTNER, 1), (Reg.TET_STATUS, Fd.TET_STATUS_ROLE, roleStandby)])) with tet.synced := true }, .pf, 0, by decide +kernel⟩

theorem wit_TetherRoleActs_6 : ∃ (s : State) (rq : Req) (tag : BitVec 16), s.chip.mbxStarts rq .tet 1 = true ∧ (s.chip.pendingIn .tet).syncedPair = true ∧ (s.chip.pendingIn .tet).role ≠ roleStandby :=
  ⟨st { run [3] (on [103] (f up [(Reg.TET_CTRL, Fd.TET_CTRL_EN, 1), (Reg.TET_STATUS, Fd.TET_STATUS_PARTNER, 1), (Reg.TET_STATUS, Fd.TET_STATUS_ROLE, roleActive), (Reg.TET_STATUS, Fd.TET_STATUS_PARTNER_ROLE, roleStandby)])) with tet.partnerSynced := true }, .pf, 0, by decide +kernel⟩

theorem wit_TetherRoleActs_7 : ∃ (s : State) (rq : Req) (tag : BitVec 16), s.chip.mbxStarts rq .tet 1 = true ∧ (s.chip.pendingIn .tet).syncedPair = false :=
  ⟨st (run [3] (on [103] (f up [(Reg.TET_CTRL, Fd.TET_CTRL_EN, 1)]))), .pf, 0, by decide +kernel⟩

theorem wit_TetherRoleActs_8 : ∃ (s : State) (rq : Req) (tag : BitVec 16), s.chip.mbxStarts rq .tet 2 = true ∧ ((s.chip.pendingIn .tet).role = roleStandby ∧ (s.chip.pendingIn .tet).partner = true) :=
  ⟨st (run [3] (on [103] (f up [(Reg.TET_CTRL, Fd.TET_CTRL_EN, 1), (Reg.TET_STATUS, Fd.TET_STATUS_PARTNER, 1), (Reg.TET_STATUS, Fd.TET_STATUS_ROLE, roleStandby)]))), .pf, 0, by decide +kernel⟩

theorem wit_TetherRoleActs_9 : ∃ (s : State) (rq : Req) (tag : BitVec 16), s.chip.mbxStarts rq .tet 2 = true ∧ (¬ ((s.chip.pendingIn .tet).role = roleStandby ∧ (s.chip.pendingIn .tet).partner = true)) :=
  ⟨st (run [3] (on [103] (f up [(Reg.TET_CTRL, Fd.TET_CTRL_EN, 1)]))), .pf, 0, by decide +kernel⟩

theorem wit_MonitorActs_1 : ∃ (s : State) (rq : Req), rq.priv = true ∧ s.chip.addrOff Reg.PMC_SNAP_CTRL = false ∧ s.chip.pmc.copy.isSome = false :=
  ⟨st (on [103] up), .pf, by decide +kernel⟩

theorem wit_MonitorActs_2 : ∃ (s : State) (rq : Req), rq.priv = true ∧ s.chip.addrOff Reg.PMC_SNAP_CTRL = false ∧ s.chip.pmc.copy.isSome = true :=
  ⟨st { on [103] up with pmc.copy := some [] }, .pf, by decide +kernel⟩

theorem wit_MonitorActs_3 : ∃ (s : State) (rq : Req), s.chip.fld Reg.PMC_SNAP_CTRL Fd.PMC_SNAP_CTRL_PERIOD_MS ≠ 0 ∧ s.chip.pmc.snapAt / s.chip.fld Reg.PMC_SNAP_CTRL Fd.PMC_SNAP_CTRL_PERIOD_MS < (s.chip.tb / tbMs) / s.chip.fld Reg.PMC_SNAP_CTRL Fd.PMC_SNAP_CTRL_PERIOD_MS :=
  ⟨st { f up [(Reg.PMC_SNAP_CTRL, Fd.PMC_SNAP_CTRL_PERIOD_MS, 1)] with time.tmBase := BitVec.ofNat 96 (2 ^ 90) }, .pf, by decide +kernel⟩

theorem wit_MonitorActs_4 : ∃ (s : State) (m : NMap (BitVec 64)), s.chip.pmc.copy = some m :=
  ⟨st { up with pmc.copy := some [] }, [], by decide +kernel⟩

theorem wit_MonitorActs_5 : ∃ (s : State), s.chip.pmc.bwAt / s.chip.pmc.bwMs < (s.chip.tb / tbMs) / s.chip.pmc.bwMs :=
  ⟨st { up with pmc.bwMs := 1, time.tmBase := BitVec.ofNat 96 (2 ^ 90) }, by decide +kernel⟩

theorem wit_MonitorActs_6 : ∃ (s : State) (loads : List Nat), s.chip.dbg.loadAt < (s.chip.tb / tbMs) :=
  ⟨st { up with time.tmBase := BitVec.ofNat 96 (2 ^ 90) }, [], by decide +kernel⟩

theorem wit_DebugPortActs_1 : ∃ (s : State), (¬ (s.chip.dbgState = 2 ∨ s.chip.dbgState = 4)) :=
  ⟨st up, by decide +kernel⟩

theorem wit_DebugPortActs_2 : ∃ (s : State), ((s.chip.dbgState = 2 ∨ s.chip.dbgState = 4)) :=
  ⟨st (f up [(Reg.MGT_DBG_STATUS, Fd.MGT_DBG_STATUS_STATE, 2)]), by decide +kernel⟩

theorem wit_DebugPortActs_3 : ∃ (s : State) (data : List Byte), (¬ (s.chip.dbgState = 2 ∨ s.chip.dbgState = 4)) :=
  ⟨st up, [], by decide +kernel⟩

theorem wit_DebugPortActs_4 : ∃ (s : State) (data : List Byte), ((s.chip.dbgState = 2 ∨ s.chip.dbgState = 4)) :=
  ⟨st (f up [(Reg.MGT_DBG_STATUS, Fd.MGT_DBG_STATUS_STATE, 2)]), [], by decide +kernel⟩

theorem wit_DebugPortActs_5 : ∃ (s : State) (r : AuthResp), s.chip.dbg.resp = some r :=
  ⟨st { up with dbg.resp := some default }, default, by decide +kernel⟩

theorem wit_DebugPortActs_9 : ∃ (s : State), s.chip.granted 0 = true :=
  ⟨st (f up [(Reg.MGT_DBG_STATUS, Fd.MGT_DBG_STATUS_STATE, 3), (Reg.MGT_DBG_STATUS, Fd.MGT_DBG_STATUS_SCOPE, 1)]), by decide +kernel⟩

theorem wit_DebugPortActs_10 : ∃ (s : State), s.chip.granted 0 = false :=
  ⟨st up, by decide +kernel⟩

theorem wit_DebugPortActs_11 : ∃ (s : State), s.chip.granted 0 = true :=
  ⟨st (f up [(Reg.MGT_DBG_STATUS, Fd.MGT_DBG_STATUS_STATE, 3), (Reg.MGT_DBG_STATUS, Fd.MGT_DBG_STATUS_SCOPE, 1)]), by decide +kernel⟩

theorem wit_DebugPortActs_12 : ∃ (s : State), s.chip.granted 0 = false :=
  ⟨st up, by decide +kernel⟩

theorem wit_DebugPortActs_13 : ∃ (s : State), s.chip.granted 0 = true :=
  ⟨st (f up [(Reg.MGT_DBG_STATUS, Fd.MGT_DBG_STATUS_STATE, 3), (Reg.MGT_DBG_STATUS, Fd.MGT_DBG_STATUS_SCOPE, 1)]), by decide +kernel⟩

theorem wit_DebugPortActs_14 : ∃ (s : State), s.chip.granted 0 = false :=
  ⟨st up, by decide +kernel⟩

theorem wit_DebugPortActs_16 : ∃ (s : State) (hart : Fin 6), s.chip.reaches hart = true ∧ s.chip.hartHalted hart = false :=
  ⟨st (f (on [115] up) [(Reg.MGT_DBG_STATUS, Fd.MGT_DBG_STATUS_STATE, 3), (Reg.MGT_DBG_STATUS, Fd.MGT_DBG_STATUS_SCOPE, 31)]), 0, by decide +kernel⟩

theorem wit_DebugPortActs_17 : ∃ (s : State) (hart : Fin 6), s.chip.reaches hart = true :=
  ⟨st (f (on [115] up) [(Reg.MGT_DBG_STATUS, Fd.MGT_DBG_STATUS_STATE, 3), (Reg.MGT_DBG_STATUS, Fd.MGT_DBG_STATUS_SCOPE, 31)]), 0, by decide +kernel⟩

theorem wit_DebugPortActs_18 : ∃ (s : State) (hart : Fin 6), s.chip.reaches hart = true ∧ s.chip.hartHalted hart = true ∧ hart.val < 5 :=
  ⟨st ({ (f (on [115] up) [(Reg.MGT_DBG_STATUS, Fd.MGT_DBG_STATUS_STATE, 3), (Reg.MGT_DBG_STATUS, Fd.MGT_DBG_STATUS_SCOPE, 31)]) with dbg.halted := [hartIdx 0] }), 0, by decide +kernel⟩

theorem wit_DebugPortActs_19 : ∃ (s : State) (hart : Fin 6), s.chip.reaches hart = true ∧ s.chip.hartHalted hart = true ∧ hart.val = 5 :=
  ⟨st ({ (f (on [115] up) [(Reg.MGT_DBG_STATUS, Fd.MGT_DBG_STATUS_STATE, 3), (Reg.MGT_DBG_STATUS, Fd.MGT_DBG_STATUS_SCOPE, 31)]) with dbg.halted := [hartIdx 5] }), 5, by decide +kernel⟩

theorem wit_DebugPortActs_20 : ∃ (s : State) (hart : Fin 6), s.chip.reaches hart = false :=
  ⟨st up, 0, by decide +kernel⟩

theorem wit_DebugPortActs_21 : ∃ (s : State) (hart : Fin 6), s.chip.reaches hart = false :=
  ⟨st up, 0, by decide +kernel⟩

theorem wit_DebugPortActs_22 : ∃ (s : State) (hart : Fin 6), s.chip.reaches hart = false :=
  ⟨st up, 0, by decide +kernel⟩

theorem wit_DebugPortActs_23 : ∃ (s : State) (hart : Fin 6) (cmd : AbsCmd), s.chip.reaches hart = false :=
  ⟨st up, 0, default, by decide +kernel⟩

theorem wit_DebugPortActs_24 : ∃ (s : State) (hart : Fin 6) (cmd : AbsCmd), s.chip.reaches hart = true ∧ s.chip.hartHalted hart = false :=
  ⟨st (f (on [115] up) [(Reg.MGT_DBG_STATUS, Fd.MGT_DBG_STATUS_STATE, 3), (Reg.MGT_DBG_STATUS, Fd.MGT_DBG_STATUS_SCOPE, 31)]), 0, default, by decide +kernel⟩

theorem wit_DebugPortActs_25 : ∃ (s : State) (hart : Fin 6) (r : Fin 8192), s.chip.reaches hart = true ∧ s.chip.hartHalted hart = true ∧ r.val < 0x1020 :=
  ⟨st ({ (f (on [115] up) [(Reg.MGT_DBG_STATUS, Fd.MGT_DBG_STATUS_STATE, 3), (Reg.MGT_DBG_STATUS, Fd.MGT_DBG_STATUS_SCOPE, 31)]) with dbg.halted := [hartIdx 0] }), 0, 0, by decide +kernel⟩

theorem wit_DebugPortActs_26 : ∃ (s : State) (hart : Fin 6) (r : Fin 8192) (v : BitVec 64), s.chip.reaches hart = true ∧ s.chip.hartHalted hart = true ∧ r.val < 0x1020 ∧ r.val ≠ 0x1000 ∧ (¬ (hart.val < 5 ∧ isPmu r.val = true)) :=
  ⟨st ({ (f (on [115] up) [(Reg.MGT_DBG_STATUS, Fd.MGT_DBG_STATUS_STATE, 3), (Reg.MGT_DBG_STATUS, Fd.MGT_DBG_STATUS_SCOPE, 31)]) with dbg.halted := [hartIdx 0] }), 0, 0, 0, by decide +kernel⟩

theorem wit_DebugPortActs_27 : ∃ (s : State) (hart : Fin 6) (r : Fin 8192) (v : BitVec 64), s.chip.reaches hart = true ∧ s.chip.hartHalted hart = true ∧ hart.val < 5 ∧ isPmu r.val = true :=
  ⟨st ({ (f (on [115] up) [(Reg.MGT_DBG_STATUS, Fd.MGT_DBG_STATUS_STATE, 3), (Reg.MGT_DBG_STATUS, Fd.MGT_DBG_STATUS_SCOPE, 31)]) with dbg.halted := [hartIdx 0] }), 0, 0xB00, 0, by decide +kernel⟩

theorem wit_DebugPortActs_28 : ∃ (s : State) (hart : Fin 6) (r : Fin 8192), s.chip.reaches hart = true ∧ s.chip.hartHalted hart = true ∧ hart.val < 5 ∧ isPmu r.val = true :=
  ⟨st ({ (f (on [115] up) [(Reg.MGT_DBG_STATUS, Fd.MGT_DBG_STATUS_STATE, 3), (Reg.MGT_DBG_STATUS, Fd.MGT_DBG_STATUS_SCOPE, 31)]) with dbg.halted := [hartIdx 0] }), 0, 0xB00, by decide +kernel⟩

theorem wit_DebugPortActs_29 : ∃ (s : State) (hart : Fin 6) (a : BitVec 64), s.chip.reaches hart = true ∧ s.chip.hartHalted hart = true :=
  ⟨st ({ (f (on [115] up) [(Reg.MGT_DBG_STATUS, Fd.MGT_DBG_STATUS_STATE, 3), (Reg.MGT_DBG_STATUS, Fd.MGT_DBG_STATUS_SCOPE, 31)]) with dbg.halted := [hartIdx 0] }), 0, 0, by decide +kernel⟩

theorem wit_DebugPortActs_30 : ∃ (s : State) (hart : Fin 6) (a v : BitVec 64), s.chip.reaches hart = true ∧ s.chip.hartHalted hart = true :=
  ⟨st ({ (f (on [115] up) [(Reg.MGT_DBG_STATUS, Fd.MGT_DBG_STATUS_STATE, 3), (Reg.MGT_DBG_STATUS, Fd.MGT_DBG_STATUS_SCOPE, 31)]) with dbg.halted := [hartIdx 0] }), 0, 0, 0, by decide +kernel⟩

theorem wit_DebugPortActs_31 : ∃ (s : State) (a : Nat) (w64 : Bool), s.chip.granted 4 = true :=
  ⟨st (f (on [115] up) [(Reg.MGT_DBG_STATUS, Fd.MGT_DBG_STATUS_STATE, 3), (Reg.MGT_DBG_STATUS, Fd.MGT_DBG_STATUS_SCOPE, 31)]), 0, false, by decide +kernel⟩

theorem wit_DebugPortActs_32 : ∃ (s : State) (a : Nat) (v : BitVec 64) (w64 : Bool), s.chip.granted 4 = true :=
  ⟨st (f (on [115] up) [(Reg.MGT_DBG_STATUS, Fd.MGT_DBG_STATUS_STATE, 3), (Reg.MGT_DBG_STATUS, Fd.MGT_DBG_STATUS_SCOPE, 31)]), 0, 0, false, by decide +kernel⟩

theorem wit_DebugPortActs_33 : ∃ (s : State) (hart : Fin 6) (a : Nat), s.chip.granted 4 = true ∧ (hart.val == 5 || s.chip.domOn 115) = true :=
  ⟨st (f (on [115] up) [(Reg.MGT_DBG_STATUS, Fd.MGT_DBG_STATUS_STATE, 3), (Reg.MGT_DBG_STATUS, Fd.MGT_DBG_STATUS_SCOPE, 31)]), 0, 0, by decide +kernel⟩

theorem wit_DebugPortActs_34 : ∃ (s : State) (hart : Fin 6) (a : Nat) (v : BitVec 64), s.chip.granted 4 = true ∧ (hart.val == 5 || s.chip.domOn 115) = true :=
  ⟨st (f (on [115] up) [(Reg.MGT_DBG_STATUS, Fd.MGT_DBG_STATUS_STATE, 3), (Reg.MGT_DBG_STATUS, Fd.MGT_DBG_STATUS_SCOPE, 31)]), 0, 0, 0, by decide +kernel⟩

theorem wit_DebugPortActs_35 : ∃ (s : State) (a : Nat) (v : BitVec 64) (w64 : Bool), s.chip.granted 4 = false :=
  ⟨st up, 0, 0, false, by decide +kernel⟩

theorem wit_DebugPortActs_36 : ∃ (s : State) (a : Nat) (w64 : Bool), s.chip.granted 4 = false :=
  ⟨st up, 0, false, by decide +kernel⟩

theorem wit_ManagementBusActs_1 : ∃ (s : State) (rq : Req) (tag : BitVec 16) (m : Fin 4) (bus : BusEnv), s.chip.mbxStarts rq (.mbus m) 1 = true ∧ ((32 < (bitsOf ((s.chip.mbxArgs (.mbus m)).getD 0 0) 15 8) ∨ 32 < (bitsOf ((s.chip.mbxArgs (.mbus m)).getD 0 0) 23 16) ∨ 2 ^ 24 ≤ (s.chip.mbxArgs (.mbus m)).getD 0 0 ∨ (s.chip.pendingIn (.mbus m)).on (Reg.MBUS_CTRL m) ⟨0, 1⟩ = false)) :=
  ⟨st (f (run [0, 1, 2, 3] (on [103] up)) [(Reg.MBUS_CTRL 0, ⟨0, 1⟩, 0), (Mbx.arg (.mbus 0) 0, ⟨0, 32⟩, 0)]), .pf, 0, 0, ⟨false, [], true, true, false, false, true, []⟩, by decide +kernel⟩

theorem wit_ManagementBusActs_2 : ∃ (s : State) (rq : Req) (tag : BitVec 16) (m : Fin 4) (bus : BusEnv), s.chip.mbxStarts rq (.mbus m) 1 = true ∧ (¬ (32 < (bitsOf ((s.chip.mbxArgs (.mbus m)).getD 0 0) 15 8) ∨ 32 < (bitsOf ((s.chip.mbxArgs (.mbus m)).getD 0 0) 23 16) ∨ 2 ^ 24 ≤ (s.chip.mbxArgs (.mbus m)).getD 0 0 ∨ (s.chip.pendingIn (.mbus m)).on (Reg.MBUS_CTRL m) ⟨0, 1⟩ = false)) ∧ ((s.chip.pendingIn (.mbus m)).busCheck m bus).2 = false :=
  ⟨st (f (run [0, 1, 2, 3] (on [103] up)) [(Reg.MBUS_CTRL 0, ⟨0, 1⟩, 1), (Mbx.arg (.mbus 0) 0, ⟨0, 32⟩, 0)]), .pf, 0, 0, ⟨true, [], true, true, false, false, true, []⟩, by decide +kernel⟩

theorem wit_ManagementBusActs_3 : ∃ (s : State) (rq : Req) (tag : BitVec 16) (m : Fin 4) (bus : BusEnv), s.chip.mbxStarts rq (.mbus m) 1 = true ∧ (¬ (32 < (bitsOf ((s.chip.mbxArgs (.mbus m)).getD 0 0) 15 8) ∨ 32 < (bitsOf ((s.chip.mbxArgs (.mbus m)).getD 0 0) 23 16) ∨ 2 ^ 24 ≤ (s.chip.mbxArgs (.mbus m)).getD 0 0 ∨ (s.chip.pendingIn (.mbus m)).on (Reg.MBUS_CTRL m) ⟨0, 1⟩ = false)) ∧ ((s.chip.pendingIn (.mbus m)).busCheck m bus).2 = true ∧ bus.arbLost = true :=
  ⟨st (f (run [0, 1, 2, 3] (on [103] up)) [(Reg.MBUS_CTRL 0, ⟨0, 1⟩, 1), (Mbx.arg (.mbus 0) 0, ⟨0, 32⟩, 0)]), .pf, 0, 0, ⟨false, [], true, true, false, true, true, []⟩, by decide +kernel⟩

theorem wit_ManagementBusActs_4 : ∃ (s : State) (rq : Req) (tag : BitVec 16) (m : Fin 4) (bus : BusEnv), s.chip.mbxStarts rq (.mbus m) 1 = true ∧ (¬ (32 < (bitsOf ((s.chip.mbxArgs (.mbus m)).getD 0 0) 15 8) ∨ 32 < (bitsOf ((s.chip.mbxArgs (.mbus m)).getD 0 0) 23 16) ∨ 2 ^ 24 ≤ (s.chip.mbxArgs (.mbus m)).getD 0 0 ∨ (s.chip.pendingIn (.mbus m)).on (Reg.MBUS_CTRL m) ⟨0, 1⟩ = false)) ∧ ((s.chip.pendingIn (.mbus m)).busCheck m bus).2 = true ∧ bus.arbLost = false ∧ bus.stretchOut = true :=
  ⟨st (f (run [0, 1, 2, 3] (on [103] up)) [(Reg.MBUS_CTRL 0, ⟨0, 1⟩, 1), (Mbx.arg (.mbus 0) 0, ⟨0, 32⟩, 0)]), .pf, 0, 0, ⟨false, [], true, true, true, false, true, []⟩, by decide +kernel⟩

theorem wit_ManagementBusActs_5 : ∃ (s : State) (rq : Req) (tag : BitVec 16) (m : Fin 4) (bus : BusEnv), s.chip.mbxStarts rq (.mbus m) 1 = true ∧ (¬ (32 < (bitsOf ((s.chip.mbxArgs (.mbus m)).getD 0 0) 15 8) ∨ 32 < (bitsOf ((s.chip.mbxArgs (.mbus m)).getD 0 0) 23 16) ∨ 2 ^ 24 ≤ (s.chip.mbxArgs (.mbus m)).getD 0 0 ∨ (s.chip.pendingIn (.mbus m)).on (Reg.MBUS_CTRL m) ⟨0, 1⟩ = false)) ∧ ((s.chip.pendingIn (.mbus m)).busCheck m bus).2 = true ∧ bus.arbLost = false ∧ bus.stretchOut = false ∧ bus.addrAck = false :=
  ⟨st (f (run [0, 1, 2, 3] (on [103] up)) [(Reg.MBUS_CTRL 0, ⟨0, 1⟩, 1), (Mbx.arg (.mbus 0) 0, ⟨0, 32⟩, 0)]), .pf, 0, 0, ⟨false, [], false, true, false, false, true, []⟩, by decide +kernel⟩

theorem wit_ManagementBusActs_6 : ∃ (s : State) (rq : Req) (tag : BitVec 16) (m : Fin 4) (bus : BusEnv), s.chip.mbxStarts rq (.mbus m) 1 = true ∧ (¬ (32 < (bitsOf ((s.chip.mbxArgs (.mbus m)).getD 0 0) 15 8) ∨ 32 < (bitsOf ((s.chip.mbxArgs (.mbus m)).getD 0 0) 23 16) ∨ 2 ^ 24 ≤ (s.chip.mbxArgs (.mbus m)).getD 0 0 ∨ (s.chip.pendingIn (.mbus m)).on (Reg.MBUS_CTRL m) ⟨0, 1⟩ = false)) ∧ ((s.chip.pendingIn (.mbus m)).busCheck m bus).2 = true ∧ bus.arbLost = false ∧ bus.stretchOut = false ∧ bus.addrAck = true ∧ 0 < (bitsOf ((s.chip.mbxArgs (.mbus m)).getD 0 0) 15 8) ∧ bus.dataAck = false :=
  ⟨st (f (run [0, 1, 2, 3] (on [103] up)) [(Reg.MBUS_CTRL 0, ⟨0, 1⟩, 1), (Mbx.arg (.mbus 0) 0, ⟨0, 32⟩, 256)]), .pf, 0, 0, ⟨false, [], true, false, false, false, true, []⟩, by decide +kernel⟩

theorem wit_ManagementBusActs_7 : ∃ (s : State) (rq : Req) (tag : BitVec 16) (m : Fin 4) (bus : BusEnv), s.chip.mbxStarts rq (.mbus m) 1 = true ∧ (¬ (32 < (bitsOf ((s.chip.mbxArgs (.mbus m)).getD 0 0) 15 8) ∨ 32 < (bitsOf ((s.chip.mbxArgs (.mbus m)).getD 0 0) 23 16) ∨ 2 ^ 24 ≤ (s.chip.mbxArgs (.mbus m)).getD 0 0 ∨ (s.chip.pendingIn (.mbus m)).on (Reg.MBUS_CTRL m) ⟨0, 1⟩ = false)) ∧ ((s.chip.pendingIn (.mbus m)).busCheck m bus).2 = true ∧ bus.arbLost = false ∧ bus.stretchOut = false ∧ bus.addrAck = true ∧ (¬ (0 < (bitsOf ((s.chip.mbxArgs (.mbus m)).getD 0 0) 15 8) ∧ bus.dataAck = false)) :=
  ⟨st (f (run [0, 1, 2, 3] (on [103] up)) [(Reg.MBUS_CTRL 0, ⟨0, 1⟩, 1), (Mbx.arg (.mbus 0) 0, ⟨0, 32⟩, 256)]), .pf, 0, 0, ⟨false, [], true, true, false, false, true, []⟩, by decide +kernel⟩

theorem wit_ManagementBusActs_8 : ∃ (s : State) (rq : Req) (tag : BitVec 16) (m : Fin 4) (bus : BusEnv), s.chip.mbxStarts rq (.mbus m) 2 = true ∧ ((32 < (bitsOf ((s.chip.mbxArgs (.mbus m)).getD 0 0) 15 8) ∨ 32 < (bitsOf ((s.chip.mbxArgs (.mbus m)).getD 0 0) 23 16) ∨ 2 ^ 24 ≤ (s.chip.mbxArgs (.mbus m)).getD 0 0 ∨ (s.chip.pendingIn (.mbus m)).on (Reg.MBUS_CTRL m) ⟨0, 1⟩ = false)) :=
  ⟨st (f (run [0, 1, 2, 3] (on [103] up)) [(Reg.MBUS_CTRL 0, ⟨0, 1⟩, 0), (Mbx.arg (.mbus 0) 0, ⟨0, 32⟩, 0)]), .pf, 0, 0, ⟨false, [], true, true, false, false, true, []⟩, by decide +kernel⟩

theorem wit_ManagementBusActs_9 : ∃ (s : State) (rq : Req) (tag : BitVec 16) (m : Fin 4) (bus : BusEnv), s.chip.mbxStarts rq (.mbus m) 2 = true ∧ (¬ (32 < (bitsOf ((s.chip.mbxArgs (.mbus m)).getD 0 0) 15 8) ∨ 32 < (bitsOf ((s.chip.mbxArgs (.mbus m)).getD 0 0) 23 16) ∨ 2 ^ 24 ≤ (s.chip.mbxArgs (.mbus m)).getD 0 0 ∨ (s.chip.pendingIn (.mbus m)).on (Reg.MBUS_CTRL m) ⟨0, 1⟩ = false)) ∧ ((s.chip.pendingIn (.mbus m)).busCheck m bus).2 = false :=
  ⟨st (f (run [0, 1, 2, 3] (on [103] up)) [(Reg.MBUS_CTRL 0, ⟨0, 1⟩, 1), (Mbx.arg (.mbus 0) 0, ⟨0, 32⟩, 0)]), .pf, 0, 0, ⟨true, [], true, true, false, false, true, []⟩, by decide +kernel⟩

theorem wit_ManagementBusActs_10 : ∃ (s : State) (rq : Req) (tag : BitVec 16) (m : Fin 4) (bus : BusEnv), s.chip.mbxStarts rq (.mbus m) 2 = true ∧ (¬ (32 < (bitsOf ((s.chip.mbxArgs (.mbus m)).getD 0 0) 15 8) ∨ 32 < (bitsOf ((s.chip.mbxArgs (.mbus m)).getD 0 0) 23 16) ∨ 2 ^ 24 ≤ (s.chip.mbxArgs (.mbus m)).getD 0 0 ∨ (s.chip.pendingIn (.mbus m)).on (Reg.MBUS_CTRL m) ⟨0, 1⟩ = false)) ∧ ((s.chip.pendingIn (.mbus m)).busCheck m bus).2 = true ∧ bus.arbLost = true :=
  ⟨st (f (run [0, 1, 2, 3] (on [103] up)) [(Reg.MBUS_CTRL 0, ⟨0, 1⟩, 1), (Mbx.arg (.mbus 0) 0, ⟨0, 32⟩, 0)]), .pf, 0, 0, ⟨false, [], true, true, false, true, true, []⟩, by decide +kernel⟩

theorem wit_ManagementBusActs_11 : ∃ (s : State) (rq : Req) (tag : BitVec 16) (m : Fin 4) (bus : BusEnv), s.chip.mbxStarts rq (.mbus m) 2 = true ∧ (¬ (32 < (bitsOf ((s.chip.mbxArgs (.mbus m)).getD 0 0) 15 8) ∨ 32 < (bitsOf ((s.chip.mbxArgs (.mbus m)).getD 0 0) 23 16) ∨ 2 ^ 24 ≤ (s.chip.mbxArgs (.mbus m)).getD 0 0 ∨ (s.chip.pendingIn (.mbus m)).on (Reg.MBUS_CTRL m) ⟨0, 1⟩ = false)) ∧ ((s.chip.pendingIn (.mbus m)).busCheck m bus).2 = true ∧ bus.arbLost = false ∧ bus.stretchOut = true :=
  ⟨st (f (run [0, 1, 2, 3] (on [103] up)) [(Reg.MBUS_CTRL 0, ⟨0, 1⟩, 1), (Mbx.arg (.mbus 0) 0, ⟨0, 32⟩, 0)]), .pf, 0, 0, ⟨false, [], true, true, true, false, true, []⟩, by decide +kernel⟩

theorem wit_ManagementBusActs_12 : ∃ (s : State) (rq : Req) (tag : BitVec 16) (m : Fin 4) (bus : BusEnv), s.chip.mbxStarts rq (.mbus m) 2 = true ∧ (¬ (32 < (bitsOf ((s.chip.mbxArgs (.mbus m)).getD 0 0) 15 8) ∨ 32 < (bitsOf ((s.chip.mbxArgs (.mbus m)).getD 0 0) 23 16) ∨ 2 ^ 24 ≤ (s.chip.mbxArgs (.mbus m)).getD 0 0 ∨ (s.chip.pendingIn (.mbus m)).on (Reg.MBUS_CTRL m) ⟨0, 1⟩ = false)) ∧ ((s.chip.pendingIn (.mbus m)).busCheck m bus).2 = true ∧ bus.arbLost = false ∧ bus.stretchOut = false ∧ bus.addrAck = false :=
  ⟨st (f (run [0, 1, 2, 3] (on [103] up)) [(Reg.MBUS_CTRL 0, ⟨0, 1⟩, 1), (Mbx.arg (.mbus 0) 0, ⟨0, 32⟩, 0)]), .pf, 0, 0, ⟨false, [], false, true, false, false, true, []⟩, by decide +kernel⟩

theorem wit_ManagementBusActs_13 : ∃ (s : State) (rq : Req) (tag : BitVec 16) (m : Fin 4) (bus : BusEnv), s.chip.mbxStarts rq (.mbus m) 2 = true ∧ (¬ (32 < (bitsOf ((s.chip.mbxArgs (.mbus m)).getD 0 0) 15 8) ∨ 32 < (bitsOf ((s.chip.mbxArgs (.mbus m)).getD 0 0) 23 16) ∨ 2 ^ 24 ≤ (s.chip.mbxArgs (.mbus m)).getD 0 0 ∨ (s.chip.pendingIn (.mbus m)).on (Reg.MBUS_CTRL m) ⟨0, 1⟩ = false)) ∧ ((s.chip.pendingIn (.mbus m)).busCheck m bus).2 = true ∧ bus.arbLost = false ∧ bus.stretchOut = false ∧ bus.addrAck = true ∧ (bitOf ((s.chip.mbxArgs (.mbus m)).getD 0 0) 7 && !bus.pecGood) = true :=
  ⟨st (f (run [0, 1, 2, 3] (on [103] up)) [(Reg.MBUS_CTRL 0, ⟨0, 1⟩, 1), (Mbx.arg (.mbus 0) 0, ⟨0, 32⟩, 128)]), .pf, 0, 0, ⟨false, [], true, true, false, false, false, []⟩, by decide +kernel⟩

theorem wit_ManagementBusActs_14 : ∃ (s : State) (rq : Req) (tag : BitVec 16) (m : Fin 4) (bus : BusEnv), s.chip.mbxStarts rq (.mbus m) 2 = true ∧ (¬ (32 < (bitsOf ((s.chip.mbxArgs (.mbus m)).getD 0 0) 15 8) ∨ 32 < (bitsOf ((s.chip.mbxArgs (.mbus m)).getD 0 0) 23 16) ∨ 2 ^ 24 ≤ (s.chip.mbxArgs (.mbus m)).getD 0 0 ∨ (s.chip.pendingIn (.mbus m)).on (Reg.MBUS_CTRL m) ⟨0, 1⟩ = false)) ∧ ((s.chip.pendingIn (.mbus m)).busCheck m bus).2 = true ∧ bus.arbLost = false ∧ bus.stretchOut = false ∧ bus.addrAck = true ∧ (bitOf ((s.chip.mbxArgs (.mbus m)).getD 0 0) 7 && !bus.pecGood) = false :=
  ⟨st (f (run [0, 1, 2, 3] (on [103] up)) [(Reg.MBUS_CTRL 0, ⟨0, 1⟩, 1), (Mbx.arg (.mbus 0) 0, ⟨0, 32⟩, 65536)]), .pf, 0, 0, ⟨false, [], true, true, false, false, true, []⟩, by decide +kernel⟩

theorem wit_ManagementBusActs_15 : ∃ (s : State) (rq : Req) (tag : BitVec 16) (m : Fin 4) (bus : BusEnv), s.chip.mbxStarts rq (.mbus m) 3 = true ∧ ((32 < (bitsOf ((s.chip.mbxArgs (.mbus m)).getD 0 0) 15 8) ∨ 32 < (bitsOf ((s.chip.mbxArgs (.mbus m)).getD 0 0) 23 16) ∨ 2 ^ 24 ≤ (s.chip.mbxArgs (.mbus m)).getD 0 0 ∨ (s.chip.pendingIn (.mbus m)).on (Reg.MBUS_CTRL m) ⟨0, 1⟩ = false)) :=
  ⟨st (f (run [0, 1, 2, 3] (on [103] up)) [(Reg.MBUS_CTRL 0, ⟨0, 1⟩, 0), (Mbx.arg (.mbus 0) 0, ⟨0, 32⟩, 0)]), .pf, 0, 0, ⟨false, [], true, true, false, false, true, []⟩, by decide +kernel⟩

theorem wit_ManagementBusActs_16 : ∃ (s : State) (rq : Req) (tag : BitVec 16) (m : Fin 4) (bus : BusEnv), s.chip.mbxStarts rq (.mbus m) 3 = true ∧ (¬ (32 < (bitsOf ((s.chip.mbxArgs (.mbus m)).getD 0 0) 15 8) ∨ 32 < (bitsOf ((s.chip.mbxArgs (.mbus m)).getD 0 0) 23 16) ∨ 2 ^ 24 ≤ (s.chip.mbxArgs (.mbus m)).getD 0 0 ∨ (s.chip.pendingIn (.mbus m)).on (Reg.MBUS_CTRL m) ⟨0, 1⟩ = false)) ∧ ((s.chip.pendingIn (.mbus m)).busCheck m bus).2 = false :=
  ⟨st (f (run [0, 1, 2, 3] (on [103] up)) [(Reg.MBUS_CTRL 0, ⟨0, 1⟩, 1), (Mbx.arg (.mbus 0) 0, ⟨0, 32⟩, 0)]), .pf, 0, 0, ⟨true, [], true, true, false, false, true, []⟩, by decide +kernel⟩

theorem wit_ManagementBusActs_17 : ∃ (s : State) (rq : Req) (tag : BitVec 16) (m : Fin 4) (bus : BusEnv), s.chip.mbxStarts rq (.mbus m) 3 = true ∧ (¬ (32 < (bitsOf ((s.chip.mbxArgs (.mbus m)).getD 0 0) 15 8) ∨ 32 < (bitsOf ((s.chip.mbxArgs (.mbus m)).getD 0 0) 23 16) ∨ 2 ^ 24 ≤ (s.chip.mbxArgs (.mbus m)).getD 0 0 ∨ (s.chip.pendingIn (.mbus m)).on (Reg.MBUS_CTRL m) ⟨0, 1⟩ = false)) ∧ ((s.chip.pendingIn (.mbus m)).busCheck m bus).2 = true ∧ bus.arbLost = true :=
  ⟨st (f (run [0, 1, 2, 3] (on [103] up)) [(Reg.MBUS_CTRL 0, ⟨0, 1⟩, 1), (Mbx.arg (.mbus 0) 0, ⟨0, 32⟩, 0)]), .pf, 0, 0, ⟨false, [], true, true, false, true, true, []⟩, by decide +kernel⟩

theorem wit_ManagementBusActs_18 : ∃ (s : State) (rq : Req) (tag : BitVec 16) (m : Fin 4) (bus : BusEnv), s.chip.mbxStarts rq (.mbus m) 3 = true ∧ (¬ (32 < (bitsOf ((s.chip.mbxArgs (.mbus m)).getD 0 0) 15 8) ∨ 32 < (bitsOf ((s.chip.mbxArgs (.mbus m)).getD 0 0) 23 16) ∨ 2 ^ 24 ≤ (s.chip.mbxArgs (.mbus m)).getD 0 0 ∨ (s.chip.pendingIn (.mbus m)).on (Reg.MBUS_CTRL m) ⟨0, 1⟩ = false)) ∧ ((s.chip.pendingIn (.mbus m)).busCheck m bus).2 = true ∧ bus.arbLost = false ∧ bus.stretchOut = true :=
  ⟨st (f (run [0, 1, 2, 3] (on [103] up)) [(Reg.MBUS_CTRL 0, ⟨0, 1⟩, 1), (Mbx.arg (.mbus 0) 0, ⟨0, 32⟩, 0)]), .pf, 0, 0, ⟨false, [], true, true, true, false, true, []⟩, by decide +kernel⟩

theorem wit_ManagementBusActs_19 : ∃ (s : State) (rq : Req) (tag : BitVec 16) (m : Fin 4) (bus : BusEnv), s.chip.mbxStarts rq (.mbus m) 3 = true ∧ (¬ (32 < (bitsOf ((s.chip.mbxArgs (.mbus m)).getD 0 0) 15 8) ∨ 32 < (bitsOf ((s.chip.mbxArgs (.mbus m)).getD 0 0) 23 16) ∨ 2 ^ 24 ≤ (s.chip.mbxArgs (.mbus m)).getD 0 0 ∨ (s.chip.pendingIn (.mbus m)).on (Reg.MBUS_CTRL m) ⟨0, 1⟩ = false)) ∧ ((s.chip.pendingIn (.mbus m)).busCheck m bus).2 = true ∧ bus.arbLost = false ∧ bus.stretchOut = false ∧ bus.addrAck = false :=
  ⟨st (f (run [0, 1, 2, 3] (on [103] up)) [(Reg.MBUS_CTRL 0, ⟨0, 1⟩, 1), (Mbx.arg (.mbus 0) 0, ⟨0, 32⟩, 0)]), .pf, 0, 0, ⟨false, [], false, true, false, false, true, []⟩, by decide +kernel⟩

theorem wit_ManagementBusActs_20 : ∃ (s : State) (rq : Req) (tag : BitVec 16) (m : Fin 4) (bus : BusEnv), s.chip.mbxStarts rq (.mbus m) 3 = true ∧ (¬ (32 < (bitsOf ((s.chip.mbxArgs (.mbus m)).getD 0 0) 15 8) ∨ 32 < (bitsOf ((s.chip.mbxArgs (.mbus m)).getD 0 0) 23 16) ∨ 2 ^ 24 ≤ (s.chip.mbxArgs (.mbus m)).getD 0 0 ∨ (s.chip.pendingIn (.mbus m)).on (Reg.MBUS_CTRL m) ⟨0, 1⟩ = false)) ∧ ((s.chip.pendingIn (.mbus m)).busCheck m bus).2 = true ∧ bus.arbLost = false ∧ bus.stretchOut = false ∧ bus.addrAck = true ∧ 0 < (bitsOf ((s.chip.mbxArgs (.mbus m)).getD 0 0) 15 8) ∧ bus.dataAck = false :=
  ⟨st (f (run [0, 1, 2, 3] (on [103] up)) [(Reg.MBUS_CTRL 0, ⟨0, 1⟩, 1), (Mbx.arg (.mbus 0) 0, ⟨0, 32⟩, 256)]), .pf, 0, 0, ⟨false, [], true, false, false, false, true, []⟩, by decide +kernel⟩

theorem wit_ManagementBusActs_21 : ∃ (s : State) (rq : Req) (tag : BitVec 16) (m : Fin 4) (bus : BusEnv), s.chip.mbxStarts rq (.mbus m) 3 = true ∧ (¬ (32 < (bitsOf ((s.chip.mbxArgs (.mbus m)).getD 0 0) 15 8) ∨ 32 < (bitsOf ((s.chip.mbxArgs (.mbus m)).getD 0 0) 23 16) ∨ 2 ^ 24 ≤ (s.chip.mbxArgs (.mbus m)).getD 0 0 ∨ (s.chip.pendingIn (.mbus m)).on (Reg.MBUS_CTRL m) ⟨0, 1⟩ = false)) ∧ ((s.chip.pendingIn (.mbus m)).busCheck m bus).2 = true ∧ bus.arbLost = false ∧ bus.stretchOut = false ∧ bus.addrAck = true ∧ (¬ (0 < (bitsOf ((s.chip.mbxArgs (.mbus m)).getD 0 0) 15 8) ∧ bus.dataAck = false)) ∧ (bitOf ((s.chip.mbxArgs (.mbus m)).getD 0 0) 7 && !bus.pecGood) = true :=
  ⟨st (f (run [0, 1, 2, 3] (on [103] up)) [(Reg.MBUS_CTRL 0, ⟨0, 1⟩, 1), (Mbx.arg (.mbus 0) 0, ⟨0, 32⟩, 128)]), .pf, 0, 0, ⟨false, [], true, true, false, false, false, []⟩, by decide +kernel⟩

theorem wit_ManagementBusActs_22 : ∃ (s : State) (rq : Req) (tag : BitVec 16) (m : Fin 4) (bus : BusEnv), s.chip.mbxStarts rq (.mbus m) 3 = true ∧ (¬ (32 < (bitsOf ((s.chip.mbxArgs (.mbus m)).getD 0 0) 15 8) ∨ 32 < (bitsOf ((s.chip.mbxArgs (.mbus m)).getD 0 0) 23 16) ∨ 2 ^ 24 ≤ (s.chip.mbxArgs (.mbus m)).getD 0 0 ∨ (s.chip.pendingIn (.mbus m)).on (Reg.MBUS_CTRL m) ⟨0, 1⟩ = false)) ∧ ((s.chip.pendingIn (.mbus m)).busCheck m bus).2 = true ∧ bus.arbLost = false ∧ bus.stretchOut = false ∧ bus.addrAck = true ∧ (¬ (0 < (bitsOf ((s.chip.mbxArgs (.mbus m)).getD 0 0) 15 8) ∧ bus.dataAck = false)) ∧ (bitOf ((s.chip.mbxArgs (.mbus m)).getD 0 0) 7 && !bus.pecGood) = false :=
  ⟨st (f (run [0, 1, 2, 3] (on [103] up)) [(Reg.MBUS_CTRL 0, ⟨0, 1⟩, 1), (Mbx.arg (.mbus 0) 0, ⟨0, 32⟩, 65536)]), .pf, 0, 0, ⟨false, [], true, true, false, false, true, []⟩, by decide +kernel⟩

theorem wit_ManagementBusActs_23 : ∃ (s : State) (rq : Req) (tag : BitVec 16) (m : Fin 4) (bus : BusEnv), s.chip.mbxStarts rq (.mbus m) 4 = true :=
  ⟨st (f (run [0, 1, 2, 3] (on [103] up)) [(Reg.MBUS_CTRL 0, ⟨0, 1⟩, 1), (Mbx.arg (.mbus 0) 0, ⟨0, 32⟩, 0)]), .pf, 0, 0, ⟨false, [], true, true, false, false, true, []⟩, by decide +kernel⟩

theorem wit_ManagementBusActs_25 : ∃ (s : State) (panel : Fin 8) (spare : Fin 2) (n : Nat), s.chip.sparePort panel spare = some n ∧ (s.chip.swapPossible n && !(s.chip.spare panel spare).trained && (s.chip.spare panel spare).retryAt.isNone && s.chip.domOn (9 * panel.val + 8)) = true :=
  ⟨st (f (on [8] up) [(Reg.PORT_STATUS 0, Fd.PORT_STATUS_STATE, 4), (Reg.PORT_STATUS 0, Fd.PORT_STATUS_LINK, 1), (Reg.PORT_STATUS 0, Fd.PORT_STATUS_TYPE, 4), (Reg.PNL_SPARE_CFG 0 0, Fd.PNL_SPARE_CFG_EN, 1)]), 0, 0, 0, by decide +kernel⟩

theorem wit_ManagementBusActs_26 : ∃ (s : State) (panel : Fin 8) (spare : Fin 2) (n : Nat), s.chip.sparePort panel spare = some n ∧ (s.chip.swapPossible n && !(s.chip.spare panel spare).trained && (s.chip.spare panel spare).retryAt.isNone && s.chip.domOn (9 * panel.val + 8)) = true :=
  ⟨st (f (on [8] up) [(Reg.PORT_STATUS 0, Fd.PORT_STATUS_STATE, 4), (Reg.PORT_STATUS 0, Fd.PORT_STATUS_LINK, 1), (Reg.PORT_STATUS 0, Fd.PORT_STATUS_TYPE, 4), (Reg.PNL_SPARE_CFG 0 0, Fd.PNL_SPARE_CFG_EN, 1)]), 0, 0, 0, by decide +kernel⟩

theorem wit_EmptyQueueTicks_1 : ∃ s : State, s.pending = [] := ⟨State.reset, rfl⟩

theorem wit_CommandsThatStoreNothing_1 : ∃ (i : Instr) (s t : State), changesBytes i = false ∧ exec i s = .next t := ⟨.vbatLoss, State.reset, _, rfl, rfl⟩

theorem wit_CommandsThatStoreNothing_2 : ∃ (i : Instr) (s t : State), changesFlash i = false ∧ exec i s = .next t := ⟨.vbatLoss, State.reset, _, rfl, rfl⟩

theorem wit_EveryStepKeepsCanonical_1 : ∃ s t : State, Canonical s ∧ step s = .next t := ⟨State.reset, _, by unfold Canonical; decide, rfl⟩

theorem wit_MailboxRefusals_1 : ∃ (i : Instr) (s : State) (rq : Req) (tag : BitVec 16) (m : Mbx) (op : Nat), mailboxOf i = some (rq, tag, m, op) ∧ m.allows rq = false := ⟨.enter (.vf 3) 1, State.reset, _, _, _, _, rfl, by decide +kernel⟩

theorem wit_MailboxRefusals_2 : ∃ (i : Instr) (s : State) (rq : Req) (tag : BitVec 16) (m : Mbx) (op : Nat), mailboxOf i = some (rq, tag, m, op) ∧ m.allows rq = true ∧ s.chip.addrOff m.cmd = true := ⟨.servoStatus .pf 1 0, State.reset, _, _, _, _, rfl, by decide +kernel, by decide +kernel⟩

theorem wit_MailboxRefusals_3 : ∃ (i : Instr) (s : State) (rq : Req) (tag : BitVec 16) (m : Mbx) (op : Nat), mailboxOf i = some (rq, tag, m, op) ∧ m.allows rq = true ∧ s.chip.addrOff m.cmd = false ∧ (s.chip.mbxFind m).isSome = true := ⟨.readJournal .pf 1, st { up with mbx := [⟨.flt, 1, 1, [], none, true⟩] }, _, _, _, _, rfl, by decide +kernel, by decide +kernel, by decide +kernel⟩

theorem wit_MailboxRefusals_4 : ∃ (i : Instr) (s : State) (rq : Req) (tag : BitVec 16) (m : Mbx) (op : Nat), mailboxOf i = some (rq, tag, m, op) ∧ m.allows rq = true ∧ s.chip.addrOff m.cmd = false ∧ s.chip.mbxFind m = none ∧ s.chip.mbxServed m op = false := ⟨.readJournal .pf 1, State.reset, _, _, _, _, rfl, by decide +kernel, by decide +kernel, by decide +kernel, by decide +kernel⟩

theorem wit_RegisterCommandRefusals_1 : ∃ (i : Instr) (s : State) (rq : Req) (a : Nat), registerOf i = some (rq, a) ∧ rq.priv = false := ⟨.snap (.vf 63), State.reset, _, _, rfl, rfl⟩

theorem wit_RegisterCommandRefusals_2 : ∃ (i : Instr) (s : State) (rq : Req) (a : Nat), registerOf i = some (rq, a) ∧ rq.priv = true ∧ s.chip.addrOff a = true := ⟨.snap .pf, State.reset, _, _, rfl, rfl, by decide +kernel⟩

theorem wit_UnlistedAccess_1 : ∃ (s : State) (rq : Req) (a : Nat), a % 4 = 0 ∧ s.chip.target rq a = none := ⟨State.reset, .pf, 0x1FFFFFC, by decide +kernel, by decide +kernel⟩

theorem wit_UnlistedAccess_2 : ∃ (s : State) (rq : Req) (a : Nat), a % 8 = 0 ∧ s.chip.target rq a = none ∧ (s.chip.err rq errBadAccess a).target rq (a + 4) = none := ⟨State.reset, .vf 63, 0xFFF8, by decide +kernel, by decide +kernel, by decide +kernel⟩

theorem wit_UnlistedAccess_3 : ∃ (rq : Req) (k : Nat), k ≠ statusOf rq ∧ k ≠ errAddrOf rq := ⟨.vf 0, 0x10, by decide +kernel, by decide +kernel⟩

theorem wit_PoweredOffAccess_1 : ∃ (s : State) (rq : Req) (a k : Nat) (d : RegDesc) (ix : List Nat), a % 4 = 0 ∧ s.chip.target rq a = some (k, d, ix) ∧ s.chip.addrOff k = true := ⟨State.reset, .pf, 0x50000, _, _, _, by decide +kernel, rfl, by decide +kernel⟩

theorem wit_FirstErrorAddress_1 : ∃ (c : Chip) (rq : Req) (b : Nat), b < 5 ∧ c.rd (statusOf rq) % 32 = 0 := ⟨Chip.reset, .vf 3, 4, by decide +kernel, by decide +kernel⟩

theorem wit_FirstErrorAddress_2 : ∃ (c : Chip) (rq : Req), c.rd (statusOf rq) % 32 ≠ 0 := ⟨up.err .pf 0 0, .core 3, by decide +kernel⟩

theorem wit_FirstErrorAddress_3 : ∃ (b : Nat) (f : BF), b < 5 ∧ (f.lo + f.width ≤ b ∨ b + 1 ≤ f.lo) := ⟨4, ⟨0, 4⟩, by decide +kernel, by decide +kernel⟩

theorem wit_FirstErrorAddress_4 : ∃ n j : Fin 64, j ≠ n := ⟨0, 63, by decide +kernel⟩

theorem wit_CountersWrapOrStop_1 : ∃ k j : Nat, j ≠ k ∧ ∀ i, i < 64 → j ≠ Reg.PMC_CTR i := ⟨0, 1, by decide +kernel, by decide +kernel⟩

theorem wit_CountersWrapOrStop_2 : ∃ (c : Chip) (k : Nat), c.rd k = 0xFFFFFFFF := ⟨up.wrN 0 0xFFFFFFFF, 0, by decide +kernel⟩

theorem wit_ByteMemoriesReadBack_1 : ∃ (a b : Nat) (l : List Byte), b < a ∨ a + l.length ≤ b := ⟨4, 6, [1, 2], by decide +kernel⟩

theorem wit_ByteMemoriesReadBack_2 : ∃ (s o b : Nat) (l : List Byte), b < s * 2 ^ 28 + o ∨ s * 2 ^ 28 + o + l.length ≤ b := ⟨0, 0, 1, [1], by decide +kernel⟩

theorem wit_ByteMemoriesReadBack_3 : ∃ n i : Nat, i < n := ⟨4096, 4095, by decide +kernel⟩

theorem wit_ByteMemoriesReadBack_4 : ∃ b : Nat, 2 ^ 60 ≤ b := ⟨2 ^ 60, Nat.le_refl _⟩

theorem wit_VersionsVisible_1 : ∃ (c : Chip) (k phys e : Nat) (key : List Nat), (c.findEm k phys key e).2.hit = true := ⟨Chip.reset.emSet (emLoc 0 (Chip.reset.emBuckets 0 [2 ^ 106]).1 0) (2 ^ 106), 0, 0, 0, [2 ^ 106], by decide +kernel⟩

theorem wit_VersionsVisible_2 : ∃ (c : Chip) (k vrf a e i : Nat) (v6 : Bool) (p : Pfx), (c.findLpm k v6 vrf a e).2.1 = some (i, p) := ⟨Chip.reset.lpmSet false 0 (some ⟨0, 0, 0, 0, 7⟩), 0, 0, 0, 0, 0, false, ⟨0, 0, 0, 0, 7⟩, by decide +kernel⟩

theorem wit_VersionsVisible_3 : ∃ (c : Chip) (t i e v : Nat), (c.ixRead t i e).1 = some v := ⟨Chip.reset.ixSet (ixKey 0 5) (some 1), 0, 5, 0, 1, by decide +kernel⟩

theorem wit_VersionsVisible_4 : ∃ c : Chip, c.tbl.staleEm = [] ∧ c.tbl.staleLpm4 = [] ∧ c.tbl.staleLpm6 = [] ∧ c.tbl.staleIdx = [] := ⟨Chip.reset, rfl, rfl, rfl, rfl⟩

theorem wit_DescriptorsOutOfTurn_1 : ∃ (i : Instr) (s : State) (p r : Nat) (d : Desc), descriptorOf i = some (p, r, d) ∧ s.chip.ringReady p r = false := ⟨.nop 0 0 { (default : Desc) with seq := 1 }, st up, _, _, _, rfl, by decide +kernel⟩

theorem wit_DescriptorsOutOfTurn_2 : ∃ (i : Instr) (s : State) (p r : Nat) (d : Desc), descriptorOf i = some (p, r, d) ∧ s.chip.ringReady p r = true ∧ (s.chip.ringAdvance p r).standby = true := ⟨.nop 0 0 { (default : Desc) with seq := 1 }, st { (f (run [0] (on [89, 90, 91, 92, 93, 114] up)) [(Reg.RING_CFG 0 0, Fd.RING_CFG_EN, 1), (Reg.RING_HOST 0 0, ⟨0, 32⟩, 1), (Reg.UPD_CTRL, Fd.UPD_CTRL_EN, 1)]) with tet.dead := true }, _, _, _, rfl, by decide +kernel, by decide +kernel⟩

theorem wit_DescriptorsOutOfTurn_3 : ∃ (i : Instr) (s : State) (p r : Nat) (d : Desc), descriptorOf i = some (p, r, d) ∧ s.chip.ringReady p r = true ∧ (s.chip.ringAdvance p r).standby = false ∧ (s.chip.ringAdvance p r).ringLast p r + 1 < d.seq.toNat := ⟨.nop 0 0 { (default : Desc) with seq := 2 }, st (f (run [0] (on [89, 90, 91, 92, 93, 114] up)) [(Reg.RING_CFG 0 0, Fd.RING_CFG_EN, 1), (Reg.RING_HOST 0 0, ⟨0, 32⟩, 1), (Reg.UPD_CTRL, Fd.UPD_CTRL_EN, 1)]), _, _, _, rfl, by decide +kernel, by decide +kernel, by decide +kernel⟩

theorem wit_DescriptorsOutOfTurn_4 : ∃ (i : Instr) (s : State) (p r : Nat) (d : Desc), descriptorOf i = some (p, r, d) ∧ s.chip.ringReady p r = true ∧ (s.chip.ringAdvance p r).standby = false ∧ d.seq.toNat ≤ (s.chip.ringAdvance p r).ringLast p r ∧ (((s.chip.ringAdvance p r).bump (Reg.RING_CNT p r 2) 1).ringHist p r).find? (fun y => y.seq == d.seq.toNat) = none := ⟨.nop 0 0 { (default : Desc) with seq := 3 }, st (f (run [0] (on [89, 90, 91, 92, 93, 114] up)) [(Reg.RING_CFG 0 0, Fd.RING_CFG_EN, 1), (Reg.RING_HOST 0 0, ⟨0, 32⟩, 1), (Reg.UPD_CTRL, Fd.UPD_CTRL_EN, 1), (Reg.RING_SEQ_LO 0 0, ⟨0, 32⟩, 3)]), _, _, _, rfl, by decide +kernel, by decide +kernel, by decide +kernel, by decide +kernel⟩

theorem wit_DescriptorsOutOfTurn_5 : ∃ (i : Instr) (s : State) (p r : Nat) (d : Desc), descriptorOf i = some (p, r, d) ∧ s.chip.ringReady p r = true ∧ (s.chip.ringAdvance p r).standby = false ∧ d.seq.toNat ≤ (s.chip.ringAdvance p r).ringLast p r ∧ ∃ y, (((s.chip.ringAdvance p r).bump (Reg.RING_CNT p r 2) 1).ringHist p r).find? (fun y => y.seq == d.seq.toNat) = some y := ⟨.nop 0 0 { (default : Desc) with seq := 3 }, st { (f (run [0] (on [89, 90, 91, 92, 93, 114] up)) [(Reg.RING_CFG 0 0, Fd.RING_CFG_EN, 1), (Reg.RING_HOST 0 0, ⟨0, 32⟩, 1), (Reg.UPD_CTRL, Fd.UPD_CTRL_EN, 1), (Reg.RING_SEQ_LO 0 0, ⟨0, 32⟩, 3)]) with upd.hist := [(0, [⟨0, 0, 3, 0, 0, 0, 0, 0, false⟩])] }, _, _, _, rfl, by decide +kernel, by decide +kernel, by decide +kernel, ⟨0, 0, 3, 0, 0, 0, 0, 0, false⟩, by decide +kernel⟩

theorem wit_DescriptorsOutOfTurn_6 : ∃ (i : Instr) (s : State) (p r : Nat) (d : Desc), descriptorOf i = some (p, r, d) ∧ s.chip.ringReady p r = true ∧ (s.chip.ringAdvance p r).standby = false ∧ d.seq.toNat = (s.chip.ringAdvance p r).ringLast p r + 1 ∧ d.rsv = true := ⟨.nop 0 0 { (default : Desc) with seq := 1, rsv := true }, st (f (run [0] (on [89, 90, 91, 92, 93, 114] up)) [(Reg.RING_CFG 0 0, Fd.RING_CFG_EN, 1), (Reg.RING_HOST 0 0, ⟨0, 32⟩, 1), (Reg.UPD_CTRL, Fd.UPD_CTRL_EN, 1)]), _, _, _, rfl, by decide +kernel, by decide +kernel, by decide +kernel, by decide +kernel⟩

theorem wit_DescriptorsOutOfTurn_7 : ∃ v : Nat, v < 2 ^ 64 := ⟨2 ^ 64 - 1, by decide +kernel⟩

theorem wit_MessagesNotForUs_1 : ∃ (i : Instr) (s : State) (p j op : Nat) (m : SpareMsg), spareMsgOf i = some (p, j, op, m) ∧ s.chip.sparePort p j = none := ⟨.hello 0 0 default, State.reset, _, _, _, _, rfl, by decide +kernel⟩

theorem wit_MessagesNotForUs_2 : ∃ (i : Instr) (s : State) (p j op : Nat) (m : SpareMsg), spareMsgOf i = some (p, j, op, m) ∧ s.chip.spareMsgOk p j op m = false := ⟨.releaseAck 7 1 default, State.reset, _, _, _, _, rfl, by decide +kernel⟩

theorem wit_MessagesNotForUs_3 : ∃ m : SpareMsg, crc8 m.d1 m.d2 ≠ m.d3.toNat := ⟨{ (default : SpareMsg) with d3 := 1 }, by decide +kernel⟩

theorem wit_MessagesNotForUs_4 : ∃ m : SpareMsg, m.slots < 3 := ⟨default, by decide +kernel⟩

theorem wit_MessagesNotForUs_5 : ∃ (m : SpareMsg) (j : Nat), m.d2.toNat / 128 ≠ j := ⟨default, 1, by decide +kernel⟩

theorem wit_MessagesNotForUs_6 : ∃ (i : Instr) (s : State) (m : TetMsg), tetMsgOf i = some m ∧ (s.chip.on Reg.TET_CTRL Fd.TET_CTRL_EN = false ∨ m.fcsGood = false) := ⟨.tetAck default, State.reset, _, rfl, by decide +kernel⟩

theorem wit_SpareCodeTellsBytes_1 : ∃ a d : Byte, a ≠ d := ⟨0x25, 0x83, by decide +kernel⟩

theorem wit_HashBucketsDiffer_1 : ∃ c : Chip, c.edge = false := ⟨Chip.reset, by decide +kernel⟩

theorem wit_HashBucketsDiffer_2 : ∃ c : Chip, c.edge = true := ⟨up.setF Reg.UPD_CFG Fd.UPD_CFG_PROFILE 1, by decide +kernel⟩

theorem wit_MemberOfItsGroup_1 : ∃ (c : Chip) (k e g hash nhi x : Nat), hash < 65536 ∧ (c.pickMember k e g hash).2 = .ok nhi x := ⟨((Chip.reset.ixSet (ixKey 2 77) (some (20480 * 2 ^ 26 + 12 * 2 ^ 13))).ixSet (ixKey 1 20487) (some (9 * 2 ^ 26))).ixSet (ixKey 0 9) (some 0), 0, 0, 77, 40000, 9, 0, by decide +kernel, by decide +kernel⟩

theorem wit_MemberOfItsGroup_2 : ∃ (c : Chip) (k e g : Nat), (c.findIx (storeOf k) 2 g e).2.err = 0 ∧ (c.findIx (storeOf k) 2 g e).2.hit = true ∧ bitsOf (c.findIx (storeOf k) 2 g e).2.entry 25 13 = 0 := ⟨Chip.reset.ixSet (ixKey 2 5) (some 0), 0, 0, 5, by decide +kernel, by decide +kernel, by decide +kernel⟩

theorem wit_FieldsByAccessType_1 : ∃ (l r : Bool) (k : Nat) (d : RegDesc) (ix : List Nat) (f : FieldDesc), descOf k = some (d, ix) ∧ f ∈ d.fields ∧ fieldHeld l r f = true := ⟨true, false, 0x40004, (rowOf 0x40004 (by decide +kernel)).1, (rowOf 0x40004 (by decide +kernel)).2, (rowOf 0x40004 (by decide +kernel)).1.fields.get ⟨0, by decide +kernel⟩, rowOf_eq _ _, List.get_mem _ _, by decide +kernel⟩

theorem wit_FieldsByAccessType_2 : ∃ (l r : Bool) (k : Nat) (d : RegDesc) (ix : List Nat) (f : FieldDesc), descOf k = some (d, ix) ∧ f ∈ d.fields ∧ (f.type = .ro ∨ f.type = .ros ∨ f.type = .rcs ∨ f.type = .wo) := ⟨false, false, Reg.GLB_ID, (rowOf Reg.GLB_ID (by decide +kernel)).1, (rowOf Reg.GLB_ID (by decide +kernel)).2, (rowOf Reg.GLB_ID (by decide +kernel)).1.fields.get ⟨0, by decide +kernel⟩, rowOf_eq _ _, List.get_mem _ _, by decide +kernel⟩

theorem wit_FieldsByAccessType_3 : ∃ (l r : Bool) (k : Nat) (d : RegDesc) (ix : List Nat) (f : FieldDesc), descOf k = some (d, ix) ∧ f ∈ d.fields ∧ fieldHeld l r f = false ∧ (f.type = .rw ∨ f.type = .rwh ∨ f.type = .rwl) ∧ (∀ x y, f.limit ≠ .clamp x y) ∧ (∀ x y, f.limit ≠ .sclamp x y) := ⟨false, false, Reg.GLB_SCRATCH, (rowOf Reg.GLB_SCRATCH (by decide +kernel)).1, (rowOf Reg.GLB_SCRATCH (by decide +kernel)).2, (rowOf Reg.GLB_SCRATCH (by decide +kernel)).1.fields.get ⟨0, by decide +kernel⟩, rowOf_eq _ _, List.get_mem _ _, by decide +kernel, by decide +kernel, fun _ _ h => Limit.noConfusion h, fun _ _ h => Limit.noConfusion h⟩

theorem wit_FieldsByAccessType_4 : ∃ (l r : Bool) (k : Nat) (d : RegDesc) (ix : List Nat) (f : FieldDesc), descOf k = some (d, ix) ∧ f ∈ d.fields ∧ fieldHeld l r f = false ∧ f.type = .w1c := ⟨false, false, Reg.RST_CAUSE, (rowOf Reg.RST_CAUSE (by decide +kernel)).1, (rowOf Reg.RST_CAUSE (by decide +kernel)).2, (rowOf Reg.RST_CAUSE (by decide +kernel)).1.fields.get ⟨0, by decide +kernel⟩, rowOf_eq _ _, List.get_mem _ _, by decide +kernel, rfl⟩

theorem wit_FieldsByAccessType_5 : ∃ (l r : Bool) (k : Nat) (d : RegDesc) (ix : List Nat) (f : FieldDesc), descOf k = some (d, ix) ∧ f ∈ d.fields ∧ fieldHeld l r f = false ∧ f.type = .w1s := ⟨false, false, Reg.GLB_LOCK, (rowOf Reg.GLB_LOCK (by decide +kernel)).1, (rowOf Reg.GLB_LOCK (by decide +kernel)).2, (rowOf Reg.GLB_LOCK (by decide +kernel)).1.fields.get ⟨0, by decide +kernel⟩, rowOf_eq _ _, List.get_mem _ _, by decide +kernel, rfl⟩

theorem wit_OrdinaryRegisterWrite_1 : ∃ (s : State) (rq : Req) (a k v : Nat) (d : RegDesc) (ix : List Nat), v < 2 ^ 32 ∧ rq.priv = true ∧ s.chip.target rq a = some (k, d, ix) ∧ a % 4 = 0 ∧ s.chip.addrOff k = false ∧ d.width = .w32 ∧ d.scope ≠ .bcast ∧ d.name ∉ ["FLT_CTRL", "FLT_WDT_KICK", "PWR_RTC_HI", "PWR_RTC_LO", "DTM_CLK_INC_HI", "DTM_CLK_INC_LO", "DTM_CLK_ADJ", "PORT_CTRL", "PRS_RD_ADDR", "RWR_RD_ADDR", "CLS_RD_ADDR", "PAR_CTRL", "VF_DOORBELL", "GLB_LOCK", "DTM_CTRL", "DTM_CFG", "MGT_DBG_CTRL", "MGT_DBG_CFG", "PMC_SNAP_CTRL", "TET_CTRL", "MEM_RANK", "BPM_XP_CFG", "MSIX_TABLE", "TM_POL_CBS", "TM_POL_XBS", "UPD_CFG", "TM_Q_RATE", "TM_Q_BURST", "TM_N_RATE", "TM_N_BURST", "TM_G_RATE", "TM_G_BURST", "TM_P_RATE", "TM_P_BURST", "FLT_STATUS", "BPM_AUDIT_CFG", "TM_SAMP_PROF", "FBK_PORT_SAMPLE", "TM_Q_CFG0", "TM_P_CFG"] ∧ isAction k = false ∧ isBkp k = false ∧ fieldsOk (fieldsOf d ix) v = false := ⟨st (on [114] up), .pf, 0x64400, 0x64400, 0x10000000, (rowOf 0x64400 (by decide +kernel)).1, (rowOf 0x64400 (by decide +kernel)).2, by decide +kernel, rfl, by decide +kernel, by decide +kernel, by decide +kernel, by decide +kernel, (show _ from by decide +kernel), by decide +kernel, by decide +kernel, by decide +kernel, by decide +kernel⟩

theorem wit_OrdinaryRegisterWrite_2 : ∃ (s : State) (rq : Req) (a k v : Nat) (d : RegDesc) (ix : List Nat), v < 2 ^ 32 ∧ rq.priv = true ∧ s.chip.target rq a = some (k, d, ix) ∧ a % 4 = 0 ∧ s.chip.addrOff k = false ∧ d.width = .w32 ∧ d.scope ≠ .bcast ∧ d.name ∉ ["FLT_CTRL", "FLT_WDT_KICK", "PWR_RTC_HI", "PWR_RTC_LO", "DTM_CLK_INC_HI", "DTM_CLK_INC_LO", "DTM_CLK_ADJ", "PORT_CTRL", "PRS_RD_ADDR", "RWR_RD_ADDR", "CLS_RD_ADDR", "PAR_CTRL", "VF_DOORBELL", "GLB_LOCK", "DTM_CTRL", "DTM_CFG", "MGT_DBG_CTRL", "MGT_DBG_CFG", "PMC_SNAP_CTRL", "TET_CTRL", "MEM_RANK", "BPM_XP_CFG", "MSIX_TABLE", "TM_POL_CBS", "TM_POL_XBS", "UPD_CFG", "TM_Q_RATE", "TM_Q_BURST", "TM_N_RATE", "TM_N_BURST", "TM_G_RATE", "TM_G_BURST", "TM_P_RATE", "TM_P_BURST", "FLT_STATUS", "BPM_AUDIT_CFG", "TM_SAMP_PROF", "FBK_PORT_SAMPLE", "TM_Q_CFG0", "TM_P_CFG"] ∧ isAction k = false ∧ isBkp k = false ∧ fieldsOk (fieldsOf d ix) v = true ∧ s.chip.comboOk k d.name ix (fieldsNew s.chip.locked (s.chip.running k) (fieldsOf d ix) (s.chip.reg k) v) = true := ⟨st up, .core 0, 0x18, 0x18, 5, (rowOf 0x18 (by decide +kernel)).1, (rowOf 0x18 (by decide +kernel)).2, by decide +kernel, rfl, by decide +kernel, by decide +kernel, by decide +kernel, by decide +kernel, (show _ from by decide +kernel), by decide +kernel, by decide +kernel, by decide +kernel, by decide +kernel, (show _ from by decide +kernel)⟩

theorem wit_AllRunsAreSafe_1 : ∃ s : State, Canonical s := ⟨State.reset, by unfold Canonical; decide⟩

theorem wit_TicksAddUp_1 : ∃ s : State, s.pending = [] := ⟨State.reset, rfl⟩

theorem wit_DescriptorRoundTrip_1 : ∃ d : Desc, d.rsv = false ∧ opListed d.op.toNat = true := ⟨⟨1, 2, 3, 4, 5, 6, 7, 8, false⟩, rfl, rfl⟩

theorem wit_DescriptorRoundTrip_2 : ∃ l : List Byte, l.length = 64 ∧ (descBack l).rsv = false := ⟨List.replicate 64 0, by decide +kernel, by decide +kernel⟩

theorem wit_PolicerBuckets_1 : ∃ (c : Chip) (i colour : Nat), c.on (Reg.TM_POL_CFG i) Fd.TM_POL_CFG_AWARE = true ∧ 2 ≤ colour := ⟨f up [(Reg.TM_POL_CFG 0, Fd.TM_POL_CFG_AWARE, 1)], 0, 3, by decide +kernel, by decide +kernel⟩

theorem wit_PolicerBuckets_2 : ∃ (c : Chip) (i : Nat), c.on (Reg.TM_POL_CFG i) Fd.TM_POL_CFG_AWARE = false := ⟨up, 0, by decide +kernel⟩

theorem wit_RestartKeeps_1 : ∃ code : Nat, 0 < code ∧ code < 7 := ⟨4, by decide +kernel, by decide +kernel⟩

theorem wit_RestartKeeps_2 : ∃ (a b : Nat), a < 2 ^ 60 ∧ 2 ^ 60 ≤ b := ⟨5, 2 ^ 60, by decide +kernel, by decide +kernel⟩

theorem wit_RestartKeeps_3 : ∃ c : Chip, c.boot.phase = 0 ∧ c.boot.trimmed = false ∧ c.boot.causes ≠ [] := ⟨{ Chip.reset with boot.phase := 0, boot.trimmed := false, boot.causes := [0] }, rfl, rfl, by decide +kernel⟩

theorem wit_MailboxCommandWrite_1 : ∃ (s : State) (rq : Req) (a k op : Nat) (d : RegDesc) (ix : List Nat) (m : Mbx), op < 2 ^ 16 ∧ s.chip.target rq a = some (k, d, ix) ∧ mbxOfCmd k = some m ∧ a % 4 = 0 ∧ s.chip.addrOff k = false ∧ (m = .rstBlk → op = 1) ∧ (s.chip.mbxFind m).isSome = true := ⟨st { up with mbx := [⟨.flt, 1, 1, [], none, true⟩] }, .pf, Reg.FLT_MBX_CMD, Reg.FLT_MBX_CMD, 1, (rowOf Reg.FLT_MBX_CMD (by decide +kernel)).1, (rowOf Reg.FLT_MBX_CMD (by decide +kernel)).2, .flt, by decide +kernel, by decide +kernel, by decide +kernel, by decide +kernel, (show _ from by decide +kernel), by decide +kernel, by decide +kernel⟩

theorem wit_MailboxCommandWrite_2 : ∃ (rq : Req) (j : Nat), j ≠ statusOf rq ∧ j ≠ errAddrOf rq := ⟨.vf 3, 0, by decide +kernel, by decide +kernel⟩

theorem wit_MailboxCommandWrite_3 : ∃ (s : State) (rq : Req) (a k op : Nat) (d : RegDesc) (ix : List Nat) (m : Mbx), op < 2 ^ 16 ∧ s.chip.target rq a = some (k, d, ix) ∧ mbxOfCmd k = some m ∧ a % 4 = 0 ∧ s.chip.addrOff k = false ∧ (m = .rstBlk → op = 1) ∧ m.allows .pf = true ∧ s.chip.mbxFind m = none ∧ s.chip.mbxServed m op = false := ⟨st Chip.reset, .pf, Reg.FLT_MBX_CMD, Reg.FLT_MBX_CMD, 1, (rowOf Reg.FLT_MBX_CMD (by decide +kernel)).1, (rowOf Reg.FLT_MBX_CMD (by decide +kernel)).2, .flt, by decide +kernel, by decide +kernel, by decide +kernel, by decide +kernel, (show _ from by decide +kernel), by decide +kernel, by decide +kernel, by decide +kernel, by decide +kernel⟩

theorem wit_MailboxCommandWrite_4 : ∃ (s : State) (rq : Req) (a k op : Nat) (d : RegDesc) (ix : List Nat) (m : Mbx), op < 2 ^ 16 ∧ s.chip.target rq a = some (k, d, ix) ∧ mbxOfCmd k = some m ∧ a % 4 = 0 ∧ s.chip.addrOff k = false ∧ (m = .rstBlk → op = 1) ∧ m.allows .pf = true ∧ s.chip.mbxFind m = none ∧ s.chip.mbxServed m op = true ∧ (m = .flt → op = 3 → s.chip.injectCritical (s.chip.mbxArgs m) = false) := ⟨st up, .pf, Reg.PWR_MBX_CMD, Reg.PWR_MBX_CMD, 1, (rowOf Reg.PWR_MBX_CMD (by decide +kernel)).1, (rowOf Reg.PWR_MBX_CMD (by decide +kernel)).2, .pwr, by decide +kernel, by decide +kernel, by decide +kernel, by decide +kernel, (show _ from by decide +kernel), by decide +kernel, by decide +kernel, by decide +kernel, by decide +kernel, (show _ from by decide +kernel)⟩

theorem wit_DatumReadsLatch_1 : ∃ (s : State) (rq : Req) (clk : Fin 3) (pps : Bool), rq.priv = true ∧ s.chip.addrOff (nsReg clk.val pps) = false := ⟨st (on [116] up), .pf, 2, true, rfl, by decide +kernel⟩

theorem wit_DatumReadsLatch_2 : ∃ (s : State) (rq : Req) (clk : Fin 3) (pps : Bool) (j v : Nat), rq.priv = true ∧ s.chip.addrOff j = false ∧ j ∈ dtmGroup (nsReg clk.val pps) ∧ (s.chip.latchOf rq latDtm).find? (fun x => x.1 == j) = some (j, v) := ⟨st { on [116] up with latches := [⟨.pf, 1, [(0x50124, 7)]⟩] }, .pf, 0, false, 0x50124, 7, rfl, by decide +kernel, by decide +kernel, by decide +kernel⟩

theorem wit_BankOrder_1 : ∃ (b : Bank) (old : BankReq → Bool) (r : BankReq) (aged : Bool), bankPick b old = some (r, aged) ∧ b.queue.any (·.hazard) = true := ⟨⟨none, [⟨3, false, 1, 0, false, false⟩, ⟨1, true, 1, 0, true, false⟩]⟩, fun _ => true, ⟨3, false, 1, 0, false, false⟩, false, by decide +kernel, by decide +kernel⟩

theorem wit_BankOrder_2 : ∃ (b : Bank) (old : BankReq → Bool) (r : BankReq) (aged : Bool), bankPick b old = some (r, aged) ∧ b.queue.any (·.hazard) = false ∧ b.queue.any old = true := ⟨⟨none, [⟨1, false, 1, 9, false, false⟩, ⟨3, false, 2, 0, false, false⟩]⟩, fun x => x.at_ == 0, ⟨3, false, 2, 0, false, false⟩, true, by decide +kernel, by decide +kernel, by decide +kernel⟩

theorem wit_BankOrder_3 : ∃ (b : Bank) (old : BankReq → Bool) (r : BankReq) (aged : Bool), bankPick b old = some (r, aged) ∧ b.queue.any (·.hazard) = false ∧ b.queue.any old = false := ⟨⟨some 2, [⟨1, false, 1, 9, false, false⟩, ⟨1, false, 2, 0, false, false⟩, ⟨3, false, 2, 0, false, false⟩]⟩, fun _ => false, ⟨1, false, 2, 0, false, false⟩, false, by decide +kernel, by decide +kernel, by decide +kernel⟩

theorem wit_BankOrder_4 : ∃ (b : Bank) (old : BankReq → Bool) (r : BankReq) (aged : Bool), bankPick b old = some (r, aged) ∧ b.queue.any (·.hazard) = false ∧ b.queue.any old = false ∧ (b.queue.any (fun x => decide (x.cls = r.cls) && decide (b.openRow = some x.row))) = false := ⟨⟨some 2, [⟨3, false, 2, 9, false, false⟩, ⟨1, false, 1, 0, false, false⟩]⟩, fun _ => false, ⟨1, false, 1, 0, false, false⟩, false, by decide +kernel, by decide +kernel, by decide +kernel, by decide +kernel⟩

theorem wit_BankOrder_5 : ∃ (c : Chip) (key : Nat) (r : BankReq) (aged : Bool), bankPick (mget noBank c.hbm.banks key) (c.reqOld (key / 65536)) = some (r, aged) := ⟨{ up with hbm.banks := [(5, ⟨none, [⟨1, false, 1, 0, false, false⟩]⟩)] }, 5, ⟨1, false, 1, 0, false, false⟩, false, by decide +kernel⟩

theorem wit_HartCounters_1 : ∃ (c : Chip) (h r n : Nat), 2 ^ 64 ≤ (c.pmuGet h r).toNat + n ∧ (mget (fun _ => 0) c.dbg.pmuIrq h).getLsbD (pmuCtrs.idxOf r) = true ∧ mfind c.dbg.pmuWait h = none := ⟨{ up with dbg.pmu := [(8192 + 0xB00, 2 ^ 64 - 1)], dbg.pmuIrq := [(1, 1)] }, 1, 0xB00, 1, by decide +kernel, by decide +kernel, by decide +kernel⟩

theorem wit_HartCounters_2 : ∃ (c : Chip) (h r n : Nat), (c.pmuGet h r).toNat + n < 2 ^ 64 ∧ (mget (fun _ => 0) c.dbg.pmuIrq h).getLsbD (pmuCtrs.idxOf r) = true ∧ mfind c.dbg.pmuWait h = none := ⟨{ up with dbg.pmuIrq := [(1, 1)] }, 1, 0xB00, 1, by decide +kernel, by decide +kernel, by decide +kernel⟩

theorem wit_HartCounters_3 : ∃ (c : Chip) (h retired left : Nat) (k : Fin 7), mfind c.dbg.pmuWait h = some (left, k) ∧ left ≤ retired := ⟨{ up with dbg.pmuWait := [(2, (6, 6))] }, 2, 6, 6, 6, by decide +kernel, by decide +kernel⟩

theorem wit_HartCounters_4 : ∃ (c : Chip) (h retired left : Nat) (k : Fin 7), mfind c.dbg.pmuWait h = some (left, k) ∧ retired < left := ⟨{ up with dbg.pmuWait := [(2, (6, 6))] }, 2, 5, 6, 6, by decide +kernel, by decide +kernel⟩
end Sys2Proof.Tests
end

section
/-!
PROOFS. The commands of a packet's path: what each answers, case by case as its definition distinguishes them, and from that O5.
-/

namespace Sys2Proof.Machine

namespace Chip

/-! RECEIVE_FRAME: the counter of a frame (R116), the receive queue (R364), and the frames that reach neither. -/

/-- The PORT_CNT index that a whole frame of port n counts in (R116). -/
def rxKind (c : Chip) (n : Nat) (f : RxFrame) : Nat :=
  rxCounter (f.bytes.length + 4) (c.fld (Reg.PORT_CFG n) Fd.PORT_CFG_MAXFRAME) (f.codeErr || decide (0 < f.uncorrCw)) f.fcsGood
    (etherType f.bytes == 0x8808)

/-- A good frame of port n has been counted: the frame, its octets, and the event of its panel. -/
def countGood (c : Chip) (n : Nat) (f : RxFrame) : Chip :=
  ((c.bump (Reg.PORT_CNT n 0) 1).bump (Reg.PORT_CNT n 1) (f.bytes.length + 4)).pmcEvent (0x18 + n / 32) 1 1

/-- The receive queue of panel p can take no frame: the slice takes frames of the panel, and 64 wait for it (R23, R364). -/
def queueFull (c : Chip) (p : Nat) : Bool :=
  c.bridleWaits p && decide (64 ≤ (c.pipe.bridle.filter (fun g => g.port / 32 == p)).length)

section
variable {c : Chip} {n : Nat} {f : RxFrame}

theorem opReceiveFrame_unlocked (h : c.rxLocked n = false) : c.opReceiveFrame n f = c := by simp [opReceiveFrame, h]

theorem opReceiveFrame_noFrame (h : c.rxLocked n = true) (hf : f.noFrame = true) : c.opReceiveFrame n f = c.countFec n f := by
  simp [opReceiveFrame, h, hf]

theorem opReceiveFrame_inFault (h : c.rxLocked n = true) (hf : f.noFrame = false) (hp : c.pState n = pFault) :
    c.opReceiveFrame n f = (c.countFec n f).bump (Reg.PORT_CNT n 3) 1 := by
  simp [opReceiveFrame, h, hf, hp]

theorem opReceiveFrame_whole (h : c.rxLocked n = true) (hf : f.noFrame = false) (hp : c.pState n ≠ pFault) :
    c.opReceiveFrame n f = (c.countFec n f).rxFrame n f (c.ingressTime n) := by
  simp [opReceiveFrame, h, hf, hp]

variable {k : Nat} {t : Nat × Nat}

/-- A frame that is neither good nor for flow control is counted and goes no further. -/
theorem rxFrame_discarded (h : c.rxKind n f = k) (h0 : k ≠ 0) (h8 : k ≠ 8) : c.rxFrame n f t = c.bump (Reg.PORT_CNT n k) 1 := by
  unfold rxKind at h
  simp only [rxFrame, h, if_neg h0, if_neg h8]

theorem rxFrame_pfc (h : c.rxKind n f = 8) (ho : beNat (slice f.bytes 14 2) = 0x0101) :
    c.rxFrame n f t = (c.bump (Reg.PORT_CNT n 8) 1).flowFrame n true (byteAt f.bytes 17)
      ((List.range 8).map (fun p => beNat (slice f.bytes (18 + 2 * p) 2))) := by
  unfold rxKind at h
  simp [rxFrame, h, ho]

theorem rxFrame_pause (h : c.rxKind n f = 8) (ho : beNat (slice f.bytes 14 2) = 0x0001) :
    c.rxFrame n f t = (c.bump (Reg.PORT_CNT n 8) 1).flowFrame n false 0 [beNat (slice f.bytes 16 2)] := by
  unfold rxKind at h
  simp [rxFrame, h, ho]

theorem rxFrame_otherControl (h : c.rxKind n f = 8) (h1 : beNat (slice f.bytes 14 2) ≠ 0x0101)
    (h2 : beNat (slice f.bytes 14 2) ≠ 0x0001) : c.rxFrame n f t = c.bump (Reg.PORT_CNT n 8) 1 := by
  unfold rxKind at h
  simp [rxFrame, h, h1, h2]

theorem rxFrame_good (h : c.rxKind n f = 0) : c.rxFrame n f t = (c.countGood n f).toBridle ⟨n, f.bytes, t.1, t.2⟩ := by
  unfold rxKind at h
  simp [rxFrame, h, countGood]

theorem toBridle_room {g : BFrame} (h : c.queueFull (g.port / 32) = false) :
    c.toBridle g = { c with pipe.bridle := c.pipe.bridle ++ [g] } :=
  if_neg (by simpa [queueFull] using h)

theorem toBridle_full {g : BFrame} (h : c.queueFull (g.port / 32) = true) :
    c.toBridle g = c.bump (Reg.PWR_PANEL_DISCARD (g.port / 32) 0) 1 :=
  if_pos h

end

/-! BRIDLE_INGRESS: the reasons for a discard come in a fixed order, and a frame that meets none is admitted (R230). -/

section
variable {c : Chip} {p : Nat} {f : BFrame}

theorem opBridleIngress_empty (h : c.pipe.bridle.find? (fun f => f.port / 32 == p) = none) : c.opBridleIngress p = c := by
  simp [opBridleIngress, h]

variable (h : c.pipe.bridle.find? (fun f => f.port / 32 == p) = some f) (hf : c.forwards = true)
include h hf

theorem opBridleIngress_standby (hs : c.standby = true) :
    c.opBridleIngress p = ({ c with pipe.bridle := c.pipe.bridle.erase f }).bump (Reg.TET_CNT 7) 1 := by
  simp [opBridleIngress, h, hf, hs]

theorem opBridleIngress_entering (hs : c.standby = false) (he : c.pwr.entry.isSome = true) :
    c.opBridleIngress p = ({ c with pipe.bridle := c.pipe.bridle.erase f }).bump (Reg.PWR_PANEL_DISCARD p 1) 1 := by
  simp [opBridleIngress, h, hf, hs, he]

theorem opBridleIngress_stopped (hs : c.standby = false) (he : c.pwr.entry.isSome = false) (hb : c.bridleStopped p = true) :
    c.opBridleIngress p = ({ c with pipe.bridle := c.pipe.bridle.erase f }).bump (Reg.FLT_PANEL_CNT p 0) 1 := by
  simp only [opBridleIngress, h, hf, hs, he, hb]
  rfl

theorem opBridleIngress_admitted (hs : c.standby = false) (he : c.pwr.entry.isSome = false) (hb : c.bridleStopped p = false) :
    c.opBridleIngress p = ({ c with pipe.bridle := c.pipe.bridle.erase f }).admitHead f ((c.serving p).getD p) := by
  simp only [opBridleIngress, h, hf, hs, he, hb]
  rfl

end

/-! PARSE_HEAD: a received head goes first, but for the slot of 384 that is reserved for the others. -/

section
variable {c : Chip} {s : Nat} {hits : List Hit} {h : Head}

theorem opParseHead_received (hh : (c.strike hits).pipe.heads.find? (fun h => h.slice == s) = some h)
    (hr : mget (fun _ => 0) (c.strike hits).pipe.slotNo s ≠ 383 ∨ (c.strike hits).otherWaits s = false) :
    c.opParseHead s hits = { (c.strike hits).slotUp s with
      pipe.heads := ((c.strike hits).slotUp s).pipe.heads.erase h }.runHead s h := by
  have notReserved : ¬ (mget (fun _ => 0) (c.strike hits).pipe.slotNo s = 383 ∧ (c.strike hits).otherWaits s = true) := by
    rintro ⟨h383, hw⟩
    rcases hr with hr | hr
    · exact hr h383
    · exact Bool.false_ne_true (hr.symm.trans hw)
  simp only [opParseHead, hh, if_neg notReserved]

theorem opParseHead_reserved (hh : (c.strike hits).pipe.heads.find? (fun h => h.slice == s) = some h)
    (hr : mget (fun _ => 0) (c.strike hits).pipe.slotNo s = 383) (hw : (c.strike hits).otherWaits s = true) :
    c.opParseHead s hits = ((c.strike hits).slotUp s).runOther s := by
  simp only [opParseHead, hh, if_pos (And.intro hr hw)]

theorem opParseHead_other (hh : (c.strike hits).pipe.heads.find? (fun h => h.slice == s) = none)
    (hw : (c.strike hits).otherWaits s = true) : c.opParseHead s hits = ((c.strike hits).slotUp s).runOther s := by
  simp [opParseHead, hh, hw]

theorem opParseHead_idle (hh : (c.strike hits).pipe.heads.find? (fun h => h.slice == s) = none)
    (hw : (c.strike hits).otherWaits s = false) : c.opParseHead s hits = c.strike hits := by
  simp [opParseHead, hh, hw]

end

/-! RESIDENCE_OVERRUN: a packet at a pattern engine goes before one in the replication queue (R16). -/

section
variable {c : Chip} {s : Nat}

theorem opResidenceOverrun_scan {x : PatReq}
    (h : c.pipe.patQ.find? (fun x => x.pkt.md.slice == s && x.pkt.gen == c.gen s && c.overdue x.pkt.stampAt) = some x) :
    c.opResidenceOverrun s = c.scanLate x := by
  simp only [opResidenceOverrun, h]

theorem opResidenceOverrun_copies {x : ReplReq}
    (h : c.pipe.patQ.find? (fun x => x.pkt.md.slice == s && x.pkt.gen == c.gen s && c.overdue x.pkt.stampAt) = none)
    (hx : c.pipe.replQ.find? (fun x => x.pkt.md.slice == s && c.overdue x.pkt.stampAt) = some x) :
    c.opResidenceOverrun s = c.replLate x := by
  simp only [opResidenceOverrun, h, hx]

end

/-! PATTERN_SCAN: a window of a former generation is dropped, an overdue one is resolved without a scan, any other is scanned unless
a cell of it is uncorrectable (R188, R189, R339). -/

section
variable {c : Chip} {n : Nat} {hits : List Hit} {x : PatReq}
  (h : (c.strike hits).pipe.patQ.find? (fun x => x.engine == n) = some x)
include h

theorem opPatternScan_formerGen (hg : x.pkt.gen ≠ (c.strike hits).gen x.pkt.md.slice) :
    c.opPatternScan n hits
      = { c.strike hits with pipe.patQ := (c.strike hits).pipe.patQ.erase x }.bump (Reg.FLT_CNT 37) 1 := by
  simp only [opPatternScan, h, if_pos hg]

variable (hg : x.pkt.gen = (c.strike hits).gen x.pkt.md.slice)
include hg

theorem opPatternScan_overdue (ho : (c.strike hits).overdue x.pkt.stampAt = true) :
    c.opPatternScan n hits = (c.strike hits).scanLate x := by
  simp only [opPatternScan, h, if_neg (Decidable.not_not.2 hg), if_pos ho]

variable (ho : (c.strike hits).overdue x.pkt.stampAt = false)
include ho

theorem opPatternScan_scans
    (hb : ((c.strike hits).readCells ((c.strike hits).cellsOfBytes x.pkt.head.chain x.first x.last)).2 = false) :
    c.opPatternScan n hits
      = (((c.strike hits).readCells ((c.strike hits).cellsOfBytes x.pkt.head.chain x.first x.last)).1.scanReq x).1.scanned x
          (((c.strike hits).readCells ((c.strike hits).cellsOfBytes x.pkt.head.chain x.first x.last)).1.scanReq x).2 := by
  simp [opPatternScan, h, hg, ho, hb]

theorem opPatternScan_poisoned
    (hb : ((c.strike hits).readCells ((c.strike hits).cellsOfBytes x.pkt.head.chain x.first x.last)).2 = true) :
    c.opPatternScan n hits
      = ((c.strike hits).readCells ((c.strike hits).cellsOfBytes x.pkt.head.chain x.first x.last)).1.scanned x
          (poison (applyAction x.pkt x.act 0x40)) := by
  simp [opPatternScan, h, hg, ho, hb]

end

/-! REPLICATION_COPY (R213). -/

section
variable {c : Chip} {s : Nat} {hits : List Hit} {x : ReplReq}
  (h : (c.strike hits).pipe.replQ.find? (fun x => x.pkt.head.slice == s) = some x)
include h

theorem opReplicationCopy_next (ho : (c.strike hits).overdue x.pkt.stampAt = false) :
    c.opReplicationCopy s hits = (c.strike hits).replStep x := by
  simp [opReplicationCopy, h, ho]

theorem opReplicationCopy_overdue (ho : (c.strike hits).overdue x.pkt.stampAt = true) :
    c.opReplicationCopy s hits = (c.strike hits).replLate x := by
  simp [opReplicationCopy, h, ho]

end

/-! HEAD_CACHE_REFILL (R231). -/

/-- The head cells that a refill of slice s takes: what the cache lacks of 64, from the head reserve and the shared part. -/
def refillCount (c : Chip) (s : Nat) : Nat :=
  min (64 - (c.cache s).length)
    (min (c.fld Reg.BPM_HEAD_CFG Fd.BPM_HEAD_CFG_RSV - c.kindUsed 2 + (max 0 c.sharedAvail).toNat) c.cellsFree)

theorem opHeadCacheRefill_on {c : Chip} {s : Nat} (he : c.on Reg.BPM_CTRL Fd.BPM_CTRL_EN = true) (hd : c.domOn (80 + s) = true) :
    c.opHeadCacheRefill s = (c.allocCells (c.refillCount s) 2 (c.ownerOf (0x20 + s) 0)).1.setCache s
      (c.cache s ++ (c.allocCells (c.refillCount s) 2 (c.ownerOf (0x20 + s) 0)).2) := by
  simp only [opHeadCacheRefill, he, hd]
  rfl

end Chip

open Chip

/-! Each command of the path acts on the chip alone: the byte memories and the queue stay. -/

section
variable {s : State} {c : Chip}

theorem exec_receiveFrame {port : Fin 256} {f : RxFrame} (h : s.chip.opReceiveFrame port f = c) :
    exec (.receiveFrame port f) s = .next (s.withChip c) := h ▸ rfl

theorem exec_bridleIngress {panel : Fin 8} (h : s.chip.opBridleIngress panel = c) :
    exec (.bridleIngress panel) s = .next (s.withChip c) := h ▸ rfl

theorem exec_parseHead {slice : Fin 9} {hits : List Hit} (h : s.chip.opParseHead slice hits = c) :
    exec (.parseHead slice hits) s = .next (s.withChip c) := h ▸ rfl

theorem exec_residenceOverrun {slice : Fin 9} (h : s.chip.opResidenceOverrun slice = c) :
    exec (.residenceOverrun slice) s = .next (s.withChip c) := h ▸ rfl

theorem exec_patternScan {engine : Fin 4} {hits : List Hit} (h : s.chip.opPatternScan engine hits = c) :
    exec (.patternScan engine hits) s = .next (s.withChip c) := h ▸ rfl

theorem exec_replicationCopy {slice : Fin 9} {hits : List Hit} (h : s.chip.opReplicationCopy slice hits = c) :
    exec (.replicationCopy slice hits) s = .next (s.withChip c) := h ▸ rfl

theorem exec_headCacheRefill {slice : Fin 9} (h : s.chip.opHeadCacheRefill slice = c) :
    exec (.headCacheRefill slice) s = .next (s.withChip c) := h ▸ rfl

/-- A whole frame of a port that is not in fault: what the FEC found is counted, then the frame is classified (R111, R116). -/
theorem exec_receiveFrame_whole {port : Fin 256} {f : RxFrame} (hl : s.chip.rxLocked port = true) (hf : f.noFrame = false)
    (hp : s.chip.pState port ≠ pFault) (h : (s.chip.countFec port f).rxFrame port f (s.chip.ingressTime port) = c) :
    exec (.receiveFrame port f) s = .next (s.withChip c) :=
  exec_receiveFrame ((opReceiveFrame_whole hl hf hp).trans h)

end

/-- Settles O5: command by command, one case of its operation for each clause. -/
theorem framePathActs : Obligations.FramePathActs := by
  unfold Obligations.FramePathActs
  refine ⟨?discarded, ?pfc, ?pause, ?otherControl, ?delivered, ?queueFull, ?noFrame, ?inFault, ?unlocked,
    ?noneWaits, ?standby, ?entering, ?stopped, ?admitted, ?received, ?reserved, ?other, ?idle,
    ?lateScan, ?lateCopies, ?formerGen, ?overdueScan, ?scans, ?poisoned, ?nextCopy, ?overdueCopies, ?refill⟩
  case discarded => exact fun s port f k hl hf hp hk ⟨h0, h8⟩ => exec_receiveFrame_whole hl hf hp (rxFrame_discarded hk h0 h8)
  case pfc => exact fun s port f hl hf hp hk ho => exec_receiveFrame_whole hl hf hp (rxFrame_pfc hk ho)
  case pause => exact fun s port f hl hf hp hk ho => exec_receiveFrame_whole hl hf hp (rxFrame_pause hk ho)
  case otherControl =>
    exact fun s port f hl hf hp hk ⟨h1, h2⟩ => exec_receiveFrame_whole hl hf hp (rxFrame_otherControl hk h1 h2)
  case delivered =>
    exact fun s port f hl hf hp hk hq => exec_receiveFrame_whole hl hf hp ((rxFrame_good hk).trans (toBridle_room hq))
  case queueFull =>
    exact fun s port f hl hf hp hk hq => exec_receiveFrame_whole hl hf hp ((rxFrame_good hk).trans (toBridle_full hq))
  case noFrame => exact fun s port f hl hf => exec_receiveFrame (opReceiveFrame_noFrame hl hf)
  case inFault => exact fun s port f hl hf hp => exec_receiveFrame (opReceiveFrame_inFault hl hf hp)
  case unlocked => exact fun s port f hl => exec_receiveFrame (opReceiveFrame_unlocked hl)
  case noneWaits => exact fun s panel h => exec_bridleIngress (opBridleIngress_empty h)
  case standby => exact fun s panel f h hf hs => exec_bridleIngress (opBridleIngress_standby h hf hs)
  case entering => exact fun s panel f h hf hs he => exec_bridleIngress (opBridleIngress_entering h hf hs he)
  case stopped => exact fun s panel f h hf hs he hb => exec_bridleIngress (opBridleIngress_stopped h hf hs he hb)
  case admitted => exact fun s panel f h hf hs he hb => exec_bridleIngress (opBridleIngress_admitted h hf hs he hb)
  case received => exact fun s slice hits h hh hr => exec_parseHead (opParseHead_received hh hr)
  case reserved => exact fun s slice hits h hh hr hw => exec_parseHead (opParseHead_reserved hh hr hw)
  case other => exact fun s slice hits hh hw => exec_parseHead (opParseHead_other hh hw)
  case idle => exact fun s slice hits hh hw => exec_parseHead (opParseHead_idle hh hw)
  case lateScan => exact fun s slice x h => exec_residenceOverrun (opResidenceOverrun_scan h)
  case lateCopies => exact fun s slice x h hx => exec_residenceOverrun (opResidenceOverrun_copies h hx)
  case formerGen => exact fun s engine hits x h hg => exec_patternScan (opPatternScan_formerGen h hg)
  case overdueScan => exact fun s engine hits x h hg ho => exec_patternScan (opPatternScan_overdue h hg ho)
  case scans => exact fun s engine hits x h hg ho hb => exec_patternScan (opPatternScan_scans h hg ho hb)
  case poisoned => exact fun s engine hits x h hg ho hb => exec_patternScan (opPatternScan_poisoned h hg ho hb)
  case nextCopy => exact fun s slice hits x h ho => exec_replicationCopy (opReplicationCopy_next h ho)
  case overdueCopies => exact fun s slice hits x h ho => exec_replicationCopy (opReplicationCopy_overdue h ho)
  case refill => exact fun s slice he hd => exec_headCacheRefill (opHeadCacheRefill_on he hd)

end Sys2Proof.Machine
end

section
/-!
PROOFS. The supply, reset and clock inputs: what each does, case by case as its definition distinguishes them, and from that O1.
-/

namespace Sys2Proof.Machine

namespace Chip

/-! A reset source that is alone in its AON cycle is judged on the chip as it stands (R77). -/

theorem firstInCycle_congr {c d : Chip} (hb : c.boot = d.boot) (hn : c.now = d.now) : c.firstInCycle = d.firstInCycle := by
  unfold firstInCycle sameCycle
  rw [hb, hn]

theorem asBefore_of_firstInCycle {c : Chip} (h : c.firstInCycle = true) : c.asBefore = c := by
  unfold asBefore
  rw [Option.isNone_iff_eq_none.1 h]

/-- A power-on reset that is alone in its AON cycle takes effect under both profiles (R75, R76). -/
theorem resetSource_powerOn {c : Chip} (m : Store) (h : c.firstInCycle = true) :
    resetSource 0 m c = (m.lostHbm, (c.cutFrames (fun _ => true)).restarted 0) :=
  resetSource_first c 0 m (.inr (by decide)) h

/-! RESET_N (R34, R42). -/

section
variable {c : Chip} {held : Nat}

theorem resetTaken_long (h : (if c.boot.trimmed then 1000000 else 1100000) ≤ held) : c.resetTaken held = true := by
  unfold resetTaken
  cases ht : c.boot.trimmed with
  | true =>
    rw [ht, if_pos rfl] at h
    simp only [if_true, decide_eq_true h, Bool.true_or]
  | false =>
    rw [ht, if_neg Bool.false_ne_true] at h
    simp only [Bool.false_eq_true, if_false, decide_eq_true h, Bool.true_or]

theorem resetTaken_short (h : held < (if c.boot.trimmed then 900000 else 850000)) : c.resetTaken held = false := by
  unfold resetTaken
  cases ht : c.boot.trimmed with
  | true =>
    rw [ht, if_pos rfl] at h
    simp only [if_true, decide_eq_false (show ¬ 1000000 ≤ held by omega), decide_eq_false (show ¬ 900000 ≤ held by omega),
      Bool.false_and, Bool.or_false]
  | false =>
    rw [ht, if_neg Bool.false_ne_true] at h
    simp only [Bool.false_eq_true, if_false, decide_eq_false (show ¬ 1100000 ≤ held by omega),
      decide_eq_false (show ¬ 850000 ≤ held by omega), Bool.false_and, Bool.or_false]

variable {rises : Bool} {straps : Straps} {m : Store}

/-- A low level that counts is reset source 1; r is the chip that it leaves. -/
theorem opResetNLow_taken {r : Chip} (hn : c.pins.resetN = true) (ha : c.pins.vddAon = true)
    (hl : (if c.boot.trimmed then 1000000 else 1100000) ≤ held) (hf : c.firstInCycle = true)
    (hr : ({ c.tick with pins.straps := straps, pins.resetN := false }.cutFrames (fun _ => true)).restarted 1 = r) :
    c.opResetNLow held rises straps m = (m.lostHbm, if rises then r.resetNHigh else r) := by
  have hs := resetSource_first { c.tick with pins.straps := straps, pins.resetN := false } 1 m (.inr (by decide))
    ((firstInCycle_congr rfl rfl).trans hf)
  rw [hr] at hs
  have ht : c.asBefore.resetTaken held = true := by rw [asBefore_of_firstInCycle hf]; exact resetTaken_long hl
  exact (if_neg (by simp [hn])).trans ((if_pos ⟨ha, ht⟩).trans
    (congrArg (fun x : Store × Chip => (x.1, if rises then x.2.resetNHigh else x.2)) hs))

/-- A low level too short to count resets nothing: the straps are as they came, and a free value is used. -/
theorem opResetNLow_short (hn : c.pins.resetN = true) (hl : held < (if c.boot.trimmed then 900000 else 850000))
    (hf : c.firstInCycle = true) : c.opResetNLow held rises straps m = (m, { c.tick with pins.straps := straps }) := by
  have ht : c.asBefore.resetTaken held = false := by rw [asBefore_of_firstInCycle hf]; exact resetTaken_short hl
  simp [opResetNLow, hn, ht]

/-- A low level that was taken before goes on, and counts no second time. -/
theorem opResetNLow_goesOn (hn : c.pins.resetN = false) :
    c.opResetNLow held rises straps m
      = (m, if rises then ({ c.tick with pins.straps := straps } : Chip).resetNHigh else { c.tick with pins.straps := straps }) := by
  simp [opResetNLow, hn]

end

/-! SUPPLY_GOOD and VDD_AON (R42 to R44, R358). -/

section
variable {c : Chip} {held n : Nat} {straps : Straps} {m : Store}

theorem opSupplyGoodHigh_boots (hl : 100 * usPs ≤ held) (hg : c.pins.supplyGood = false) (hp : c.pwrState ≠ 3) :
    c.opSupplyGoodHigh held straps m
      = (m, { c with pins.supplyGood := true, pins.vddAon := true, pins.straps := straps, pwr.stowed := false }.tryB1) := by
  simp [opSupplyGoodHigh, Nat.not_lt.2 hl, hg, hp]

/-- From Stowed the supply's return is a power-on. -/
theorem opSupplyGoodHigh_stowed (hl : 100 * usPs ≤ held) (hg : c.pins.supplyGood = false) (hp : c.pwrState = 3)
    (hf : c.firstInCycle = true) :
    c.opSupplyGoodHigh held straps m = (m.lostHbm,
      { (c.cutFrames (fun _ => true)).restarted 0 with
        pins.supplyGood := true, pins.vddAon := true, pins.straps := straps, pwr.stowed := false }.tryB1) := by
  simp [opSupplyGoodHigh, Nat.not_lt.2 hl, hg, hp, resetSource_powerOn m hf]

/-- The engine quenches, restarts, and its live stacks enter self-refresh. -/
theorem opSupplyGoodLow_restarts (hn : 10 ≤ n) (hg : c.pins.supplyGood = true) (hp : c.pwrState ≠ 3) (hf : c.firstInCycle = true) :
    c.opSupplyGoodLow n m = (m.lostHbm, c.liveStacks.foldl (fun c d => c.setDom d domRetained)
      ((({ c with pins.supplyGood := false } : Chip).startQuench.cutFrames (fun _ => true)).restarted 0)) := by
  have hq : ({ c with pins.supplyGood := false } : Chip).startQuench.firstInCycle = true := (firstInCycle_congr rfl rfl).trans hf
  simp [opSupplyGoodLow, Nat.not_lt.2 hn, hg, hp, resetSource_powerOn m hq]

theorem opSupplyGoodLow_stows (hn : 10 ≤ n) (hg : c.pins.supplyGood = true) (hp : c.pwrState = 3) :
    c.opSupplyGoodLow n m = (m, { c with pins.supplyGood := false, pwr.stowed := true }) := by
  simp [opSupplyGoodLow, Nat.not_lt.2 hn, hg, hp]

theorem tearJournal_boot : c.tearJournal.boot = c.boot := by
  unfold tearJournal
  repeat' split
  all_goals rfl

theorem tearJournal_now : c.tearJournal.now = c.now := by
  unfold tearJournal
  repeat' split
  all_goals rfl

/-- The loss of VDD_AON is a power-on reset; c1 is the chip once a journal write in progress has met it. -/
theorem opVddAonLoss_restarts {c1 : Chip} (ha : c.pins.vddAon = true) (hf : c.firstInCycle = true)
    (h1 : (if c.pins.supplyGood then c.tearJournal.tick else c) = c1) :
    c.opVddAonLoss m = (m.lostHbm,
      ({ c1 with pins.vddAon := false, pins.supplyGood := false, pins.thermtrip := false }.cutFrames (fun _ => true)).restarted 0) := by
  have hb : c1.boot = c.boot := by
    subst h1
    split
    · exact tearJournal_boot
    · rfl
  have hn : c1.now = c.now := by
    subst h1
    split
    · exact tearJournal_now
    · rfl
  simp only [opVddAonLoss, ha, if_true, h1]
  exact resetSource_powerOn m ((firstInCycle_congr hb hn).trans hf)

end

/-! RAIL_OUT_OF_RANGE (R42, R347). -/

/-- The chip on which domain d has lost its rail: the loss is reported and the domain is off; its drain, the operations that waited
for it and an exit's wait for it have ended. -/
def railLost (c : Chip) (d : Nat) : Chip :=
  (({ c.domainFault d domOff with pwr.drains := (c.domainFault d domOff).pwr.drains.filter (fun x => x.dom != d) }.pwrEndDom
    4 d 0).pwrEndDom 5 d 4).exitStep d

section
variable {c : Chip} {d : Nat}

theorem opRailOutOfRange_lost (hg : c.pins.supplyGood = true) (hd : c.domState d ∈ [domRamping, domUp, domDraining, domRetained]) :
    c.opRailOutOfRange d = c.railLost d :=
  if_pos (by rw [hg, List.contains_iff_mem.2 hd]; rfl)

variable {act : Chip → Chip} {m : Store}

theorem withStack_other (h : d < 104 ∨ 108 ≤ d) : withStack d act m c = (m, act c) :=
  congrArg (·, act c) (if_neg fun hs => by omega)

/-- A stack that loses its power loses its bytes. -/
theorem withStack_stack (h : 104 ≤ d ∧ d < 108) :
    withStack d act m c = (if (act c).domState d ≠ c.domState d then m.lostStack (d - 104) else m, act c) := by
  simp [withStack, h]

end

/-! The sensors and the clock (R49, R50, R279, R348). -/

section
variable {c : Chip} {m : Store}

theorem opTempSample_sensor {n : Nat} {t : BitVec 12} (hn : n < 29) :
    c.opTempSample n t = (((c.wrN (Reg.PWR_TEMP n) (2 ^ 31 + t.toNat)).hotCheck n (tempOf t.toNat)).warnCheck n
      (tempOf t.toNat)).tripCheck n (tempOf t.toNat) :=
  if_neg (Nat.not_le.2 hn)

theorem opRefclkLoss_reports (hr : c.pins.refclk = true) (hb : c.boot.phase ≠ 0) :
    c.opRefclkLoss = { c.report 0x01 0 0x11 outCritical with pins.refclk := false } := by
  simp [opRefclkLoss, hr, hb]

theorem opRefclkLoss_inB0 (hr : c.pins.refclk = true) (hb : c.boot.phase = 0) :
    c.opRefclkLoss = { c with pins.refclk := false } := by
  simp [opRefclkLoss, hr, hb]

/-- The safety core answers the clock's return with a software cold reset. -/
theorem opRefclkRestored_restarts (hr : c.pins.refclk = false) (hp : c.plain = false) (hh : c.safetyHalted = false)
    (hs : c.safetyRuns = true) (hf : c.firstInCycle = true) :
    c.opRefclkRestored m = (m.lostHbm, ({ c with pins.refclk := true }.cutFrames (fun _ => true)).restarted 5) := by
  simp only [opRefclkRestored, hr, hp, hh, hs]
  exact resetSource_first _ 5 m (.inl hp) hf

/-- Without the safety core, or under the Plain profile, the clock just returns. -/
theorem opRefclkRestored_stays (hr : c.pins.refclk = false) (h : c.plain = true ∨ c.safetyHalted = true ∨ c.safetyRuns = false) :
    c.opRefclkRestored m = (m, { c with pins.refclk := true }) := by
  rcases h with h | h | h <;> simp [opRefclkRestored, hr, h]

end

/-! VBAT and PERST_N (R44, R78). -/

section
variable {c : Chip}

theorem opVbatLoss_bkp (ha : c.pins.vddAon = false) :
    c.opVbatLoss = { c with pins.vbat := false, pins.wakeOut := false, boot.bkpLost := true } := by
  simp [opVbatLoss, ha]

theorem opPerstAssert_clears (hp : c.pins.perstN = true) :
    c.opPerstAssert = { c.clearHost with
      pins.perstN := false,
      pwr.save := c.clearHost.pwr.save.map (fun a => { a with regs := a.regs.filter (fun x => domOfAddr x.1 != some 114) }) } :=
  if_pos hp

end

/-! The reset sources that are not software's (R75, R76, R327). -/

section
variable {c : Chip} {m : Store} (hf : c.firstInCycle = true)
include hf

theorem opSafetyWatchdogExpiry_restarts (hs : c.safetyRuns = true) (hp : c.plain = false) :
    c.opSafetyWatchdogExpiry m = (m.lostHbm, (c.cutFrames (fun _ => true)).restarted 3) := by
  simp [opSafetyWatchdogExpiry, asBefore_of_firstInCycle hf, hs, resetSource_first c 3 m (.inl hp) hf]

theorem opSafetyWatchdogExpiry_held (hs : c.safetyRuns = true) (hp : c.plain = true) :
    c.opSafetyWatchdogExpiry m = (m, c.holdPlain) := by
  simp [opSafetyWatchdogExpiry, asBefore_of_firstInCycle hf, hs, resetSource_plain c 3 m hp (by decide) hf]

/-- The event is recorded before the restart. -/
theorem opCriticalStateError_restarts (hp : c.plain = false) :
    c.opCriticalStateError m = (m.lostHbm, ((c.report 0x01 0 0x15 outCritical).cutFrames (fun _ => true)).restarted 6) := by
  have hr := resetSource_first (c.report 0x01 0 0x15 outCritical) 6 m (.inl ((plain_report ..).trans hp))
    ((firstInCycle_report ..).trans hf)
  simp [opCriticalStateError, hp, hr]

theorem opCriticalStateError_held (hp : c.plain = true) : c.opCriticalStateError m = (m, c.holdPlain) := by
  simp [opCriticalStateError, hp, resetSource_plain c 6 m hp (by decide) hf]

end

end Chip

open Chip

/-! A command that runs an operation goes on with what the operation answers; the queue stays. -/

section
variable {s : State} {m : Store} {c : Chip}

theorem runChip_eq {f : Chip → Chip} (h : f s.chip = c) : runChip s f = .next (s.withChip c) := h ▸ rfl

variable {f : Store → Chip → Store × Chip}

theorem runBoth_eq (h : f s.store s.chip = (m, c)) : runBoth s f = .next (s.withBoth m c) := by
  unfold runBoth
  rw [h]
  rfl

/-- An operation that answers the byte memories as they were changes the chip alone. -/
theorem runBoth_eq_withChip (h : f s.store s.chip = (s.store, c)) : runBoth s f = .next (s.withChip c) := runBoth_eq h

end

/-- A rail that fails takes its domain down; one that feeds no stack leaves the byte memories. -/
theorem exec_railOutOfRange_other {s : State} {dom : Fin 117} (hg : s.chip.pins.supplyGood = true)
    (hd : s.chip.domState dom ∈ [domRamping, domUp, domDraining, domRetained]) (h : dom.val < 104 ∨ 108 ≤ dom.val) :
    exec (.railOutOfRange dom) s = .next (s.withChip (s.chip.railLost dom)) :=
  runBoth_eq_withChip ((withStack_other h).trans (congrArg _ (opRailOutOfRange_lost hg hd)))

theorem exec_railOutOfRange_stack {s : State} {dom : Fin 117} (hg : s.chip.pins.supplyGood = true)
    (hd : s.chip.domState dom ∈ [domRamping, domUp, domDraining, domRetained]) (h : 104 ≤ dom.val ∧ dom.val < 108) :
    exec (.railOutOfRange dom) s = .next (s.withBoth
      (if (s.chip.railLost dom).domState dom ≠ s.chip.domState dom then s.store.lostStack (dom - 104) else s.store)
      (s.chip.railLost dom)) :=
  runBoth_eq ((withStack_stack h).trans (by rw [opRailOutOfRange_lost hg hd]))

/-- Settles O1: input by input, one case of its operation for each clause. -/
theorem suppliesAct : Obligations.SuppliesAct := by
  unfold Obligations.SuppliesAct
  refine ⟨?resetTaken, ?resetShort, ?resetGoesOn, ?supplyBoots, ?supplyStowed, ?supplyLost, ?supplyStows, ?aonLost, ?railOther,
    ?railStack, ?sensor, ?clockLost, ?clockLostInB0, ?clockCold, ?clockStays, ?vbatLost, ?perstLow, ?perstHigh,
    ?watchdog, ?watchdogHeld, ?critical, ?criticalHeld⟩
  case resetTaken => exact fun s held rises straps hn ha hl hf => runBoth_eq (opResetNLow_taken hn ha hl hf rfl)
  case resetShort => exact fun s held rises straps hn hl hf => runBoth_eq_withChip (opResetNLow_short hn hl hf)
  case resetGoesOn => exact fun s held rises straps hn => runBoth_eq_withChip (opResetNLow_goesOn hn)
  case supplyBoots => exact fun s held straps hl hg hp => runBoth_eq_withChip (opSupplyGoodHigh_boots hl hg hp)
  case supplyStowed => exact fun s held straps hl hg hp hf => runBoth_eq (opSupplyGoodHigh_stowed hl hg hp hf)
  case supplyLost => exact fun s n hn hg hp hf => runBoth_eq (opSupplyGoodLow_restarts hn hg hp hf)
  case supplyStows => exact fun s n hn hg hp => runBoth_eq_withChip (opSupplyGoodLow_stows hn hg hp)
  case aonLost => exact fun s ha hf => runBoth_eq (opVddAonLoss_restarts ha hf rfl)
  case railOther => exact fun s dom hg hd h => exec_railOutOfRange_other hg hd h
  case railStack => exact fun s dom hg hd h => exec_railOutOfRange_stack hg hd h
  case sensor => exact fun s n t hn => runChip_eq (opTempSample_sensor hn)
  case clockLost => exact fun s hr hb => runChip_eq (opRefclkLoss_reports hr hb)
  case clockLostInB0 => exact fun s hr hb => runChip_eq (opRefclkLoss_inB0 hr hb)
  case clockCold => exact fun s hr hp hh hs hf => runBoth_eq (opRefclkRestored_restarts hr hp hh hs hf)
  case clockStays => exact fun s hr h => runBoth_eq_withChip (opRefclkRestored_stays hr h)
  case vbatLost => exact fun s ha => runChip_eq (opVbatLoss_bkp ha)
  case perstLow => exact fun s hp => runChip_eq (opPerstAssert_clears hp)
  case perstHigh => exact fun s => runChip_eq rfl
  case watchdog => exact fun s hs hp hf => runBoth_eq (opSafetyWatchdogExpiry_restarts hf hs hp)
  case watchdogHeld => exact fun s hs hp hf => runBoth_eq_withChip (opSafetyWatchdogExpiry_held hf hs hp)
  case critical => exact fun s hp hf => runBoth_eq (opCriticalStateError_restarts hf hp)
  case criticalHeld => exact fun s hp hf => runBoth_eq_withChip (opCriticalStateError_held hf hp)

end Sys2Proof.Machine
end

section
/-!
PROOFS. Whole commands and whole runs: every command answers a next state, keeps the queue and the canonical form of the byte memories,
and from that O29, O31 and O51.
-/

namespace Sys2Proof.Machine

open Chip Store

/-- A command completes in t: the queue is as it was, the byte memories keep their canonical form, and they change only where the lists
of CommandsThatStoreNothing allow. -/
structure Done (i : Instr) (s t : State) : Prop where
  next : exec i s = .next t
  pending : t.pending = s.pending
  kept : Kept (changesFlash i) s.store t.store
  bytes : changesBytes i = false → t.store = s.store

section
variable {i : Instr} {s : State}

theorem done_runChip {f : Chip → Chip} (h : exec i s = runChip s f) : ∃ t, Done i s t :=
  ⟨_, h, rfl, .refl _ _, fun _ => rfl⟩

theorem done_runRead {f : Store → Chip → Chip} (h : exec i s = runRead s f) : ∃ t, Done i s t :=
  ⟨_, h, rfl, .refl _ _, fun _ => rfl⟩

theorem done_runBoth {f : Store → Chip → Store × Chip} (h : exec i s = runBoth s f)
    (k : Kept (changesFlash i) s.store (f s.store s.chip).1) (b : changesBytes i = false → (f s.store s.chip).1 = s.store) :
    ∃ t, Done i s t :=
  ⟨_, h, rfl, k, b⟩

/-- An operation that answers the byte memories as they were. -/
theorem done_same {f : Store → Chip → Store × Chip} (h : exec i s = runBoth s f) (k : (f s.store s.chip).1 = s.store) :
    ∃ t, Done i s t :=
  done_runBoth h (by rw [k]; exact .refl _ _) (fun _ => k)

end

/-- Every command completes. -/
theorem exec_done (i : Instr) (s : State) : ∃ t, Done i s t := by
  cases i
  case resetNLow p => exact done_runBoth rfl (kept_resetNLow _ _ _ _ _) nofun
  case supplyGoodHigh r => exact done_runBoth rfl (kept_supplyGoodHigh _ _ _ _) nofun
  case supplyGoodLow n => exact done_runBoth rfl (kept_supplyGoodLow _ _ _) nofun
  case vddAonLoss => exact done_runBoth rfl (kept_vddAonLoss _ _) nofun
  case railOutOfRange d => exact done_runBoth rfl (kept_withStack _ _ _ _) nofun
  case softstartTrip d => exact done_runBoth rfl (kept_withStack _ _ _ _) nofun
  case refclkRestored => exact done_runBoth rfl (kept_refclkRestored _ _) nofun
  case safetyWatchdogExpiry => exact done_runBoth rfl (kept_safetyWatchdogExpiry _ _) nofun
  case criticalStateError => exact done_runBoth rfl (kept_criticalStateError _ _) nofun
  case registerWrite rq a v w be => exact done_runBoth rfl (kept_writeReg _ _ _ _ _ _ _) nofun
  case mailboxComplete m => exact done_runBoth rfl (kept_mailboxComplete _ _ _) nofun
  case swWarmReset rq => exact done_runBoth rfl (kept_swReset _ _ _ _) nofun
  case swColdReset rq => exact done_runBoth rfl (kept_swReset _ _ _ _) nofun
  case systemBusAccess acc => exact done_runBoth rfl (kept_systemBusAccess _ _ _) nofun
  case resetUnit rq tag x => exact done_runBoth rfl (kept_mbxRunBoth _ _ _ _ _ _ _ _ (fun _ _ => kept_resetUnit _ _ _ _ _)) nofun
  case bootB1 p t i dev => exact done_runBoth rfl (kept_bootB1 _ _ _ _) nofun
  case bootB2 dev => exact done_runBoth rfl (kept_bootB2 _ _ _) nofun
  case bootB3 ranks gib => exact done_runBoth rfl (kept_bootB3 _ _ _ _) nofun
  case bootB5 => exact done_runBoth rfl (kept_bootB5 _ _) nofun
  case bootWatchdogExpiry => exact done_runBoth rfl (kept_bootWatchdogExpiry _ _) nofun
  case flashRead rq tag err => exact done_same rfl (opFlashRead_store _ _ _ _ _)
  case slotCheck rq tag dev => exact done_same rfl (opSlotCheck_store _ _ _ _ _)
  case advanceSvn rq tag blown => exact done_same rfl (opAdvanceSvn_store _ _ _ _ _)
  case revokeKey rq tag blown => exact done_same rfl (opRevokeKey_store _ _ _ _ _)
  case flashErase rq tag err => exact done_runBoth rfl (kept_mbxRunBoth _ _ _ _ _ _ _ _ (fun _ _ => kept_flashErase _ _ _ _)) nofun
  case flashWrite rq tag err => exact done_runBoth rfl (kept_mbxRunBoth _ _ _ _ _ _ _ _ (fun _ _ => kept_flashWrite _ _ _ _)) nofun
  case fbkRecordWrite w => exact done_runBoth rfl (kept_fbkRecordWrite _ _ _ _) nofun
  case poolInitDone k => exact done_runBoth rfl (kept_poolInitDone _ _ _) nofun
  case xalloc rq tag m ue => exact done_runBoth rfl (kept_poolCmd _ _ _ _ _ _ _ (fun _ _ => kept_xalloc _ _ _ _ _)) nofun
  case xfree rq tag m ue => exact done_runBoth rfl (kept_poolCmd _ _ _ _ _ _ _ (fun _ _ => kept_xfree _ _ _ _)) nofun
  case auditPass => exact done_runBoth rfl (kept_auditPass _ _) nofun
  case save rq tag => exact done_runBoth rfl (kept_opSave _ _ _ _) nofun
  case faultEvent evs => exact done_runBoth rfl (kept_faultEvent _ _ _) nofun
  case inject rq tag => exact done_runBoth rfl (kept_inject _ _ _ _) nofun
  case restore rq tag => exact done_runRead rfl
  case readRecord rq tag bad => exact done_runRead rfl
  case vfReadRecord rq tag p bad => exact done_runRead rfl
  all_goals exact done_runChip rfl

/-! Steps and runs. -/

theorem step_cons (c : Instr) (q : List Instr) (s : State) : step { s with pending := c :: q } = exec c { s with pending := q } := rfl

theorem step_idle {s : State} (h : s.pending = []) : step s = .next (s.withChip s.chip.datumTick) := by
  obtain ⟨q, c, m⟩ := s
  cases h
  rfl

theorem step_front {s : State} {c : Instr} {q : List Instr} (h : s.pending = c :: q) : step s = exec c { s with pending := q } := by
  unfold step
  rw [h]

/-- A step goes on, keeps the canonical form of the byte memories, and takes the front command off the queue. -/
theorem step_safe {s : State} (h : Canonical s) : ∃ t, step s = .next t ∧ Canonical t ∧ t.pending = s.pending.drop 1 := by
  cases hp : s.pending with
  | nil => exact ⟨_, step_idle hp, h, hp⟩
  | cons c q =>
    obtain ⟨t, d⟩ := exec_done c { s with pending := q }
    exact ⟨t, (step_front hp).trans d.next, d.kept.1 h, d.pending⟩

/-- Settles O29: by the definition of a step. -/
theorem stepRunsFrontCommand : Obligations.StepRunsFrontCommand := step_cons

/-- Settles O31: command by command. -/
theorem everyCommandCompletes : Obligations.EveryCommandCompletes := by
  unfold Obligations.EveryCommandCompletes
  intro i s
  obtain ⟨t, d⟩ := exec_done i s
  exact ⟨t, d.next, d.pending⟩

/-- Settles O51, by induction on the number of steps. -/
theorem allRunsAreSafe : Obligations.AllRunsAreSafe := by
  unfold Obligations.AllRunsAreSafe
  intro n
  induction n with
  | zero => exact fun s h => ⟨s, rfl, h, rfl⟩
  | succ n ih =>
    intro s h
    obtain ⟨u, hu, cu, pu⟩ := step_safe h
    obtain ⟨t, ht, ct, pt⟩ := ih u cu
    refine ⟨t, ?_, ct, ?_⟩
    · simp only [run, hu, ht]
    · rw [pt, pu, List.drop_drop, Nat.add_comm]

end Sys2Proof.Machine
end

section
/-!
PROOFS. Commands that are refused and access errors (R54 to R57, R71, R73, R74): which registers an error changes, and from that O35 to
O39.
-/

namespace Sys2Proof.Machine

open Chip

/-! Mailbox commands and register commands that are turned away. -/

section
variable {c : Chip} {rq : Req} {m : Mbx} {op : Nat}

theorem mbxStarts_of_denied (h : m.allows rq = false) : c.mbxStarts rq m op = false := by simp [mbxStarts, h]

theorem mbxStarts_of_off (h : c.addrOff m.cmd = true) : c.mbxStarts rq m op = false := by simp [mbxStarts, h]

theorem mbxStarts_of_pending (h : (c.mbxFind m).isSome = true) : c.mbxStarts rq m op = false := by
  simp [mbxStarts, Option.isSome_iff_ne_none.1 h]

theorem mbxStarts_of_unserved (h : c.mbxServed m op = false) : c.mbxStarts rq m op = false := by simp [mbxStarts, h]

end

/-- Settles O35: the mailbox's one operation, for each reason to refuse it or to let it wait. -/
theorem mailboxRefusals : Obligations.MailboxRefusals := by
  unfold Obligations.MailboxRefusals
  refine ⟨?denied, ?off, ?busy, ?waits⟩
  case denied =>
    exact fun i s rq tag m op h ha =>
      exec_mailbox_err i s rq tag m op _ h (mbxStarts_of_denied ha) (fun act => mbxRun_denied _ _ _ _ _ act ha)
  case off =>
    exact fun i s rq tag m op h ha ho =>
      exec_mailbox_err i s rq tag m op _ h (mbxStarts_of_off ho) (fun act => mbxRun_off _ _ _ _ _ act ha ho)
  case busy =>
    exact fun i s rq tag m op h ha ho hb =>
      exec_mailbox_err i s rq tag m op _ h (mbxStarts_of_pending hb) (fun act => mbxRun_busy _ _ _ _ _ act ha ho hb)
  case waits =>
    intro i s rq tag m op h ha ho hf hs
    obtain ⟨act, e⟩ := exec_mailboxOf i s rq tag m op h (mbxStarts_of_unserved hs)
    rw [e, mbxRun_waits _ _ _ _ _ act ha ho hf hs]

/-- Settles O36: the one register command that each of these commands is. -/
theorem registerCommandRefusals : Obligations.RegisterCommandRefusals := by
  unfold Obligations.RegisterCommandRefusals
  refine ⟨?vf, ?off⟩
  case vf =>
    intro i s rq a h hp
    obtain ⟨f, e⟩ := exec_registerOf i rq a h
    rw [e, regCmd_vf _ _ _ f hp]
  case off =>
    intro i s rq a h hp ho
    obtain ⟨f, e⟩ := exec_registerOf i rq a h
    rw [e, regCmd_off _ _ _ f hp ho]

/-! Accesses as a whole, by what stands at the address. -/

namespace Chip

section
variable {c : Chip} {rq : Req} {a v k : Nat} {d : RegDesc} {ix : List Nat} {m : Store}

theorem writeFull_unlisted (ha : a % 4 = 0) (h : c.target rq a = none) : c.writeFull rq a v m = (m, c.err rq errBadAccess a) := by
  simp [writeFull, ha, h]

theorem writeFull_off (ha : a % 4 = 0) (h : c.target rq a = some (k, d, ix)) (o : c.addrOff k = true) :
    c.writeFull rq a v m = (m, c.err rq errOffAccess a) := by
  simp [writeFull, ha, h, o]

theorem writeFull_listed (ha : a % 4 = 0) (h : c.target rq a = some (k, d, ix)) (o : c.addrOff k = false) :
    c.writeFull rq a v m = c.writeAct rq a k d ix v m := by
  simp [writeFull, ha, h, o]

theorem writeReg_w32 (v : BitVec 64) : c.writeReg rq a v false true m = c.writeFull rq a (v.toNat % 2 ^ 32) m := rfl

/-- A 64-bit write is one of the low word, then one of the high word (R55). -/
theorem writeReg_w64 {c1 : Chip} {m1 : Store} {r : Store × Chip} (v : BitVec 64) (ha : a % 8 = 0)
    (hl : c.writeFull rq a (v.toNat % 2 ^ 32) m = (m1, c1)) (hh : c1.writeFull rq (a + 4) (v.toNat / 2 ^ 32) m1 = r) :
    c.writeReg rq a v true true m = r := by
  simp only [writeReg, ha, hl, hh]
  rfl

theorem read32_nothing (h : a % 4 ≠ 0 ∨ c.target rq a = none) : c.read32 rq a = (c.err rq errBadAccess a, 0) := by
  unfold read32
  split
  · rfl
  · next ha => rw [h.resolve_left ha]

theorem read32_off (ha : a % 4 = 0) (h : c.target rq a = some (k, d, ix)) (o : c.addrOff k = true) :
    c.read32 rq a = (c.err rq errOffAccess a, 0) := by
  simp [read32, ha, h, o]

theorem read32_listed (ha : a % 4 = 0) (h : c.target rq a = some (k, d, ix)) (o : c.addrOff k = false) :
    c.read32 rq a = c.readKey rq k d := by
  simp [read32, ha, h, o]

/-- A 64-bit read is one of the low word, then one of the high word (R55). -/
theorem readReg_w64 {c1 c2 : Chip} {lo hi : Nat} (ha : a % 8 = 0) (hl : c.read32 rq a = (c1, lo)) (hh : c1.read32 rq (a + 4) = (c2, hi)) :
    c.readReg rq a true = (c2, lo + hi * 2 ^ 32) := by
  simp [readReg, ha, hl, hh]

end

end Chip

section
variable {s : State} {c : Chip} {m : Store} {rq : Req} {a : Nat} {v : BitVec 64}

theorem exec_registerWrite_w32 (h : s.chip.writeFull rq a (v.toNat % 2 ^ 32) s.store = (m, c)) :
    exec (.registerWrite rq a v false true) s = .next (s.withBoth m c) :=
  runBoth_eq ((writeReg_w32 v).trans h)

theorem exec_registerWrite_w32_chip (h : s.chip.writeFull rq a (v.toNat % 2 ^ 32) s.store = (s.store, c)) :
    exec (.registerWrite rq a v false true) s = .next (s.withChip c) :=
  runBoth_eq_withChip ((writeReg_w32 v).trans h)

theorem exec_registerWrite_w64_chip {m1 : Store} {c1 : Chip} (ha : a % 8 = 0)
    (hl : s.chip.writeFull rq a (v.toNat % 2 ^ 32) s.store = (m1, c1))
    (hh : c1.writeFull rq (a + 4) (v.toNat / 2 ^ 32) m1 = (s.store, c)) :
    exec (.registerWrite rq a v true true) s = .next (s.withChip c) :=
  runBoth_eq_withChip (writeReg_w64 v ha hl hh)

variable {w64 : Bool} {n : Nat}

theorem exec_badRead (h : s.chip.readReg rq a w64 = (c, n)) :
    exec (.badRead rq a w64) s = .next (s.withChip (c.emit (.readData rq a n))) :=
  runChip_eq (congrArg (answerRead rq a) h)

theorem exec_latchingRead (h : s.chip.readReg rq a w64 = (c, n)) :
    exec (.latchingRead rq a w64) s = .next (s.withChip (c.emit (.readData rq a n))) :=
  runChip_eq (congrArg (answerRead rq a) h)

theorem exec_datumNsRead {clk : Fin 3} {pps : Bool} (h : s.chip.read32 rq (nsReg clk pps) = (c, n)) :
    exec (.datumNsRead rq clk pps) s = .next (s.withChip (c.emit (.readData rq (nsReg clk pps) n))) :=
  runChip_eq (congrArg (answerRead rq (nsReg clk pps)) h)

end

/-! What an access error changes (R73, R74). -/

/-- No parcel window reaches GLB (R53). -/
theorem winBase_ge (p : Nat) : 0x60000 ≤ Reg.winBase p := by
  unfold Reg.winBase
  split <;> omega

/-- The parcel windows lie apart (R53). -/
theorem winBase_apart {p q : Nat} (h : p ≠ q) :
    Reg.winBase p + 0x10000 ≤ Reg.winBase q ∨ Reg.winBase q + 0x10000 ≤ Reg.winBase p := by
  unfold Reg.winBase
  split <;> split <;> omega

namespace Chip

theorem on_of_fld_eq_one {c : Chip} {k : Nat} {f : BF} (h : c.fld k f = 1) : c.on k f = true := by
  simp [on, h]

/-- The flag of the error reads 1. -/
theorem fld_err_flag (c : Chip) (rq : Req) {b : Nat} (a : Nat) (h : b < 5) : (c.err rq b a).fld (statusOf rq) ⟨b, 1⟩ = 1 := by
  rw [err_eq, fld_setF_same _ _ ⟨b, 1⟩ _ (by simp only; omega)]
  rfl

theorem on_err_flag (c : Chip) (rq : Req) {b : Nat} (a : Nat) (h : b < 5) : (c.err rq b a).on (statusOf rq) ⟨b, 1⟩ = true :=
  on_of_fld_eq_one (fld_err_flag c rq a h)

/-- The other bits of the status stay. -/
theorem fld_err_status (c : Chip) (rq : Req) {b : Nat} (a : Nat) {f : BF} (h : b < 5) (d : f.lo + f.width ≤ b ∨ b + 1 ≤ f.lo) :
    (c.err rq b a).fld (statusOf rq) f = c.fld (statusOf rq) f := by
  rw [err_eq, fld_setF_field _ _ ⟨b, 1⟩ f _ (by simp only; omega) d]
  split
  · exact fld_wrN_other _ _ _ _ _ (errAddr_ne_status rq).symm
  · rfl

theorem reg_err_first {c : Chip} {rq : Req} (b a : Nat) (h : c.rd (statusOf rq) % 32 = 0) :
    (c.err rq b a).reg (errAddrOf rq) = BitVec.ofNat 32 (errWord rq b a) := by
  rw [err_eq, reg_setF_other _ _ _ _ _ (errAddr_ne_status rq), if_pos h, reg_wrN_same]

theorem reg_err_later {c : Chip} {rq : Req} (b a : Nat) (h : c.rd (statusOf rq) % 32 ≠ 0) :
    (c.err rq b a).reg (errAddrOf rq) = c.reg (errAddrOf rq) := by
  rw [err_eq, reg_setF_other _ _ _ _ _ (errAddr_ne_status rq), if_neg h]

theorem err_changes_regs (c : Chip) (rq : Req) (b a : Nat) : ∃ r, c.err rq b a = { c with regs := r } := ⟨_, err_frame c rq b a⟩

/-- A VF's errors reach no register but its own status and error address. -/
theorem reg_err_vf (c : Chip) (n : Fin 64) (b a : Nat) {k : Nat} (hs : k ≠ Reg.VF_STATUS n) (ha : k ≠ Reg.VF_ERR_ADDR n) :
    (c.err (.vf n) b a).reg k = c.reg k := reg_err_other c (.vf n) b a k hs ha

/-- No block of AON counts as off (R57). -/
theorem addrOff_aon (c : Chip) {a : Nat} (h : a < 0x50000) : c.addrOff a = false := by
  have hu : unitOfAddr a = 0 := if_pos h
  have hd : domOfAddr a = none := if_pos h
  have hr : c.resetting a = false := by
    unfold resetting
    split
    · simp [hu]
    · rfl
  simp [addrOff, hr, hd, Nat.not_le.2 h]

end Chip

/-- Settles O37: an access to an address where nothing is listed is one access error, for each word of it. -/
theorem unlistedAccess : Obligations.UnlistedAccess := by
  unfold Obligations.UnlistedAccess
  refine ⟨?write, ?read, ?latching, ?write64, ?read64, ?flag, ?frame, ?other⟩
  case write => exact fun s rq a v ha h => exec_registerWrite_w32_chip (writeFull_unlisted ha h)
  case read => exact fun s rq a ha h => exec_badRead (read32_nothing (.inr h))
  case latching => exact fun s rq a ha h => exec_latchingRead (read32_nothing (.inr h))
  case write64 =>
    exact fun s rq a v ha h h4 =>
      exec_registerWrite_w64_chip ha (writeFull_unlisted (by omega) h) (writeFull_unlisted (by omega) h4)
  case read64 => exact fun s rq a ha h h4 => exec_badRead (readReg_w64 ha (read32_nothing (.inr h)) (read32_nothing (.inr h4)))
  case flag => exact fun c rq a => on_err_flag c rq a (by decide)
  case frame => exact fun c rq a => err_changes_regs c rq _ a
  case other => exact fun c rq a k hs ha => reg_err_other c rq _ a k hs ha

/-- Settles O38: the access error of a block that is off, and the blocks that have no domain. -/
theorem poweredOffAccess : Obligations.PoweredOffAccess := by
  unfold Obligations.PoweredOffAccess
  refine ⟨?write, ?read, ?flag, ?aon⟩
  case write => exact fun s rq a v k d ix ha h o => exec_registerWrite_w32_chip (writeFull_off ha h o)
  case read => exact fun s rq a k d ix ha h o => exec_badRead (read32_off ha h o)
  case flag => exact fun c rq a => on_err_flag c rq a (by decide)
  case aon => exact fun c a h => addrOff_aon c h

/-- Settles O39: an error writes the status and, if it is the first, the error address of its requester. -/
theorem firstErrorAddress : Obligations.FirstErrorAddress := by
  unfold Obligations.FirstErrorAddress
  refine ⟨?first, ?later, ?flags, ?shared, ?ownOnly⟩
  case first => exact fun c rq b a _ h => reg_err_first b a h
  case later => exact fun c rq b a h => reg_err_later b a h
  case flags => exact fun c rq b a f hb d => ⟨on_err_flag c rq a hb, fld_err_status c rq a hb d⟩
  case shared =>
    intro c n b a
    have hw := winBase_ge n
    exact ⟨reg_err_vf c n b a (by simp only [Reg.GLB_STATUS, Reg.VF_STATUS]; omega)
        (by simp only [Reg.GLB_STATUS, Reg.VF_ERR_ADDR]; omega),
      reg_err_vf c n b a (by simp only [Reg.GLB_ERR_ADDR, Reg.VF_STATUS]; omega)
        (by simp only [Reg.GLB_ERR_ADDR, Reg.VF_ERR_ADDR]; omega)⟩
  case ownOnly =>
    intro c n j b a hj
    have hw := winBase_apart (p := j.val) (q := n.val) (fun e => hj (Fin.ext e))
    exact ⟨reg_err_vf c n b a (by simp only [Reg.VF_STATUS]; omega) (by simp only [Reg.VF_STATUS, Reg.VF_ERR_ADDR]; omega),
      reg_err_vf c n b a (by simp only [Reg.VF_STATUS, Reg.VF_ERR_ADDR]; omega) (by simp only [Reg.VF_ERR_ADDR]; omega)⟩

end Sys2Proof.Machine
end

section
/-!
PROOFS. Register writes that reach a register: the mailbox commands (R71), the registers with an effect of their own, and the others
(R58 to R62); and from that O2, O50 and O56.
-/

namespace Sys2Proof.Machine

namespace Chip

/-! A write of a command register (R71). -/

theorem cmd_of_find {l : List Mbx} {k : Nat} {m : Mbx} (h : l.find? (fun m => m.cmd == k) = some m) : m.cmd = k := by
  have hp := List.find?_some h
  exact eq_of_beq hp

theorem mbxOfCmd_cmd {k : Nat} {m : Mbx} (h : mbxOfCmd k = some m) : m.cmd = k := by
  unfold mbxOfCmd at h
  split at h
  · exact cmd_of_find h
  · split at h
    · exact cmd_of_find h
    · split at h
      · exact cmd_of_find h
      · cases h

section
variable {c : Chip} {rq : Req} {a k v : Nat} {d : RegDesc} {ix : List Nat} {m : Store} {mb : Mbx}

theorem mbxRunBoth_idle {tag : BitVec 16} {op : Nat} {act : List Nat → Store → Chip → Store × Chip × Option (Nat × List Nat)}
    (h : c.mbxStarts rq mb op = false) :
    c.mbxRunBoth rq tag mb op m act = (m, c.mbxRun rq tag mb op (fun c a => (act a m c).2)) := by
  unfold mbxRunBoth
  rw [h]
  rfl

theorem actionErr_mbx (hm : mbxOfCmd k = some mb) (hr : mb = .rstBlk → v % 2 ^ 16 = 1) : c.actionErr rq k v ≠ some errBadValue := by
  have hop : ¬ (mb = .rstBlk ∧ v % 2 ^ 16 ≠ 1) := fun h => h.2 (hr h.1)
  simp only [actionErr, hm, if_neg hop]
  split <;> decide

/-- A command that raises no critical event runs its operation. -/
theorem writeAct_mbx (hm : mbxOfCmd k = some mb) (hr : mb = .rstBlk → v % 2 ^ 16 = 1)
    (hc : (decide (mb = .flt) && v % 2 ^ 16 == 3 && c.mbxStarts rq mb 3 && c.injectCritical (c.mbxArgs mb)) = false) :
    c.writeAct rq a k d ix v m
      = c.mbxRunBoth rq (BitVec.ofNat 16 (v / 2 ^ 16)) mb (v % 2 ^ 16) m (mbxAct mb (v % 2 ^ 16)) := by
  simp only [writeAct, hm, if_neg (actionErr_mbx hm hr), hc]
  rfl

theorem writeAct_register (hm : mbxOfCmd k = none) (hk : k ≠ Reg.RST_SWRESET) :
    c.writeAct rq a k d ix v m = (m, c.writeKey rq a k d ix v) := by
  simp only [writeAct, hm, if_neg hk]

/-- An operation that does not start raises no critical event. -/
theorem notCritical_of_idle {op : Nat} (h : c.mbxStarts rq mb op = false) :
    (decide (mb = .flt) && op == 3 && c.mbxStarts rq mb 3 && c.injectCritical (c.mbxArgs mb)) = false := by
  by_cases ho : op = 3
  · subst ho
    simp [h]
  · simp [beq_eq_false_iff_ne.2 ho]

end

end Chip

open Chip

/-- TAG in bits 31 to 16 and OP in bits 15 to 0. -/
theorem cmdWord_toNat (tag : BitVec 16) {op : Nat} (h : op < 2 ^ 16) :
    (BitVec.ofNat 64 (tag.toNat * 2 ^ 16 + op)).toNat % 2 ^ 32 = tag.toNat * 2 ^ 16 + op := by
  have ht := tag.isLt
  rw [BitVec.toNat_ofNat]
  omega

section
variable {s : State} {rq : Req} {a k op : Nat} {tag : BitVec 16} {d : RegDesc} {ix : List Nat} {m : Mbx} {n : Store} {c : Chip}

/-- A write of a command register is its mailbox's operation. -/
theorem exec_registerWrite_mbx (hop : op < 2 ^ 16) (ht : s.chip.target rq a = some (k, d, ix)) (hm : mbxOfCmd k = some m) (ha : a % 4 = 0)
    (ho : s.chip.addrOff k = false) (hr : m = .rstBlk → op = 1)
    (hc : (decide (m = .flt) && op == 3 && s.chip.mbxStarts rq m 3 && s.chip.injectCritical (s.chip.mbxArgs m)) = false)
    (h : s.chip.mbxRunBoth rq tag m op s.store (mbxAct m op) = (n, c)) :
    exec (.registerWrite rq a (BitVec.ofNat 64 (tag.toNat * 2 ^ 16 + op)) false true) s = .next (s.withBoth n c) := by
  have hv : (tag.toNat * 2 ^ 16 + op) % 2 ^ 16 = op := by omega
  have hq : (tag.toNat * 2 ^ 16 + op) / 2 ^ 16 = tag.toNat := by omega
  refine exec_registerWrite_w32 ?_
  rw [cmdWord_toNat tag hop, writeFull_listed ha ht ho, writeAct_mbx hm (by rwa [hv]) (by rwa [hv]), hv, hq, BitVec.ofNat_toNat,
    BitVec.setWidth_eq, h]

/-- An operation that does not start leaves the byte memories. -/
theorem exec_registerWrite_mbx_idle (hop : op < 2 ^ 16) (ht : s.chip.target rq a = some (k, d, ix)) (hm : mbxOfCmd k = some m)
    (ha : a % 4 = 0) (ho : s.chip.addrOff k = false) (hr : m = .rstBlk → op = 1) (hs : s.chip.mbxStarts rq m op = false)
    (h : ∀ act, s.chip.mbxRun rq tag m op act = c) :
    exec (.registerWrite rq a (BitVec.ofNat 64 (tag.toNat * 2 ^ 16 + op)) false true) s = .next (s.withChip c) :=
  exec_registerWrite_mbx hop ht hm ha ho hr (notCritical_of_idle hs) (by rw [mbxRunBoth_idle hs, h])

/-- A mailbox that is PENDING refuses a command, whoever writes it (R71). -/
theorem mbxRun_pending {c : Chip} (act : Chip → List Nat → Chip × Option (Nat × List Nat)) (o : c.addrOff m.cmd = false)
    (b : (c.mbxFind m).isSome = true) : c.mbxRun rq tag m op act = c.err rq errBadAccess m.cmd := by
  cases h : m.allows rq with
  | true => exact mbxRun_busy c rq tag m op act h o b
  | false => exact mbxRun_denied c rq tag m op act h

end

/-- Settles O56: the mailbox's one operation, refused, waiting or started. -/
theorem mailboxCommandWrite : Obligations.MailboxCommandWrite := by
  unfold Obligations.MailboxCommandWrite
  refine ⟨?pending, ?flag, ?frame, ?waits, ?starts, ?reads⟩
  case pending =>
    intro s rq a k op tag d ix m hop ht hm ha ho hr hb
    refine exec_registerWrite_mbx_idle hop ht hm ha ho hr (mbxStarts_of_pending hb) (fun act => ?_)
    exact mbxRun_pending act (by rwa [mbxOfCmd_cmd hm]) hb
  case flag => exact fun c rq a => fld_err_flag c rq a (by decide)
  case frame =>
    intro c rq a j hs he
    refine ⟨reg_err_other c rq _ a j hs he, ?_⟩
    rw [err_frame]
  case waits =>
    intro s rq a k op tag d ix m hop ht hm ha ho hr hw hf hs
    refine exec_registerWrite_mbx_idle hop ht hm ha ho hr (mbxStarts_of_unserved hs) (fun act => ?_)
    exact mbxRun_waits _ _ _ _ _ act hw (by rwa [mbxOfCmd_cmd hm]) hf hs
  case starts =>
    intro s rq a k op tag d ix m hop ht hm ha ho hr hw hf hs hc
    have hst : s.chip.mbxStarts rq m op = true := (mbxStarts_iff _ _ _ _).2 ⟨hw, by rwa [mbxOfCmd_cmd hm], hf, hs⟩
    refine exec_registerWrite_mbx hop ht hm ha ho hr ?_ (mbxRunBoth_starts _ _ _ _ _ _ _ _ _ _ hst rfl)
    by_cases hm : m = .flt
    · by_cases h3 : op = 3
      · rw [hc hm h3, Bool.and_false]
      · rw [beq_eq_false_iff_ne.2 h3, Bool.and_false]
        rfl
    · rw [decide_eq_false hm]
      rfl
  case reads =>
    intro c m
    unfold pendingIn
    rw [fld_setF_same _ _ ⟨14, 2⟩ _ (by decide)]
    rfl

/-! A write of a register that is no command (R58 to R62). -/

namespace Chip

/-- The registers whose write does more than storing fields, or settles a rate or a bucket before it. -/
def actingNames : List String :=
  ["FLT_CTRL", "FLT_WDT_KICK", "PWR_RTC_HI", "PWR_RTC_LO", "DTM_CLK_INC_HI", "DTM_CLK_INC_LO", "DTM_CLK_ADJ", "PORT_CTRL", "PRS_RD_ADDR",
    "RWR_RD_ADDR", "CLS_RD_ADDR", "PAR_CTRL", "VF_DOORBELL", "GLB_LOCK", "DTM_CTRL", "DTM_CFG", "MGT_DBG_CTRL", "MGT_DBG_CFG",
    "PMC_SNAP_CTRL", "TET_CTRL", "MEM_RANK", "BPM_XP_CFG", "MSIX_TABLE", "TM_POL_CBS", "TM_POL_XBS", "UPD_CFG", "TM_Q_RATE", "TM_Q_BURST",
    "TM_N_RATE", "TM_N_BURST", "TM_G_RATE", "TM_G_BURST", "TM_P_RATE", "TM_P_BURST", "FLT_STATUS", "BPM_AUDIT_CFG", "TM_SAMP_PROF",
    "FBK_PORT_SAMPLE", "TM_Q_CFG0", "TM_P_CFG"]

section
variable {c : Chip} {rq : Req} {a k v : Nat} {d : RegDesc} {ix : List Nat} {name : String} {fs : List FieldDesc}

/-- A register without an effect of its own stores its fields, for any requester but a VF. -/
theorem writeKey_plain (hw : d.width = .w32) (hn : d.name ∉ actingNames) (hp : rq.priv = true) :
    c.writeKey rq a k d ix v = c.storeReg rq a k d ix (fieldsOf d ix) v := by
  simp only [actingNames, List.mem_cons, List.not_mem_nil, or_false, not_or] at hn
  cases rq with
  | vf n => cases hp
  | _ => simp [writeKey, hw, hn]

theorem settleShaper_plain (hn : name ∉ actingNames) : c.settleShaper name ix = c := by
  simp only [actingNames, List.mem_cons, List.not_mem_nil, or_false, not_or] at hn
  simp [settleShaper, hn]

theorem tmWritten_plain {i : Nat} {old : Word} (hn : name ∉ actingNames) : c.tmWritten k name i old = c.settleDrr := by
  simp only [actingNames, List.mem_cons, List.not_mem_nil, or_false, not_or] at hn
  simp [tmWritten, hn]

/-- After an ordinary write a scheduler may move on (R265). -/
theorem afterWrite_plain {old : Word} (hn : name ∉ actingNames) (hb : isBkp k = false) :
    c.afterWrite k name ix old v = if Reg.TM_Q_CFG0 0 ≤ k ∧ k < 0x30000000 then c.settleDrr else c := by
  have ht : ∀ i, c.tmWritten k name i old = c.settleDrr := fun _ => tmWritten_plain hn
  simp only [actingNames, List.mem_cons, List.not_mem_nil, or_false, not_or] at hn
  simp [afterWrite, hb, hn, ht]

theorem storeReg_refused
    (h : (!fieldsOk fs v || !c.comboOk k d.name ix (fieldsNew c.locked (c.running k) fs (c.reg k) v)) = true) :
    c.storeReg rq a k d ix fs v = c.err rq errBadValue a := by
  simp only [storeReg, h, if_true]

theorem storeKeys_plain (h : d.scope ≠ .bcast) : c.storeKeys d k = [k] := if_neg h

end

end Chip

section
variable {s : State} {c : Chip} {rq : Req} {a k v : Nat} {d : RegDesc} {ix : List Nat}

/-- A 32-bit write of a register that is no command reaches the register. -/
theorem exec_registerWrite_register {v : BitVec 64} (ha : a % 4 = 0) (ht : s.chip.target rq a = some (k, d, ix))
    (ho : s.chip.addrOff k = false) (hm : mbxOfCmd k = none) (hk : k ≠ Reg.RST_SWRESET) :
    exec (.registerWrite rq a v false true) s = .next (s.withChip (s.chip.writeKey rq a k d ix (v.toNat % 2 ^ 32))) :=
  exec_registerWrite_w32_chip ((writeFull_listed ha ht ho).trans (writeAct_register hm hk))

theorem isAction_false (h : isAction k = false) : mbxOfCmd k = none ∧ k ≠ Reg.RST_SWRESET := by
  simpa [isAction, and_comm] using h

/-- A register without an effect of its own is stored field by field. -/
theorem exec_registerWrite_plain (hv : v < 2 ^ 32) (hp : rq.priv = true) (ht : s.chip.target rq a = some (k, d, ix)) (ha : a % 4 = 0)
    (ho : s.chip.addrOff k = false) (hw : d.width = .w32) (hn : d.name ∉ actingNames) (hi : isAction k = false)
    (h : s.chip.storeReg rq a k d ix (fieldsOf d ix) v = c) :
    exec (.registerWrite rq a (BitVec.ofNat 64 v) false true) s = .next (s.withChip c) := by
  have e : (BitVec.ofNat 64 v).toNat % 2 ^ 32 = v := by rw [BitVec.toNat_ofNat]; omega
  rw [exec_registerWrite_register ha ht ho (isAction_false hi).1 (isAction_false hi).2, e, writeKey_plain hw hn hp, h]

end

/-- Settles O50: what storing the fields of a register does where the name sets off nothing. -/
theorem ordinaryRegisterWrite : Obligations.OrdinaryRegisterWrite := by
  unfold Obligations.OrdinaryRegisterWrite
  refine ⟨?refused, ?stored⟩
  case refused =>
    exact fun s rq a k v d ix hv hp ht ha ho hw _ hn hi _ h => exec_registerWrite_plain hv hp ht ha ho hw hn hi (storeReg_refused h)
  case stored =>
    intro s rq a k v d ix hv hp ht ha ho hw hsc hn hi hb hf hc c1 c2 c3 c4
    refine exec_registerWrite_plain hv hp ht ha ho hw hn hi ?_
    simp only [storeReg, hf, hc, settleShaper_plain hn, storeKeys_plain hsc, afterWrite_plain hn hb]
    rfl

/-! What RegisterAccessActs says of the other commands. -/

namespace Chip

theorem opBkpWrite_one {c : Chip} {k : Nat} {v : Word} {l : List (Nat × Word)} (h : c.bkpPend = (k, v) :: l) (hk : k ≠ Reg.PWR_RTC_HI) :
    c.opBkpWrite = { c with bkpPend := l, bkp := mset regDefault c.bkp k v } := by
  simp only [opBkpWrite, h, if_neg hk]

/-- The two words of the RTC count go together (R373). -/
theorem opBkpWrite_rtc {c : Chip} {v lo : Word} {j : Nat} {l : List (Nat × Word)} (h : c.bkpPend = (Reg.PWR_RTC_HI, v) :: (j, lo) :: l) :
    c.opBkpWrite = { c with bkpPend := l, time.rtc := v.toNat % 2 ^ 16 * 2 ^ 32 + lo.toNat } := by
  simp only [opBkpWrite, h, if_true]

/-- A software reset alone in its AON cycle takes effect (R75, R76). -/
theorem swReset_first {c : Chip} {rq : Req} (code : Nat) (m : Store) (hp : rq.priv = true) (h : c.plain = false)
    (hf : c.firstInCycle = true) : swReset rq code m c = (m.lostHbm, (c.cutFrames (fun _ => true)).restarted code) := by
  simp only [swReset, hp, h]
  exact resetSource_first c code m (.inl h) hf

end Chip

/-- Settles O2: access by access. -/
theorem registerAccessActs : Obligations.RegisterAccessActs := by
  unfold Obligations.RegisterAccessActs
  refine ⟨?write, ?readNothing, ?readOff, ?latching, ?datum, ?lock, ?bkp, ?rtc, ?warm, ?cold⟩
  case write => exact fun s rq a v k d ix ha ht ho hm hk => exec_registerWrite_register ha ht ho hm hk
  case readNothing => exact fun s rq a h => exec_badRead (read32_nothing h)
  case readOff => exact fun s rq a k d ix ha ht ho => exec_badRead (read32_off ha ht ho)
  case latching => exact fun s rq a k d ix ha ht ho => exec_latchingRead (read32_listed ha ht ho)
  case datum => exact fun s rq clk pps k d ix ha ht ho => exec_datumNsRead (read32_listed ha ht ho)
  case lock => exact fun s rq hp ho => runChip_eq (regCmd_ok _ _ _ _ hp ho)
  case bkp => exact fun s k v l h hk => runChip_eq (opBkpWrite_one h hk)
  case rtc => exact fun s v lo j l h => runChip_eq (opBkpWrite_rtc h)
  case warm => exact fun s rq hp h hf => runBoth_eq (swReset_first 4 _ hp h hf)
  case cold => exact fun s rq hp h hf => runBoth_eq (swReset_first 5 _ hp h hf)

end Sys2Proof.Machine
end

section
/-!
PROOFS. The register tables and what a write stores in a field (R60 to R62, R67): the fields of a row share no bit, so each is stored on
its own; from that O48 and O49.
-/

namespace Sys2Proof.Machine

/-! The rows of the tables. -/

/-- Settles O48: row by row of the table. -/
theorem registerTableSound : Obligations.RegisterTableSound := by
  unfold Obligations.RegisterTableSound
  exact ⟨by decide +kernel, by decide +kernel⟩

theorem mem_of_findDesc {l : List RegDesc} {k : Nat} {d : RegDesc} {ix : List Nat} (h : findDesc l k = some (d, ix)) : d ∈ l := by
  induction l with
  | nil => cases h
  | cons e l ih =>
    unfold findDesc at h
    split at h
    · cases h
      exact List.mem_cons_self
    · exact List.mem_cons_of_mem e (ih h)

theorem mem_regTable_of_descOf {k : Nat} {d : RegDesc} {ix : List Nat} (h : descOf k = some (d, ix)) : d ∈ regTable := mem_of_findDesc h

/-! Fields stored one after the other. -/

theorem bfGet_lt (f : BF) (w : Word) : bfGet f w < 2 ^ f.width := Nat.mod_lt _ (Nat.two_pow_pos _)

/-- Every field of fs takes the value that g gives it. -/
def storeAll (g : FieldDesc → Nat) (fs : List FieldDesc) (w : Word) : Word :=
  fs.foldl (fun w f => bfSet ⟨f.lo, f.width⟩ w (g f)) w

theorem fieldsNew_eq_storeAll (l r : Bool) (fs : List FieldDesc) (cur : Word) (v : Nat) : fieldsNew l r fs cur v
    = storeAll (fun f => fieldNew l r f (bfGet ⟨f.lo, f.width⟩ cur) (bfGet ⟨f.lo, f.width⟩ (BitVec.ofNat 32 v))) fs cur := rfl

/-- A field that shares no bit with those stored reads as before. -/
theorem bfGet_storeAll_other {g : FieldDesc → Nat} {fs : List FieldDesc} {f : BF} (w : Word) (fit : ∀ e ∈ fs, e.lo + e.width ≤ 32)
    (apart : ∀ e ∈ fs, f.lo + f.width ≤ e.lo ∨ e.lo + e.width ≤ f.lo) : bfGet f (storeAll g fs w) = bfGet f w := by
  induction fs generalizing w with
  | nil => rfl
  | cons e fs ih =>
    rw [List.forall_mem_cons] at fit apart
    calc bfGet f (storeAll g (e :: fs) w) = bfGet f (bfSet ⟨e.lo, e.width⟩ w (g e)) := ih _ fit.2 apart.2
      _ = bfGet f w := bfGet_bfSet_other ⟨e.lo, e.width⟩ f w _ fit.1 apart.1

/-- A field that was stored reads the value it was given. -/
theorem bfGet_storeAll_mem {g : FieldDesc → Nat} {fs : List FieldDesc} {f : FieldDesc} (w : Word)
    (fit : ∀ e ∈ fs, e.lo + e.width ≤ 32)
    (apart : fs.Pairwise (fun e f => e.lo + e.width ≤ f.lo ∨ f.lo + f.width ≤ e.lo)) (hf : f ∈ fs) :
    bfGet ⟨f.lo, f.width⟩ (storeAll g fs w) = g f % 2 ^ f.width := by
  induction fs generalizing w with
  | nil => cases hf
  | cons e fs ih =>
    rw [List.forall_mem_cons] at fit
    rw [List.pairwise_cons] at apart
    rcases List.mem_cons.1 hf with rfl | hf
    · calc bfGet ⟨f.lo, f.width⟩ (storeAll g (f :: fs) w) = bfGet ⟨f.lo, f.width⟩ (bfSet ⟨f.lo, f.width⟩ w (g f)) :=
            bfGet_storeAll_other _ fit.2 apart.1
        _ = g f % 2 ^ f.width := bfGet_bfSet_same ⟨f.lo, f.width⟩ w _ fit.1
    · exact ih _ fit.2 apart.2 hf

/-- A field of a listed register holds, after a write, what its type, its class and its limit make of the write. -/
theorem bfGet_fieldsNew {k : Nat} {d : RegDesc} {ix : List Nat} {f : FieldDesc} (l r : Bool) (cur : Word) (v : Nat)
    (hd : descOf k = some (d, ix)) (hf : f ∈ d.fields) : bfGet ⟨f.lo, f.width⟩ (fieldsNew l r d.fields cur v)
      = fieldNew l r f (bfGet ⟨f.lo, f.width⟩ cur) (bfGet ⟨f.lo, f.width⟩ (BitVec.ofNat 32 v)) % 2 ^ f.width := by
  obtain ⟨fit, apart⟩ := registerTableSound
  have hm := mem_regTable_of_descOf hd
  rw [fieldsNew_eq_storeAll]
  exact bfGet_storeAll_mem cur (fun e he => (fit d hm e he).1) (apart d hm) hf

/-! What a write makes of one field (R60, R62, R67). -/

section
variable {l r : Bool} {f : FieldDesc} {cur v : Nat}

theorem fieldNew_held (h : fieldHeld l r f = true) : fieldNew l r f cur v = cur := if_pos h

/-- A field of a type that software cannot write. -/
theorem fieldNew_readOnly (h : f.type = .ro ∨ f.type = .ros ∨ f.type = .rcs ∨ f.type = .wo) : fieldNew l r f cur v = cur := by
  unfold fieldNew
  split
  · rfl
  · rcases h with h | h | h | h <;> rw [h]

variable (hh : fieldHeld l r f = false)
include hh

theorem fieldNew_written (h : f.type = .rw ∨ f.type = .rwh ∨ f.type = .rwl) :
    fieldNew l r f cur v = limitStore f.limit f.width v := by
  unfold fieldNew
  rw [hh]
  rcases h with h | h | h <;> rw [h] <;> rfl

theorem fieldNew_w1c (h : f.type = .w1c) : fieldNew l r f cur v = cur &&& (2 ^ f.width - 1 - v) := by
  unfold fieldNew
  rw [hh, h]
  rfl

theorem fieldNew_w1s (h : f.type = .w1s) : fieldNew l r f cur v = cur ||| v := by
  unfold fieldNew
  rw [hh, h]
  rfl

end

/-- A field without a clamp stores the value as it is. -/
theorem limitStore_unclamped {m : Limit} {width v : Nat} (hc : ∀ x y, m ≠ .clamp x y) (hs : ∀ x y, m ≠ .sclamp x y) :
    limitStore m width v = v := by
  cases m with
  | clamp x y => exact absurd rfl (hc x y)
  | sclamp x y => exact absurd rfl (hs x y)
  | _ => rfl

theorem fieldHeld_iff (f : FieldDesc) (l r : Bool) :
    fieldHeld l r f = true ↔ (f.type = .rwl ∧ l = true) ∨ (f.cls = .static ∧ r = true) := by
  simp [fieldHeld]

/-- Settles O49: a field is stored on its own, and its type says what a write makes of it. -/
theorem fieldsByAccessType : Obligations.FieldsByAccessType := by
  unfold Obligations.FieldsByAccessType
  refine ⟨?held, ?readOnly, ?written, ?w1c, ?w1s, fieldHeld_iff⟩
  case held =>
    intro l r cur k v d ix f hd hf hh
    rw [bfGet_fieldsNew l r cur v hd hf, fieldNew_held hh, Nat.mod_eq_of_lt (bfGet_lt _ cur)]
  case readOnly =>
    intro l r cur k v d ix f hd hf ht
    rw [bfGet_fieldsNew l r cur v hd hf, fieldNew_readOnly ht, Nat.mod_eq_of_lt (bfGet_lt _ cur)]
  case written =>
    intro l r cur k v d ix f hd hf hh ht hc hs
    rw [bfGet_fieldsNew l r cur v hd hf, fieldNew_written hh ht, limitStore_unclamped hc hs, Nat.mod_eq_of_lt (bfGet_lt _ _)]
  case w1c =>
    intro l r cur k v d ix f hd hf hh ht
    rw [bfGet_fieldsNew l r cur v hd hf, fieldNew_w1c hh ht, Nat.mod_eq_of_lt (Nat.lt_of_le_of_lt Nat.and_le_left (bfGet_lt _ cur))]
  case w1s =>
    intro l r cur k v d ix f hd hf hh ht
    rw [bfGet_fieldsNew l r cur v hd hf, fieldNew_w1s hh ht, Nat.mod_eq_of_lt (Nat.or_lt_two_pow (bfGet_lt _ cur) (bfGet_lt _ _))]

end Sys2Proof.Machine
end

section
/-!
PROOFS. The operations of the BOOT and RST_BLK mailboxes, the end of a mailbox operation, and function-level resets (R71, R72, R87 to
R90, R96 to R100, R376, R392); from that O4.
-/

namespace Sys2Proof.Machine

namespace Chip

section
variable {c : Chip} {args : List Nat} {m : Store}

/-! The BOOT operations (R100), where nothing refuses them and the device answers. -/

theorem actFlashRead_done (h : flashArgsOk args 4 4 4096 = true) : actFlashRead false args m c
    = (m, { c with freeCtr := c.freeCtr + args.getD 2 0 },
      some (0, dataWords (args.getD 2 0 / 4) (leNat (c.flashBytes m (c.argArea args) (args.getD 1 0) (args.getD 2 0))))) := by
  simp only [actFlashRead, h]
  rfl

theorem flashChange_done (new : Store → Store) (h : c.runningSlot ≠ some (args.getD 0 0)) : flashChange false args m c new
    = (new m, { c with boot.torn := (c.argArea args, args.getD 1 0, args.getD 2 0) :: c.boot.torn }, some (0, [])) := by
  simp only [flashChange, if_neg h]
  rfl

theorem actFlashErase_done (h : flashArgsOk args 65536 0 0x10000000 = true) (hs : c.runningSlot ≠ some (args.getD 0 0)) :
    actFlashErase false args m c = (m.flashErase (c.argArea args) (args.getD 1 0) (args.getD 2 0),
      { c with boot.torn := (c.argArea args, args.getD 1 0, args.getD 2 0) :: c.boot.torn }, some (0, [])) := by
  simp only [actFlashErase, h, flashChange_done _ hs]
  rfl

theorem actFlashWrite_done (h : flashArgsOk args 256 256 4096 = true) (hs : c.runningSlot ≠ some (args.getD 0 0)) :
    actFlashWrite false args m c = (m.flashWr (c.argArea args) (args.getD 1 0)
        ((List.range (args.getD 2 0 / 4)).flatMap (fun j => leBytes 4 (c.rd (Reg.BOOT_MBX_DATA j)))),
      { c with boot.torn := (c.argArea args, args.getD 1 0, args.getD 2 0) :: c.boot.torn }, some (0, [])) := by
  simp only [actFlashWrite, h, flashChange_done _ hs]
  rfl

theorem actSlotCheck_done {e : FlashEnv} {reason : Nat} (h : args.getD 0 0 < 2)
    (hr : reason = firstFail ((c.wiped 1).b1Checks e m (args.getD 0 0)
      ++ [(0x0D, readable (slotImg m (areaOf e.cs1 (args.getD 0 0))) && c.bodyDigestOk m (areaOf e.cs1 (args.getD 0 0)))])) :
    actSlotCheck e args m c
      = (m, ({ c with pins.cs1 := e.cs1 } : Chip).slotStatus e m (args.getD 0 0) reason, some (0, [reason])) := by
  subst hr
  exact if_neg (Nat.not_le.2 h)

theorem actAdvanceSvn_done (h : c.fld Reg.BOOT_FUSE Fd.BOOT_FUSE_SVN_MIN < args.getD 0 0)
    (hs : args.getD 0 0 ≤ c.fld Reg.BOOT_STATUS Fd.BOOT_STATUS_SVN) :
    actAdvanceSvn true args m c = (m, c.setF Reg.BOOT_FUSE Fd.BOOT_FUSE_SVN_MIN (args.getD 0 0), some (0, [])) :=
  if_neg (by omega)

/-- A key below 3 that did not verify the running image, and is not the last of the three, is revoked (R97). -/
theorem actRevokeKey_done (h : args.getD 0 0 < 3)
    (hk : (c.runningSlot.isSome && c.fld Reg.BOOT_STATUS Fd.BOOT_STATUS_KEY == args.getD 0 0) = false)
    (hl : ([0, 1, 2].all (fun j => j == args.getD 0 0 || bitOf (c.fld Reg.BOOT_FUSE Fd.BOOT_FUSE_REVOKED) j)) = false) :
    actRevokeKey true args m c = (m, c.setFBit Reg.BOOT_FUSE Fd.BOOT_FUSE_REVOKED (args.getD 0 0) true, some (0, [])) := by
  simp only [actRevokeKey, hk, hl, if_neg (Nat.not_le.2 h)]
  rfl

/-! RESET_UNIT (R87): the unit is listed, powered and disabled. -/

theorem actResetUnit_listed {ok : Bool} {n u lo hi : Nat} {dom : Option Nat} (hu : u = args.headD 0 % 256)
    (hr : unitRange u = some (lo, hi, dom)) (hd : dom.all (fun d => c.domOn d) = true) (hq : c.unitDisabled u = true) :
    actResetUnit ok n args m c
      = if ok then (if 0x0C ≤ u ∧ u ≤ 0x0F then m.lostStack (u - 0x0C) else m, (c.resetUnitDo u lo hi).abortBursts n, some (0, []))
        else (m, (c.resetUnitFail u).abortBursts n, some (4, [])) := by
  subst hu
  cases dom with
  | none => simp only [actResetUnit, hr, hq]; rfl
  | some d =>
    have hon : c.domOn d = true := hd
    simp only [actResetUnit, hr, hon, hq]
    rfl

/-! The end of an operation (R71, R72). -/

variable {mb : Mbx}

theorem mbxFind_flashDone (o : MbxOp) : (c.flashDone o).mbxFind mb = c.mbxFind mb := by
  unfold flashDone
  split <;> rfl

theorem mbxPublish_done {tag op code : Nat} {data : List Nat} {b : Bool}
    (h : c.mbxFind mb = some ⟨mb, tag, op, args, some (code, data), b⟩) : c.mbxPublish mb
      = { (c.wrList mb.data 0 data).wrN mb.result (tag * 2 ^ 16 + 2 * 2 ^ 14 + code) with
          mbx := ((c.wrList mb.data 0 data).wrN mb.result (tag * 2 ^ 16 + 2 * 2 ^ 14 + code)).mbx.filter
            (fun o => !decide (o.mbx = mb)) } := by
  simp only [mbxPublish, h]

/-- An operation that has come to its end is published; a flash change of it is complete (R96). -/
theorem opMailboxComplete_ready {o : MbxOp} (h : c.mbxFind mb = some o) (hs : c.mbxServed mb o.op = true) (hb : o.begun = true)
    (hr : o.ready.isSome = true) : opMailboxComplete mb m c = (m, (c.flashDone o).mbxPublish mb) := by
  simp only [opMailboxComplete, h, hs, hb, hr]
  simp [criticalEvent]

theorem opVfFlr_starts {n : Nat} (hn : n ≠ 0) (hp : c.parState n ≠ 0) : c.opVfFlr n = c.startQuiesce ⟨n, 2, true, false⟩ :=
  if_neg (not_or.2 ⟨hn, hp⟩)

end

end Chip

open Chip

section
variable {s : State} {rq : Req} {tag : BitVec 16} {m : Store} {c : Chip} {mb : Mbx} {op : Nat} {r : Option (Nat × List Nat)}
  {act : List Nat → Store → Chip → Store × Chip × Option (Nat × List Nat)}
  (h : s.chip.mbxStarts rq mb op = true)
include h

/-- A mailbox operation that starts, on the byte memories and the chip. -/
theorem runBoth_mbx (e : act (s.chip.mbxArgs mb) s.store (s.chip.pendingIn mb) = (m, c, r)) :
    runBoth s (fun m c => c.mbxRunBoth rq tag mb op m act) = .next (s.withBoth m (c.mbxTaken mb tag op (s.chip.mbxArgs mb) r)) :=
  runBoth_eq (mbxRunBoth_starts _ _ _ _ _ _ _ _ _ _ h e)

/-- The same where it leaves the byte memories as they were. -/
theorem runBoth_mbx_chip (e : act (s.chip.mbxArgs mb) s.store (s.chip.pendingIn mb) = (s.store, c, r)) :
    runBoth s (fun m c => c.mbxRunBoth rq tag mb op m act) = .next (s.withChip (c.mbxTaken mb tag op (s.chip.mbxArgs mb) r)) :=
  runBoth_mbx h e

end

/-- Settles O4: operation by operation, started by its command. -/
theorem flashMailboxActs : Obligations.FlashMailboxActs := by
  unfold Obligations.FlashMailboxActs
  refine ⟨?read, ?erase, ?write, ?slotCheck, ?svn, ?revoke, ?reset, ?resetFails, ?complete, ?pfFlr, ?vfFlr⟩
  case read => exact fun s rq tag h ha => runBoth_mbx_chip h (actFlashRead_done ha)
  case erase => exact fun s rq tag h ha hs => runBoth_mbx h (actFlashErase_done ha hs)
  case write => exact fun s rq tag h ha hs => runBoth_mbx h (actFlashWrite_done ha hs)
  case slotCheck => exact fun s rq tag dev reason h ha hr => runBoth_mbx_chip h (actSlotCheck_done ha hr)
  case svn => exact fun s rq tag h ha hs => runBoth_mbx_chip h (actAdvanceSvn_done ha hs)
  case revoke => exact fun s rq tag h ha hk hl => runBoth_mbx_chip h (actRevokeKey_done ha hk hl)
  case reset => exact fun s rq tag bursts u lo hi dom h hu hr hd hq => runBoth_mbx h (actResetUnit_listed hu hr hd hq)
  case resetFails => exact fun s rq tag bursts u lo hi dom h hu hr hd hq => runBoth_mbx_chip h (actResetUnit_listed hu hr hd hq)
  case complete =>
    intro s m tag op code args data h hs d
    refine runBoth_eq_withChip ((opMailboxComplete_ready h hs rfl rfl).trans ?_)
    rw [mbxPublish_done ((mbxFind_flashDone _).trans h)]
  case pfFlr => exact fun s => runChip_eq rfl
  case vfFlr => exact fun s n hn hp => runChip_eq (opVfFlr_starts hn hp)

end Sys2Proof.Machine
end

section
/-!
PROOFS. The rings of the host interface and the mailboxes of a parcel's window (R378, R379, R387, R391); from that O22.
-/

namespace Sys2Proof.Machine

namespace Chip

section
variable {c : Chip}

/-! DOORBELL (R378). -/

section
variable {rq : Req} {p r : Nat} {v : BitVec 32}

theorem opDoorbell_denied (hw : ownsWindow rq p = false) : c.opDoorbell rq p r v = c.err rq errBadAccess (Reg.VF_DOORBELL p r) := by
  simp [opDoorbell, hw]

variable (hw : ownsWindow rq p = true) (ho : c.addrOff (Reg.VF_DOORBELL p r) = false)
include hw ho

theorem opDoorbell_taken (hb : c.doorbellBad p r v.toNat = false) : c.opDoorbell rq p r v = c.wr (Reg.RING_HOST p r) v := by
  simp [opDoorbell, hw, ho, hb]

theorem opDoorbell_bad (hb : c.doorbellBad p r v.toNat = true) :
    c.opDoorbell rq p r v = c.err rq errBadValue (Reg.VF_DOORBELL p r) := by
  simp [opDoorbell, hw, ho, hb]

end

/-! RING_ERROR and MSIX_INTERRUPT (R379). -/

theorem opRingError_on {p r : Nat} (h : c.ringOn p r = true) : c.opRingError p r
    = ((c.setF (Reg.RING_CFG p r) Fd.RING_CFG_EN 0).setF (Reg.RING_STATUS p r) Fd.RING_STATUS_ERR 1).emit (.aer p r) := if_pos h

/-- A message that waits goes out once its interval has passed; c1 is the chip that has sent it. -/
theorem opMsixInterrupt_due {p r : Nat} {c1 : Chip} (h : c.hif.irqPend.contains (16 * p + r) = true)
    (ht : mget (fun _ => 0) c.hif.irqLast (16 * p + r) + c.fld (Reg.RING_CFG p r) Fd.RING_CFG_MOD * usPs ≤ c.now + 1)
    (h1 : c1 = c.sendMsix p (c.fld (Reg.RING_CFG p r) Fd.RING_CFG_VEC)) : c.opMsixInterrupt p r
      = { c1 with hif.irqPend := c1.hif.irqPend.erase (16 * p + r),
                  hif.irqLast := mset (fun _ => 0) c1.hif.irqLast (16 * p + r) (c.now + 1) } := by
  subst h1
  simp only [opMsixInterrupt, h, decide_eq_true ht]
  rfl

/-! INJECT_FETCH (R387): an entry that can be fetched is refused, stale, or taken where the slice's queue and the cells have room. -/

/-- The slice whose inject queue an entry enters. -/
def injSlice (c : Chip) (x : InjEntry) : Nat := if x.sliceV then x.slice else (c.serving (x.port / 32)).getD 0

section
variable {p ir : Nat} {entry : List Byte} (hd : c.domOn 114 = true) (hr : c.ringOn p (12 + ir) = true) (hp : c.parcelActive p = true)
  (he : (c.rd (Reg.RING_HOST p (12 + ir)) == c.rd (Reg.RING_ENG p (12 + ir))) = false)
  (hm : c.panelMoves ((injEntry entry).port / 32) = false)
include hd hr hp he hm

theorem opInjectFetch_refused (hb : c.injBad p (12 + ir) (injEntry entry) = true) :
    c.opInjectFetch p ir entry = (c.bump (Reg.RING_CNT p (12 + ir) 2) 1).ringAdvance p (12 + ir) := by
  simp only [opInjectFetch, hd, hr, hp, he, hm, hb]
  rfl

variable (hb : c.injBad p (12 + ir) (injEntry entry) = false)
include hb

theorem opInjectFetch_stale (hg : ((injEntry entry).sliceV && c.gen (injEntry entry).slice != (injEntry entry).gen) = true) :
    c.opInjectFetch p ir entry = (c.bump (Reg.FLT_CNT 38) 1).ringAdvance p (12 + ir) := by
  simp only [opInjectFetch, hd, hr, hp, he, hm, hb, hg]
  rfl

theorem opInjectFetch_taken {rsv : Bool} (hg : ((injEntry entry).sliceV && c.gen (injEntry entry).slice != (injEntry entry).gen) = false)
    (hq : (c.pipe.injQ.filter (fun h => h.slice == c.injSlice (injEntry entry))).length < 64)
    (ha : c.admitPart (injEntry entry).port (ceilDiv (injEntry entry).len 256) = some rsv) : c.opInjectFetch p ir entry
      = (c.injTake (c.injSlice (injEntry entry)) (if p = 0 then (injEntry entry).parcel else p) (injEntry entry) rsv).ringAdvance p
          (12 + ir) := by
  unfold injSlice at hq ⊢
  simp only [opInjectFetch, hd, hr, hp, he, hm, hb, hg, if_neg (Nat.not_le.2 hq), ha]
  rfl

end

/-! A probe (R175, R391). -/

/-- The chip on which a probe reads: the bit errors that strike, the probe counted, the slots that it uses. -/
def probeChip (c : Chip) (hits : List Hit) : Chip :=
  (((c.strike hits).bump (Reg.UPD_CNT 7) 1).useSlots (1 + c.free.toNat % 4)).tick

/-- What a probe with these arguments reads. -/
def probeRead (c : Chip) (hits : List Hit) (args : List Nat) : Chip × Probed :=
  (c.probeChip hits).probeAt (args.getD 1 0 % 8) (bitsOf (args.getD 1 0) 7 4) (argNum (args.drop 2))
    (if bitOf (args.getD 0 0) 16 then c.epoch else args.getD 0 0 % 65536)

/-- What a probe answers to who may see it: code 4 for an entry that cannot be read. -/
def probeAnswer (args : List Nat) (r : Probed) : Option (Nat × List Nat) :=
  if r.err ≠ 0 then some (4, []) else some (0, probeData (args.getD 1 0 % 8) (bitsOf (args.getD 1 0) 7 4) r)

section
variable {hits : List Hit} {args : List Nat}

theorem probeAct_refused {parcel : Option Nat} (h : c.probeCode args ≠ 0) :
    probeAct hits parcel args c = (c, some (c.probeCode args, [])) := if_pos h

theorem probeAct_manager (h : c.probeCode args = 0) :
    probeAct hits none args c = ((c.probeRead hits args).1, probeAnswer args (c.probeRead hits args).2) := by
  have e : probeAct hits none args c = if (c.probeRead hits args).2.err ≠ 0 then ((c.probeRead hits args).1, some (4, []))
      else ((c.probeRead hits args).1,
        some (0, probeData (args.getD 1 0 % 8) (bitsOf (args.getD 1 0) 7 4) (c.probeRead hits args).2)) := if_neg (Decidable.not_not.2 h)
  rw [e, probeAnswer, apply_ite (Prod.mk (c.probeRead hits args).1)]

/-- A parcel is answered code 7 for what belongs to another; a miss of a table that belongs to all is not refused. -/
theorem probeAct_parcel {p : Nat} (h : c.probeCode args = 0) : probeAct hits (some p) args c
    = ((c.probeRead hits args).1,
      if ((c.probeRead hits args).2.owner != p && ((c.probeRead hits args).2.hit || bitsOf (args.getD 1 0) 7 4 != 3)) = true
      then some (7, []) else probeAnswer args (c.probeRead hits args).2) := by
  have e : probeAct hits (some p) args c
      = if ((c.probeRead hits args).2.owner != p && ((c.probeRead hits args).2.hit || bitsOf (args.getD 1 0) 7 4 != 3)) = true
        then ((c.probeRead hits args).1, some (7, []))
        else if (c.probeRead hits args).2.err ≠ 0 then ((c.probeRead hits args).1, some (4, []))
        else ((c.probeRead hits args).1,
          some (0, probeData (args.getD 1 0 % 8) (bitsOf (args.getD 1 0) 7 4) (c.probeRead hits args).2)) := if_neg (Decidable.not_not.2 h)
  rw [e, probeAnswer, apply_ite (Prod.mk (c.probeRead hits args).1), apply_ite (Prod.mk (c.probeRead hits args).1)]

end

/-! READ_RECORD (R224, R391). -/

section
variable {args : List Nat} {m : Store} {bad : List (Fin 5)}

/-- A parcel may not read another's ring. -/
theorem actReadRecord_foreign {p : Nat} (h : args.getD 0 0 < 64)
    (hp : c.fld (Reg.FBK_RING_CFG (args.getD 0 0)) Fd.FBK_RING_CFG_PARCEL ≠ p) :
    actReadRecord (some p) bad m c args = (c, some (7, [])) := by
  simp only [actReadRecord, if_neg (Nat.not_le.2 h), bne_iff_ne.2 hp, if_true]

/-- The owner, if there is one, may read ring r. -/
def mayRead (c : Chip) (owner : Option Nat) (r : Nat) : Prop := ∀ p ∈ owner, c.fld (Reg.FBK_RING_CFG r) Fd.FBK_RING_CFG_PARCEL = p

theorem actReadRecord_found {owner : Option Nat} {c1 : Chip} {ad : Nat} (h : args.getD 0 0 < 64) (hp : c.mayRead owner (args.getD 0 0))
    (he : c.on (Reg.FBK_RING_CFG (args.getD 0 0)) Fd.FBK_RING_CFG_EN = true) (hh : c.fbkHolds (args.getD 0 0) (args.getD 1 0) = true)
    (ho : c.fbkOff (args.getD 0 0) (args.getD 1 0) = false)
    (ha : c.fbkAccess (args.getD 0 0) (args.getD 1 0) false = (c1, some ad)) :
    actReadRecord owner [] m c args = (c1, some (0, wordsOf 40 (m.rd ad recordLen))) := by
  cases owner with
  | none =>
    simp only [actReadRecord, if_neg (Nat.not_le.2 h), he, hh, ho, ha]
    rfl
  | some p =>
    have hq : (c.fld (Reg.FBK_RING_CFG (args.getD 0 0)) Fd.FBK_RING_CFG_PARCEL != p) = false := bne_eq_false_iff_eq.2 (hp p rfl)
    simp only [actReadRecord, if_neg (Nat.not_le.2 h), hq, he, hh, ho, ha]
    rfl

end

end

end Chip

open Chip

section
variable {s : State} {rq : Req} {tag : BitVec 16} {parcel : Fin 64} {c : Chip} {r : Option (Nat × List Nat)}

/-- A command that reads the byte memories changes the chip alone. -/
theorem runRead_eq {f : Store → Chip → Chip} (h : f s.store s.chip = c) : runRead s f = .next (s.withChip c) := h ▸ rfl

/-- For whom the window of a parcel probes and reads: the manager parcel's for all (R391). -/
def windowOwner (parcel : Fin 64) : Option Nat := if parcel.val = 0 then none else some parcel.val

theorem windowOwner_manager (h : parcel.val = 0) : windowOwner parcel = none := if_pos h

theorem windowOwner_parcel (h : parcel.val ≠ 0) : windowOwner parcel = some parcel.val := if_neg h

theorem exec_vfProbe {hits : List Hit} (h : s.chip.mbxStarts rq (.vf parcel 0) 1 = true)
    (e : probeAct hits (windowOwner parcel) (s.chip.mbxArgs (.vf parcel 0)) (s.chip.pendingIn (.vf parcel 0)) = (c, r)) :
    exec (.vfProbe rq tag parcel hits) s = .next (s.withChip (c.mbxTaken (.vf parcel 0) tag 1 (s.chip.mbxArgs (.vf parcel 0)) r)) :=
  runChip_eq (mbxRun_eq _ _ _ _ _ _ _ _ h e)

theorem exec_vfReadRecord {bad : List (Fin 5)} (h : s.chip.mbxStarts rq (.vf parcel 1) 1 = true)
    (e : actReadRecord (windowOwner parcel) bad s.store (s.chip.pendingIn (.vf parcel 1)) (s.chip.mbxArgs (.vf parcel 1)) = (c, r)) :
    exec (.vfReadRecord rq tag parcel bad) s
      = .next (s.withChip (c.mbxTaken (.vf parcel 1) tag 1 (s.chip.mbxArgs (.vf parcel 1)) r)) :=
  runRead_eq (mbxRun_eq _ _ _ _ _ _ _ _ h e)

/-- A ring of the field book that the window of a parcel may read. -/
theorem mayRead_window {k : Nat} (h : parcel.val = 0 ∨ c.fld (Reg.FBK_RING_CFG k) Fd.FBK_RING_CFG_PARCEL = parcel.val) :
    c.mayRead (windowOwner parcel) k := by
  intro p hp
  unfold windowOwner at hp
  split at hp
  · cases hp
  · next hz =>
    cases hp
    exact h.resolve_left hz

end

/-- Settles O22: command by command, one case of its operation for each clause. -/
theorem ringActs : Obligations.RingActs := by
  unfold Obligations.RingActs
  refine ⟨?taken, ?badValue, ?denied, ?ringError, ?message, ?refused, ?stale, ?injected, ?probeAll, ?probeOwn, ?probeRefused,
    ?recordForeign, ?recordRead⟩
  case taken => exact fun s rq parcel ring v hw ho hb => runChip_eq (opDoorbell_taken hw ho hb)
  case badValue => exact fun s rq parcel ring v hw ho hb => runChip_eq (opDoorbell_bad hw ho hb)
  case denied => exact fun s rq parcel ring v hw => runChip_eq (opDoorbell_denied hw)
  case ringError => exact fun s parcel ring h => runChip_eq (opRingError_on h)
  case message => exact fun s parcel ring h ht => runChip_eq (opMsixInterrupt_due h ht rfl)
  case refused => exact fun s parcel ring entry hd hr hp he hm hb => runChip_eq (opInjectFetch_refused hd hr hp he hm hb)
  case stale => exact fun s parcel ring entry hd hr hp he hm hb hg => runChip_eq (opInjectFetch_stale hd hr hp he hm hb hg)
  case injected =>
    exact fun s parcel ring entry rsv hd hr hp he hm hb hg hq ha => runChip_eq (opInjectFetch_taken hd hr hp he hm hb hg hq ha)
  case probeAll =>
    intro s rq tag parcel hits h hc hp
    exact exec_vfProbe h (by rw [windowOwner_manager hp]; exact probeAct_manager hc)
  case probeOwn =>
    intro s rq tag parcel hits h hc hp
    exact exec_vfProbe h (by rw [windowOwner_parcel hp]; exact probeAct_parcel hc)
  case probeRefused => exact fun s rq tag parcel hits h hc => exec_vfProbe h (probeAct_refused hc)
  case recordForeign =>
    intro s rq tag parcel bad h hr hp hf
    exact exec_vfReadRecord h (by rw [windowOwner_parcel hp]; exact actReadRecord_foreign hr hf)
  case recordRead =>
    exact fun s rq tag parcel c ad h hr hp he hh ho ha =>
      exec_vfReadRecord h (actReadRecord_found hr (mayRead_window hp) he hh ho ha)

end Sys2Proof.Machine
end

section
/-!
PROOFS. The byte memories (R78, R87, R99, R220, R294): their canonical form at reset and after a step, the commands that leave them, and
what reads back of what was stored; from that O32, O33, O34 and O41.
-/

namespace Sys2Proof.Machine

/-! Reading after entries are dropped. No premise on the map: a test that looks at the key alone drops all entries of a key, or none. -/

section
variable {α : Type} {m : NMap α} {k : Nat} {p : Nat × α → Bool}

theorem mfind_filter_kept (h : ∀ v, p (k, v) = true) : mfind (m.filter p) k = mfind m k := by
  induction m with
  | nil => rfl
  | cons x m ih =>
    obtain ⟨j, v⟩ := x
    by_cases hj : j = k
    · subst hj
      simp [mfind, List.filter_cons_of_pos (h v)]
    · cases hp : p (j, v) with
      | true => simp [List.filter_cons_of_pos hp, mfind, hj, ih]
      | false => simp [hp, mfind, hj, ih]

theorem mfind_filter_dropped (h : ∀ v, p (k, v) = false) : mfind (m.filter p) k = none := by
  induction m with
  | nil => rfl
  | cons x m ih =>
    obtain ⟨j, v⟩ := x
    cases hp : p (j, v) with
    | true =>
      have hj : j ≠ k := fun e => Bool.false_ne_true ((h v).symm.trans (e ▸ hp))
      simp [List.filter_cons_of_pos hp, mfind, hj, ih]
    | false => simp [hp, ih]

theorem mget_filter_kept (d : Nat → α) (h : ∀ v, p (k, v) = true) : mget d (m.filter p) k = mget d m k := by
  unfold mget
  rw [mfind_filter_kept h]

/-- A key whose entries are dropped reads as an unlisted one. -/
theorem mget_filter_dropped (d : Nat → α) (h : ∀ v, p (k, v) = false) : mget d (m.filter p) k = d k := by
  unfold mget
  rw [mfind_filter_dropped h]
  rfl

end

namespace Store

variable (m : Store)

/-! One byte read. -/

theorem rd_byte (b : Nat) : m.rd b 1 = [mget memByte m.mem b] := rfl

theorem flashRd_byte (s o : Nat) : m.flashRd s o 1 = [mget flashByte m.flash (s * 2 ^ 28 + o)] := by
  simp [flashRd, memRead]

/-- A byte of flash by its address alone. -/
theorem flashRd_address (b : Nat) : m.flashRd 0 b 1 = [mget flashByte m.flash b] := by
  rw [flashRd_byte, Nat.zero_mul, Nat.zero_add]

/-! After a write. -/

theorem rd_wr_same (a : Nat) (l : List Byte) : (m.wr a l).rd a l.length = l := memRead_memWrite _ _ _ _

theorem rd_wr_other {a b : Nat} {l : List Byte} (h : b < a ∨ a + l.length ≤ b) : (m.wr a l).rd b 1 = m.rd b 1 :=
  congrArg (fun x => [x]) (mget_memWrite_other _ _ _ _ _ h)

theorem flashRd_flashWr_same (s o : Nat) (l : List Byte) : (m.flashWr s o l).flashRd s o l.length = l := memRead_memWrite _ _ _ _

theorem flashRd_flashWr_other {s o b : Nat} {l : List Byte} (h : b < s * 2 ^ 28 + o ∨ s * 2 ^ 28 + o + l.length ≤ b) :
    (m.flashWr s o l).flashRd 0 b 1 = m.flashRd 0 b 1 := by
  rw [flashRd_address, flashRd_address]
  exact congrArg (fun x => [x]) (mget_memWrite_other _ _ _ _ _ h)

/-! After an erase (R87). -/

theorem flashRd_flashErase_same {s o n i : Nat} (h : i < n) : (m.flashErase s o n).flashRd s (o + i) 1 = [0xFF] := by
  have hd : (decide (s * 2 ^ 28 + o ≤ s * 2 ^ 28 + (o + i)) && decide (s * 2 ^ 28 + (o + i) < s * 2 ^ 28 + o + n)) = true := by
    rw [Bool.and_eq_true, decide_eq_true_eq, decide_eq_true_eq]
    omega
  rw [flashRd_byte]
  exact congrArg (fun x => [x]) (mget_filter_dropped flashByte fun _ => by simp only [hd, Bool.not_true])

theorem flashRd_flashErase_other {s o n b : Nat} (h : b < s * 2 ^ 28 + o ∨ s * 2 ^ 28 + o + n ≤ b) :
    (m.flashErase s o n).flashRd 0 b 1 = m.flashRd 0 b 1 := by
  have hk : (decide (s * 2 ^ 28 + o ≤ b) && decide (b < s * 2 ^ 28 + o + n)) = false := by
    rw [Bool.and_eq_false_iff, decide_eq_false_iff_not, decide_eq_false_iff_not]
    omega
  rw [flashRd_address, flashRd_address]
  exact congrArg (fun x => [x]) (mget_filter_kept flashByte fun _ => by simp only [hk, Bool.not_false])

/-! After a reset that loses HBM: addresses below 2^60 are HBM's, the others the extension devices' (R78, R294). -/

theorem mget_lostHbm_hbm {a : Nat} (h : a < 2 ^ 60) : mget memByte m.lostHbm.mem a = memByte a :=
  mget_filter_dropped memByte fun _ => decide_eq_false (Nat.not_le.2 h)

theorem mget_lostHbm_device {a : Nat} (h : 2 ^ 60 ≤ a) : mget memByte m.lostHbm.mem a = mget memByte m.mem a :=
  mget_filter_kept memByte fun _ => decide_eq_true h

end Store

open Store

/-- A command that answers t does what exec_done says of its one answer. -/
theorem exec_done_of_next {i : Instr} {s t : State} (h : exec i s = .next t) : Done i s t := by
  obtain ⟨u, d⟩ := exec_done i s
  cases d.next.symm.trans h
  exact d

/-- Settles O34: a step goes on to one state, and that one is canonical. -/
theorem everyStepKeepsCanonical : Obligations.EveryStepKeepsCanonical := by
  unfold Obligations.EveryStepKeepsCanonical
  intro s t hs ht
  obtain ⟨u, hu, cu, -⟩ := step_safe hs
  cases hu.symm.trans ht
  exact cu

/-- Settles O32: the lists are those of the command's answer. -/
theorem commandsThatStoreNothing : Obligations.CommandsThatStoreNothing := by
  unfold Obligations.CommandsThatStoreNothing
  exact ⟨fun i s t hb h => (exec_done_of_next h).bytes hb, fun i s t hf h => (exec_done_of_next h).kept.2 hf⟩

/-- Settles O33: both memories list nothing. -/
theorem resetIsCanonical : Obligations.ResetIsCanonical := by
  unfold Obligations.ResetIsCanonical
  rfl

/-- Settles O41: what a write, an erase and a loss of HBM leave at an address. -/
theorem byteMemoriesReadBack : Obligations.ByteMemoriesReadBack := by
  unfold Obligations.ByteMemoriesReadBack
  refine ⟨?stored, ?others, ?flashed, ?flashOthers, ?erased, ?eraseOthers, ?devices⟩
  case stored => exact rd_wr_same
  case others => exact fun m a b l h => m.rd_wr_other h
  case flashed => exact flashRd_flashWr_same
  case flashOthers => exact fun m s o b l h => m.flashRd_flashWr_other h
  case erased => exact fun m s o n i h => m.flashRd_flashErase_same h
  case eraseOthers => exact fun m s o n b h => m.flashRd_flashErase_other h
  case devices => exact fun m b h => congrArg (fun x => [x]) (m.mget_lostHbm_device h)

end Sys2Proof.Machine
end

section
/-!
PROOFS. The boot phases, the boot watchdog and the restart wait (R82 to R86, R96, R363): what each does from the phase that it belongs
to; from that O3.
-/

namespace Sys2Proof.Machine

namespace Chip

section
variable {c : Chip} {m : Store}

/-! BOOT_B0 (R82, R83). -/

/-- VDD_AON is in range, VBAT with it, and the oscillator is trimmed. -/
def aonTrimmed (c : Chip) : Chip := { c with boot.trimmed := true, pins.vddAon := true, pins.vbat := true }

section
variable (hp : c.boot.phase = 0) (ht : c.boot.trimmed = false) (hr : c.pins.refclk = true)
include hp ht hr

theorem opBootB0_keepsBkp (hb : c.boot.bkpLost = false) : c.opBootB0 = c.aonTrimmed.recordCauses.scanJournal.tryB1 := by
  simp [opBootB0, hp, ht, hr, hb, aonTrimmed]

theorem opBootB0_lostBkp (hb : c.boot.bkpLost = true) : c.opBootB0 = c.aonTrimmed.bkpLoss.recordCauses.scanJournal.tryB1 := by
  simp [opBootB0, hp, ht, hr, hb, aonTrimmed]

end

/-! BOOT_B1 (R83, R96): slot selection begins with the other slot after a load that failed, else with the preferred one. -/

/-- The flash has left its reset, with the straps as they stand. -/
def flashReady (c : Chip) (straps : Straps) (e : FlashEnv) : Chip :=
  { c with pins.straps := straps, pins.xspiReset := true, pins.cs1 := e.cs1, pins.wakeOut := false }

section
variable {straps : Straps} {e : FlashEnv} (hp : c.boot.phase = 1)
include hp

theorem opBootB1_testmode (ht : c.pins.testmode = true) : c.opBootB1 straps e m = (m, c.flashReady straps e) := by
  simp [opBootB1, hp, ht, flashReady]

variable (ht : c.pins.testmode = false) (he : c.boot.exitForm = false)
include ht he

theorem opBootB1_preferred (hf : c.boot.failedSlot = none) :
    c.opBootB1 straps e m = (c.flashReady straps e).b1Start.selectSlot e m (c.fld Reg.BOOT_SLOT_PREF Fd.BOOT_SLOT_PREF_PREF) := by
  simp [opBootB1, hp, ht, he, hf, flashReady]

theorem opBootB1_other {n : Nat} (hf : c.boot.failedSlot = some n) :
    c.opBootB1 straps e m = (c.flashReady straps e).b1Start.selectSlot e m (1 - n) := by
  simp [opBootB1, hp, ht, he, hf, flashReady]

end

/-! BOOT_B2 (R83, R96), and in the exit from Deflated (R363). -/

section
variable {e : FlashEnv} (hp : c.boot.phase = 2)
include hp

theorem opBootB2_exit (he : c.boot.exitForm = true) : c.opBootB2 e m
    = ({ c with pins.cs1 := e.cs1 } : Chip).exitB2 e m (c.fld Reg.BOOT_STATUS Fd.BOOT_STATUS_SLOT) := by
  simp [opBootB2, hp, he]

theorem opBootB2_first (he : c.boot.exitForm = false) : c.opBootB2 e m
    = ({ c with pins.cs1 := e.cs1 } : Chip).streamBody e m (c.fld Reg.BOOT_STATUS Fd.BOOT_STATUS_SLOT) := by
  simp [opBootB2, hp, he]

end

/-- The slot that booted still holds the firmware that the loader knows: its cores are released. -/
theorem exitB2_sameFirmware {e : FlashEnv} {s : Nat} (ha : slotAnswers e s = true) (ht : slotTimeout e s = false)
    (hf : imgFirmware (slotImg m (areaOf e.cs1 s)) = c.boot.fwDigests) :
    c.exitB2 e m s = (m, (c.releaseCores c.boot.fwDigests).setPhase 3) := by
  simp [exitB2, ha, ht, hf]

/-! BOOT_B3, BOOT_B4 and BOOT_B5 (R83), and in the exit from Deflated (R363). -/

section
variable {ranks : List (Nat × Nat)} {gib : List Nat} (hp : c.boot.phase = 3)
include hp

theorem opBootB3_exit (he : c.boot.exitForm = true) :
    c.opBootB3 ranks gib m = (m, ({ c with pins.cxlPerst0 := true, pins.cxlPerst1 := true } : Chip).exitB3 gib) := by
  simp [opBootB3, hp, he]

theorem opBootB3_first (he : c.boot.exitForm = false) :
    c.opBootB3 ranks gib m = ({ c with pins.cxlPerst0 := true, pins.cxlPerst1 := true } : Chip).firstB3 ranks gib m := by
  simp [opBootB3, hp, he]

end

theorem opBootB4_first (hp : c.boot.phase = 4) (he : c.boot.exitForm = false) : c.opBootB4
    = ({ c.setSlot 0 sClosed with hbm.backed := [0, 1, 2, 3], hbm.backAt := c.now }.flip).setPhase 5 := by
  simp [opBootB4, hp, he]

theorem opBootB5_first (hp : c.boot.phase = 5) (he : c.boot.exitForm = false) : c.opBootB5 m = c.firstB5 m := by
  simp [opBootB5, hp, he]

theorem opBootB5_exit (hp : c.boot.phase = 5) (he : c.boot.exitForm = true) : c.opBootB5 m = (m, c.exitB5) := by
  simp [opBootB5, hp, he]

/-! The boot watchdog (R85) and the end of the restart wait (R86). -/

/-- A phase of boot that lasts beyond its limit is reset source 2; manufacturing test is no boot (R36). -/
theorem opBootWatchdogExpiry_restarts (h1 : 1 ≤ c.boot.phase) (h5 : c.boot.phase ≤ 5) (ht : c.pins.testmode = false)
    (hl : c.boot.phaseStart + c.phaseLimit m ≤ c.now) (hp : c.plain = false) (hf : c.firstInCycle = true) :
    c.opBootWatchdogExpiry m = (m.lostHbm, (c.cutFrames (fun _ => true)).restarted 2) := by
  simp only [opBootWatchdogExpiry, asBefore_of_firstInCycle hf]
  rw [if_pos ⟨h1, h5, ht, hl⟩, resetSource_first c 2 m (.inl hp) hf]

theorem opBootBackoffEnd_over (hp : c.boot.phase = 6) (hw : c.boot.waitEnd ≤ c.now) : c.opBootBackoffEnd = c.enterB1 :=
  if_pos ⟨hp, hw⟩

end

end Chip

open Chip

/-- A command that runs an operation on the byte memories and the chip goes on with both its answers. -/
theorem runBoth_eq_pair {s : State} {f : Store → Chip → Store × Chip} {r : Store × Chip} (h : f s.store s.chip = r) :
    runBoth s f = .next (s.withBoth r.1 r.2) := runBoth_eq h

/-- Settles O3: phase by phase, one case of its operation for each clause. -/
theorem bootPhasesAct : Obligations.BootPhasesAct := by
  unfold Obligations.BootPhasesAct
  refine ⟨?trims, ?trimsBkpLost, ?preferredSlot, ?otherSlot, ?testmode, ?exitFirmware, ?streams, ?exitStacks, ?trains, ?commits,
    ?enables, ?exitEnds, ?watchdog, ?backoff⟩
  case trims => exact fun s hp ht hr hb => runChip_eq (opBootB0_keepsBkp hp ht hr hb)
  case trimsBkpLost => exact fun s hp ht hr hb => runChip_eq (opBootB0_lostBkp hp ht hr hb)
  case preferredSlot => exact fun s straps e hp ht he hf => runBoth_eq_pair (opBootB1_preferred hp ht he hf)
  case otherSlot => exact fun s straps e n hp ht he hf => runBoth_eq_pair (opBootB1_other hp ht he hf)
  case testmode => exact fun s straps e hp ht => runBoth_eq_withChip (opBootB1_testmode hp ht)
  case exitFirmware =>
    exact fun s e hp he ha ht hf => runBoth_eq_withChip ((opBootB2_exit hp he).trans (exitB2_sameFirmware ha ht hf))
  case streams => exact fun s e hp he => runBoth_eq_pair (opBootB2_first hp he)
  case exitStacks => exact fun s ranks gib hp he => runBoth_eq_withChip (opBootB3_exit hp he)
  case trains => exact fun s ranks gib hp he => runBoth_eq_pair (opBootB3_first hp he)
  case commits => exact fun s hp he => runChip_eq (opBootB4_first hp he)
  case enables => exact fun s hp he => runBoth_eq_pair (opBootB5_first hp he)
  case exitEnds => exact fun s hp he => runBoth_eq_withChip (opBootB5_exit hp he)
  case watchdog => exact fun s h1 h5 ht hl hp hf => runBoth_eq (opBootWatchdogExpiry_restarts h1 h5 ht hl hp hf)
  case backoff => exact fun s hp hw => runChip_eq (opBootBackoffEnd_over hp hw)

end Sys2Proof.Machine
end

section
/-!
PROOFS. A restart (R75, R78, R80, R81): what the journal's last writes leave, what is cleared and kept, and what the record of the reset
and the start of B1 change after that; from that O55.
-/

namespace Sys2Proof.Machine

/-- A run of writes leaves a key that none of them names. -/
theorem mget_foldl_mset_other {α A : Type} [DecidableEq α] (d : Nat → α) (key : A → Nat) (val : A → α) {k : Nat} {l : List A}
    (h : ∀ a ∈ l, k ≠ key a) (m : NMap α) : mget d (l.foldl (fun m a => mset d m (key a) (val a)) m) k = mget d m k := by
  induction l generalizing m with
  | nil => rfl
  | cons a l ih =>
    rw [List.forall_mem_cons] at h
    exact (ih h.2 _).trans (mget_mset_other _ _ _ _ _ h.1)

namespace Chip

/-! The journal writes that end before a reset takes effect (R43, R352). -/

theorem fltOnly_opJournalWrite (c : Chip) : FltOnly c c.opJournalWrite := by
  unfold opJournalWrite
  split
  · exact .refl c
  · extract_lets i f c1 c2
    have h1 : FltOnly c c1 := .flt c _
    have h2 : FltOnly c c2 := ((h1.trans (.setF _ _ _ _ (by simp [Reg.FLT_JRN_STATUS]))).trans
      (.setF _ _ _ _ (by simp [Reg.FLT_JRN_STATUS]))).trans (.bump _ _ _)
    exact .ite (h2.trans (.setF _ _ _ _ (by simp [Reg.FLT_STATUS]))) h2

theorem fltOnly_flushJournal (n : Nat) (c : Chip) : FltOnly c (flushJournal n c) := by
  induction n generalizing c with
  | zero => exact .refl c
  | succ n ih => exact (fltOnly_opJournalWrite c).trans (ih _)

theorem flushJournal_now (n : Nat) (c : Chip) : (flushJournal n c).now = c.now := by
  rw [(fltOnly_flushJournal n c).frame]

theorem flushJournal_time (n : Nat) (c : Chip) : (flushJournal n c).time = c.time := by
  rw [(fltOnly_flushJournal n c).frame]

/-! What clearing keeps of the registers (R78). -/

section
variable {c : Chip} {code k : Nat}

/-- A register whose value a restart keeps: one of BKP, the fuse shadow, or the journal's status. -/
def keptInRestart (k : Nat) : Bool := isBkp k || k == Reg.BOOT_FUSE || k == Reg.FLT_JRN_STATUS

/-- Outside PWR_DOM, whose trips are written again, a register is kept or is cleared. -/
theorem mget_keptRegs (hd : k < 0x30800 ∨ 0x309D4 ≤ k) : mget regDefault (c.keptRegs code) k
    = mget regDefault ((c.setF Reg.RST_RESTART Fd.RST_RESTART_BACKOFF 0).regs.filter (fun x => keptInRestart x.1)) k := by
  have apart : ∀ d ∈ List.range 117, k ≠ Reg.PWR_DOM d := by
    intro d h
    rw [List.mem_range] at h
    unfold Reg.PWR_DOM
    omega
  unfold keptRegs
  extract_lets r l
  split
  · rfl
  · exact mget_foldl_mset_other regDefault Reg.PWR_DOM _ apart l

theorem reg_wiped_kept (h : keptInRestart k = true) (hd : k < 0x30800 ∨ 0x309D4 ≤ k) (hr : k ≠ Reg.RST_RESTART) :
    (c.wiped code).reg k = c.reg k := by
  calc (c.wiped code).reg k = mget regDefault (c.keptRegs code) k := rfl
    _ = (c.setF Reg.RST_RESTART Fd.RST_RESTART_BACKOFF 0).reg k :=
      (mget_keptRegs hd).trans (mget_filter_kept regDefault fun _ => h)
    _ = c.reg k := reg_setF_other _ _ _ _ _ hr

theorem reg_wiped_cleared (h : keptInRestart k = false) (hd : k < 0x30800 ∨ 0x309D4 ≤ k) : (c.wiped code).reg k = regDefault k :=
  (mget_keptRegs hd).trans (mget_filter_dropped regDefault fun _ => h)

end

/-- The field of all 32 bits is the register. -/
theorem reg_eq_of_fld {c d : Chip} {k : Nat} (h : c.fld k ⟨0, 32⟩ = d.fld k ⟨0, 32⟩) : c.reg k = d.reg k := by
  have whole (w : Word) : bfGet ⟨0, 32⟩ w = w.toNat := by
    rw [bfGet, Nat.pow_zero, Nat.div_one, Nat.mod_eq_of_lt w.isLt]
  exact BitVec.eq_of_toNat_eq ((whole _).symm.trans (h.trans (whole _)))

/-! BKP-held fields written by hardware (R80, R81). -/

section
variable (c : Chip) (k v : Nat) (f : BF)

theorem reg_setBkpF_other {j : Nat} (h : j ≠ k) : (c.setBkpF k f v).reg j = c.reg j := reg_setF_other c k j f v h

theorem fld_setBkpF_same (h : f.lo + f.width ≤ 32) : (c.setBkpF k f v).fld k f = v % 2 ^ f.width := fld_setF_same c k f v h

theorem fld_setBkpF_field {g : BF} (h : f.lo + f.width ≤ 32) (d : g.lo + g.width ≤ f.lo ∨ f.lo + f.width ≤ g.lo) :
    (c.setBkpF k f v).fld k g = c.fld k g := fld_setF_field c k f g v h d

theorem fld_setBkpF_other {j : Nat} {g : BF} (h : j ≠ k) : (c.setBkpF k f v).fld j g = c.fld j g := fld_setF_other c k j f g v h

end

theorem regs_bootPins (c : Chip) (b : Boot) (p : Pins) : ({ c with boot := b, pins := p } : Chip).regs = c.regs := rfl

/-- d differs from c only in what the record of a reset and the start of B1 write: registers of the RST block with BKP's copies of them,
the pins, and the progress of boot. -/
structure RstOnly (c d : Chip) : Prop where
  frame : d = { c with regs := d.regs, bkp := d.bkp, bkpPend := d.bkpPend, pins := d.pins, boot := d.boot }
  last : d.boot.lastReset = c.boot.lastReset
  regs : ∀ k, k < 0x10000 ∨ 0x10034 ≤ k → d.reg k = c.reg k

namespace RstOnly

variable {c d e : Chip}

theorem refl (c : Chip) : RstOnly c c := ⟨rfl, rfl, fun _ _ => rfl⟩

theorem trans (h : RstOnly c d) (g : RstOnly d e) : RstOnly c e := by
  refine ⟨?_, g.last.trans h.last, fun k hk => (g.regs k hk).trans (h.regs k hk)⟩
  have a := h.frame
  have b := g.frame
  rw [a] at b
  exact b

theorem setF (c : Chip) (k : Nat) (f : BF) (v : Nat) (h : 0x10000 ≤ k ∧ k < 0x10034) : RstOnly c (c.setF k f v) :=
  ⟨rfl, rfl, fun _ hj => reg_setF_other c k _ f v (by omega)⟩

theorem setBkpF (c : Chip) (k : Nat) (f : BF) (v : Nat) (h : 0x10000 ≤ k ∧ k < 0x10034) : RstOnly c (c.setBkpF k f v) :=
  ⟨rfl, rfl, fun _ hj => reg_setBkpF_other c k v f (by omega)⟩

theorem bootPins (c : Chip) (b : Boot) (p : Pins) (h : b.lastReset = c.boot.lastReset) :
    RstOnly c { c with boot := b, pins := p } := ⟨rfl, h, fun k _ => reg_congr (regs_bootPins c b p) k⟩

theorem rtc (h : RstOnly c d) : d.time.rtc = c.time.rtc := by rw [h.frame]

end RstOnly

/-! The start of B1 (R83, R86). -/

section
variable (c : Chip)

theorem regs_enterB1 : c.enterB1.regs = ((c.setF Reg.RST_RESTART Fd.RST_RESTART_BACKOFF 0).setBkpF Reg.RST_CAUSE
    Fd.RST_CAUSE_PROFILE (b2n c.pins.straps.rstprof)).regs := regs_bootPins _ _ _

theorem rstOnly_enterB1 : RstOnly c c.enterB1 :=
  ((RstOnly.setF c _ _ _ (by simp [Reg.RST_RESTART])).trans (.setBkpF _ Reg.RST_CAUSE Fd.RST_CAUSE_PROFILE
    (b2n c.pins.straps.rstprof) (by simp [Reg.RST_CAUSE]))).trans (.bootPins _ _ _ rfl)

theorem rstOnly_startB1 : RstOnly c c.startB1 := by
  unfold startB1
  extract_lets n c1 d b
  have h1 : RstOnly c c1 := .setBkpF c _ _ _ (by simp [Reg.RST_RESTART])
  split
  · exact (h1.trans (.setF _ _ _ _ (by simp [Reg.RST_RESTART]))).trans (.bootPins d _ d.pins rfl)
  · exact h1.trans (rstOnly_enterB1 c1)

theorem rstOnly_tryB1 : RstOnly c c.tryB1 := by
  unfold tryB1
  split
  · exact rstOnly_startB1 c
  · exact .refl c

variable {c} {k : Nat} {f : BF}

/-- The start of B1 writes RST_RESTART and the profile alone. -/
theorem fld_enterB1 (hr : k ≠ Reg.RST_RESTART) (hc : k ≠ Reg.RST_CAUSE ∨ f.lo + f.width ≤ 7 ∨ 8 ≤ f.lo) :
    c.enterB1.fld k f = c.fld k f := by
  have profile (d : Chip) (v : Nat) : (d.setBkpF Reg.RST_CAUSE Fd.RST_CAUSE_PROFILE v).fld k f = d.fld k f := by
    by_cases h : k = Reg.RST_CAUSE
    · subst h
      exact fld_setBkpF_field _ _ _ _ (by decide) (hc.resolve_left (not_not_intro rfl))
    · exact fld_setBkpF_other _ _ _ _ h
  exact (fld_congr (regs_enterB1 c) k f).trans ((profile _ _).trans (fld_setF_other _ _ _ _ _ _ hr))

theorem fld_startB1 (hr : k ≠ Reg.RST_RESTART) (hc : k ≠ Reg.RST_CAUSE ∨ f.lo + f.width ≤ 7 ∨ 8 ≤ f.lo) :
    c.startB1.fld k f = c.fld k f := by
  unfold startB1
  extract_lets n c1 d b
  have h1 : c1.fld k f = c.fld k f := fld_setBkpF_other _ _ _ _ hr
  split
  · exact (fld_congr (regs_bootPins d _ d.pins) k f).trans ((fld_setF_other _ _ _ _ _ _ hr).trans h1)
  · exact (fld_enterB1 hr hc).trans h1

theorem fld_tryB1 (hr : k ≠ Reg.RST_RESTART) (hc : k ≠ Reg.RST_CAUSE ∨ f.lo + f.width ≤ 7 ∨ 8 ≤ f.lo) :
    c.tryB1.fld k f = c.fld k f := by
  unfold tryB1
  split
  · exact fld_startB1 hr hc
  · rfl

end

/-! The record of a reset (R80, R81). -/

section
variable (c : Chip) {code : Nat}

theorem rstCause_ne_rstCount (code : Nat) : Reg.RST_CAUSE ≠ Reg.RST_COUNT code := by
  simp only [Reg.RST_CAUSE, Reg.RST_COUNT]
  omega

theorem rstCount_ne_rstRestart {code : Nat} (h : code < 7) : Reg.RST_COUNT code ≠ Reg.RST_RESTART := by
  simp only [Reg.RST_COUNT, Reg.RST_RESTART]
  omega

theorem rstOnly_recordReset (h : code < 7) : RstOnly c (c.recordReset code) :=
  ((RstOnly.setBkpF c _ _ _ (by simp [Reg.RST_CAUSE])).trans (.setBkpF _ _ _ _ (by simp [Reg.RST_CAUSE]))).trans
    (.setBkpF _ _ _ _ (by simp only [Reg.RST_COUNT]; omega))

theorem fld_recordReset_last (h : code < 7) : (c.recordReset code).fld Reg.RST_CAUSE Fd.RST_CAUSE_LAST = code := by
  unfold recordReset countReset
  rw [fld_setBkpF_other _ _ _ _ (rstCause_ne_rstCount code), fld_setBkpF_field _ _ _ _ (by decide) (by decide),
    fld_setBkpF_same _ _ _ _ (by decide)]
  exact Nat.mod_eq_of_lt (by simp only [Fd.RST_CAUSE_LAST]; omega)

theorem fld_recordReset_count : (c.recordReset code).fld (Reg.RST_COUNT code) Fd.RST_COUNT_COUNT
    = min (c.fld (Reg.RST_COUNT code) Fd.RST_COUNT_COUNT + 1) 0xFFFF := by
  unfold recordReset countReset
  rw [fld_setBkpF_same _ _ _ _ (by decide), fld_setBkpF_other _ _ _ _ (rstCause_ne_rstCount code).symm,
    fld_setBkpF_other _ _ _ _ (rstCause_ne_rstCount code).symm]
  exact Nat.mod_eq_of_lt (by simp only [Fd.RST_COUNT_COUNT]; omega)

theorem reg_recordReset_count {j : Nat} (h : j ≠ code) : (c.recordReset code).reg (Reg.RST_COUNT j) = c.reg (Reg.RST_COUNT j) := by
  have hj : Reg.RST_COUNT j ≠ Reg.RST_COUNT code := by
    simp only [Reg.RST_COUNT]
    omega
  unfold recordReset countReset
  rw [reg_setBkpF_other _ _ _ _ hj, reg_setBkpF_other _ _ _ _ (rstCause_ne_rstCount j).symm,
    reg_setBkpF_other _ _ _ _ (rstCause_ne_rstCount j).symm]

end

/-! The restart: the chip is cleared; then its reset is recorded and B1 starts, or it waits for B0 to record it. -/

/-- The chip that a restart for a source has cleared; the journal writes that waited have ended. -/
def cleared (c : Chip) (code : Nat) : Chip := (flushJournal c.flt.jrnQ.length c).wiped code

/-- B0 has yet to record resets that came before this one. -/
def causesWait (c : Chip) : Prop := c.boot.phase = 0 ∧ c.boot.trimmed = false ∧ c.boot.causes ≠ []

section
variable {c d : Chip} {code k : Nat}

theorem keptInRestart_aboveAon (h : 0x50000 ≤ k) : keptInRestart k = false := by
  simp only [keptInRestart, isBkp, Bool.or_eq_false_iff, Bool.and_eq_false_iff, beq_eq_false_iff_ne, decide_eq_false_iff_not,
    Reg.RST_CAUSE, Reg.RST_RESTART, Reg.BOOT_SLOT_PREF, Reg.PWR_RTC_ALARM_LO, Reg.PWR_RTC_ALARM_HI, Reg.PWR_RTC_CTRL, Reg.BOOT_FUSE,
    Reg.FLT_JRN_STATUS]
  omega

theorem keptInRestart_rstCount {j : Nat} (h : j < 7) : keptInRestart (Reg.RST_COUNT j) = true := by
  have hj : 0x10010 ≤ Reg.RST_COUNT j ∧ Reg.RST_COUNT j < 0x1002C := by
    simp only [Reg.RST_COUNT]
    omega
  simp [keptInRestart, isBkp, hj]

theorem reg_cleared_aboveAon (h : 0x50000 ≤ k) : (c.cleared code).reg k = regDefault k :=
  reg_wiped_cleared (keptInRestart_aboveAon h) (by omega)

theorem reg_cleared_kept (h : keptInRestart k = true) (hd : k < 0x30800) (hr : k ≠ Reg.RST_RESTART) :
    (c.cleared code).reg k = c.reg k :=
  (reg_wiped_kept h (by omega) hr).trans ((fltOnly_flushJournal _ c).regs k (by omega))

theorem reg_cleared_rstCount {j : Nat} (h : j < 7) : (c.cleared code).reg (Reg.RST_COUNT j) = c.reg (Reg.RST_COUNT j) :=
  reg_cleared_kept (keptInRestart_rstCount h) (by simp only [Reg.RST_COUNT]; omega) (rstCount_ne_rstRestart h)

theorem cleared_rtc : (c.cleared code).time.rtc = c.time.rtc := by
  rw [← flushJournal_time c.flt.jrnQ.length c]
  rfl

theorem cleared_lastReset : (c.cleared code).boot.lastReset.map (fun r => (r.cycle, r.code)) = some (c.now / 10000, code) :=
  congrArg (fun t => some (t / 10000, code)) (flushJournal_now _ c)

/-- What the record of a reset and the start of B1 do not fill again stays cleared. -/
theorem RstOnly.cleared (h : RstOnly (c.cleared code) d) :
    d.ctrs = [] ∧ d.active = [] ∧ d.prev = [] ∧ d.latches = [] ∧ d.mbx = [] ∧ d.pipe = Chip.reset.pipe ∧ d.bpm = Chip.reset.bpm ∧
      d.tm = Chip.reset.tm ∧ d.tbl = Chip.reset.tbl ∧ d.upd = Chip.reset.upd ∧ d.dtm = Chip.reset.dtm ∧ d.hif = Chip.reset.hif ∧
      d.hbm = Chip.reset.hbm ∧ d.fbk = Chip.reset.fbk ∧ d.tet = Chip.reset.tet ∧ d.pmc = Chip.reset.pmc := by
  rw [h.frame]
  exact ⟨rfl, rfl, rfl, rfl, rfl, rfl, rfl, rfl, rfl, rfl, rfl, rfl, rfl, rfl, rfl, rfl⟩

variable (h0 : 0 < code)
include h0

theorem restarted_waits (hw : c.causesWait) : c.restarted code
    = { c.cleared code with boot.causes := c.boot.causes ++ [code] } := by
  simp only [restarted, if_neg (Nat.ne_of_gt h0)]
  exact if_pos hw

theorem restarted_recorded (hw : ¬ c.causesWait) : c.restarted code
    = if atB0 code then (c.cleared code).recordReset code else ((c.cleared code).recordReset code).tryB1 := by
  simp only [restarted, if_neg (Nat.ne_of_gt h0)]
  exact if_neg hw

/-- Where the reset is recorded, the chip reads what the record left, but for what the start of B1 writes. -/
theorem fld_restarted_recorded (hw : ¬ c.causesWait) {f : BF} (hr : k ≠ Reg.RST_RESTART)
    (hc : k ≠ Reg.RST_CAUSE ∨ f.lo + f.width ≤ 7 ∨ 8 ≤ f.lo) :
    (c.restarted code).fld k f = ((c.cleared code).recordReset code).fld k f := by
  rw [restarted_recorded h0 hw]
  split
  · rfl
  · exact fld_tryB1 hr hc

theorem reg_restarted_otherCount {j : Nat} (hj : j < 7) (hc : j ≠ code) :
    (c.restarted code).reg (Reg.RST_COUNT j) = c.reg (Reg.RST_COUNT j) := by
  refine Eq.trans ?_ (reg_cleared_rstCount (code := code) hj)
  by_cases hw : c.causesWait
  · rw [restarted_waits h0 hw]
    exact reg_congr (regs_bootPins _ _ (c.cleared code).pins) _
  · exact (reg_eq_of_fld (fld_restarted_recorded h0 hw (rstCount_ne_rstRestart hj)
      (.inl (rstCause_ne_rstCount j).symm))).trans (reg_recordReset_count _ hc)

variable (h7 : code < 7)
include h7

theorem rstOnly_restarted : RstOnly (c.cleared code) (c.restarted code) := by
  by_cases hw : c.causesWait
  · rw [restarted_waits h0 hw]
    exact .bootPins _ _ (c.cleared code).pins rfl
  · rw [restarted_recorded h0 hw]
    split
    · exact rstOnly_recordReset _ h7
    · exact (rstOnly_recordReset _ h7).trans (rstOnly_tryB1 _)

theorem reg_restarted_aon (h : k < 0x10000 ∨ 0x10034 ≤ k) (hd : k < 0x30800) (hk : keptInRestart k = true) :
    (c.restarted code).reg k = c.reg k :=
  ((rstOnly_restarted h0 h7).regs k h).trans (reg_cleared_kept hk hd (by simp only [Reg.RST_RESTART]; omega))

theorem fld_restarted_count (hw : ¬ c.causesWait) : (c.restarted code).fld (Reg.RST_COUNT code) Fd.RST_COUNT_COUNT
    = min (c.fld (Reg.RST_COUNT code) Fd.RST_COUNT_COUNT + 1) 0xFFFF := by
  rw [fld_restarted_recorded h0 hw (rstCount_ne_rstRestart h7) (.inl (rstCause_ne_rstCount code).symm),
    fld_recordReset_count]
  unfold fld
  rw [reg_cleared_rstCount h7]

theorem fld_restarted_last (hw : ¬ c.causesWait) : (c.restarted code).fld Reg.RST_CAUSE Fd.RST_CAUSE_LAST = code :=
  (fld_restarted_recorded h0 hw (by decide) (.inr (.inl (by decide)))).trans (fld_recordReset_last _ h7)

end

end Chip

open Chip

/-- Settles O55: what clearing keeps, and what the record of the reset writes after it. -/
theorem restartKeeps : Obligations.RestartKeeps := by
  unfold Obligations.RestartKeeps
  refine ⟨?chip, fun m a h => m.mget_lostHbm_hbm h, fun m a h => m.mget_lostHbm_device h, fun m => rfl⟩
  case chip =>
    intro c code h0 h7
    have h : RstOnly (c.cleared code) (c.restarted code) := rstOnly_restarted h0 h7
    refine ⟨?regs, h.cleared, ?rtc, ?slotPref, ?otherCounts, ?lastReset, ?waits, ?recorded⟩
    case regs => exact fun k hk => (h.regs k (.inr (by omega))).trans (reg_cleared_aboveAon hk)
    case rtc => exact h.rtc.trans cleared_rtc
    case slotPref => exact reg_restarted_aon h0 h7 (by decide) (by decide) (by decide)
    case otherCounts => exact fun j hj hc => reg_restarted_otherCount h0 hj hc
    case lastReset => exact (congrArg (Option.map _) h.last).trans cleared_lastReset
    case waits => exact fun hw => by rw [restarted_waits h0 hw]
    case recorded => exact fun hw => ⟨fld_restarted_count h0 h7 hw, fld_restarted_last h0 h7 hw⟩

end Sys2Proof.Machine
end

section
/-!
PROOFS. Messages that are not taken, on a spare lane and on the Tether (R118, R119, R398, R405), and what the code of a spare-lane
message tells apart (R118); from that O44 and O45.
-/

namespace Sys2Proof.Machine

/-! Cancellation of XOR, from core Lean alone: the package's files import no library that has it. -/

theorem xor_cancel_left {x y z : Nat} (h : x ^^^ y = x ^^^ z) : y = z := by
  have undo (w : Nat) : x ^^^ (x ^^^ w) = w := by rw [← Nat.xor_assoc, Nat.xor_self, Nat.zero_xor]
  calc y = x ^^^ (x ^^^ y) := (undo y).symm
    _ = x ^^^ (x ^^^ z) := by rw [h]
    _ = z := undo z

theorem xor_cancel_right {x y z : Nat} (h : y ^^^ x = z ^^^ x) : y = z :=
  xor_cancel_left (by rw [Nat.xor_comm x y, h, Nat.xor_comm])

/-! The CRC-8 of R118: each of its steps tells any two bytes apart. -/

/-- One step of the CRC-8: the byte is shifted, and a bit that leaves it adds the polynomial. -/
def crc8Bit (c : Nat) : Nat := if c / 128 % 2 = 1 then (c * 2 % 256) ^^^ 7 else c * 2 % 256

theorem crc8Bits_succ (n c : Nat) : crc8Bits (n + 1) c = crc8Bits n (crc8Bit c) := rfl

theorem crc8Bit_lt (c : Nat) : crc8Bit c < 256 := by
  have shifted : c * 2 % 256 < 256 := Nat.mod_lt _ (by decide)
  unfold crc8Bit
  split
  · exact Nat.xor_lt_two_pow (n := 8) shifted (by decide)
  · exact shifted

/-- The polynomial is odd and a shifted byte even, so the low bit says whether a bit has left. -/
theorem crc8Bit_mod_two (c : Nat) : crc8Bit c % 2 = c / 128 % 2 := by
  unfold crc8Bit
  split
  · next h =>
    rw [h, Nat.xor_mod_two_eq_one]
    omega
  · omega

theorem crc8Bit_inj {c d : Nat} (hc : c < 256) (hd : d < 256) (h : crc8Bit c = crc8Bit d) : c = d := by
  have top : c / 128 % 2 = d / 128 % 2 := by rw [← crc8Bit_mod_two, h, crc8Bit_mod_two]
  have low : c * 2 % 256 = d * 2 % 256 := by
    unfold crc8Bit at h
    rw [← top] at h
    split at h
    · exact xor_cancel_right h
    · exact h
  omega

theorem crc8Bits_lt (n : Nat) {c : Nat} (h : c < 256) : crc8Bits n c < 256 := by
  induction n generalizing c with
  | zero => exact h
  | succ n ih => exact ih (crc8Bit_lt c)

theorem crc8Bits_inj (n : Nat) {c d : Nat} (hc : c < 256) (hd : d < 256) (h : crc8Bits n c = crc8Bits n d) : c = d := by
  induction n generalizing c d with
  | zero => exact h
  | succ n ih => exact crc8Bit_inj hc hd (ih (crc8Bit_lt c) (crc8Bit_lt d) h)

/-- What the CRC holds when D2 has entered it. -/
theorem crc8Entered_lt (a b : Byte) : crc8Bits 8 a.toNat ^^^ b.toNat < 256 :=
  Nat.xor_lt_two_pow (n := 8) (crc8Bits_lt 8 a.isLt) b.isLt

theorem crc8_lt (a b : Byte) : crc8 a b < 256 := crc8Bits_lt 8 (crc8Entered_lt a b)

theorem crc8_inj_left {a b d : Byte} (h : crc8 a b = crc8 d b) : a = d := by
  have entered := crc8Bits_inj 8 (crc8Entered_lt a b) (crc8Entered_lt d b) h
  exact BitVec.eq_of_toNat_eq (crc8Bits_inj 8 a.isLt d.isLt (xor_cancel_right entered))

theorem crc8_inj_right {a b d : Byte} (h : crc8 a b = crc8 a d) : b = d := by
  have entered := crc8Bits_inj 8 (crc8Entered_lt a b) (crc8Entered_lt a d) h
  exact BitVec.eq_of_toNat_eq (xor_cancel_left entered)

/-- Settles O45: a step of the CRC tells two bytes apart, so all of its steps do. -/
theorem spareCodeTellsBytes : Obligations.SpareCodeTellsBytes := by
  unfold Obligations.SpareCodeTellsBytes
  exact ⟨crc8_lt, rfl, fun _ _ _ hne h => hne (crc8_inj_left h), fun _ _ _ hne h => hne (crc8_inj_right h)⟩

/-! What makes a spare-lane message invalid (R118). -/

namespace Chip

section
variable {c : Chip} {p j op : Nat} {m : SpareMsg}

theorem spareMsgOk_of_badCode (h : crc8 m.d1 m.d2 ≠ m.d3.toNat) : c.spareMsgOk p j op m = false := by
  simp [spareMsgOk, h]

theorem spareMsgOk_of_fewSlots (h : m.slots < 3) : c.spareMsgOk p j op m = false := by
  simp [spareMsgOk, Nat.not_le.2 h]

theorem spareMsgOk_of_otherSpare (h : m.d2.toNat / 128 ≠ j) : c.spareMsgOk p j op m = false := by
  simp [spareMsgOk, h]

end

end Chip

open Chip

/-- A message of which its spare makes nothing changes nothing. -/
theorem exec_spareMsg_ignored {i : Instr} {s : State} {p j op : Nat} {m : SpareMsg} (h : spareMsgOf i = some (p, j, op, m))
    (hm : ∀ act, s.chip.onMsg p j op m act = s.chip) : exec i s = .next s := by
  obtain ⟨act, e⟩ := exec_spareMsgOf i p j op m h
  rw [e, hm]
  rfl

/-- Settles O44: the one way in which a spare, and the Tether, takes its messages. -/
theorem messagesNotForUs : Obligations.MessagesNotForUs := by
  unfold Obligations.MessagesNotForUs
  refine ⟨?unused, ?invalid, ?badCode, ?fewSlots, ?otherSpare, ?tether⟩
  case unused => exact fun i s p j op m h hn => exec_spareMsg_ignored h (fun act => onMsg_none _ _ _ _ _ act hn)
  case invalid => exact fun i s p j op m h hk => exec_spareMsg_ignored h (fun act => onMsg_bad _ _ _ _ _ act hk)
  case badCode => exact fun c p j op m h => spareMsgOk_of_badCode h
  case fewSlots => exact fun c p j op m h => spareMsgOk_of_fewSlots h
  case otherSpare => exact fun c p j op m h => spareMsgOk_of_otherSpare h
  case tether => exact fun i s m h he => exec_tetMsg_off i s m h he

end Sys2Proof.Machine
end

section
/-!
PROOFS. The bring-up of a port (R101 to R109), its faults (R114) and its restart (R123): what each command does, case by case as its
definition distinguishes them, and from that O6.
-/

namespace Sys2Proof.Machine

namespace Chip

section
variable {c : Chip} {n : Nat}

/-! The writes of PORT_CTRL (R101, R109, R123). -/

theorem portEnable_again (h : c.on (Reg.PORT_CTRL n) Fd.PORT_CTRL_EN = true) :
    c.portEnable n = c.setF (Reg.PORT_CTRL n) Fd.PORT_CTRL_EN 1 := if_pos h

theorem portEnable_refused (h : c.on (Reg.PORT_CTRL n) Fd.PORT_CTRL_EN = false) (hr : c.enableRefused n = true) : c.portEnable n
    = ((c.setF (Reg.PORT_CTRL n) Fd.PORT_CTRL_EN 1).setF (Reg.PORT_STATUS n) Fd.PORT_STATUS_CFG_ERR 1).toState n pCfgErr := by
  simp [portEnable, h, hr]

theorem portEnable_accepted (h : c.on (Reg.PORT_CTRL n) Fd.PORT_CTRL_EN = false) (hr : c.enableRefused n = false) :
    c.portEnable n = (c.setF (Reg.PORT_CTRL n) Fd.PORT_CTRL_EN 1).bringUp n := by
  simp [portEnable, h, hr]

theorem portRestart_enabled (h : c.pEnabled n = true) : c.portRestart n
    = ((((((c.setF (Reg.PORT_CTRL n) Fd.PORT_CTRL_RESTART 0).toState n (if c.pRate n = 0 then pAn else pLock)).linkDown n 0x19
        outMasked).endSwaps n false).setF (Reg.PORT_STATUS n) Fd.PORT_STATUS_FALLEN 0).bringUp n) := if_pos h

theorem portRestart_notEnabled (h : c.pEnabled n = false) :
    c.portRestart n = c.setF (Reg.PORT_CTRL n) Fd.PORT_CTRL_RESTART 0 := if_neg (by simp [h])

/-! AUTONEG_COMPLETE (R104, R105): the highest common type, and the FEC that is resolved for it. -/

/-- The type that auto-negotiation of port n resolves with a partner: of those both advertise, the highest in priority (R105). -/
def commonType (c : Chip) (n : Nat) (a : AnPage) : Option Nat :=
  typePrio.find? (fun t => bitOf (c.advTypes n (c.fallenType n)) t && bitOf (partnerTypes a) t)

section
variable {a : AnPage} {pages t : Nat} (h : c.pState n = pAn)
include h

theorem opAutonegComplete_noCommon (ht : c.commonType n a = none) : c.opAutonegComplete n a pages = c.answerPages n pages := by
  unfold commonType at ht
  simp only [opAutonegComplete, if_pos h, ht]

variable (ht : c.commonType n a = some t)
include ht

theorem opAutonegComplete_noFec (hf : c.pFec n t (c.resolveFec n t a) = none) : c.opAutonegComplete n a pages
    = ((c.answerPages n pages).setF (Reg.PORT_STATUS n) Fd.PORT_STATUS_CFG_ERR 1).toState n pCfgErr := by
  unfold commonType at ht
  simp only [opAutonegComplete, if_pos h, ht, hf]

theorem opAutonegComplete_resolved {fc : Nat} (hf : c.pFec n t (c.resolveFec n t a) = some fc) : c.opAutonegComplete n a pages
    = (((c.answerPages n pages).setF (Reg.PORT_STATUS n) Fd.PORT_STATUS_TYPE t).toState n pTrain).setPort n
        { (((c.answerPages n pages).setF (Reg.PORT_STATUS n) Fd.PORT_STATUS_TYPE t).toState n pTrain).port n with fec := fc } := by
  unfold commonType at ht
  simp only [opAutonegComplete, if_pos h, ht, hf]

end

/-! Training and lock (R106 to R109). -/

theorem opTrainingComplete_inTime (h : c.pState n = pTrain) (ht : c.now < (c.port n).since + 4 * sPs) :
    c.opTrainingComplete n = c.toState n pLock := if_pos ⟨h, ht⟩

theorem opTrainingTimeout_due (h : c.pState n = pTrain) (ht : (c.port n).since + 4 * sPs ≤ c.now) :
    c.opTrainingTimeout n = c.startAn n (c.advTypes n (c.fallenType n)) := if_pos ⟨h, ht⟩

/-- Port n is up with its link, and the FEC that it runs is shown (R107, R109). -/
def lockedUp (c : Chip) (n : Nat) : Chip :=
  ((c.toState n pUp).setF (Reg.PORT_STATUS n) Fd.PORT_STATUS_LINK 1).setF (Reg.PORT_STATUS n) Fd.PORT_STATUS_FEC_ACT (c.port n).fec

theorem opLinkUp_locked (h : c.pState n = pLock) : c.opLinkUp n
    = ((c.lockedUp n).loadLatency n).linkEvent n ((c.lockedUp n).swapIn n) ((c.lockedUp n).fallen n) 0x19 outMasked := if_pos h

/-! Faults (R114). -/

theorem enterFault_up {lost : Bool} (h : c.pState n = pUp) : c.enterFault n lost
    = (c.toState n pFault).setPort n { (c.toState n pFault).port n with faultAt := c.now, lockLost := lost, hold := none } := if_pos h

theorem opFaultClear_inHold (h : c.pState n = pFault) (hh : c.holdOver n = false) :
    c.opFaultClear n = (c.toState n pUp).setPort n { (c.toState n pUp).port n with lockLost := false, hold := none } := by
  simp [opFaultClear, h, hh]

theorem opHoldExpiry_over (h : c.pState n = pFault) (hh : c.holdOver n = true) : c.opHoldExpiry n
    = ((c.toState n (if c.pRate n = 0 then pAn else pLock)).linkDown n 0x0C outReported).bringUp n := by
  simp [opHoldExpiry, h, hh]

end

end Chip

open Chip

/-- A write of a register by who may reach it is the register's effect. -/
theorem runChip_regCmd {s : State} {rq : Req} {a : Nat} {f : Chip → Chip} {c : Chip} (hp : rq.priv = true)
    (ho : s.chip.addrOff a = false) (h : f s.chip = c) : runChip s (fun c => c.regCmd rq a f) = .next (s.withChip c) :=
  runChip_eq ((regCmd_ok _ _ _ _ hp ho).trans h)

/-- Settles O6: command by command, one case of its operation for each clause. -/
theorem portActs : Obligations.PortActs := by
  unfold Obligations.PortActs
  refine ⟨?enableAgain, ?enable, ?enableRefused, ?disable, ?restart, ?restartDisabled, ?release, ?resolved, ?noCommonType, ?noFec,
    ?trained, ?trainingOver, ?linkUp, ?fault, ?faultClear, ?holdOver⟩
  case enableAgain => exact fun s rq port hp ho h => runChip_regCmd hp ho (portEnable_again h)
  case enable => exact fun s rq port hp ho h hr => runChip_regCmd hp ho (portEnable_accepted h hr)
  case enableRefused => exact fun s rq port hp ho h hr => runChip_regCmd hp ho (portEnable_refused h hr)
  case disable => exact fun s rq port hp ho => runChip_regCmd hp ho rfl
  case restart => exact fun s rq port hp ho h => runChip_regCmd hp ho (portRestart_enabled h)
  case restartDisabled => exact fun s rq port hp ho h => runChip_regCmd hp ho (portRestart_notEnabled h)
  case release => exact fun s rq port below hp ho => runChip_regCmd hp ho rfl
  case resolved => exact fun s port a pages t fc h ht hf => runChip_eq (opAutonegComplete_resolved h ht hf)
  case noCommonType => exact fun s port a pages h ht => runChip_eq (opAutonegComplete_noCommon h ht)
  case noFec => exact fun s port a pages t h ht hf => runChip_eq (opAutonegComplete_noFec h ht hf)
  case trained => exact fun s port h ht => runChip_eq (opTrainingComplete_inTime h ht)
  case trainingOver => exact fun s port h ht => runChip_eq (opTrainingTimeout_due h ht)
  case linkUp => exact fun s port h => runChip_eq (opLinkUp_locked h)
  case fault => exact fun s port kind h => runChip_eq (enterFault_up h)
  case faultClear => exact fun s port h hh => runChip_eq (opFaultClear_inHold h hh)
  case holdOver => exact fun s port h hh => runChip_eq (opHoldExpiry_over h hh)

end Sys2Proof.Machine
end

section
/-!
PROOFS. Spare-lane swap (R117 to R122): its triggers, the messages that a spare takes, and how an attempt ends; from that O7.
-/

namespace Sys2Proof.Machine

namespace Chip

section
variable {c : Chip} {n lane : Nat}

/-! DEGRADE_TRIGGER (R120): the lane is marked; a swap starts where one may. -/

/-- A degraded lane of port n may be swapped: the port is up, the lane is on no spare and has no attempt, and none failed (R120). -/
def degradeSwaps (c : Chip) (n lane : Nat) : Bool :=
  c.swapPossible n && c.pState n == pUp && c.laneOk n lane && !c.laneSwapped n lane && !c.laneTrying n lane
    && c.fld (Reg.PORT_CFG n) Fd.PORT_CFG_SWAP_SER != 0 && !(c.port n).retry.any (fun r => r.1 == lane)

theorem opDegradeTrigger_marked (hl : c.linkOn n = true) (hk : c.laneOk n lane = true) : c.opDegradeTrigger n lane
    = if (c.markBad n lane).degradeSwaps n lane then (c.markBad n lane).startSwap n lane true else c.markBad n lane := by
  simp only [opDegradeTrigger, hl, hk]
  rfl

/-! FAILURE_TRIGGER (R114, R120): a lane that no spare carries puts the port in fault, and a swap is tried. -/

section
variable (hl : c.linkOn n = true) (hk : c.laneOk n lane = true)
include hl hk

theorem opFailureTrigger_swapped (hs : c.laneSwapped n lane = true) : c.opFailureTrigger n lane = c.markBad n lane := by
  simp [opFailureTrigger, hl, hk, hs]

variable (hs : c.laneSwapped n lane = false)
include hs

theorem opFailureTrigger_trying (ht : c.laneTrying n lane = true) : c.opFailureTrigger n lane = c.laneFailed n lane := by
  simp [opFailureTrigger, hl, hk, hs, ht]

variable (ht : c.laneTrying n lane = false)
include ht

theorem opFailureTrigger_swaps (hp : c.swapPossible n = true) :
    c.opFailureTrigger n lane = (c.laneFailed n lane).startSwap n lane false := by
  simp [opFailureTrigger, hl, hk, hs, ht, hp]

theorem opFailureTrigger_noSwap (hp : c.swapPossible n = false) :
    c.opFailureTrigger n lane = (c.laneFailed n lane).swapLost n lane false := by
  simp [opFailureTrigger, hl, hk, hs, ht, hp]

end

/-! DEGRADE_RETRY (R120). -/

theorem opDegradeRetry_ended : c.opDegradeRetry n lane false = c.markGood n [lane] := rfl

/-- The wait of a lane for another attempt is over. -/
def retryEnded (c : Chip) (n lane : Nat) : Chip :=
  c.setPort n { c.port n with retry := (c.port n).retry.filter (fun r => r.1 != lane) }

/-- Another attempt at a degraded lane of port n may be made. -/
def retrySwaps (c : Chip) (n lane : Nat) : Bool :=
  c.swapPossible n && c.fld (Reg.PORT_CFG n) Fd.PORT_CFG_SWAP_SER != 0 && c.laneOk n lane && !c.laneSwapped n lane

theorem opDegradeRetry_swaps {r : Nat × Nat} (h : (c.port n).retry.find? (fun r => r.1 == lane) = some r) (ht : r.2 + sPs ≤ c.now)
    (hs : (c.retryEnded n lane).retrySwaps n lane = true) :
    c.opDegradeRetry n lane true = (c.retryEnded n lane).startSwap n lane true := by
  simp only [opDegradeRetry, h, if_pos ht]
  exact if_pos hs

end

/-! The messages that a spare takes, by OP (R118 to R122). -/

/-- The chip that has acknowledged a BRIDGE_REQ of port n for a lane, and bridges it. -/
def bridged (c : Chip) (n p i seq lane : Nat) : Chip :=
  (((c.answer p i msgBridgeReq seq (msgD1 msgBridgeAck seq) (msgD2 i 0 lane)).setF (Reg.PNL_SPARE_STATUS p i)
    Fd.PNL_SPARE_STATUS_TX_USED 1).setF (Reg.PNL_SPARE_STATUS p i) Fd.PNL_SPARE_STATUS_TX_LANE lane).setFBit (Reg.PORT_STATUS n)
    Fd.PORT_STATUS_SWAP_TX i true

/-- Spare i of panel p carries a lane for the partner. -/
def bridges (c : Chip) (p i lane : Nat) : Bool :=
  c.spFlag p i Fd.PNL_SPARE_STATUS_TX_USED && c.fld (Reg.PNL_SPARE_STATUS p i) Fd.PNL_SPARE_STATUS_TX_LANE == lane

section
variable {c : Chip} {p i n : Nat} {m : SpareMsg} (h : c.sparePort p i = some n)
include h

theorem opHello_taken (hm : c.spareMsgOk p i msgHello m = true) : c.opHello p i m = c.spareHeard p i := onMsg_ok _ _ _ _ _ _ _ h hm

theorem opSwapDone_taken (hm : c.spareMsgOk p i msgSwapDone m = true) : c.opSwapDone p i m = c.spareHeard p i :=
  onMsg_ok _ _ _ _ _ _ _ h hm

/-! BRIDGE_REQ (R121): an answer given before is repeated, a request that cannot be met is refused, any other is acknowledged, which ends
the spare's own attempt if it is not acknowledged. -/

section
variable (hm : c.spareMsgOk p i msgBridgeReq m = true)
include hm

theorem opBridgeReq_repeated {d : Nat × Nat} (hr : (c.spareHeard p i).repeated p i msgBridgeReq (m.d1.toNat % 16) = some d) :
    c.opBridgeReq p i m = (c.spareHeard p i).place p i d.1 d.2 := by
  rw [opBridgeReq, onMsg_ok _ _ _ _ _ _ _ h hm]
  simp only [hr]

variable (hr : (c.spareHeard p i).repeated p i msgBridgeReq (m.d1.toNat % 16) = none)
include hr

theorem opBridgeReq_refused {arg : Nat} (hn : (c.spareHeard p i).nakArg n p i (m.d2.toNat % 8) = some arg) :
    c.opBridgeReq p i m = (c.spareHeard p i).answer p i msgBridgeReq (m.d1.toNat % 16) (msgD1 msgBridgeNak (m.d1.toNat % 16))
      (msgD2 i arg (m.d2.toNat % 8)) := by
  rw [opBridgeReq, onMsg_ok _ _ _ _ _ _ _ h hm]
  simp only [hr, hn]

variable (hn : (c.spareHeard p i).nakArg n p i (m.d2.toNat % 8) = none)
include hn

theorem opBridgeReq_alone (ha : ((c.spareHeard p i).spare p i).attempt = none) :
    c.opBridgeReq p i m = (c.spareHeard p i).bridged n p i (m.d1.toNat % 16) (m.d2.toNat % 8) := by
  rw [opBridgeReq, onMsg_ok _ _ _ _ _ _ _ h hm]
  simp only [hr, hn, ha]
  rfl

variable {a : SwapTry} (ha : ((c.spareHeard p i).spare p i).attempt = some a)
include ha

theorem opBridgeReq_crossing (hk : a.acked = false) : c.opBridgeReq p i m
    = ((c.spareHeard p i).bridged n p i (m.d1.toNat % 16) (m.d2.toNat % 8)).endAttempt p i a := by
  rw [opBridgeReq, onMsg_ok _ _ _ _ _ _ _ h hm]
  simp only [hr, hn, ha, hk]
  rfl

theorem opBridgeReq_acked (hk : a.acked = true) :
    c.opBridgeReq p i m = (c.spareHeard p i).bridged n p i (m.d1.toNat % 16) (m.d2.toNat % 8) := by
  rw [opBridgeReq, onMsg_ok _ _ _ _ _ _ _ h hm]
  simp only [hr, hn, ha, hk]
  rfl

end

/-! BRIDGE_ACK and BRIDGE_NAK, the answers to the spare's own request (R120). -/

theorem opBridgeAck_taken {a : SwapTry} (hm : c.spareMsgOk p i msgBridgeAck m = true)
    (ha : ((c.spareHeard p i).spare p i).attempt = some a) (hs : m.d1.toNat % 16 = ((c.spareHeard p i).spare p i).seq)
    (hl : m.d2.toNat % 8 = a.lane) (ht : a.acked = true ∨ (c.spareHeard p i).now < a.start + 2 * msPs) : c.opBridgeAck p i m
      = (c.spareHeard p i).setSpare p i { (c.spareHeard p i).spare p i with attempt := some { a with acked := true } } := by
  rw [opBridgeAck, onMsg_ok _ _ _ _ _ _ _ h hm]
  simp only [ha]
  exact if_pos ⟨hs, hl, ht⟩

section
variable (hm : c.spareMsgOk p i msgBridgeNak m = true)
include hm

theorem opBridgeNak_endsAttempt {a : SwapTry} (ha : ((c.spareHeard p i).spare p i).attempt = some a)
    (hs : m.d1.toNat % 16 = ((c.spareHeard p i).spare p i).seq) (hk : a.acked = false) : c.opBridgeNak p i m
      = (((c.spareHeard p i).setF (Reg.PNL_SPARE_STATUS p i) Fd.PNL_SPARE_STATUS_NAK (m.d2.toNat / 8 % 16)).placeHello p i).endAttempt
          p i a := by
  rw [opBridgeNak, onMsg_ok _ _ _ _ _ _ _ h hm]
  simp only [ha]
  exact if_pos ⟨hs, hk⟩

theorem opBridgeNak_alone (ha : ((c.spareHeard p i).spare p i).attempt = none) : c.opBridgeNak p i m
    = (c.spareHeard p i).setF (Reg.PNL_SPARE_STATUS p i) Fd.PNL_SPARE_STATUS_NAK (m.d2.toNat / 8 % 16) := by
  rw [opBridgeNak, onMsg_ok _ _ _ _ _ _ _ h hm]
  simp only [ha]

end

/-! RELEASE_REQ and RELEASE_ACK (R122). -/

section
variable (hm : c.spareMsgOk p i msgReleaseReq m = true)
include hm

theorem opReleaseReq_repeated {d : Nat × Nat} (hr : (c.spareHeard p i).repeated p i msgReleaseReq (m.d1.toNat % 16) = some d) :
    c.opReleaseReq p i m = (c.spareHeard p i).place p i d.1 d.2 := by
  rw [opReleaseReq, onMsg_ok _ _ _ _ _ _ _ h hm]
  simp only [hr]

theorem opReleaseReq_bridged (hr : (c.spareHeard p i).repeated p i msgReleaseReq (m.d1.toNat % 16) = none)
    (hb : (c.spareHeard p i).bridges p i (m.d2.toNat % 8) = true) : c.opReleaseReq p i m
      = ((((c.spareHeard p i).setF (Reg.PNL_SPARE_STATUS p i) Fd.PNL_SPARE_STATUS_TX_USED 0).setF (Reg.PNL_SPARE_STATUS p i)
          Fd.PNL_SPARE_STATUS_TX_LANE 0).setFBit (Reg.PORT_STATUS n) Fd.PORT_STATUS_SWAP_TX i false).answer p i msgReleaseReq
          (m.d1.toNat % 16) (msgD1 msgReleaseAck (m.d1.toNat % 16)) (msgD2 i 0 (m.d2.toNat % 8)) := by
  rw [opReleaseReq, onMsg_ok _ _ _ _ _ _ _ h hm]
  simp only [hr]
  exact if_pos hb

end

theorem opReleaseAck_taken (hm : c.spareMsgOk p i msgReleaseAck m = true)
    (hs : m.d1.toNat % 16 = ((c.spareHeard p i).spare p i).seq)
    (hr : ((c.spareHeard p i).spare p i).msg.1 / 16 = msgReleaseReq) :
    c.opReleaseAck p i m = (c.spareHeard p i).placeHello p i := by
  rw [opReleaseAck, onMsg_ok _ _ _ _ _ _ _ h hm]
  exact if_pos ⟨hs, hr⟩

end

/-! The end of an attempt (R120), and the times of R117 and R119. -/

/-- Spare i of panel p carries the receive of the lane that an attempt was for; the swap is counted (R120). -/
def receiveSwapped (c : Chip) (p i : Nat) (a : SwapTry) : Chip :=
  ((((c.setSpare p i { c.spare p i with attempt := none }).setF (Reg.PNL_SPARE_STATUS p i) Fd.PNL_SPARE_STATUS_RX_USED 1).setF
    (Reg.PNL_SPARE_STATUS p i) Fd.PNL_SPARE_STATUS_RX_LANE a.lane).setFBit (Reg.PORT_STATUS a.port) Fd.PORT_STATUS_SWAP_RX i true).bump
    (Reg.PORT_CNT a.port 15) 1

/-- The swap has been raised and recorded. -/
def swapRecorded (c : Chip) (p i : Nat) (a : SwapTry) : Chip :=
  (c.receiveSwapped p i a).linkEvent a.port true ((c.receiveSwapped p i a).fallen a.port) 0x0B
    (if a.degrade then outMasked else outDegraded)

section
variable {c : Chip} {p i : Nat} {a : SwapTry} (ha : (c.spare p i).attempt = some a)
include ha

theorem opBridgeAckTimeout_due (hk : a.acked = false) (ht : a.start + 2 * msPs ≤ c.now) :
    c.opBridgeAckTimeout p i = (c.placeHello p i).endAttempt p i a := by
  simp [opBridgeAckTimeout, ha, hk, ht]

variable (hk : a.acked = true)
include hk

/-- A spare that is bridged as well carries no messages, so the partner is told only where it is not (R120, R121). -/
theorem opSwapSwitch_acked {d : Chip} (hd : d = c.swapRecorded p i a) : c.opSwapSwitch p i
    = if d.spFlag p i Fd.PNL_SPARE_STATUS_TX_USED then d
      else d.place p i (msgD1 msgSwapDone (d.spare p i).seq) (msgD2 i 0 a.lane) := by
  subst hd
  simp only [opSwapSwitch, ha, hk]
  rfl

end

section
variable {c : Chip} {p i t : Nat}

theorem opSparePartnerTimeout_due (h : (c.spare p i).heard = some t) (ht : t + 10 * msPs ≤ c.now) :
    c.opSparePartnerTimeout p i = c.setF (Reg.PNL_SPARE_STATUS p i) Fd.PNL_SPARE_STATUS_PARTNER 0 := by
  simp only [opSparePartnerTimeout, h, if_pos ht]

theorem opSpareTrainRetry_due (h : (c.spare p i).retryAt = some t) (ht : t ≤ c.now) :
    c.opSpareTrainRetry p i = c.setSpare p i { c.spare p i with retryAt := none } := by
  simp only [opSpareTrainRetry, h, if_pos ht]

end

end Chip

open Chip

/-- Settles O7: command by command, one case of its operation for each clause. -/
theorem spareLaneActs : Obligations.SpareLaneActs := by
  unfold Obligations.SpareLaneActs
  refine ⟨?degradeSwaps, ?degradeMarks, ?failedSwapped, ?failedTrying, ?failureSwaps, ?failureLost, ?retryEnds, ?retrySwaps,
    ?hello, ?swapDone, ?reqRepeated, ?reqRefused, ?reqAlone, ?reqCrossing, ?reqAcked, ?ack, ?nakEnds, ?nakAlone,
    ?releaseRepeated, ?releaseReq, ?releaseAck, ?timeout, ?switchSilent, ?switchTells, ?partnerTimeout, ?trainRetry⟩
  case degradeSwaps =>
    exact fun s port lane hl hk hs => runChip_eq ((opDegradeTrigger_marked hl hk).trans (if_pos hs))
  case degradeMarks =>
    exact fun s port lane hl hk hs => runChip_eq ((opDegradeTrigger_marked hl hk).trans (if_neg (Bool.eq_false_iff.1 hs)))
  case failedSwapped => exact fun s port lane hl hk hs => runChip_eq (opFailureTrigger_swapped hl hk hs)
  case failedTrying => exact fun s port lane hl hk hs ht => runChip_eq (opFailureTrigger_trying hl hk hs ht)
  case failureSwaps => exact fun s port lane hl hk hs ht hp => runChip_eq (opFailureTrigger_swaps hl hk hs ht hp)
  case failureLost => exact fun s port lane hl hk hs ht hp => runChip_eq (opFailureTrigger_noSwap hl hk hs ht hp)
  case retryEnds => exact fun s port lane => runChip_eq opDegradeRetry_ended
  case retrySwaps => exact fun s port lane r h ht hs => runChip_eq (opDegradeRetry_swaps h ht hs)
  case hello => exact fun s panel spare msg n h hm => runChip_eq (opHello_taken h hm)
  case swapDone => exact fun s panel spare msg n h hm => runChip_eq (opSwapDone_taken h hm)
  case reqRepeated => exact fun s panel spare msg n d h hm hr => runChip_eq (opBridgeReq_repeated h hm hr)
  case reqRefused => exact fun s panel spare msg n arg h hm hr hn => runChip_eq (opBridgeReq_refused h hm hr hn)
  case reqAlone => exact fun s panel spare msg n h hm hr hn ha => runChip_eq (opBridgeReq_alone h hm hr hn ha)
  case reqCrossing => exact fun s panel spare msg n a h hm hr hn ha hk => runChip_eq (opBridgeReq_crossing h hm hr hn ha hk)
  case reqAcked => exact fun s panel spare msg n a h hm hr hn ha hk => runChip_eq (opBridgeReq_acked h hm hr hn ha hk)
  case ack => exact fun s panel spare msg n a h hm ha hs hl ht => runChip_eq (opBridgeAck_taken h hm ha hs hl ht)
  case nakEnds => exact fun s panel spare msg n a h hm ha hs hk => runChip_eq (opBridgeNak_endsAttempt h hm ha hs hk)
  case nakAlone => exact fun s panel spare msg n h hm ha => runChip_eq (opBridgeNak_alone h hm ha)
  case releaseRepeated => exact fun s panel spare msg n d h hm hr => runChip_eq (opReleaseReq_repeated h hm hr)
  case releaseReq => exact fun s panel spare msg n h hm hr hb => runChip_eq (opReleaseReq_bridged h hm hr hb)
  case releaseAck => exact fun s panel spare msg n h hm hs hr => runChip_eq (opReleaseAck_taken h hm hs hr)
  case timeout => exact fun s panel spare a ha hk ht => runChip_eq (opBridgeAckTimeout_due ha hk ht)
  case switchSilent => exact fun s panel spare a c ha hk hc hf => runChip_eq ((opSwapSwitch_acked ha hk hc).trans (if_pos hf))
  case switchTells =>
    exact fun s panel spare a c ha hk hc hf => runChip_eq ((opSwapSwitch_acked ha hk hc).trans (if_neg (Bool.eq_false_iff.1 hf)))
  case partnerTimeout => exact fun s panel spare t h ht => runChip_eq (opSparePartnerTimeout_due h ht)
  case trainRetry => exact fun s panel spare t h ht => runChip_eq (opSpareTrainRetry_due h ht)

end Sys2Proof.Machine
end

section
/-!
PROOFS. The traffic manager (R264 to R273) and the copy at the transmit MAC (R114, R115, R331, R337): what each command does, case by case
as its definition distinguishes them, and from that O8.
-/

namespace Sys2Proof.Machine

namespace Chip

section
variable {c : Chip} {n : Nat}

/-! DEQUEUE: the reasons to discard the chosen copy come in a fixed order, and a copy that meets none is sent (R267, R272, R369). -/

section
variable {ch : Choice} {x : Copy} (hf : c.forwards = true) (ht : c.on Reg.TM_CTRL ⟨0, 1⟩ = true) (hd : c.domOn 103 = true)
  (hq : (c.bpm.txq.filter (fun x => x.port == n)).length < 2) (hc : c.choicePort n = some ch) (hx : c.qHead ch.queue = some x)
include hf ht hd hq hc hx

theorem opDequeue_chosen : c.opDequeue n
    = if c.wdDrops ch.queue n then c.dequeueDrop x ch 0x93
      else if c.drainDiscards n then (c.bump (Reg.PWR_CNT 9) 1).dequeueDrop x ch 0x95
      else if c.aged x then c.dequeueDrop x ch 0x94
      else c.dequeueCopy n x ch := by
  have room : ¬ 2 ≤ (c.bpm.txq.filter (fun x => x.port == n)).length := Nat.not_le.2 hq
  simp only [opDequeue, hf, ht, hd, decide_eq_false room, hc, hx]
  rfl

theorem opDequeue_watchdog (hw : c.wdDrops ch.queue n = true) : c.opDequeue n = c.dequeueDrop x ch 0x93 :=
  (opDequeue_chosen hf ht hd hq hc hx).trans (if_pos hw)

variable (hw : c.wdDrops ch.queue n = false)
include hw

theorem opDequeue_drain (hr : c.drainDiscards n = true) : c.opDequeue n = (c.bump (Reg.PWR_CNT 9) 1).dequeueDrop x ch 0x95 := by
  simp [opDequeue_chosen hf ht hd hq hc hx, hw, hr]

variable (hr : c.drainDiscards n = false)
include hr

theorem opDequeue_aged (ha : c.aged x = true) : c.opDequeue n = c.dequeueDrop x ch 0x94 := by
  simp [opDequeue_chosen hf ht hd hq hc hx, hw, hr, ha]

theorem opDequeue_sent (ha : c.aged x = false) : c.opDequeue n = c.dequeueCopy n x ch := by
  simp [opDequeue_chosen hf ht hd hq hc hx, hw, hr, ha]

end

/-! TRANSMIT_COPY: a quenched port holds its copy (R331), a stale one is discarded (R337), and so is one whose link is down or in fault
(R114, R115). -/

/-- A copy has left the panel transmit queue. -/
def copyTaken (c : Chip) (x : Copy) : Chip := { c with bpm.txq := c.bpm.txq.erase x }

section
variable {c0 : Chip} {hits : List Hit} {x : Copy} (hs : c = c0.strike hits)
  (hx : c.bpm.txq.find? (fun x => x.port == n) = some x)
include hs hx

theorem opTransmitCopy_first : c0.opTransmitCopy n hits
    = if c.quenched (n / 32) then c
      else if (c.copyTaken x).staleCopy x then ((c.copyTaken x).bump (Reg.FLT_CNT 40) 1).releaseCopy x
      else if !(c.copyTaken x).linkOn n || (c.copyTaken x).pState n == pFault then
        ((c.copyTaken x).bump (Reg.PORT_CNT n 11) 1).releaseCopy x
      else (c.copyTaken x).sendCopy n x := by
  subst hs
  simp only [opTransmitCopy, hx]
  rfl

theorem opTransmitCopy_quenched (hq : c.quenched (n / 32) = true) : c0.opTransmitCopy n hits = c :=
  (opTransmitCopy_first hs hx).trans (if_pos hq)

variable (hq : c.quenched (n / 32) = false)
include hq

theorem opTransmitCopy_stale (ho : (c.copyTaken x).staleCopy x = true) :
    c0.opTransmitCopy n hits = ((c.copyTaken x).bump (Reg.FLT_CNT 40) 1).releaseCopy x := by
  rw [opTransmitCopy_first hs hx, if_neg (Bool.eq_false_iff.1 hq), if_pos ho]

variable (ho : (c.copyTaken x).staleCopy x = false)
include ho

theorem opTransmitCopy_noLink (hl : (!(c.copyTaken x).linkOn n || (c.copyTaken x).pState n == pFault) = true) :
    c0.opTransmitCopy n hits = ((c.copyTaken x).bump (Reg.PORT_CNT n 11) 1).releaseCopy x := by
  rw [opTransmitCopy_first hs hx, if_neg (Bool.eq_false_iff.1 hq), if_neg (Bool.eq_false_iff.1 ho), if_pos hl]

theorem opTransmitCopy_sent (hl : (!(c.copyTaken x).linkOn n || (c.copyTaken x).pState n == pFault) = false) :
    c0.opTransmitCopy n hits = (c.copyTaken x).sendCopy n x := by
  rw [opTransmitCopy_first hs hx, if_neg (Bool.eq_false_iff.1 hq), if_neg (Bool.eq_false_iff.1 ho), if_neg (Bool.eq_false_iff.1 hl)]

end

/-! Pause and PFC, sent and received (R269 to R271). -/

theorem opPfcRefresh_due (h : c.fld (Reg.TM_P_STATUS n) Fd.TM_P_STATUS_XOFF_SENT ≠ 0)
    (ht : mget (fun _ => 0) c.tm.fcAt n + c.fld (Reg.TM_P_QUANTA n) Fd.TM_P_QUANTA_REFRESH_US * 1000 * tbNs ≤ c.tb) :
    c.opPfcRefresh n = c.sendXoff n := if_pos ⟨h, ht⟩

/-- A pause or PFC frame is of port n's mode (R269). -/
def flowMatches (c : Chip) (n : Nat) (pfc : Bool) : Prop :=
  c.fld (Reg.TM_P_CFG n) Fd.TM_P_CFG_FC_MODE = 1 ∧ pfc = false ∨ c.fld (Reg.TM_P_CFG n) Fd.TM_P_CFG_FC_MODE = 2 ∧ pfc = true

/-- The priorities that a frame of the port's mode has paused or released; true when the watchdog has it ignored. -/
def flowApplied (c : Chip) (n : Nat) (pfc : Bool) (enable : Nat) (quanta : List Nat) : Chip × Bool :=
  (if pfc then (List.range 8).filter (fun p => bitOf enable p) else [0]).foldl (fun r p => pausePri n (quanta.getD p 0 % 65536) p r)
    (c.bump (Reg.TM_CNT 6) 1, false)

section
variable {pfc : Bool} {quanta : List Nat}

theorem flowFrame_ofMode {enable : Nat} (h : c.flowMatches n pfc) : c.flowFrame n pfc enable quanta
    = (if (c.flowApplied n pfc enable quanta).2 then (c.flowApplied n pfc enable quanta).1.bump (Reg.TM_CNT 7) 1
        else (c.flowApplied n pfc enable quanta).1).settleDrr := if_pos h

theorem flowFrame_otherMode {enable : Nat} (h : ¬ c.flowMatches n pfc) :
    c.flowFrame n pfc enable quanta = c.bump (Reg.TM_CNT 7) 1 := if_neg h

variable {enable : BitVec 8} (hl : c.rxLocked n = true)
include hl

theorem opPauseFrameRx_inFault (hp : c.pState n = pFault) :
    c.opPauseFrameRx n pfc enable quanta = c.bump (Reg.PORT_CNT n 3) 1 := by
  simp [opPauseFrameRx, hl, hp]

theorem opPauseFrameRx_consumed (hp : c.pState n ≠ pFault) :
    c.opPauseFrameRx n pfc enable quanta = (c.bump (Reg.PORT_CNT n 8) 1).flowFrame n pfc enable.toNat quanta := by
  simp [opPauseFrameRx, hl, hp]

end

theorem opPauseExpiry_due {p0 p : Nat} (hp : p = if c.fld (Reg.TM_P_CFG n) Fd.TM_P_CFG_FC_MODE = 1 then 0 else p0)
    (hb : bitOf (c.fld (Reg.TM_P_STATUS n) Fd.TM_P_STATUS_PAUSED) p = true) (ht : (c.pause n p).ends ≤ c.tb) :
    c.opPauseExpiry n p0 = c.setPri n Fd.TM_P_STATUS_PAUSED p false := by
  subst hp
  exact if_pos (by rw [hb, decide_eq_true ht]; rfl)

/-! The PFC watchdog (R272) and the queue samples (R268). -/

theorem opPfcWatchdogTick_due (h : c.tm.wdAt < c.tb / tbMs) : c.opPfcWatchdogTick
    = ((c.tm.pauses.map (·.1)).foldl wdCheck { c with tm.wdAt := c.tb / tbMs }).settleDrr := if_pos h

/-- The sampling profile of queue n. -/
def sampProf (c : Chip) (n : Nat) : Nat := c.fld (Reg.TM_Q_CFG0 n) Fd.TM_Q_CFG0_SAMP_PROF

/-- The period in us with which queue n is sampled. -/
def sampPeriod (c : Chip) (n : Nat) : Nat := c.fld (Reg.TM_SAMP_PROF (c.sampProf n)) Fd.TM_SAMP_PROF_PERIOD_US

/-- The microsecond of the last sample of queue n, or from which it is sampled with its period. -/
def sampLast (c : Chip) (n : Nat) : Nat := max (mget (fun _ => 0) c.tm.sampAt n) (mget (fun _ => 0) c.tm.sampFrom (c.sampProf n))

/-- The depth and the longest sojourn of queue n have been sampled. -/
def sampStored (c : Chip) (n : Nat) : Chip :=
  (c.wrN (Reg.TM_Q_SAMPLE_DEPTH n) (c.totalDepth n)).wrN (Reg.TM_Q_SAMPLE_DELAY n) (c.q n).sojourn

/-- The longest sojourn starts anew, and the boundaries of the period that were skipped are counted. -/
def sampCounted (c : Chip) (n : Nat) : Chip :=
  ((c.sampStored n).setQ n { (c.sampStored n).q n with sojourn := 0 }).bump (Reg.TM_CNT 3)
    (c.tbUs / c.sampPeriod n - c.sampLast n / c.sampPeriod n - 1)

theorem opQueueSample_due (hp : c.sampPeriod n ≠ 0) (ht : c.sampLast n / c.sampPeriod n < c.tbUs / c.sampPeriod n) :
    c.opQueueSample n
      = { c.sampCounted n with tm.sampAt := mset (fun _ => 0) (c.sampCounted n).tm.sampAt n c.tbUs } :=
  if_neg (not_or.2 ⟨hp, Nat.not_le.2 ht⟩)

end

end Chip

open Chip

/-- Settles O8: command by command, one case of its operation for each clause. -/
theorem trafficManagerActs : Obligations.TrafficManagerActs := by
  unfold Obligations.TrafficManagerActs
  refine ⟨?watchdog, ?drain, ?aged, ?sent, ?ageSweep, ?quenched, ?stale, ?noLink, ?transmitted, ?refresh, ?paused, ?otherMode,
    ?inFault, ?pauseOver, ?watchdogTick, ?sample⟩
  case watchdog => exact fun s port ch x hf ht hd hq hc hx hw => runChip_eq (opDequeue_watchdog hf ht hd hq hc hx hw)
  case drain => exact fun s port ch x hf ht hd hq hc hx hw hr => runChip_eq (opDequeue_drain hf ht hd hq hc hx hw hr)
  case aged => exact fun s port ch x hf ht hd hq hc hx hw hr ha => runChip_eq (opDequeue_aged hf ht hd hq hc hx hw hr ha)
  case sent => exact fun s port ch x hf ht hd hq hc hx hw hr ha => runChip_eq (opDequeue_sent hf ht hd hq hc hx hw hr ha)
  case ageSweep => exact fun s q => runChip_eq rfl
  case quenched => exact fun s port hits x c hs hx hq => runChip_eq (opTransmitCopy_quenched hs hx hq)
  case stale => exact fun s port hits x c hs hx hq ho => runChip_eq (opTransmitCopy_stale hs hx hq ho)
  case noLink => exact fun s port hits x c hs hx hq ho hl => runChip_eq (opTransmitCopy_noLink hs hx hq ho hl)
  case transmitted => exact fun s port hits x c hs hx hq ho hl => runChip_eq (opTransmitCopy_sent hs hx hq ho hl)
  case refresh => exact fun s port h ht => runChip_eq (opPfcRefresh_due h ht)
  case paused =>
    exact fun s port pfc enable quanta hl hp h => runChip_eq ((opPauseFrameRx_consumed hl hp).trans (flowFrame_ofMode h))
  case otherMode =>
    exact fun s port pfc enable quanta hl hp h => runChip_eq ((opPauseFrameRx_consumed hl hp).trans (flowFrame_otherMode h))
  case inFault => exact fun s port pfc enable quanta hl hp => runChip_eq (opPauseFrameRx_inFault hl hp)
  case pauseOver => exact fun s port pri p hp hb ht => runChip_eq (opPauseExpiry_due hp hb ht)
  case watchdogTick => exact fun s h => runChip_eq (opPfcWatchdogTick_due h)
  case sample => exact fun s q hp ht => runChip_eq (opQueueSample_due hp ht)

end Sys2Proof.Machine
end

section
/-!
PROOFS. The management buses (R421 to R423, R426) and the end of a spare lane's training (R117): what a transaction and a training
answer, case by case, and from that O28.
-/

namespace Sys2Proof.Machine

namespace Chip

/-! A bus transaction: the reasons for an error come in a fixed order, and one that meets none writes and reads (R422, R423, R426). -/

/-- Master m refuses a transaction with argument word a: a count out of range, or the master is disabled (R422). -/
def busRefuses (c : Chip) (m a : Nat) : Prop :=
  32 < bitsOf a 15 8 ∨ 32 < bitsOf a 23 16 ∨ 2 ^ 24 ≤ a ∨ c.on (Reg.MBUS_CTRL m) ⟨0, 1⟩ = false

/-- The bus was free, and the transaction is counted. -/
def busCounted (c : Chip) (m : Nat) (bus : BusEnv) : Chip := (c.busCheck m bus).1.bump (Reg.MBUS_CNT m 0) 1

/-- The chip that has sent the bytes of a transaction with argument word a, if it writes. -/
def busSent (c : Chip) (m : Nat) (bus : BusEnv) (wr : Bool) (a : Nat) : Chip :=
  if wr then (c.busCounted m bus).emit (.mbus m (a % 128) ((c.busCounted m bus).busWdata m (bitsOf a 15 8))) else c.busCounted m bus

/-- No byte is refused: the transaction sends none, or they are acknowledged. -/
def bytesTaken (bus : BusEnv) (wr : Bool) (a : Nat) : Prop := wr = true → ¬ (0 < bitsOf a 15 8 ∧ bus.dataAck = false)

theorem not_byteRefused {bus : BusEnv} {wr : Bool} {a : Nat} (h : bytesTaken bus wr a) :
    ¬ (wr && decide (0 < bitsOf a 15 8) && !bus.dataAck) = true := by
  simpa [bytesTaken, and_assoc] using h

/-- The data words of the bytes that a transaction with argument word a has read. -/
def busReads (bus : BusEnv) (a : Nat) : List Nat :=
  dataWords (ceilDiv (bitsOf a 23 16) 4) (leNat (slice bus.reads 0 (bitsOf a 23 16)))

section
variable {c : Chip} {m : Nat} {bus : BusEnv} {wr rd : Bool} {args : List Nat}

theorem busRun_refused (h : c.busRefuses m (args.getD 0 0)) : c.busRun m bus wr rd args = (c, (1, [])) := if_pos h

variable (h : ¬ c.busRefuses m (args.getD 0 0))
include h

theorem busRun_stuck (hk : (c.busCheck m bus).2 = false) : c.busRun m bus wr rd args = ((c.busCheck m bus).1, (7, [])) :=
  (if_neg h).trans (by simp [hk])

variable (hk : (c.busCheck m bus).2 = true)
include hk

theorem busRun_arbLost (ha : bus.arbLost = true) :
    c.busRun m bus wr rd args = ((c.busCounted m bus).bump (Reg.MBUS_CNT m 5) 1, (5, [])) :=
  (if_neg h).trans (by simp [hk, ha, busCounted])

variable (ha : bus.arbLost = false)
include ha

theorem busRun_stretched (hs : bus.stretchOut = true) :
    c.busRun m bus wr rd args = ((c.busCounted m bus).bump (Reg.MBUS_CNT m 2) 1, (4, [])) :=
  (if_neg h).trans (by simp [hk, ha, hs, busCounted])

variable (hs : bus.stretchOut = false)
include hs

theorem busRun_addrRefused (hd : bus.addrAck = false) :
    c.busRun m bus wr rd args = ((c.busCounted m bus).bump (Reg.MBUS_CNT m 1) 1, (2, [])) :=
  (if_neg h).trans (by simp [hk, ha, hs, hd, busCounted])

variable (hd : bus.addrAck = true)
include hd

/-- Once the address is acknowledged, the bytes are sent; what is left is a refused byte, the PEC of a read, and what was read. -/
theorem busRun_addressed : c.busRun m bus wr rd args
    = if wr && decide (0 < bitsOf (args.getD 0 0) 15 8) && !bus.dataAck then
        ((c.busSent m bus wr (args.getD 0 0)).bump (Reg.MBUS_CNT m 1) 1, (3, []))
      else if rd && bitOf (args.getD 0 0) 7 && !bus.pecGood then (c.busSent m bus wr (args.getD 0 0), (6, []))
      else if rd then (c.busSent m bus wr (args.getD 0 0), (0, busReads bus (args.getD 0 0)))
      else (c.busSent m bus wr (args.getD 0 0), (0, [])) := by
  refine (if_neg h).trans ?_
  simp only [hk, ha, hs, hd]
  rfl

theorem busRun_byteRefused (hn : 0 < bitsOf (args.getD 0 0) 15 8) (hb : bus.dataAck = false) :
    c.busRun m bus true rd args = ((c.busSent m bus true (args.getD 0 0)).bump (Reg.MBUS_CNT m 1) 1, (3, [])) :=
  (busRun_addressed h hk ha hs hd).trans (if_pos (by rw [decide_eq_true hn, hb]; rfl))

variable (hb : bytesTaken bus wr (args.getD 0 0))
include hb

theorem busRun_written : c.busRun m bus wr false args = (c.busSent m bus wr (args.getD 0 0), (0, [])) :=
  (busRun_addressed h hk ha hs hd).trans (if_neg (not_byteRefused hb))

theorem busRun_badPec (hp : (bitOf (args.getD 0 0) 7 && !bus.pecGood) = true) :
    c.busRun m bus wr true args = (c.busSent m bus wr (args.getD 0 0), (6, [])) :=
  (busRun_addressed h hk ha hs hd).trans ((if_neg (not_byteRefused hb)).trans (if_pos hp))

theorem busRun_read (hp : (bitOf (args.getD 0 0) 7 && !bus.pecGood) = false) :
    c.busRun m bus wr true args = (c.busSent m bus wr (args.getD 0 0), (0, busReads bus (args.getD 0 0))) :=
  (busRun_addressed h hk ha hs hd).trans ((if_neg (not_byteRefused hb)).trans (if_neg (Bool.eq_false_iff.1 hp)))

end

/-! How a spare lane's training ends (R117). -/

/-- The spare lane i of panel p trains for port n. -/
def spareTrains (c : Chip) (p i n : Nat) : Bool :=
  c.swapPossible n && !(c.spare p i).trained && (c.spare p i).retryAt.isNone && c.domOn (9 * p + 8)

theorem opSpareTrainingDone_trains {c : Chip} {p i n : Nat} (h : c.sparePort p i = some n) (ht : c.spareTrains p i n = true)
    (ok : Bool) : c.opSpareTrainingDone p i ok
      = if ok then (c.setSpare p i { c.spare p i with trained := true }).placeHello p i
        else c.setSpare p i { c.spare p i with retryAt := some (c.now + 10 * sPs) } := by
  simp only [opSpareTrainingDone, h]
  exact if_pos ht

end Chip

open Chip

section
variable {s : State} {rq : Req} {tag : BitVec 16} {m : Fin 4} {bus : BusEnv} {c : Chip} {r : Nat × List Nat}

/-- A bus command that its mailbox takes ends with what its transaction answers. -/
theorem runChip_busMbx {op : Nat} {f : Chip → List Nat → Chip × (Nat × List Nat)} (h : s.chip.mbxStarts rq (.mbus m) op = true)
    (e : f (s.chip.pendingIn (.mbus m)) (s.chip.mbxArgs (.mbus m)) = (c, r)) :
    runChip s (busMbx rq tag m op f) = .next (s.withChip (c.mbxTaken (.mbus m) tag op (s.chip.mbxArgs (.mbus m)) (some r))) :=
  runChip_eq (mbxRun_eq _ _ _ _ _ _ _ _ h (congrArg (fun x : Chip × (Nat × List Nat) => (x.1, some x.2)) e))

end

/-- Settles O28: the three transactions by the one that is common to them, case by case; then recovery, the alert and the training. -/
theorem managementBusActs : Obligations.ManagementBusActs := by
  unfold Obligations.ManagementBusActs
  refine ⟨?writeRefused, ?writeStuck, ?writeArbLost, ?writeStretched, ?writeAddress, ?writeByte, ?written,
    ?readRefused, ?readStuck, ?readArbLost, ?readStretched, ?readAddress, ?readPec, ?read,
    ?bothRefused, ?bothStuck, ?bothArbLost, ?bothStretched, ?bothAddress, ?bothByte, ?bothPec, ?both,
    ?recover, ?alert, ?trained, ?trainingFails⟩
  case writeRefused => exact fun s rq tag m bus h hr => runChip_busMbx h (busRun_refused hr)
  case writeStuck => exact fun s rq tag m bus h hr hk => runChip_busMbx h (busRun_stuck hr hk)
  case writeArbLost => exact fun s rq tag m bus h hr hk ha => runChip_busMbx h (busRun_arbLost hr hk ha)
  case writeStretched => exact fun s rq tag m bus h hr hk ha hs => runChip_busMbx h (busRun_stretched hr hk ha hs)
  case writeAddress => exact fun s rq tag m bus h hr hk ha hs hd => runChip_busMbx h (busRun_addrRefused hr hk ha hs hd)
  case writeByte => exact fun s rq tag m bus h hr hk ha hs hd hn hb => runChip_busMbx h (busRun_byteRefused hr hk ha hs hd hn hb)
  case written => exact fun s rq tag m bus h hr hk ha hs hd hb => runChip_busMbx h (busRun_written hr hk ha hs hd fun _ => hb)
  case readRefused => exact fun s rq tag m bus h hr => runChip_busMbx h (busRun_refused hr)
  case readStuck => exact fun s rq tag m bus h hr hk => runChip_busMbx h (busRun_stuck hr hk)
  case readArbLost => exact fun s rq tag m bus h hr hk ha => runChip_busMbx h (busRun_arbLost hr hk ha)
  case readStretched => exact fun s rq tag m bus h hr hk ha hs => runChip_busMbx h (busRun_stretched hr hk ha hs)
  case readAddress => exact fun s rq tag m bus h hr hk ha hs hd => runChip_busMbx h (busRun_addrRefused hr hk ha hs hd)
  case readPec => exact fun s rq tag m bus h hr hk ha hs hd hp => runChip_busMbx h (busRun_badPec hr hk ha hs hd nofun hp)
  case read => exact fun s rq tag m bus h hr hk ha hs hd hp => runChip_busMbx h (busRun_read hr hk ha hs hd nofun hp)
  case bothRefused => exact fun s rq tag m bus h hr => runChip_busMbx h (busRun_refused hr)
  case bothStuck => exact fun s rq tag m bus h hr hk => runChip_busMbx h (busRun_stuck hr hk)
  case bothArbLost => exact fun s rq tag m bus h hr hk ha => runChip_busMbx h (busRun_arbLost hr hk ha)
  case bothStretched => exact fun s rq tag m bus h hr hk ha hs => runChip_busMbx h (busRun_stretched hr hk ha hs)
  case bothAddress => exact fun s rq tag m bus h hr hk ha hs hd => runChip_busMbx h (busRun_addrRefused hr hk ha hs hd)
  case bothByte => exact fun s rq tag m bus h hr hk ha hs hd hn hb => runChip_busMbx h (busRun_byteRefused hr hk ha hs hd hn hb)
  case bothPec => exact fun s rq tag m bus h hr hk ha hs hd hb hp => runChip_busMbx h (busRun_badPec hr hk ha hs hd (fun _ => hb) hp)
  case both => exact fun s rq tag m bus h hr hk ha hs hd hb hp => runChip_busMbx h (busRun_read hr hk ha hs hd (fun _ => hb) hp)
  case recover => exact fun s rq tag m bus h => runChip_busMbx h rfl
  case alert => exact fun s m low => runChip_eq rfl
  case trained => exact fun s panel spare n h ht => runChip_eq (opSpareTrainingDone_trains h ht true)
  case trainingFails => exact fun s panel spare n h ht => runChip_eq (opSpareTrainingDone_trains h ht false)

end Sys2Proof.Machine
end

section
/-!
PROOFS. How the stores heal (R140, R200, R201, R217, R341, R342) and what the read-back addresses copy (R141, R202, R225): the outcomes
of a repair, the traverses of an engine that is on, and from that O13.
-/

namespace Sys2Proof.Machine

namespace Chip

/-! The traverses reach a store whose power domain is on. -/

section
variable {c : Chip} {n : Nat} (hits : List Hit)

theorem opPrsTraverse_on (h : c.domOn (80 + n) = true) :
    c.opPrsTraverse n hits = (c.strike hits).traverse (fun l => decide (l.space < 4) && l.unit == n) := if_pos h

theorem opRuleTraverse_on (h : c.domOn (80 + n) = true) :
    c.opRuleTraverse n hits = (c.strike hits).traverse (fun l => l.space == 4 && l.unit == n) := if_pos h

theorem opPatternTraverse_on (h : c.domOn (108 + n) = true) (passEnd : Bool) :
    c.opPatternTraverse n hits passEnd
      = if passEnd then ((c.strike hits).traverse (fun l => l.space == 5 && l.unit == n)).bump (Reg.PAT_CNT n 7) 1
        else (c.strike hits).traverse (fun l => l.space == 5 && l.unit == n) := if_pos h

end

/-! REPAIR_COMPLETE: the first backing copy serves before the others and a sibling; a location that none serves is a REPAIR_FAIL
(R341, R342). -/

/-- The stack of a location's first backing copy, if the copy can be read. -/
def firstCopy (c : Chip) (l : Loc) : List Nat := ((backStacks l).take 1).filter (c.copyUp l)

/-- The stacks of a location's other backing copies that can be read. -/
def otherCopies (c : Chip) (l : Loc) : List Nat := ((backStacks l).drop 1).filter (c.copyUp l)

/-- The repair of a location has ended, for which its first backing copy was read. -/
def firstCopyRead (c : Chip) (l : Loc) (copyA : Bool) : Chip :=
  readCopies l copyA (c.firstCopy l) (({ c with tbl.repairs := c.tbl.repairs.filter (fun x => !decide (x = l)) } : Chip).endRepair l)

/-- The first copy did not serve: of the others one was read, or all where none was good. -/
def otherCopiesRead (c : Chip) (l : Loc) (copyA copyB : Bool) : Chip :=
  readCopies l copyB (if copyB then (c.otherCopies l).take 1 else c.otherCopies l) (c.firstCopyRead l copyA)

section
variable {c : Chip} {l : Loc} {copyA copyB sibling : Bool} (hr : c.tbl.repairs.contains l = true) (hw : c.backWaits (objLoc l) = false)
include hr hw

theorem opRepairComplete_due : c.opRepairComplete l copyA copyB sibling
    = if copyA && !(c.firstCopy l).isEmpty then ((c.firstCopyRead l copyA).clearLoc l).countRepair l
      else if (copyB && !(c.otherCopies l).isEmpty) || (sibling && l.space != 5) then
        ((c.otherCopiesRead l copyA copyB).clearLoc l).countRepair l
      else { c.otherCopiesRead l copyA copyB with
        tbl.repairFail := (c.otherCopiesRead l copyA copyB).tbl.repairFail ++ [l] }.locReport l 0x07 outReported :=
  if_pos (by rw [hr, hw]; rfl)

theorem opRepairComplete_first (ha : (copyA && !(c.firstCopy l).isEmpty) = true) :
    c.opRepairComplete l copyA copyB sibling = ((c.firstCopyRead l copyA).clearLoc l).countRepair l :=
  (opRepairComplete_due hr hw).trans (if_pos ha)

variable (ha : (copyA && !(c.firstCopy l).isEmpty) = false)
include ha

theorem opRepairComplete_other (hb : ((copyB && !(c.otherCopies l).isEmpty) || (sibling && l.space != 5)) = true) :
    c.opRepairComplete l copyA copyB sibling = ((c.otherCopiesRead l copyA copyB).clearLoc l).countRepair l :=
  (opRepairComplete_due hr hw).trans ((if_neg (Bool.eq_false_iff.1 ha)).trans (if_pos hb))

theorem opRepairComplete_fails (hb : ((copyB && !(c.otherCopies l).isEmpty) || (sibling && l.space != 5)) = false) :
    c.opRepairComplete l copyA copyB sibling = { c.otherCopiesRead l copyA copyB with
      tbl.repairFail := (c.otherCopiesRead l copyA copyB).tbl.repairFail ++ [l] }.locReport l 0x07 outReported :=
  (opRepairComplete_due hr hw).trans ((if_neg (Bool.eq_false_iff.1 ha)).trans (if_neg (Bool.eq_false_iff.1 hb)))

end

/-! PRS_RD_ADDR: only an address that names an entry is stored (R141). -/

section
variable {c : Chip} {n v : Nat} (rq : Req)

theorem prsRdWrite_entry (h : prsRdOk v = true) : c.prsRdWrite rq n v
    = (c.storeFields rq (Reg.PRS_RD_ADDR n) (Reg.PRS_RD_ADDR n) (fieldsAt (Reg.PRS_RD_ADDR n)) v).readPort
        ⟨bitsOf v 13 12, n, 4096 * bitsOf v 16 16 + bitsOf v 11 0⟩ (Reg.PRS_RD_DATA n) 8
        ((c.storeFields rq (Reg.PRS_RD_ADDR n) (Reg.PRS_RD_ADDR n) (fieldsAt (Reg.PRS_RD_ADDR n)) v).prsEntry v) :=
  if_neg (by rw [h]; decide)

theorem prsRdWrite_noEntry (h : prsRdOk v = false) : c.prsRdWrite rq n v = c.err rq errBadValue (Reg.PRS_RD_ADDR n) :=
  if_pos (by rw [h]; rfl)

end

end Chip

open Chip

/-- A register write in whose cycle bits flip, by who may reach the register, is the register's effect on the chip so struck. -/
theorem runChip_struckRegCmd {s : State} {rq : Req} {a : Nat} {hits : List Hit} {f : Chip → Chip} {c : Chip} (hp : rq.priv = true)
    (ho : (s.chip.strike hits).addrOff a = false) (h : f (s.chip.strike hits) = c) :
    runChip s (fun c => (c.strike hits).regCmd rq a f) = .next (s.withChip c) :=
  runChip_eq ((regCmd_ok _ _ _ _ hp ho).trans h)

/-- Settles O13: the traverses where their domain is on, the three outcomes of a repair, the three read-back addresses. -/
theorem protectionActs : Obligations.ProtectionActs := by
  unfold Obligations.ProtectionActs
  refine ⟨?parser, ?rules, ?patternPass, ?patterns, ?repairFirst, ?repairOther, ?repairFails, ?prsEntry, ?prsNoEntry, ?rewrite,
    ?classifier⟩
  case parser => exact fun s slice hits h => runChip_eq (opPrsTraverse_on hits h)
  case rules => exact fun s slice hits h => runChip_eq (opRuleTraverse_on hits h)
  case patternPass => exact fun s engine hits h => runChip_eq (opPatternTraverse_on hits h true)
  case patterns => exact fun s engine hits h => runChip_eq (opPatternTraverse_on hits h false)
  case repairFirst => exact fun s loc copyA copyB sibling hr hw ha => runChip_eq (opRepairComplete_first hr hw ha)
  case repairOther => exact fun s loc copyA copyB sibling hr hw ha hb => runChip_eq (opRepairComplete_other hr hw ha hb)
  case repairFails => exact fun s loc copyA copyB sibling hr hw ha hb => runChip_eq (opRepairComplete_fails hr hw ha hb)
  case prsEntry => exact fun s rq slice value hits hp ho hv => runChip_struckRegCmd hp ho (prsRdWrite_entry rq hv)
  case prsNoEntry => exact fun s rq slice value hits hp ho hv => runChip_struckRegCmd hp ho (prsRdWrite_noEntry rq hv)
  case rewrite => exact fun s rq slice value hits hp ho => runChip_struckRegCmd hp ho rfl
  case classifier => exact fun s rq slice value hits hp ho => runChip_struckRegCmd hp ho rfl

end Sys2Proof.Machine
end

section
/-!
PROOFS. The two buckets of a key (R161, R164) and which version of an entry a lookup answers (R143, R144, R165, R169, R170); from that
O46 and O42.
-/

namespace Sys2Proof.Machine

/-! The CRC-32C of R164 has 32 bits. -/

theorem crcBits_lt (n : Nat) {c : Nat} (h : c < 2 ^ 32) : crcBits n c < 2 ^ 32 := by
  induction n generalizing c with
  | zero => exact h
  | succ n ih =>
    have shifted : c * 2 % 2 ^ 32 < 2 ^ 32 := Nat.mod_lt _ (by decide)
    unfold crcBits
    split
    · exact ih (Nat.xor_lt_two_pow shifted (by decide))
    · exact ih shifted

theorem crc32c_lt (l : List Byte) {init : Nat} (h : init < 2 ^ 32) : crc32c init l < 2 ^ 32 := by
  induction l generalizing init with
  | nil => exact h
  | cons b l ih =>
    have top : b.toNat * 2 ^ 24 < 2 ^ 32 := by
      have := b.isLt
      omega
    exact ih (crcBits_lt 8 (Nat.xor_lt_two_pow h top))

/-- A number and the one with its lowest bit changed differ. -/
theorem xor_one_ne (n : Nat) : n ^^^ 1 ≠ n :=
  fun h => absurd (xor_cancel_left (h.trans (Nat.xor_zero n).symm)) (by decide)

/-- Of two equal numbers the second is replaced (R164). -/
theorem ne_ite_xor_one (h0 h1 : Nat) : h0 ≠ if h1 = h0 then h0 ^^^ 1 else h1 := by
  split
  · exact (xor_one_ne h0).symm
  · next h => exact Ne.symm h

namespace Chip

theorem emLogical_lt (k : List Nat) : emLogical k < 64 :=
  Nat.div_lt_of_lt_mul (crc32c_lt (emBytes k) (by decide))

/-- Where both seeds give one bucket, the second is the one beside it (R164). -/
theorem emBuckets_ne (c : Chip) (q : Nat) (k : List Nat) : (c.emBuckets q k).1 ≠ (c.emBuckets q k).2 :=
  ne_ite_xor_one _ _

theorem emBuckets_lt {c : Chip} {w : Nat} (hm : (if c.edge then 8192 else 4096) = 2 ^ w) (hw : w ≠ 0) (q : Nat) (k : List Nat) :
    (c.emBuckets q k).1 < 2 ^ w ∧ (c.emBuckets q k).2 < 2 ^ w := by
  have bucket (n : Nat) : n % 2 ^ w < 2 ^ w := Nat.mod_lt _ (Nat.two_pow_pos w)
  simp only [emBuckets, hm]
  refine ⟨bucket _, ?_⟩
  split
  · exact Nat.xor_lt_two_pow (bucket _) (Nat.one_lt_two_pow hw)
  · exact bucket _

end Chip

open Chip

/-- Settles O46: the second bucket is another by its definition, and a bucket is a remainder, or one with its lowest bit changed. -/
theorem hashBucketsDiffer : Obligations.HashBucketsDiffer := by
  unfold Obligations.HashBucketsDiffer
  exact ⟨emBuckets_ne, fun c q k h => emBuckets_lt (w := 12) (by rw [h]; rfl) (by decide) q k,
    fun c q k h => emBuckets_lt (w := 13) (by rw [h]; rfl) (by decide) q k, emLogical_lt⟩

/-! Visibility (R143, R144). -/

/-- The difference of two epochs is the signed value of their 16-bit difference. -/
theorem epochDiff_toNat (a b : BitVec 16) : epochDiff a.toNat b.toNat = (a - b).toInt := by
  have ha := a.isLt
  have hb := b.isLt
  rw [BitVec.toInt_eq_toNat_cond, BitVec.toNat_sub, epochDiff, signedOf]
  split <;> split <;> omega

namespace Chip

variable {c : Chip}

theorem slotDone_iff (s e : Nat) : c.slotDone s e = true ↔
    (c.fld (Reg.UPD_SLOT s) Fd.UPD_SLOT_STATE = 3 ∨ c.fld (Reg.UPD_SLOT s) Fd.UPD_SLOT_STATE = 4) ∧
      0 ≤ epochDiff e (c.fld (Reg.UPD_SLOT s) Fd.UPD_SLOT_EPOCH) := by
  simp [slotDone, slotState, sCommitted, sSweeping]

theorem visible_iff (t e : Nat) : c.visible t e = true ↔
    (bitOf t 17 = false ∨ c.slotDone (bitsOf t 16 9) e = true) ∧ ¬ (bitOf t 8 = true ∧ c.slotDone (bitsOf t 7 0) e = true) := by
  have retire : tagRetire t = bitsOf t 7 0 := by simp [tagRetire, bitsOf]
  simp only [visible, tagCv, tagCreate, tagRv, retire, Bool.and_eq_true, Bool.or_eq_true, Bool.not_eq_true', Bool.and_eq_false_iff,
    Decidable.not_and_iff_or_not, Bool.not_eq_true]

/-! Exact match (R165): the first visible version of the key. -/

section
variable {k phys e l : Nat} {key : List Nat}

/-- The version that an exact match in store k answers. -/
def emFirst (c : Chip) (k phys e : Nat) (key : List Nat) : Option Nat :=
  ((c.asStore k).emVersions phys key).find? (fun l => c.visible ((c.asStore k).emTagAt l) e)

theorem visible_of_emFirst (h : c.emFirst k phys e key = some l) : c.visible ((c.asStore k).emTagAt l) e = true :=
  List.find?_some (p := fun l => c.visible ((c.asStore k).emTagAt l) e) h

/-- The entry of a version: an IPv6 host's first way over its second. -/
def emWhole (c : Chip) (key : List Nat) (l : Nat) : Nat := if key.length = 2 then c.emAt l * 2 ^ 128 + c.emAt (l + 1) else c.emAt l

theorem findEm_eq : (c.findEm k phys key e).2
    = match c.emFirst k phys e key with
      | some l => ⟨l, (c.asStore k).emWhole key l, true, (c.readLocs ((c.emReads phys key).map (tableLoc 2 k))).2⟩
      | none => ⟨0, 0, false, (c.readLocs ((c.emReads phys key).map (tableLoc 2 k))).2⟩ := by
  simp only [findEm, emFirst]
  cases ((c.asStore k).emVersions phys key).find? (fun l => c.visible ((c.asStore k).emTagAt l) e) <;> rfl

theorem visible_of_findEm_hit (h : (c.findEm k phys key e).2.hit = true) :
    c.visible ((c.asStore k).emTagAt (c.findEm k phys key e).2.loc) e = true := by
  rw [findEm_eq] at h ⊢
  cases hf : c.emFirst k phys e key with
  | none =>
    rw [hf] at h
    cases h
  | some l => exact visible_of_emFirst hf

end

/-! Prefixes (R169): one of the visible prefixes that cover the address. -/

section
variable {k vrf a e : Nat} {v6 : Bool}

/-- The prefixes of store k that cover an address. -/
def lpmCover (c : Chip) (k : Nat) (v6 : Bool) (vrf a : Nat) : List (Nat × Pfx) :=
  ((c.asStore k).lpm v6).filterMap (fun x => match x.2 with
    | some p => if pfxCovers v6 p vrf a then some (x.1, p) else none
    | none => none)

theorem findLpm_eq : (c.findLpm k v6 vrf a e).2.1
    = ((c.lpmCover k v6 vrf a).filter (fun x => c.visible x.2.tag e)).foldl (fun b x => longer b (some x)) none := rfl

theorem longer_some {x : Option (Nat × Pfx)} {y z : Nat × Pfx} (h : longer x (some y) = some z) : x = some z ∨ y = z := by
  cases x with
  | none => exact .inr (Option.some.inj h)
  | some x =>
    simp only [longer] at h
    split at h
    · exact .inr (Option.some.inj h)
    · exact .inl h

/-- The longest of a list and what was found before it is one of them. -/
theorem mem_of_foldl_longer {l : List (Nat × Pfx)} {b : Option (Nat × Pfx)} {z : Nat × Pfx}
    (h : l.foldl (fun b x => longer b (some x)) b = some z) : b = some z ∨ z ∈ l := by
  induction l generalizing b with
  | nil => exact .inl h
  | cons y l ih =>
    rcases ih h with hb | hz
    · exact (longer_some hb).imp_right (fun e => by rw [e]; exact List.mem_cons_self)
    · exact .inr (List.mem_cons_of_mem _ hz)

theorem visible_of_findLpm {i : Nat} {p : Pfx} (h : (c.findLpm k v6 vrf a e).2.1 = some (i, p)) : c.visible p.tag e = true := by
  rw [findLpm_eq] at h
  have found := (mem_of_foldl_longer h).resolve_left nofun
  exact (List.mem_filter.1 found).2

end

/-! Index tables (R170): the entry itself, or the shadow that it names. -/

section
variable {t i e : Nat}

/-- An entry that is answered only where it is visible. -/
theorem visible_of_answered {m v : Nat} (h : (if c.visible (tagOf (ixBits t) m) e then some m else none) = some v) :
    c.visible (tagOf (ixBits t) v) e = true := by
  obtain ⟨hv, he⟩ := Option.ite_none_right_eq_some.1 h
  exact Option.some.inj he ▸ hv

theorem visible_of_ixRead {v : Nat} (h : (c.ixRead t i e).1 = some v) : c.visible (tagOf (ixBits t) v) e = true := by
  cases hm : c.ixAt (ixKey t i) with
  | none => simp [ixRead, hm] at h
  | some m =>
    simp only [ixRead, hm] at h
    split at h
    case isFalse => exact visible_of_answered h
    case isTrue =>
      dsimp only at h
      split at h
      · next own => exact visible_of_answered (own.trans h)
      · split at h
        · exact visible_of_answered h
        · cases h

end

/-! A store that holds no stale entry holds what the tables do (R178). -/

section
variable (hem : c.tbl.staleEm = []) (h4 : c.tbl.staleLpm4 = []) (h6 : c.tbl.staleLpm6 = []) (hix : c.tbl.staleIdx = [])
include hem h4 h6 hix

theorem asStore_of_noStale (k : Nat) : c.asStore k = c := by
  unfold asStore
  rw [hem, h4, h6, hix]
  rfl

theorem findEm_sameStores (j k phys e : Nat) (key : List Nat) : (c.findEm j phys key e).2.hit = (c.findEm k phys key e).2.hit ∧
    (c.findEm j phys key e).2.entry = (c.findEm k phys key e).2.entry := by
  have same := asStore_of_noStale hem h4 h6 hix
  simp only [findEm_eq, emFirst, same]
  split <;> exact ⟨rfl, rfl⟩

theorem findLpm_sameStores (j k vrf a e : Nat) (v6 : Bool) : (c.findLpm j v6 vrf a e).2.1 = (c.findLpm k v6 vrf a e).2.1 := by
  have same := asStore_of_noStale hem h4 h6 hix
  simp only [findLpm_eq, lpmCover, same]

theorem findIx_sameStores (j k t i e : Nat) : (c.findIx j t i e).2.hit = (c.findIx k t i e).2.hit ∧
    (c.findIx j t i e).2.entry = (c.findIx k t i e).2.entry := by
  have same := asStore_of_noStale hem h4 h6 hix
  simp only [findIx, same]
  cases (c.ixRead t i e).1 <;> exact ⟨rfl, rfl⟩

end

end Chip

open Chip

/-- Settles O42: the test of R144 bit by bit, the three lookups by what each selects, and stores that hold what the tables do. -/
theorem versionsVisible : Obligations.VersionsVisible := by
  unfold Obligations.VersionsVisible
  refine ⟨?difference, ?done, ?visible, ?keyed, ?longest, ?index, ?keyedStores, ?longestStores, ?indexStores⟩
  case difference => exact epochDiff_toNat
  case done => exact fun c => slotDone_iff
  case visible => exact fun c => visible_iff
  case keyed => exact fun c k phys e key => visible_of_findEm_hit
  case longest => exact fun c k vrf a e i v6 p => visible_of_findLpm
  case index => exact fun c t i e v => visible_of_ixRead
  case keyedStores => exact fun c j k phys e key hem h4 h6 hix => findEm_sameStores hem h4 h6 hix j k phys e key
  case longestStores => exact fun c j k vrf a e v6 hem h4 h6 hix => findLpm_sameStores hem h4 h6 hix j k vrf a e v6
  case indexStores => exact fun c j k t i e hem h4 h6 hix => findIx_sameStores hem h4 h6 hix j k t i e

end Sys2Proof.Machine
end

section
/-!
PROOFS. The descriptors of an update ring: what becomes of one by the state of its ring and its number (R147, R378, R382, R383, R402), and
what each does that is taken (R145 to R149, R153, R384, R388); from that O43 and O10.
-/

namespace Sys2Proof.Machine

namespace Chip

/-! A descriptor that does not act. -/

section
variable {c : Chip} {p r : Nat} {d : Desc} {act : Chip → Compl → Chip}

/-- The completion of a descriptor that is not taken. -/
def refusal (p r : Nat) (d : Desc) (code : Nat) : Compl := ⟨p, r, d.seq.toNat, d.op.toNat, code, d.slot.val, 0, 0, false⟩

section
variable (hr : c.ringReady p r = true)
include hr

theorem descStep_standby (hs : (c.ringAdvance p r).standby = true) :
    c.descStep p r d act = (c.ringAdvance p r).putCompl (refusal p r d cStandby) false :=
  (if_pos hr).trans (if_pos hs)

/-- Unless this chip is a standby, the descriptor's number decides. -/
theorem descStep_numbered (hs : (c.ringAdvance p r).standby = false) :
    c.descStep p r d act = (c.ringAdvance p r).applySeq false p r d act :=
  (if_pos hr).trans (if_neg (Bool.eq_false_iff.1 hs))

end

theorem applySeq_gap (h : c.ringLast p r + 1 < d.seq.toNat) :
    c.applySeq false p r d act = c.putCompl (refusal p r d cSeqGap) false :=
  (if_neg (Nat.ne_of_gt h)).trans (if_neg (Nat.not_le.2 (Nat.lt_of_succ_lt h)))

/-- A number that is not above LAST is looked up among the completions that the ring remembers. -/
theorem applySeq_old (h : d.seq.toNat ≤ c.ringLast p r) : c.applySeq false p r d act
    = match ((c.bump (Reg.RING_CNT p r 2) 1).ringHist p r).find? (fun y => y.seq == d.seq.toNat) with
      | some y => (c.bump (Reg.RING_CNT p r 2) 1).post { y with silent := false } true
      | none => (c.bump (Reg.RING_CNT p r 2) 1).putCompl (refusal p r d cStaleSeq) false :=
  (if_neg (Nat.ne_of_lt (Nat.lt_succ_of_le h))).trans (if_pos h)

theorem applySeq_forgotten (h : d.seq.toNat ≤ c.ringLast p r)
    (hf : ((c.bump (Reg.RING_CNT p r 2) 1).ringHist p r).find? (fun y => y.seq == d.seq.toNat) = none) :
    c.applySeq false p r d act = (c.bump (Reg.RING_CNT p r 2) 1).putCompl (refusal p r d cStaleSeq) false := by
  rw [applySeq_old h, hf]

theorem applySeq_remembered {y : Compl} (h : d.seq.toNat ≤ c.ringLast p r)
    (hf : ((c.bump (Reg.RING_CNT p r 2) 1).ringHist p r).find? (fun y => y.seq == d.seq.toNat) = some y) :
    c.applySeq false p r d act = (c.bump (Reg.RING_CNT p r 2) 1).post { y with silent := false } true := by
  rw [applySeq_old h, hf]

theorem applySeq_reserved (h : d.seq.toNat = c.ringLast p r + 1) (hd : d.rsv = true) : c.applySeq false p r d act
    = ((c.setLast p r d.seq.toNat).mirror d p r).1.complete
        ⟨p, r, d.seq.toNat, d.op.toNat, cBadDesc, d.slot.val, 0, ((c.setLast p r d.seq.toNat).mirror d p r).2, false⟩ :=
  (if_pos h).trans (if_pos hd)

theorem ringLast_setLast {v : Nat} (h : v < 2 ^ 64) : (c.setLast p r v).ringLast p r = v := by
  have apart : Reg.RING_SEQ_LO p r ≠ Reg.RING_SEQ_HI p r := by simp only [Reg.RING_SEQ_LO, Reg.RING_SEQ_HI]; omega
  have lo : (c.setLast p r v).rd (Reg.RING_SEQ_LO p r) = v % 2 ^ 32 := by
    rw [setLast, rd, reg_wrN_other _ _ _ _ apart]
    exact rd_wrN_same c _ _ (Nat.mod_lt _ (by decide))
  have hi : (c.setLast p r v).rd (Reg.RING_SEQ_HI p r) = v / 2 ^ 32 :=
    rd_wrN_same _ _ _ (Nat.div_lt_of_lt_mul (by omega))
  rw [ringLast, lo, hi, Nat.mul_comm, Nat.mod_add_div]

end

end Chip

open Chip

/-- A descriptor's command does what one step of its ring does whatever a taken one would do. -/
theorem exec_descriptor {i : Instr} {s : State} {p r : Nat} {d : Desc} {c : Chip} (hi : descriptorOf i = some (p, r, d))
    (h : ∀ act, s.chip.descStep p r d act = c) : exec i s = .next (s.withChip c) := by
  obtain ⟨act, e⟩ := exec_descriptorOf i p r d hi
  rw [e, h]

/-- Settles O43: how the ring stands decides first, then the descriptor's number, then its reserved fields. -/
theorem descriptorsOutOfTurn : Obligations.DescriptorsOutOfTurn := by
  unfold Obligations.DescriptorsOutOfTurn
  refine ⟨?notReady, ?standby, ?gap, ?forgotten, ?remembered, ?reserved, ?last⟩
  case notReady => exact fun i s p r d hi hr => exec_descriptor hi (fun act => descStep_idle _ p r d act hr)
  case standby => exact fun i s p r d hi hr hs => exec_descriptor hi (fun act => descStep_standby hr hs)
  case gap =>
    exact fun i s p r d hi hr hs h => exec_descriptor hi (fun act => (descStep_numbered hr hs).trans (applySeq_gap h))
  case forgotten =>
    exact fun i s p r d hi hr hs h hf => exec_descriptor hi (fun act => (descStep_numbered hr hs).trans (applySeq_forgotten h hf))
  case remembered =>
    exact fun i s p r d y hi hr hs h hf => exec_descriptor hi (fun act => (descStep_numbered hr hs).trans (applySeq_remembered h hf))
  case reserved =>
    exact fun i s p r d hi hr hs h hd => exec_descriptor hi (fun act => (descStep_numbered hr hs).trans (applySeq_reserved h hd))
  case last => exact fun c p r v h => ringLast_setLast h

/-! What a descriptor does that is taken. -/

namespace Chip

/-- A descriptor that is refused is counted, and completes with a code (R177). -/
def descRefused (c : Chip) (x : Compl) (code : Nat) : Chip := (c.bump (Reg.UPD_CNT 5) 1).complete { x with code := code }

section
variable {c : Chip} {x : Compl}

/-! OPEN (R145, R388). -/

/-- A parcel other than the manager's has as many slots as it may (R388). -/
def slotsFull (c : Chip) (p : Nat) : Prop := p ≠ 0 ∧ c.act (Reg.PAR_QUOTA p) Fd.PAR_QUOTA_SLOTS ≤ c.slotsUsed p

/-- Slot n has been opened for the parcel of a completion, which it names. -/
def slotOpened (c : Chip) (x : Compl) (n : Nat) : Chip :=
  (((c.wrN (Reg.UPD_SLOT n) 0).setF (Reg.UPD_SLOT n) Fd.UPD_SLOT_PARCEL x.parcel).setSlot n sOpen).complete
    { x with slot := n, result := n }

theorem actOpen_overQuota (h : c.slotsFull x.parcel) : c.actOpen x = c.descRefused x cNoSlot := if_pos h

theorem actOpen_inQuota (h : ¬ c.slotsFull x.parcel) : c.actOpen x
    = ((List.range 252).find? (fun k => c.slotState k == sFree)).elim (c.descRefused x cNoSlot) (c.slotOpened x) := by
  refine (if_neg h).trans ?_
  cases (List.range 252).find? (fun k => c.slotState k == sFree) <;> rfl

/-! WRITE and DELETE (R146 to R148). -/

section
variable {d : Desc} {row : List Byte} {del : Bool}

theorem actChange_noTarget (h : targetOf d row del = none) : actChange d row del c x = c.complete { x with code := cBadDesc } := by
  simp only [actChange, h]

variable {t : Target} (h : targetOf d row del = some t)
include h

theorem actChange_noSlot (hs : c.slotCode x.slot x.parcel ≠ cOk) :
    actChange d row del c x = c.descRefused x (c.slotCode x.slot x.parcel) := by
  simp only [actChange, h, if_pos hs]
  rfl

variable (hs : c.slotCode x.slot x.parcel = cOk)
include hs

theorem actChange_made (hc : (c.change x.slot x.parcel d.table.val del t).2 = cOk) :
    actChange d row del c x = (c.change x.slot x.parcel d.table.val del t).1.complete x := by
  simp only [actChange, h, if_neg (Decidable.not_not.2 hs), if_pos hc]

/-- A change that is refused fails its slot. -/
theorem actChange_refused (hc : (c.change x.slot x.parcel d.table.val del t).2 ≠ cOk) : actChange d row del c x
    = ((c.refused (c.change x.slot x.parcel d.table.val del t).2 d.table.val x.slot t).setSlot x.slot sFailed).complete
        { x with code := (c.change x.slot x.parcel d.table.val del t).2 } := by
  simp only [actChange, h, if_neg (Decidable.not_not.2 hs), if_neg hc]

end

/-! CLOSE and ABORT (R145, R148, R153). -/

theorem actClose_closes (h : c.slotCode x.slot x.parcel = cOk) :
    c.actClose x = { c with upd.closing := c.upd.closing ++ [(⟨x.slot, x⟩ : SlotWait)] } :=
  if_neg (Decidable.not_not.2 h)

theorem actClose_noSlot (h : c.slotCode x.slot x.parcel ≠ cOk) :
    c.actClose x = c.descRefused x (c.slotCode x.slot x.parcel) := if_pos h

/-- An ABORT waits for its end. -/
def abortWaits (c : Chip) (x : Compl) : Chip := { c with upd.aborts := c.upd.aborts ++ [(⟨x.slot, x⟩ : SlotWait)] }

theorem actAbort_noSlot (h : c.slotOf x.slot x.parcel = false) : c.actAbort x = c.descRefused x cBadSlot :=
  if_pos (by rw [h]; rfl)

theorem actAbort_committed (h : c.slotOf x.slot x.parcel = true)
    (hs : c.slotState x.slot = sCommitted ∨ c.slotState x.slot = sSweeping) : c.actAbort x = c.descRefused x cCommitted :=
  (if_neg (by rw [h]; decide)).trans (if_pos hs)

/-- The CLOSE that runs on its slot ends first. -/
theorem actAbort_aborts (h : c.slotOf x.slot x.parcel = true)
    (hs : c.slotState x.slot = sOpen ∨ c.slotState x.slot = sClosed ∨ c.slotState x.slot = sFailed) :
    c.actAbort x = if c.closing x.slot then c.abortWaits x else (c.abortWaits x).setSlot x.slot sAborting := by
  have uncommitted : ¬ (c.slotState x.slot = sCommitted ∨ c.slotState x.slot = sSweeping) := by
    rcases hs with e | e | e <;> rw [e] <;> decide
  exact (if_neg (by rw [h]; decide)).trans ((if_neg uncommitted).trans (if_pos hs))

/-! PATCH (R384). -/

section
variable {d : Desc} {image : List Byte}

/-- The bytes of a patch. -/
def patchBytes (image : List Byte) : ImgR := fun o n => slice image o n

/-- What a patch loads: its pattern sections, or its microcode; none where no idle bank or region takes it. -/
def patchLoaded (c : Chip) (image : List Byte) (x : Compl) : Option Chip :=
  if (sections (patchBytes image)).any (fun y => y.typ == stPattern) then c.patchPatterns (patchBytes image) x
  else c.patchMicrocode (patchBytes image) x

/-- A patch is refused with the code of R96 as its result. -/
def patchRefused (c : Chip) (x : Compl) (code : Nat) : Chip := c.complete { x with code := cPatchRefused, result := code }

theorem actPatch_notPermitted (h : x.parcel ≠ 0) : actPatch d image c x = c.complete { x with code := cNotPermitted } := if_pos h

section
variable (h : x.parcel = 0)
include h

theorem actPatch_short (hl : d.len.toNat < imgLen (patchBytes image)) : actPatch d image c x = c.patchRefused x 0x02 :=
  (if_neg (Decidable.not_not.2 h)).trans (if_pos hl)

theorem actPatch_whole (hl : imgLen (patchBytes image) ≤ d.len.toNat) : actPatch d image c x
    = if c.patchCode (patchBytes image) ≠ 0 then c.patchRefused x (c.patchCode (patchBytes image))
      else (c.patchLoaded image x).getD (c.patchRefused x 0x0E) := by
  have loads : (match c.patchLoaded image x with
      | some c1 => c1
      | none => c.patchRefused x 0x0E) = (c.patchLoaded image x).getD (c.patchRefused x 0x0E) := by
    cases c.patchLoaded image x <;> rfl
  rw [← loads]
  exact (if_neg (Decidable.not_not.2 h)).trans (if_neg (Nat.not_lt.2 hl))

end

end

end

end Chip

open Chip

section
variable {s : State} {c : Chip} {p r : Nat} {d : Desc} {act : Chip → Compl → Chip}

/-- A descriptor that is taken does what its operation does with the completion that the ring gives it. -/
theorem runChip_taken (h : s.chip.descAccepts p r d = true) (e : act (s.chip.descChip p r d) (s.chip.descCompl p r d) = c) :
    runChip s (fun c => c.descStep p r d act) = .next (s.withChip c) :=
  runChip_eq ((descStep_ok s.chip p r d act h).trans e)

end

/-- Settles O10: descriptor by descriptor, one case of its operation for each clause. -/
theorem updateDescriptorsAct : Obligations.UpdateDescriptorsAct := by
  unfold Obligations.UpdateDescriptorsAct
  refine ⟨?opens, ?overQuota, ?written, ?writeRefused, ?writeNoSlot, ?writeNoTarget, ?deleted, ?deleteRefused, ?deleteNoSlot,
    ?deleteNoTarget, ?closes, ?closeNoSlot, ?aborts, ?abortCommitted, ?abortNoSlot, ?commits, ?nop, ?patch, ?patchShort,
    ?patchNotPermitted, ?standby⟩
  case opens => exact fun s parcel ring d h hq => runChip_taken h (actOpen_inQuota hq)
  case overQuota => exact fun s parcel ring d h hq => runChip_taken h (actOpen_overQuota hq)
  case written => exact fun s parcel ring d row t h ht hs hc => runChip_taken h (actChange_made ht hs hc)
  case writeRefused => exact fun s parcel ring d row t h ht hs hc => runChip_taken h (actChange_refused ht hs hc)
  case writeNoSlot => exact fun s parcel ring d row t h ht hs => runChip_taken h (actChange_noSlot ht hs)
  case writeNoTarget => exact fun s parcel ring d row h ht => runChip_taken h (actChange_noTarget ht)
  case deleted => exact fun s parcel ring d t h ht hs hc => runChip_taken h (actChange_made ht hs hc)
  case deleteRefused => exact fun s parcel ring d t h ht hs hc => runChip_taken h (actChange_refused ht hs hc)
  case deleteNoSlot => exact fun s parcel ring d t h ht hs => runChip_taken h (actChange_noSlot ht hs)
  case deleteNoTarget => exact fun s parcel ring d h ht => runChip_taken h (actChange_noTarget ht)
  case closes => exact fun s parcel ring d h hs => runChip_taken h (actClose_closes hs)
  case closeNoSlot => exact fun s parcel ring d h hs => runChip_taken h (actClose_noSlot hs)
  case aborts => exact fun s parcel ring d h ho hs => runChip_taken h (actAbort_aborts ho hs)
  case abortCommitted => exact fun s parcel ring d h ho hs => runChip_taken h (actAbort_committed ho hs)
  case abortNoSlot => exact fun s parcel ring d h ho => runChip_taken h (actAbort_noSlot ho)
  case commits => exact fun s parcel ring d h => runChip_taken h rfl
  case nop => exact fun s parcel ring d h => runChip_taken h rfl
  case patch => exact fun s parcel ring d image h hp hl => runChip_taken h (actPatch_whole (congrArg Fin.val hp) hl)
  case patchShort => exact fun s parcel ring d image h hp hl => runChip_taken h (actPatch_short (congrArg Fin.val hp) hl)
  case patchNotPermitted =>
    exact fun s parcel ring d image h hp => runChip_taken h (actPatch_notPermitted (fun e => hp (Fin.ext e)))
  case standby => exact fun s parcel ring d hr hs => runChip_eq (descStep_standby hr hs)

end Sys2Proof.Machine
end

section
/-!
PROOFS. The update engine and the learn engine (R148 to R160, R168), and what the mailboxes read of tables and patterns (R164, R168, R175,
R201 to R203): each command case by case, and from that O11 and O12.
-/

namespace Sys2Proof.Machine

namespace Chip

variable {c : Chip} {n : Nat}

/-! CLOSE_COMPLETE and ABORT_DONE (R145, R148, R153, R292). -/

/-- The CLOSE w of slot n has ended, and the slot is closed. -/
def closeEnded (c : Chip) (n : Nat) (w : SlotWait) : Chip :=
  ({ c with upd.closing := c.upd.closing.filter (fun v => v.slot != n) }.setSlot n sClosed).complete w.compl

theorem opCloseComplete_ends {w : SlotWait} (hw : c.upd.closing.find? (fun w => w.slot == n) = some w) (hb : c.backFull = false) :
    c.opCloseComplete n = (if (c.closeEnded n w).upd.aborts.any (fun v => v.slot == n) then (c.closeEnded n w).setSlot n sAborting
      else c.closeEnded n w).settle := by
  simp only [opCloseComplete, hw]
  exact if_neg (Bool.eq_false_iff.1 hb)

/-- While a backing write finds no room in its queue, no CLOSE ends. -/
theorem opCloseComplete_backFull (hb : c.backFull = true) : c.opCloseComplete n = c := by
  unfold opCloseComplete
  cases c.upd.closing.find? (fun w => w.slot == n) with
  | none => rfl
  | some w => exact if_pos hb

/-- Slot n is free, and its changes are removed. -/
def slotRemoved (c : Chip) (n : Nat) : Chip :=
  ({ c with upd.aborts := c.upd.aborts.filter (fun (v : SlotWait) => v.slot != n) }.removeSlot n).wrN (Reg.UPD_SLOT n) 0

theorem opAbortDone_frees (h : c.slotState n = sAborting) : c.opAbortDone n
    = ((c.upd.aborts.filter (fun (v : SlotWait) => v.slot == n)).foldl (fun (c : Chip) (w : SlotWait) => c.complete w.compl)
        (c.slotRemoved n)).startRemove.settle := if_pos h

/-! Loads and sweeps (R139, R152, R155, R194). -/

theorem opLoadComplete_oldest {l : Load} {rest : List Load} (h : c.upd.loads = l :: rest) :
    c.opLoadComplete = ({ c with upd.loads := rest }.endLoad l).settle := by
  simp only [opLoadComplete, h]

theorem opSweepStart_due (h : c.slotState n = sCommitted) (ht : mget (fun _ => 0) c.upd.slotAt n + 8 * usPs ≤ c.now) :
    c.opSweepStart n = c.setSlot n sSweeping :=
  if_pos (by rw [h, decide_eq_true ht]; rfl)

/-- Slot n is free, and its changes are swept. -/
def slotSwept (c : Chip) (n : Nat) : Chip := (c.sweep n).wrN (Reg.UPD_SLOT n) 0

theorem opSweepDone_frees (h : c.slotState n = sSweeping) : c.opSweepDone n
    = { c.slotSwept n with upd.slotAt := mdel (c.slotSwept n).upd.slotAt n }.refreshHold.startRemove := if_pos h

/-! LEARN_REQUEST: the reasons to learn nothing come in a fixed order (R157, R158, R339). -/

section
variable {x : LearnReq} {rest : List LearnReq}

/-- The request at the front of the queue is taken. -/
def learnTaken (c : Chip) (rest : List LearnReq) : Chip := { c.pmcEvent 0x3D 1 1 with pipe.learnQ := rest }

variable (hq : c.pipe.learnQ = x :: rest)
include hq

theorem opLearnRequest_taken : c.opLearnRequest
    = if !c.on Reg.LRN_CTRL Fd.LRN_CTRL_EN then (c.learnTaken rest).bump (Reg.LRN_CNT 5) 1
      else if (c.learnTaken rest).gen x.slice ≠ x.gen then (c.learnTaken rest).bump (Reg.FLT_CNT 36) 1
      else if (c.learnTaken rest).upd.lrnFilter.contains (x.mac, x.vlan, x.port) then (c.learnTaken rest).bump (Reg.LRN_CNT 4) 1
      else if (c.learnTaken rest).standby then c.learnTaken rest
      else (c.learnTaken rest).lrnWrite x := by
  simp only [opLearnRequest, hq]
  rfl

theorem opLearnRequest_disabled (he : c.on Reg.LRN_CTRL Fd.LRN_CTRL_EN = false) :
    c.opLearnRequest = (c.learnTaken rest).bump (Reg.LRN_CNT 5) 1 :=
  (opLearnRequest_taken hq).trans (if_pos (by rw [he]; rfl))

variable (he : c.on Reg.LRN_CTRL Fd.LRN_CTRL_EN = true)
include he

theorem opLearnRequest_enabled : c.opLearnRequest
    = if (c.learnTaken rest).gen x.slice ≠ x.gen then (c.learnTaken rest).bump (Reg.FLT_CNT 36) 1
      else if (c.learnTaken rest).upd.lrnFilter.contains (x.mac, x.vlan, x.port) then (c.learnTaken rest).bump (Reg.LRN_CNT 4) 1
      else if (c.learnTaken rest).standby then c.learnTaken rest
      else (c.learnTaken rest).lrnWrite x :=
  (opLearnRequest_taken hq).trans (if_neg (by rw [he]; decide))

theorem opLearnRequest_formerGen (hg : (c.learnTaken rest).gen x.slice ≠ x.gen) :
    c.opLearnRequest = (c.learnTaken rest).bump (Reg.FLT_CNT 36) 1 :=
  (opLearnRequest_enabled hq he).trans (if_pos hg)

variable (hg : (c.learnTaken rest).gen x.slice = x.gen)
include hg

theorem opLearnRequest_filtered (hf : (c.learnTaken rest).upd.lrnFilter.contains (x.mac, x.vlan, x.port) = true) :
    c.opLearnRequest = (c.learnTaken rest).bump (Reg.LRN_CNT 4) 1 :=
  (opLearnRequest_enabled hq he).trans ((if_neg (Decidable.not_not.2 hg)).trans (if_pos hf))

variable (hf : (c.learnTaken rest).upd.lrnFilter.contains (x.mac, x.vlan, x.port) = false)
include hf

/-- A request of this generation that the filter does not hold is learnt, but not on a standby. -/
theorem opLearnRequest_new :
    c.opLearnRequest = if (c.learnTaken rest).standby then c.learnTaken rest else (c.learnTaken rest).lrnWrite x :=
  (opLearnRequest_enabled hq he).trans ((if_neg (Decidable.not_not.2 hg)).trans (if_neg (Bool.eq_false_iff.1 hf)))

theorem opLearnRequest_standby (hs : (c.learnTaken rest).standby = true) : c.opLearnRequest = c.learnTaken rest :=
  (opLearnRequest_new hq he hg hf).trans (if_pos hs)

theorem opLearnRequest_learns (hs : (c.learnTaken rest).standby = false) : c.opLearnRequest = (c.learnTaken rest).lrnWrite x :=
  (opLearnRequest_new hq he hg hf).trans (if_neg (Bool.eq_false_iff.1 hs))

end

/-! LEARN_TICK (R159): a tick ends the transaction of its changes, unless an earlier one waits for its flip. -/

section

/-- A new learn tick has begun, with an empty filter. -/
def ticked (c : Chip) : Chip :=
  { c with upd.lrnTickAt := c.now, upd.lrnPeriod := c.fld Reg.LRN_CFG Fd.LRN_CFG_TICK, upd.lrnFilter := [] }

/-- A learn slot waits for its flip. -/
def learnWaits (c : Chip) : Bool := (List.range 4).any (fun i => c.slotState (252 + i) == sClosed)

/-- The learn transaction has ended and asked for its flip, and slot t is the next one's. -/
def learnTurned (c : Chip) (t : Nat) : Chip :=
  ((((c.lrnMirror 4 0).lrnMirror 6 0).setSlot c.lrnSlot sClosed).requestFlip.setF Reg.LRN_STATUS Fd.LRN_STATUS_SLOT t).lrnOpen

variable (ht : c.upd.lrnTickAt + c.upd.lrnPeriod * usPs ≤ c.now)
include ht

theorem opLearnTick_keeps (h : c.upd.lrnChanges = 0 ∨ c.learnWaits = true) : c.opLearnTick = c.ticked :=
  (if_neg (Nat.not_lt.2 ht)).trans (if_pos h)

theorem opLearnTick_turns {t : Nat} (hc : c.upd.lrnChanges ≠ 0) (hw : c.learnWaits = false)
    (hn : c.ticked.lrnNext c.ticked.lrnSlot = some t) :
    c.opLearnTick = { c.ticked.learnTurned t with upd.lrnChanges := 0 } := by
  have goesOn : ¬ (c.ticked.upd.lrnChanges = 0 ∨ c.ticked.learnWaits = true) := not_or.2 ⟨hc, Bool.eq_false_iff.1 hw⟩
  refine (if_neg (Nat.not_lt.2 ht)).trans ((if_neg goesOn).trans ?_)
  unfold ticked at hn
  rw [hn]
  rfl

end

/-! AGING_PASS (R160). -/

/-- The MAC entries that age out: not static, not hit since the last pass, in use. -/
def agingDue (c : Chip) : List (Nat × BitVec 128) :=
  c.tbl.em.filter (fun x => emType x.2.toNat == 2 && !bitOf x.2.toNat 105 && x.1 / 32768 != c.emIdle && !mget noHit c.tbl.emHit x.1
    && c.live c.lrnSlot (tagOf 128 x.2.toNat))

theorem opAgingPass_due (ha : c.fld Reg.LRN_CFG Fd.LRN_CFG_AGE ≠ 0)
    (ht : c.upd.lrnAgeAt + c.fld Reg.LRN_CFG Fd.LRN_CFG_AGE * sPs ≤ c.now) (hs : c.standby = false) :
    c.opAgingPass = { c.agingDue.foldl (fun c x => c.ageOne x.2.toNat) c with tbl.emHit := [], upd.lrnAgeAt := c.now } := by
  have due : ¬ (c.fld Reg.LRN_CFG Fd.LRN_CFG_AGE = 0 ∨ c.now < c.upd.lrnAgeAt + c.fld Reg.LRN_CFG Fd.LRN_CFG_AGE * sPs
      ∨ c.standby = true) := by
    rintro (h | h | h)
    · exact ha h
    · exact Nat.not_lt.2 ht h
    · exact Bool.false_ne_true (hs.symm.trans h)
  exact if_neg due

/-! A rehash (R168). -/

theorem opRehashCopyDone_copied {r : Rehash} (h : c.upd.rehash = some r) (hd : r.done = false) :
    c.opRehashCopyDone = { c.requestFlip with upd.rehash := some { r with done := true } } := by
  simp only [opRehashCopyDone, h]
  exact if_neg (Bool.eq_false_iff.1 hd)

theorem opRehashCleanup_due {old t : Nat} (h : c.upd.cleanup = some (old, t)) (ht : t + 8 * usPs ≤ c.now) : c.opRehashCleanup
    = { ((c.emClear old).setF Reg.UPD_PART_SPARE Fd.UPD_PART_SPARE_PHYS old).setF Reg.UPD_STATUS Fd.UPD_STATUS_REHASH 0 with
        upd.cleanup := none } := by
  simp only [opRehashCleanup, h]
  exact if_pos ht

end Chip

open Chip

/-- Settles O11: command by command, one case of its operation for each clause. -/
theorem engineActs : Obligations.EngineActs := by
  unfold Obligations.EngineActs
  refine ⟨?closed, ?closeWaits, ?aborted, ?loaded, ?flip, ?sweepStart, ?swept, ?learnDisabled, ?learnFormer, ?learnFiltered,
    ?learnStandby, ?learnt, ?tickKeeps, ?tickTurns, ?aged, ?copied, ?cleaned⟩
  case closed => exact fun s slot w hw hb => runChip_eq (opCloseComplete_ends hw hb)
  case closeWaits => exact fun s slot hb => runChip_eq (opCloseComplete_backFull hb)
  case aborted => exact fun s slot h => runChip_eq (opAbortDone_frees h)
  case loaded => exact fun s l rest h => runChip_eq (opLoadComplete_oldest h)
  case flip => exact fun s => runChip_eq rfl
  case sweepStart => exact fun s slot h ht => runChip_eq (opSweepStart_due h ht)
  case swept => exact fun s slot h => runChip_eq (opSweepDone_frees h)
  case learnDisabled => exact fun s x rest hq he => runChip_eq (opLearnRequest_disabled hq he)
  case learnFormer => exact fun s x rest hq he hg => runChip_eq (opLearnRequest_formerGen hq he hg)
  case learnFiltered => exact fun s x rest hq he hg hf => runChip_eq (opLearnRequest_filtered hq he hg hf)
  case learnStandby => exact fun s x rest hq he hg hf hs => runChip_eq (opLearnRequest_standby hq he hg hf hs)
  case learnt => exact fun s x rest hq he hg hf hs => runChip_eq (opLearnRequest_learns hq he hg hf hs)
  case tickKeeps => exact fun s ht h => runChip_eq (opLearnTick_keeps ht h)
  case tickTurns => exact fun s t ht hc hw hn => runChip_eq (opLearnTick_turns ht hc hw hn)
  case aged => exact fun s ha ht hs => runChip_eq (opAgingPass_due ha ht hs)
  case copied => exact fun s r h hd => runChip_eq (opRehashCopyDone_copied h hd)
  case cleaned => exact fun s old t h ht => runChip_eq (opRehashCleanup_due h ht)

/-! The mailboxes of the tables and of a pattern engine. -/

namespace Chip

section
variable {c : Chip} {hits : List Hit} {args : List Nat}

/-! READ_RAW (R175). -/

/-- The store that READ_RAW names. -/
def rawStore (args : List Nat) : Nat := args.getD 1 0 % 8

/-- The table that READ_RAW names. -/
def rawTable (args : List Nat) : Nat := bitsOf (args.getD 1 0) 7 4

/-- READ_RAW names no table, or no store. -/
def rawNoTable (args : List Nat) : Prop := rawTable args = 6 ∨ rawTable args = 7 ∨ 12 ≤ rawTable args ∨ 5 ≤ rawStore args

section
variable {loc : Loc} {e : Nat} {hit : Bool} (ht : ¬ rawNoTable args) (hd : c.domOn (89 + rawStore args) = true)
  (hr : (c.asStore (rawStore args)).rawAt (rawTable args) (rawStore args) (args.getD 2 0) = some (loc, e, hit))
include ht hd hr

theorem readRawAct_named : readRawAct hits args c
    = if ((c.strike hits).readLoc loc).2 ≠ 0 then (((c.strike hits).readLoc loc).1, some (4, []))
      else (((c.strike hits).readLoc loc).1,
        some (0, probeData (rawStore args) (rawTable args) ⟨hit, args.getD 2 0, 0, e, 0, 0⟩)) := by
  have on : ¬ (!c.domOn (89 + rawStore args)) = true := by rw [hd]; decide
  refine (if_neg ht).trans ((if_neg on).trans ?_)
  unfold rawStore rawTable at hr
  rw [hr]
  rfl

theorem readRawAct_reads (h : ((c.strike hits).readLoc loc).2 = 0) : readRawAct hits args c
    = (((c.strike hits).readLoc loc).1, some (0, probeData (rawStore args) (rawTable args) ⟨hit, args.getD 2 0, 0, e, 0, 0⟩)) :=
  (readRawAct_named ht hd hr).trans (if_neg (Decidable.not_not.2 h))

theorem readRawAct_uncorrectable (h : ((c.strike hits).readLoc loc).2 ≠ 0) :
    readRawAct hits args c = (((c.strike hits).readLoc loc).1, some (4, [])) :=
  (readRawAct_named ht hd hr).trans (if_pos h)

end

/-! REHASH (R164, R168). -/

/-- The spare partition, into which a rehash copies. -/
def sparePart (c : Chip) : Nat := c.fld Reg.UPD_PART_SPARE Fd.UPD_PART_SPARE_PHYS

/-- Seed i of a rehash: the one given, or one that follows from the old. -/
def rehashSeed (c : Chip) (args : List Nat) (i : Nat) : Nat :=
  if args.getD 3 0 = 0 ∧ args.getD 4 0 = 0 then (c.rd (Reg.UPD_SEED (c.emPhys (args.getD 2 0)) i) + 0x9E3779B9) % 2 ^ 32
  else args.getD (3 + i) 0

/-- The spare partition has its new seeds. -/
def reseeded (c : Chip) (args : List Nat) : Chip :=
  (c.wrN (Reg.UPD_SEED c.sparePart 0) (c.rehashSeed args 0)).wrN (Reg.UPD_SEED c.sparePart 1) (c.rehashSeed args 1)

theorem rehashAct_copies {c2 : Chip} (hp : args.getD 2 0 < 64) (hr : c.upd.rehash.isSome = false) (hl : c.upd.cleanup.isSome = false)
    (hc : (c.reseeded args).emCopy (c.emPhys (args.getD 2 0)) c.sparePart = some c2) : rehashAct args c
    = ({ c2.setF Reg.UPD_STATUS Fd.UPD_STATUS_REHASH 1 with upd.rehash := some ⟨args.getD 2 0, c.sparePart, false⟩ }, none) := by
  have free : ¬ (c.upd.rehash.isSome || c.upd.cleanup.isSome) = true := by rw [hr, hl]; decide
  refine (if_neg (Nat.not_le.2 hp)).trans ((if_neg free).trans ?_)
  unfold reseeded rehashSeed sparePart at hc
  dsimp only
  rw [hc]
  rfl

theorem rehashAct_noPartition (h : 64 ≤ args.getD 2 0) : rehashAct args c = (c, some (1, [])) := if_pos h

/-! SCAN_TEST and READ_RULE (R201 to R203). -/

section
variable {n : Nat}

/-- Engine n holds a set in a region. -/
def regionValid (c : Chip) (n region : Nat) : Bool := bitOf (c.fld (Reg.PAT_STATUS n) Fd.PAT_STATUS_VALID) region

/-- The region that SCAN_TEST names. -/
def testRegion (c : Chip) (n : Nat) (args : List Nat) : Nat := c.patArgRegion n (args.getD 0 0)

/-- The scan of the test bytes. -/
def testScan (c : Chip) (hits : List Hit) (n : Nat) (args : List Nat) : Chip × Bool × Option PatHit :=
  (c.strike hits).scan n (c.testRegion n args) (args.getD 0 0 % 65536) (bitOf (args.getD 0 0) 16) (c.patInput n (args.getD 1 0))

/-- The result words of a match. -/
def matchData (h : PatHit) : List Nat := [2 ^ 31 + h.addr, h.last * 2 ^ 16 + h.prio, 0, 0]

theorem scanTestAct_scans {r : Chip × Bool × Option PatHit} (hl : ¬ (args.getD 1 0 = 0 ∨ 256 < args.getD 1 0))
    (hd : c.domOn (108 + n) = true) (hv : c.regionValid n (c.testRegion n args) = true) (hr : c.testScan hits n args = r) :
    scanTestAct hits n args c
      = (r.1, if r.2.1 then some (4, []) else r.2.2.elim (some (0, [0, 0, 0, 0])) (fun h => some (0, matchData h))) := by
  have on : ¬ (!c.domOn (108 + n)) = true := by rw [hd]; decide
  have valid : ¬ (!c.regionValid n (c.testRegion n args)) = true := by rw [hv]; decide
  refine (if_neg hl).trans ((if_neg on).trans ((if_neg valid).trans ?_))
  unfold testScan testRegion at hr
  rw [hr, apply_ite (Prod.mk r.1)]
  obtain ⟨c1, bad, best⟩ := r
  cases best <;> rfl

/-- The region that READ_RULE names. -/
def ruleRegion (args : List Nat) : Nat := bitsOf (args.getD 0 0) 17 17

/-- The first word of the rule that READ_RULE names. -/
def ruleWord (c : Chip) (n : Nat) (args : List Nat) : Nat := c.patBase n (ruleRegion args) + 8 + 2 * args.getD 1 0

/-- The read of the two words of a rule. -/
def ruleRead (c : Chip) (hits : List Hit) (n : Nat) (args : List Nat) : Chip × Nat :=
  (c.strike hits).readLocs [⟨5, n, c.ruleWord n args⟩, ⟨5, n, c.ruleWord n args + 1⟩]

/-- The four result words of a rule, as it is stored. -/
def ruleData (c : Chip) (n : Nat) (args : List Nat) : List Nat :=
  (List.range 4).map (fun i => c.patRule n (ruleRegion args) (args.getD 1 0) (c.patFlips n (ruleRegion args)) / 2 ^ (32 * i) % 2 ^ 32)

theorem readRuleAct_reads (hl : args.getD 1 0 < 16384) (hd : c.domOn (108 + n) = true)
    (hv : c.regionValid n (ruleRegion args) = true) : readRuleAct hits n args c
    = ((c.ruleRead hits n args).1,
      if (c.ruleRead hits n args).2 ≠ 0 then some (4, []) else some (0, (c.ruleRead hits n args).1.ruleData n args)) := by
  have on : ¬ (!c.domOn (108 + n)) = true := by rw [hd]; decide
  have valid : ¬ (!c.regionValid n (ruleRegion args)) = true := by rw [hv]; decide
  rw [apply_ite (Prod.mk (c.ruleRead hits n args).1)]
  exact (if_neg (Nat.not_le.2 hl)).trans ((if_neg on).trans (if_neg valid))

end

end

end Chip

open Chip

/-- A mailbox command that is taken ends with what its operation answers. -/
theorem runChip_mbx {s : State} {rq : Req} {tag : BitVec 16} {m : Mbx} {op : Nat} {c : Chip} {r : Option (Nat × List Nat)}
    {act : Chip → List Nat → Chip × Option (Nat × List Nat)} (h : s.chip.mbxStarts rq m op = true)
    (e : act (s.chip.pendingIn m) (s.chip.mbxArgs m) = (c, r)) :
    runChip s (fun c => c.mbxRun rq tag m op act) = .next (s.withChip (c.mbxTaken m tag op (s.chip.mbxArgs m) r)) :=
  runChip_eq (mbxRun_eq _ _ _ _ _ _ _ _ h e)

/-- Settles O12: operation by operation, one case for each clause. -/
theorem tableMailboxActs : Obligations.TableMailboxActs := by
  unfold Obligations.TableMailboxActs
  refine ⟨?probed, ?probeRefused, ?rawRead, ?rawUncorrectable, ?rehashed, ?noPartition, ?scanned, ?ruleRead⟩
  case probed => exact fun s rq tag hits h hc => runChip_mbx h (probeAct_manager hc)
  case probeRefused => exact fun s rq tag hits h hc => runChip_mbx h (probeAct_refused hc)
  case rawRead => exact fun s rq tag hits loc e hit h ht hd hr hl => runChip_mbx h (readRawAct_reads ht hd hr hl)
  case rawUncorrectable =>
    exact fun s rq tag hits loc e hit h ht hd hr hl => runChip_mbx h (readRawAct_uncorrectable ht hd hr hl)
  case rehashed => exact fun s rq tag c2 h hp hr hl hc => runChip_mbx h (rehashAct_copies hp hr hl hc)
  case noPartition => exact fun s rq tag h hp => runChip_mbx h (rehashAct_noPartition hp)
  case scanned => exact fun s rq tag engine hits h hl hd hv => runChip_mbx h (scanTestAct_scans hl hd hv rfl)
  case ruleRead => exact fun s rq tag engine hits h hl hd hv => runChip_mbx h (readRuleAct_reads hl hd hv)

end Sys2Proof.Machine
end

section
/-!
PROOFS. What the field book's commands do: the write of a record (R221 to R223) and READ_RECORD (R224); from that O14.
-/

namespace Sys2Proof.Machine

namespace Chip

section
variable {c c1 : Chip} {m : Store} {ue : Bool} {accs : List MemAcc} {x : Capture} {l : List Capture}

/-- The oldest record has left the staging queue, and l stays in it. -/
def unstaged (c : Chip) (l : List Capture) : Chip := { c with fbk.staged := l }

/-- The number that the next record of a ring gets (R222). -/
def nextRecord (c : Chip) (r : Nat) : Nat := c.rd (Reg.FBK_RING_PROD r)

theorem opFbkRecordWrite_refused (h : c.fbk.staged = x :: l) (hr : (c.unstaged l).fbkRefuses x.ring = true) :
    opFbkRecordWrite ue accs m c = (m, (c.unstaged l).bump (Reg.FBK_RING_CNT x.ring 1) 1) := by
  unfold opFbkRecordWrite
  rw [h]
  exact if_pos hr

section
variable (h : c.fbk.staged = x :: l) (hr : (c.unstaged l).fbkRefuses x.ring = false)
include h hr

/-- A record that its ring accepts: lost where its memory does not answer or has an uncorrectable error (R223). -/
theorem opFbkRecordWrite_accepted {ad : Option Nat}
    (ha : ((c.unstaged l).fbkReqs x.ring accs).fbkAccess x.ring ((c.unstaged l).nextRecord x.ring) true = (c1, ad)) :
    opFbkRecordWrite ue accs m c = ad.elim (m, c1.bump (Reg.FBK_CNT 3) 1) (fun a =>
      if ue then (m, c1.bump (Reg.FBK_CNT 3) 1)
      else (m.wr a (leBytes 4 ((c.unstaged l).nextRecord x.ring) ++ x.bytes), c1.fbkWritten x.ring)) := by
  unfold unstaged at hr
  unfold unstaged nextRecord at ha
  simp only [opFbkRecordWrite, h, hr, ha, Bool.false_eq_true, if_false]
  cases ad <;> rfl

theorem opFbkRecordWrite_written {ad : Nat}
    (ha : ((c.unstaged l).fbkReqs x.ring accs).fbkAccess x.ring ((c.unstaged l).nextRecord x.ring) true = (c1, some ad)) :
    opFbkRecordWrite false accs m c
      = (m.wr ad (leBytes 4 ((c.unstaged l).nextRecord x.ring) ++ x.bytes), c1.fbkWritten x.ring) :=
  opFbkRecordWrite_accepted h hr ha

theorem opFbkRecordWrite_noMemory
    (ha : ((c.unstaged l).fbkReqs x.ring accs).fbkAccess x.ring ((c.unstaged l).nextRecord x.ring) true = (c1, none)) :
    opFbkRecordWrite ue accs m c = (m, c1.bump (Reg.FBK_CNT 3) 1) :=
  opFbkRecordWrite_accepted h hr ha

end

/-- Where no owner is asked for, every ring may be read. -/
theorem mayRead_any (c : Chip) (r : Nat) : c.mayRead none r := nofun

end

end Chip

open Chip

/-- READ_RECORD that is taken ends with what its operation answers. -/
theorem exec_readRecord {s : State} {rq : Req} {tag : BitVec 16} {bad : List (Fin 5)} {c : Chip} {r : Option (Nat × List Nat)}
    (h : s.chip.mbxStarts rq .fbk 1 = true)
    (e : actReadRecord none bad s.store (s.chip.pendingIn .fbk) (s.chip.mbxArgs .fbk) = (c, r)) :
    exec (.readRecord rq tag bad) s = .next (s.withChip (c.mbxTaken .fbk tag 1 (s.chip.mbxArgs .fbk) r)) :=
  runRead_eq (mbxRun_eq _ _ _ _ _ _ _ _ h e)

/-- Settles O14: the three ends of a record's write, and the read of a record that its ring holds. -/
theorem fieldBookActs : Obligations.FieldBookActs := by
  unfold Obligations.FieldBookActs
  refine ⟨?refused, ?written, ?noMemory, ?recordRead⟩
  case refused => exact fun s ue accs x l h hr => runBoth_eq_withChip (opFbkRecordWrite_refused h hr)
  case written => exact fun s accs x l c ad h hr ha => runBoth_eq (opFbkRecordWrite_written h hr ha)
  case noMemory => exact fun s ue accs x l c h hr ha => runBoth_eq_withChip (opFbkRecordWrite_noMemory h hr ha)
  case recordRead =>
    exact fun s rq tag c ad h hr he hh ho ha => exec_readRecord h (actReadRecord_found hr (mayRead_any _ _) he hh ho ha)

end Sys2Proof.Machine
end

section
/-!
PROOFS. The packet buffers: records in HBM (R238, R239, R278, R287), extension pools (R242 to R244), CELL_INFO (R244) and the leak
audit (R246): each command case by case, and from that O9.
-/

namespace Sys2Proof.Machine

namespace Chip

/-! SPILL_WRITE_COMPLETE (R238, R241, R278): the oldest marked copy x of queue i becomes a record at the end of the queue's chain. -/

/-- The pages that the record needs beside what is left of the last page of the chain. -/
def recordPages (c : Chip) (i : Nat) (x : Copy) : Nat :=
  ceilDiv (spillLen x.len - (if (c.q i).pages.isEmpty then 0 else pageBytes - (c.q i).tail)) pageBytes

/-- Offset in the chain of the end of the record. -/
def recordEnd (c : Chip) (i : Nat) (x : Copy) : Nat :=
  pageBytes * ((c.q i).pages.length - 1) + (c.q i).tail + spillLen x.len

/-- The chip that has read the copy's cells, and whether one of them is poisoned. -/
def spillRead (c : Chip) (accs : List MemAcc) (x : Copy) : Chip × Bool := (c.memAccs 2 true accs).readCells (c.copyCells x)

/-- The chip e after it has taken the pages that the record needs on c, and those pages. -/
def recordChain (c e : Chip) (i : Nat) (x : Copy) : Chip × List Nat :=
  takePages (c.recordPages i x) e i (e.ownerOf 0x13 x.parcel) []

/-- The pages taken in t follow those of queue i's chain on c, and the chain ends with the record. -/
def chained (c : Chip) (t : Chip × List Nat) (i : Nat) (x : Copy) : Chip :=
  t.1.setQ i { t.1.q i with
    pages := (c.q i).pages ++ t.2, tail := c.recordEnd i x - pageBytes * (((c.q i).pages ++ t.2).length - 1) }

/-- The record of len bytes at offset o of queue i's chain is written: the caps hold the next one, and its words are marked no more. -/
def recordWritten (c : Chip) (i o len : Nat) : Chip :=
  { c with hbm.spillAt := c.capAfter c.hbm.spillAt Fd.MEM_SPILL_CAP_WR_GBPS o len,
           hbm.badWords := c.hbm.badWords.filter (fun w => c.markIn i o len w == 0) }

/-- The copy x as a record with the bytes b. -/
def asRecord (x : Copy) (b : List Byte) (bad : Bool) : Copy :=
  { x with head := b, headCells := [], chain := 0, bodyOff := 0, bodyLen := 0, place := .hbm, poisoned := x.poisoned || bad }

/-- The copy x has become a record. -/
def spilled (c : Chip) (i : Nat) (accs : List MemAcc) (x : Copy) : Chip :=
  let e := c.spillRead accs x
  let c1 := (c.chained (c.recordChain e.1 i x) i x).recordWritten i (c.recordEnd i x - spillLen x.len) (spillLen x.len)
  ((((c1.setCopy x (asRecord x (e.1.copyBytes x) e.2)).freeCells x.headCells).releaseRef x.chain).bump (Reg.BPM_CNT 6) 1).memTouched 1

/-- The copy x is dropped, because no page is free for its record. -/
def spillDropped (c : Chip) (x : Copy) : Chip :=
  (((c.delCopy x).bump (Reg.BPM_CNT 5) 1).countDrop x.slice 0x82).releaseCopy x

section
variable {c : Chip} {i : Nat} {accs : List MemAcc} {x : Copy}
  (hx : c.oldestAt i .marked = some x) (hm : (List.range 4).all c.memUp = true)
include hx hm

/-- A copy that a cap holds waits (R278, log 141). -/
theorem opSpillWriteComplete_held (hc : c.capAdmits c.hbm.spillAt Fd.MEM_SPILL_CAP_WR_GBPS = false) :
    c.opSpillWriteComplete i accs = c := by
  simp only [opSpillWriteComplete, hx, hm, hc]
  rfl

variable (hc : c.capAdmits c.hbm.spillAt Fd.MEM_SPILL_CAP_WR_GBPS = true)
include hc

theorem opSpillWriteComplete_admitted : c.opSpillWriteComplete i accs
    = if c.pagesFree < c.recordPages i x then c.spillDropped x else c.spilled i accs x := by
  simp only [opSpillWriteComplete, hx, hm, hc]
  rfl

theorem opSpillWriteComplete_drops (hp : c.pagesFree < c.recordPages i x) : c.opSpillWriteComplete i accs = c.spillDropped x :=
  (opSpillWriteComplete_admitted hx hm hc).trans (if_pos hp)

theorem opSpillWriteComplete_spills (hp : c.recordPages i x ≤ c.pagesFree) : c.opSpillWriteComplete i accs = c.spilled i accs x :=
  (opSpillWriteComplete_admitted hx hm hc).trans (if_neg (Nat.not_lt.2 hp))

end

/-! READBACK (R239, R278, R287) of the oldest record x of queue i. -/

/-- Controller and rank of each uncorrectable access of the record's queue descriptor and page headers. -/
def descBad (c : Chip) (i : Nat) (desc : DescErrs) (x : Copy) : List (Nat × Nat) :=
  desc.both.map (fun y => (y.1.val, y.2.val)) ++ (c.marksIn i (c.recordAt i) (spillLen x.len) 2).map (fun w => (w.1, w.2.1))

/-- Controller and rank of each uncorrectable access of the record's data. -/
def dataBad (c : Chip) (i : Nat) (errs : List (Fin 4 × Fin 128)) (x : Copy) : List (Nat × Nat) :=
  errs.map (fun y => (y.1.val, y.2.val)) ++ (c.marksIn i (c.recordAt i) (spillLen x.len) 1).map (fun w => (w.1, w.2.1))

/-- The record has been read: the caps hold the next one, its accesses are made, and each rank has counted its errors. -/
def recordRead (c : Chip) (i : Nat) (errs : List (Fin 4 × Fin 128)) (desc : DescErrs) (accs : List MemAcc) (x : Copy) : Chip :=
  (c.descBad i desc x ++ c.dataBad i errs x).foldl (fun c y => c.rankUe y.1 y.2)
    (((({ c with hbm.fillAt := c.capAfter c.hbm.fillAt Fd.MEM_SPILL_CAP_RD_GBPS (c.recordAt i) (spillLen x.len) } : Chip).memAccs
      1 false accs).memTouched 0).ranksUe desc.half)

/-- Every record of queue i is lost, because the chain broke at controller k. -/
def loseChain (c : Chip) (i k : Nat) : Chip :=
  ((c.qCopies i).filter (fun z => decide (z.place = .hbm))).foldl (loseRecord k) c

/-- The record x is lost, because its data at controller k is uncorrectable. -/
def loseData (c : Chip) (k : Nat) (x : Copy) : Chip :=
  (((c.bump (Reg.MEM_CNT k 12) 1).delCopy x).countDrop x.slice 0xB0).releaseCopy x

/-- The cells that the record x goes to, and the chip that has taken them. -/
def refillCells (c : Chip) (x : Copy) : Chip × List Nat := c.allocCells (cellsOf x.len) 3 (c.ownerOf 0x13 x.parcel)

/-- The record x of queue i stands in the cells a.2 that the chip a.1 has taken. -/
def refilled (a : Chip × List Nat) (i : Nat) (x : Copy) : Chip :=
  (((a.1.setCopy x { x with place := .refill, refill := a.2 }).bump (Reg.BPM_CNT 7) 1).trimPages i).settleSpill i

/-- A read record goes on by its errors: first those that break the chain, then those of its data; with none it takes its cells, or
waits for them. -/
def readEnds (c : Chip) (i : Nat) (errs : List (Fin 4 × Fin 128)) (desc : DescErrs) (accs : List MemAcc) (x : Copy) : Chip :=
  match c.descBad i desc x, c.dataBad i errs x with
  | y :: _, _ => (c.recordRead i errs desc accs x).loseChain i y.1
  | [], y :: _ => (c.recordRead i errs desc accs x).loseData y.1 x
  | [], [] =>
    if ((c.recordRead i errs desc accs x).refillCells x).2.length < cellsOf x.len then c
    else refilled ((c.recordRead i errs desc accs x).refillCells x) i x

/-- Queue i has fewer cells on the die than the mark of its spill profile, under which it reads back (R239). -/
def readsBack (c : Chip) (i : Nat) : Prop :=
  c.dieDepth i < c.fld (Reg.BPM_SPILL_PROF (c.fld (Reg.TM_Q_CFG1 i) Fd.TM_Q_CFG1_SPILL_PROF)) Fd.BPM_SPILL_PROF_SPILL_ON

section
variable {c : Chip} {i : Nat} {errs : List (Fin 4 × Fin 128)} {desc : DescErrs} {accs : List MemAcc} {x : Copy}
  (hx : c.oldestAt i .hbm = some x) (hm : (List.range 4).all c.memUp = true)
  (hc : c.capAdmits c.hbm.fillAt Fd.MEM_SPILL_CAP_RD_GBPS = true) (hr : c.refillUsed i + cellsOf x.len ≤ (c.q i).claim)
  (hd : c.readsBack i)
include hx hm hc hr hd

/-- A record that nothing holds is lost where a rank under it is fenced, and else goes on by the errors of its read. -/
theorem opReadback_admitted : c.opReadback i errs desc accs
    = (c.recordFenced i (c.recordAt i) (spillLen x.len)).elim (c.readEnds i errs desc accs x) (fun k => loseRecord k c x) := by
  unfold readsBack at hd
  simp only [opReadback, hx, hm, hc, decide_eq_false (Nat.not_lt.2 hr), decide_eq_false (Nat.not_le.2 hd)]
  cases c.recordFenced i (c.recordAt i) (spillLen x.len) <;> rfl

theorem opReadback_fenced {k : Nat} (hf : c.recordFenced i (c.recordAt i) (spillLen x.len) = some k) :
    c.opReadback i errs desc accs = loseRecord k c x := by
  rw [opReadback_admitted hx hm hc hr hd, hf]
  rfl

variable (hf : c.recordFenced i (c.recordAt i) (spillLen x.len) = none)
include hf

theorem opReadback_reads : c.opReadback i errs desc accs = c.readEnds i errs desc accs x := by
  rw [opReadback_admitted hx hm hc hr hd, hf]
  rfl

theorem opReadback_chainLost {y : Nat × Nat} {l : List (Nat × Nat)} (hb : c.descBad i desc x = y :: l) :
    c.opReadback i errs desc accs = (c.recordRead i errs desc accs x).loseChain i y.1 := by
  rw [opReadback_reads hx hm hc hr hd hf, readEnds, hb]

variable (hb : c.descBad i desc x = [])
include hb

theorem opReadback_dataLost {y : Nat × Nat} {l : List (Nat × Nat)} (he : c.dataBad i errs x = y :: l) :
    c.opReadback i errs desc accs = (c.recordRead i errs desc accs x).loseData y.1 x := by
  rw [opReadback_reads hx hm hc hr hd hf, readEnds, hb, he]

theorem opReadback_refills (he : c.dataBad i errs x = [])
    (ha : cellsOf x.len ≤ ((c.recordRead i errs desc accs x).refillCells x).2.length) :
    c.opReadback i errs desc accs = refilled ((c.recordRead i errs desc accs x).refillCells x) i x := by
  rw [opReadback_reads hx hm hc hr hd hf, readEnds, hb, he]
  exact if_neg (Nat.not_lt.2 ha)

end

/-! POOL_INIT and POOL_INIT_DONE (R242, R243). -/

/-- The leaf words of the enabled pools other than k. -/
def otherLeaves (c : Chip) (k : Nat) : Nat :=
  (List.range 16).foldl (fun t j => if j ≠ k ∧ c.on (Reg.BPM_XP_CFG j) Fd.BPM_XP_CFG_EN then t + c.poolLeaves j else t) 0

/-- Every leaf word of pool k is written as ones. -/
def leavesFilled (c : Chip) (k : Nat) (m : Store) : Store × Chip × Bool :=
  poolFill k 8 (2 ^ 64 - 1) ((List.range (c.poolLeaves k)).map (c.leafAddr k)) m c

/-- After the leaf words, every audit record of pool k is written as zero. -/
def auditsFilled (c : Chip) (k : Nat) (m : Store) : Store × Chip × Bool :=
  poolFill k 2 0 ((List.range (64 * c.poolLeaves k)).map (c.auditAddr k)) (c.leavesFilled k m).1 (c.leavesFilled k m).2.1

/-- Pool k is ready, with n buffers, all of them free. -/
def poolOpened (c : Chip) (k n : Nat) : Chip :=
  let c1 := (c.wrN (Reg.BPM_XP_FREE k) n).setF (Reg.BPM_XP_STATUS k) Fd.BPM_XP_STATUS_READY 1
  { c1 with bpm.xfull := c1.bpm.xfull.filter (fun x => x.1 != k) }

section
variable {c : Chip} {k : Nat} {m : Store} {rq : Req}

section
variable (he : c.on (Reg.BPM_XP_CFG k) Fd.BPM_XP_CFG_EN = false)
include he

theorem poolEnable_starts (hl : ¬ (c.poolLeaves k = 0 ∨ 67108864 < c.otherLeaves k + c.poolLeaves k)) : c.poolEnable rq k
    = (c.setF (Reg.BPM_XP_CFG k) Fd.BPM_XP_CFG_EN 1).setF (Reg.BPM_XP_STATUS k) Fd.BPM_XP_STATUS_READY 0 :=
  (if_neg (Bool.eq_false_iff.1 he)).trans (if_neg hl)

theorem poolEnable_refused (hl : c.poolLeaves k = 0 ∨ 67108864 < c.otherLeaves k + c.poolLeaves k) :
    c.poolEnable rq k = c.err rq errBadValue (Reg.BPM_XP_CFG k) :=
  (if_neg (Bool.eq_false_iff.1 he)).trans (if_pos hl)

end

variable (he : c.on (Reg.BPM_XP_CFG k) Fd.BPM_XP_CFG_EN = true)
  (hr : c.on (Reg.BPM_XP_STATUS k) Fd.BPM_XP_STATUS_READY = false)
include he hr

theorem opPoolInitDone_fills : opPoolInitDone k m c
    = if (c.leavesFilled k m).2.2 && (c.auditsFilled k m).2.2 then
        ((c.auditsFilled k m).1, (c.auditsFilled k m).2.1.poolOpened k (64 * c.poolLeaves k))
      else ((c.auditsFilled k m).1, (c.auditsFilled k m).2.1) :=
  if_pos (by rw [he, hr]; rfl)

theorem opPoolInitDone_opens (h : ((c.leavesFilled k m).2.2 && (c.auditsFilled k m).2.2) = true) :
    opPoolInitDone k m c = ((c.auditsFilled k m).1, (c.auditsFilled k m).2.1.poolOpened k (64 * c.poolLeaves k)) :=
  (opPoolInitDone_fills he hr).trans (if_pos h)

/-- A pool part of whose memory cannot be reached is not ready (log 41). -/
theorem opPoolInitDone_unreached (h : ((c.leavesFilled k m).2.2 && (c.auditsFilled k m).2.2) = false) :
    opPoolInitDone k m c = ((c.auditsFilled k m).1, (c.auditsFilled k m).2.1) :=
  (opPoolInitDone_fills he hr).trans (if_neg (Bool.eq_false_iff.1 h))

end

/-! XALLOC and XFREE (R244), on the chip c whose pool is k; c1 is the chip that has read the leaf word v. -/

/-- Buffer j of leaf word w is taken: the word loses its bit, and the audit record gets the owner. -/
def bufferTaken (c c1 : Chip) (m : Store) (mb k w v j : Nat) : Store × Chip :=
  let l := c1.setLeaf m k w (setBit v j false)
  l.2.poolWrite l.1 k (c.auditAddr k (64 * w + j)) 2 (c.poolOwner mb k * 256)

/-- Owner o has one extension buffer more, and pool k one free buffer less. -/
def countTaken (c : Chip) (k o : Nat) : Chip :=
  (c.ownUp o 2 1).wrN (Reg.BPM_XP_FREE k) (c.rd (Reg.BPM_XP_FREE k) + (2 ^ 32 - 1))

/-- Owner o has one extension buffer less, and pool k one free buffer more. -/
def countReturned (c : Chip) (k o : Nat) : Chip :=
  (c.ownDown o 2 1).wrN (Reg.BPM_XP_FREE k) (c.rd (Reg.BPM_XP_FREE k) + 1)

/-- Code 0, the address of buffer i of pool k in two words, and i. -/
def bufferAnswer (c : Chip) (k i : Nat) : Nat × List Nat :=
  let ad := c.poolBuf k + i * (4096 * 2 ^ c.fld (Reg.BPM_XP_CFG k) Fd.BPM_XP_CFG_SIZE)
  (0, [ad % 2 ^ 32, ad / 2 ^ 32 % 2 ^ 20, i])

section
variable {c c1 : Chip} {m : Store} {args : List Nat} {v : Nat}
  (hk : args.getD 0 0 < 16) (hr : c.poolReady (args.getD 0 0) = true) (hu : c.xmUp (c.poolPort (args.getD 0 0)) = true)
include hk hr hu

theorem actXalloc_takes {mb w j : Nat} (hw : c.freeLeaf (args.getD 0 0) = some w)
    (hv : c.poolRead m (args.getD 0 0) (c.leafAddr (args.getD 0 0) w) 8 = (c1, some v)) (hj : (List.range 64).find? (bitOf v) = some j) :
    actXalloc mb false args m c
      = ((c.bufferTaken c1 m mb (args.getD 0 0) w v j).1,
          (c.bufferTaken c1 m mb (args.getD 0 0) w v j).2.countTaken (args.getD 0 0) (c.poolOwner mb (args.getD 0 0)),
          c.bufferAnswer (args.getD 0 0) (64 * w + j)) := by
  simp only [actXalloc, if_neg (Nat.not_le.2 hk), hr, hu, hw, hv, hj]
  rfl

theorem actXfree_returns {c2 : Chip} {rec16 : Nat} (hi : args.getD 1 0 < 64 * c.poolLeaves (args.getD 0 0))
    (hv : c.poolRead m (args.getD 0 0) (c.leafAddr (args.getD 0 0) (args.getD 1 0 / 64)) 8 = (c1, some v))
    (hb : bitOf v (args.getD 1 0 % 64) = false)
    (ha : c1.poolRead m (args.getD 0 0) (c.auditAddr (args.getD 0 0) (args.getD 1 0)) 2 = (c2, some rec16)) :
    actXfree false args m c
      = ((c2.setLeaf m (args.getD 0 0) (args.getD 1 0 / 64) (setBit v (args.getD 1 0 % 64) true)).1,
          (c2.setLeaf m (args.getD 0 0) (args.getD 1 0 / 64) (setBit v (args.getD 1 0 % 64) true)).2.countReturned (args.getD 0 0)
            (rec16 / 256 % 256),
          (0, [])) := by
  have inPool : ¬ ((!c.poolReady (args.getD 0 0)) = true ∨ 64 * c.poolLeaves (args.getD 0 0) ≤ args.getD 1 0) :=
    not_or.2 ⟨by rw [hr]; decide, Nat.not_le.2 hi⟩
  simp only [actXfree, if_neg (Nat.not_le.2 hk), if_neg inPool, hu, hv, hb, ha]
  rfl

end

/-! CELL_INFO (R244). -/

section
variable {c : Chip} {args : List Nat}

theorem actCellInfo_inUse (hi : args.getD 0 0 < 524288) (hk : (c.cell (args.getD 0 0)).kind ≠ 0) : c.actCellInfo args
    = (c, some (0, [(c.cell (args.getD 0 0)).age * 2 ^ 27 + (c.cell (args.getD 0 0)).owner * 2 ^ 19 + (c.cell (args.getD 0 0)).next,
        (Config.cellKindCode (c.cell (args.getD 0 0)).kind).toNat * 2 ^ 16 + (c.chain (args.getD 0 0)).refs])) :=
  (if_neg (Nat.not_le.2 hi)).trans (if_neg hk)

theorem actCellInfo_free (hi : args.getD 0 0 < 524288) (hk : (c.cell (args.getD 0 0)).kind = 0) : c.actCellInfo args
    = (c.tick, some (0, [2 ^ 31 + c.free.toNat % 2 ^ 31, (Config.cellKindCode 0).toNat * 2 ^ 16])) :=
  (if_neg (Nat.not_le.2 hi)).trans (if_pos hk)

theorem actCellInfo_noCell (hi : 524288 ≤ args.getD 0 0) : c.actCellInfo args = (c, some (1, [])) := if_pos hi

end

/-! AUDIT_PASS (R246, R247). -/

/-- The cells, those in use older by one visit. -/
def agedCells (c : Chip) : NMap Cell := c.bpm.cells.map (fun x => if x.2.kind = 4 then x else (x.1, { x.2 with age := older x.2.age }))

/-- The packet pages, those in use older by one visit. -/
def agedPages (c : Chip) : NMap Page := c.bpm.pages.map (fun x => if x.2.kind = 1 then (x.1, { x.2 with age := older x.2.age }) else x)

/-- The visits of cells and packet pages. -/
def dieVisits (c : Chip) : List Visit :=
  (c.agedCells.filter (fun x => x.2.kind != 4)).map (fun x => (⟨1, 0, x.1, x.2.owner, x.2.age⟩ : Visit))
    ++ (c.agedPages.filter (fun x => x.2.kind == 1)).map (fun x => (⟨2, 0, x.1, x.2.owner, x.2.age⟩ : Visit))

/-- The cells and pages are older by one visit; the visit of a page in use reads its header in HBM. -/
def allAged (c : Chip) : Chip :=
  { (if c.agedPages.any (fun x => x.2.kind == 1) then c.memTouched 0 else c) with bpm.cells := c.agedCells, bpm.pages := c.agedPages }

/-- What the visits of all pools leave, and all visits of the pass. -/
def poolVisits (c : Chip) (m : Store) : Store × Chip × List Visit := (List.range 16).foldl visitPool (m, c.allAged, c.dieVisits)

theorem opAuditPass_due {c : Chip} {m : Store} (he : c.on Reg.BPM_AUDIT_CFG Fd.BPM_AUDIT_CFG_EN = true)
    (ht : c.bpm.auditAt + c.fld Reg.BPM_AUDIT_CFG Fd.BPM_AUDIT_CFG_PERIOD * msPs ≤ c.now) : opAuditPass m c
      = ((c.poolVisits m).1,
          (((List.range 256).foldl (auditOwner (c.poolVisits m).2.2) (c.poolVisits m).2.1).bump (Reg.BPM_CNT 12) 1).auditDone) :=
  if_pos (by rw [he, decide_eq_true ht]; rfl)

end Chip

open Chip

/-- A BPM mailbox operation that is taken ends with what it answers. -/
theorem runBoth_poolCmd {s : State} {rq : Req} {tag : BitVec 16} {mb : Fin 2} {op : Nat} {m : Store} {c : Chip} {r : Nat × List Nat}
    {act : List Nat → Store → Chip → Store × Chip × (Nat × List Nat)} (h : s.chip.mbxStarts rq (.bpm mb) op = true)
    (e : act (s.chip.mbxArgs (.bpm mb)) s.store (s.chip.pendingIn (.bpm mb)) = (m, c, r)) :
    runBoth s (fun m c => poolCmd rq tag mb op m c act)
      = .next (s.withBoth m (c.mbxTaken (.bpm mb) tag op (s.chip.mbxArgs (.bpm mb)) (some r))) :=
  runBoth_eq (poolCmd_starts _ _ _ _ _ _ _ _ _ _ h e)

/-- Settles O9: command by command, one case of its operation for each clause. -/
theorem bufferActs : Obligations.BufferActs := by
  unfold Obligations.BufferActs
  refine ⟨?spillHeld, ?spillDrops, ?spills, ?fenced, ?chainLost, ?dataLost, ?refills, ?poolInit, ?poolRefused, ?poolOpens,
    ?poolUnreached, ?xalloc, ?xfree, ?cellInUse, ?cellFree, ?noCell, ?audits⟩
  case spillHeld => exact fun s q accs x hx hm hc => runChip_eq (opSpillWriteComplete_held hx hm hc)
  case spillDrops => exact fun s q accs x hx hm hc hp => runChip_eq (opSpillWriteComplete_drops hx hm hc hp)
  case spills => exact fun s q accs x hx hm hc hp => runChip_eq (opSpillWriteComplete_spills hx hm hc hp)
  case fenced => exact fun s q errs desc accs x k hx hm hc hr hd hf => runChip_eq (opReadback_fenced hx hm hc hr hd hf)
  case chainLost =>
    exact fun s q errs desc accs x y l hx hm hc hr hd hf hb => runChip_eq (opReadback_chainLost hx hm hc hr hd hf hb)
  case dataLost =>
    exact fun s q errs desc accs x y l hx hm hc hr hd hf hb he => runChip_eq (opReadback_dataLost hx hm hc hr hd hf hb he)
  case refills =>
    rintro s q errs desc accs x c1 hx hm hc hr hd hf hb he rfl ha
    exact runChip_eq (opReadback_refills hx hm hc hr hd hf hb he ha)
  case poolInit => exact fun s rq pool hp ho he hl => runChip_regCmd hp ho (poolEnable_starts he hl)
  case poolRefused => exact fun s rq pool hp ho he hl => runChip_regCmd hp ho (poolEnable_refused he hl)
  case poolOpens => exact fun s pool he hr h => runBoth_eq (opPoolInitDone_opens he hr h)
  case poolUnreached => exact fun s pool he hr h => runBoth_eq (opPoolInitDone_unreached he hr h)
  case xalloc =>
    intro s rq tag m w v j c1 h hk hr hu hw hv hj
    have taken := actXalloc_takes (mb := m.val) hk hr hu hw hv hj
    exact runBoth_poolCmd h taken
  case xfree =>
    exact fun s rq tag m v rec16 c1 c2 h hk hr hi hu hv hb ha => runBoth_poolCmd h (actXfree_returns hk hr hu hi hv hb ha)
  case cellInUse => exact fun s rq tag m h hi hk => runChip_mbx h (actCellInfo_inUse hi hk)
  case cellFree => exact fun s rq tag m h hi hk => runChip_mbx h (actCellInfo_free hi hk)
  case noCell => exact fun s rq tag m h hi => runChip_mbx h (actCellInfo_noCell hi)
  case audits => exact fun s he ht => runBoth_eq (opAuditPass_due he ht)

end Sys2Proof.Machine
end

section
/-!
PROOFS. Time on an empty queue: a run of n idle steps is n ticks of the Datum clock and nothing else, and from that O30 and O52.
-/

namespace Sys2Proof.Machine

namespace Chip

/-- n ticks of the Datum clock, one after the other. -/
def datumTicks : Nat → Chip → Chip
  | 0, c => c
  | n + 1, c => datumTicks n c.datumTick

/-- n ticks add n times what one tick adds; the time base wraps with its width (R251, R300). -/
theorem datumTicks_times (n : Nat) (c : Chip) :
    (datumTicks n c).now = c.now + 1250 * n
      ∧ (datumTicks n c).time.tmBase = c.time.tmBase + 5368709120 * BitVec.ofNat 96 n := by
  induction n generalizing c with
  | zero => exact ⟨rfl, (BitVec.add_zero c.time.tmBase).symm⟩
  | succ n ih =>
    obtain ⟨tickNow, tickBase⟩ := datumTick_times c
    obtain ⟨restNow, restBase⟩ := ih c.datumTick
    constructor
    · calc (datumTicks n c.datumTick).now
          _ = c.now + 1250 + 1250 * n := by rw [restNow, tickNow]
          _ = c.now + 1250 * (n + 1) := by omega
    · calc (datumTicks n c.datumTick).time.tmBase
          _ = c.time.tmBase + 5368709120 + 5368709120 * BitVec.ofNat 96 n := by rw [restBase, tickBase]
          _ = c.time.tmBase + 5368709120 * BitVec.ofNat 96 (n + 1) := by
            rw [Nat.add_comm n 1, BitVec.ofNat_add, BitVec.mul_add, BitVec.mul_one, BitVec.add_assoc]

end Chip

open Chip

/-- Steps on an empty queue all go on, and are ticks of the chip: queue and store stay (log 3). -/
theorem run_idle (n : Nat) {s : State} (h : s.pending = []) : run n s = some (s.withChip (datumTicks n s.chip)) := by
  induction n generalizing s with
  | zero => rfl
  | succ n ih =>
    unfold run
    rw [step_idle h]
    exact ih (s := s.withChip s.chip.datumTick) h

/-- Settles O52: n idle steps are n ticks, and the ticks add up. -/
theorem ticksAddUp : Obligations.TicksAddUp := by
  unfold Obligations.TicksAddUp
  intro n s h
  exact ⟨s.withChip (datumTicks n s.chip), run_idle n h, h, rfl, datumTicks_times n s.chip⟩

/-- Settles O30: an idle step is a tick, and a tick advances both clocks. -/
theorem emptyQueueTicks : Obligations.EmptyQueueTicks := by
  unfold Obligations.EmptyQueueTicks
  intro s h
  exact ⟨step_idle h, datumTick_times s.chip⟩

end Sys2Proof.Machine
end

section
/-!
PROOFS. The memory system: which request an HBM bank serves next (R281, R282), and what the commands of the HBM controllers and of the
extension-memory ports do (R280, R284, R285, R289, R290, R293, R295); from that O58 and O15.
-/

namespace Sys2Proof.Machine

/-! The pick of a bank (R281, R282). -/

section
variable {b : Bank} {old : BankReq → Bool} {x r : BankReq} {l : List BankReq} {aged : Bool}

/-- The highest service class in the queue x :: l; the classes are numbered from the highest down. -/
def topClass (x : BankReq) (l : List BankReq) : Nat := l.foldl (fun t y => min t y.cls) x.cls

/-- The class of some request in the queue, and none is higher. -/
theorem topClass_least (x : BankReq) (l : List BankReq) :
    (∃ y ∈ x :: l, y.cls = topClass x l) ∧ ∀ y ∈ x :: l, topClass x l ≤ y.cls := by
  have least : ((x :: l).map (·.cls)).min? = some (topClass x l) := by
    rw [List.map_cons, List.min?_cons', List.foldl_map, topClass]
  obtain ⟨found, below⟩ := List.min?_eq_some_iff.1 least
  exact ⟨List.mem_map.1 found, fun y hy => below _ (List.mem_map_of_mem hy)⟩

theorem bankPick_inOrder (hq : b.queue = x :: l) (hz : b.queue.any (·.hazard) = true) : bankPick b old = some (x, false) := by
  unfold bankPick
  rw [hq] at hz ⊢
  exact if_pos hz

/-- Out of in-order mode age comes first: the oldest request beyond the limit, if there is one. -/
theorem bankPick_aged {y : BankReq} (hz : b.queue.any (·.hazard) = false) (ho : b.queue.find? old = some y) :
    bankPick b old = some (y, true) := by
  unfold bankPick
  cases hq : b.queue with
  | nil => rw [hq] at ho; nomatch ho
  | cons x l =>
    rw [hq] at hz ho
    simp only [hz, ho, Bool.false_eq_true, if_false]

/-- Among requests of which none is beyond the limit: the oldest row hit of the highest class, else the oldest of that class. -/
theorem bankPick_byClass (hq : b.queue = x :: l) (hz : b.queue.any (·.hazard) = false) (ho : b.queue.find? old = none) :
    bankPick b old
      = some ((b.queue.find? (fun y => y.cls == topClass x l && decide (b.openRow = some y.row))).getD
          ((b.queue.find? (fun y => y.cls == topClass x l)).getD x), false) := by
  unfold bankPick topClass
  rw [hq] at hz ho ⊢
  simp only [hz, ho, Bool.false_eq_true, if_false, List.find?_filter, List.headD_eq_head?_getD, List.head?_filter,
    Bool.decide_and, Bool.decide_eq_true]

theorem bankPick_eq_none_iff (b : Bank) (old : BankReq → Bool) : bankPick b old = none ↔ b.queue = [] := by
  unfold bankPick
  cases hq : b.queue with
  | nil => exact iff_of_true rfl rfl
  | cons x l =>
    refine iff_of_false ?_ (List.cons_ne_nil x l)
    dsimp only
    split
    · nofun
    · split <;> nofun

/-- A bank that serves a request in in-order mode serves the one that entered first. -/
theorem bankPick_inOrder_first (h : bankPick b old = some (r, aged)) (hz : b.queue.any (·.hazard) = true) :
    aged = false ∧ ∃ l, b.queue = r :: l := by
  cases hq : b.queue with
  | nil => rw [hq] at hz; nomatch hz
  | cons x l =>
    obtain ⟨rfl, rfl⟩ := Prod.mk.inj (Option.some.inj ((bankPick_inOrder hq hz).symm.trans h))
    exact ⟨rfl, l, rfl⟩

/-- A bank that serves a request for its age serves the one beyond the limit that entered first. -/
theorem bankPick_aged_first (h : bankPick b old = some (r, aged)) (hz : b.queue.any (·.hazard) = false)
    (ho : b.queue.any old = true) :
    aged = true ∧ old r = true ∧ ∃ l m, b.queue = l ++ r :: m ∧ ∀ x ∈ l, old x = false := by
  obtain ⟨y, hy⟩ := Option.isSome_iff_exists.1 (List.find?_isSome.2 (List.any_eq_true.1 ho))
  obtain ⟨rfl, rfl⟩ := Prod.mk.inj (Option.some.inj ((bankPick_aged hz hy).symm.trans h))
  obtain ⟨beyond, earlier, later, parts, younger⟩ := List.find?_eq_some_iff_append.1 hy
  exact ⟨rfl, beyond, earlier, later, parts, fun x hx => by simpa using younger x hx⟩

/-- Request r has the highest class in the queue of b, and in it is the row hit that entered first, or where the class has none the
request that did. -/
def FirstOfTop (b : Bank) (r : BankReq) : Prop :=
  (∀ x ∈ b.queue, r.cls ≤ x.cls) ∧ ∃ l m, b.queue = l ++ r :: m ∧
    if b.queue.any (fun x => decide (x.cls = r.cls) && decide (b.openRow = some x.row)) = true
    then b.openRow = some r.row ∧ ∀ x ∈ l, x.cls = r.cls → b.openRow ≠ some x.row
    else ∀ x ∈ l, x.cls ≠ r.cls

section
variable {t : Nat} (below : ∀ x ∈ b.queue, t ≤ x.cls)
include below

theorem firstOfTop_of_hit (h : b.queue.find? (fun y => y.cls == t && decide (b.openRow = some y.row)) = some r) : FirstOfTop b r := by
  obtain ⟨isHit, earlier, later, parts, noHit⟩ := List.find?_eq_some_iff_append.1 h
  obtain ⟨rfl, row⟩ : r.cls = t ∧ b.openRow = some r.row := by simpa using isHit
  have someHit : b.queue.any (fun x => decide (x.cls = r.cls) && decide (b.openRow = some x.row)) = true :=
    List.any_eq_true.2 ⟨r, List.mem_of_find?_eq_some h, by simp [row]⟩
  refine ⟨below, earlier, later, parts, ?_⟩
  rw [if_pos someHit]
  exact ⟨row, fun x hx xTop xRow => by simpa [xTop, xRow] using noHit x hx⟩

theorem firstOfTop_of_noHit (h : b.queue.find? (fun y => y.cls == t && decide (b.openRow = some y.row)) = none)
    (hr : b.queue.find? (fun y => y.cls == t) = some r) : FirstOfTop b r := by
  obtain ⟨isTop, earlier, later, parts, other⟩ := List.find?_eq_some_iff_append.1 hr
  obtain rfl : r.cls = t := beq_iff_eq.1 isTop
  have noHit : ¬ b.queue.any (fun x => decide (x.cls = r.cls) && decide (b.openRow = some x.row)) = true := by simpa using h
  refine ⟨below, earlier, later, parts, ?_⟩
  rw [if_neg noHit]
  exact fun x hx => by simpa using other x hx

end

/-- A bank without a request beyond the limit serves by class and row. -/
theorem bankPick_firstOfTop (h : bankPick b old = some (r, aged)) (hz : b.queue.any (·.hazard) = false)
    (ho : b.queue.any old = false) : aged = false ∧ FirstOfTop b r := by
  cases hq : b.queue with
  | nil => rw [(bankPick_eq_none_iff b old).2 hq] at h; nomatch h
  | cons x l =>
    have noneOld : b.queue.find? old = none := List.find?_eq_none.2 (List.any_eq_false.1 ho)
    obtain ⟨pick, rfl⟩ := Prod.mk.inj (Option.some.inj ((bankPick_byClass hq hz noneOld).symm.trans h))
    have top := topClass_least x l
    rw [← hq] at top
    obtain ⟨⟨z, queued, zTop⟩, below⟩ := top
    refine ⟨rfl, ?_⟩
    cases hit : b.queue.find? (fun y => y.cls == topClass x l && decide (b.openRow = some y.row)) with
    | some y =>
      rw [hit] at pick
      obtain rfl : y = r := pick
      exact firstOfTop_of_hit below hit
    | none =>
      obtain ⟨y, hy⟩ : ∃ y, b.queue.find? (fun y => y.cls == topClass x l) = some y :=
        Option.isSome_iff_exists.1 (List.find?_isSome.2 ⟨z, queued, beq_iff_eq.2 zTop⟩)
      rw [hit, hy] at pick
      obtain rfl : y = r := pick
      exact firstOfTop_of_noHit below hit hy

end

namespace Chip

section
variable {c : Chip} {key : Nat} {r : BankReq} {aged : Bool}

/-- A request picked for its age has counted in AGE_PROMOTE (R281). -/
def promoted (c : Chip) (key : Nat) (aged : Bool) : Chip := if aged then c.bump (Reg.MEM_CNT (key / 65536) 7) 1 else c

@[simp] theorem promoted_hbm (c : Chip) (key : Nat) (aged : Bool) : (c.promoted key aged).hbm = c.hbm := by
  cases aged with
  | false => rfl
  | true => exact bump_hbm c _ _

/-- The bank with this key is b. -/
def setBank (c : Chip) (key : Nat) (b : Bank) : Chip := { c with hbm.banks := mset noBank c.hbm.banks key b }

@[simp] theorem setBank_banks (c : Chip) (key : Nat) (b : Bank) : (c.setBank key b).hbm.banks = mset noBank c.hbm.banks key b := rfl

@[simp] theorem setBank_ctrs (c : Chip) (key : Nat) (b : Bank) : (c.setBank key b).ctrs = c.ctrs := rfl

theorem serveReq_picked (h : bankPick (mget noBank c.hbm.banks key) (c.reqOld (key / 65536)) = some (r, aged)) :
    (c.serveReq key).1
      = (c.promoted key aged).setBank key ⟨some r.row, (mget noBank c.hbm.banks key).queue.erase r⟩ := by
  simp only [serveReq, h]
  rfl

end

end Chip

open Chip

/-- Settles O58: the three ways to pick, and what a service does with the request picked. -/
theorem bankOrder : Obligations.BankOrder := by
  unfold Obligations.BankOrder
  refine ⟨bankPick_eq_none_iff, ?inOrder, ?aged, ?byClass, ?served⟩
  case inOrder => exact fun b old r aged h hz => bankPick_inOrder_first h hz
  case aged => exact fun b old r aged h hz ho => bankPick_aged_first h hz ho
  case byClass => exact fun b old r aged h hz ho => bankPick_firstOfTop h hz ho
  case served =>
    intro c key r aged h
    simp only [serveReq_picked h, setBank_banks, setBank_ctrs, promoted_hbm]
    exact ⟨mget_mset_same _ _ _ _, fun j hj => mget_mset_other _ _ _ _ _ hj, rfl⟩

/-! The commands of the HBM controllers. -/

namespace Chip

section
variable {c : Chip} {k ch i : Nat}

/-! Refresh and retraining steps (R280). -/

/-- Channel i has been refreshed, with its rows closed. -/
def refreshed (c : Chip) (k i : Nat) : Chip :=
  let c1 := (c.bump (Reg.MEM_CNT k 8) 1).closeRows i
  { c1 with hbm.refAt := mset (fun _ => 0) c1.hbm.refAt i c.now }

theorem opHbmRefresh_due (hu : c.chanUp k ch = true)
    (ht : mget (fun _ => 0) c.hbm.refAt (32 * k + ch) + c.refreshPs k ≤ c.now) :
    c.opHbmRefresh k ch = c.refreshed k (32 * k + ch) := if_pos (by rw [hu, decide_eq_true ht]; rfl)

/-- Channel i has made a retraining step. -/
def stepped (c : Chip) (k i : Nat) : Chip :=
  let c1 := c.bump (Reg.MEM_CNT k 9) 1
  { c1 with hbm.stepAt := mset (fun _ => 0) c1.hbm.stepAt i c.now }

theorem opHbmRetrainStep_due (hu : c.chanUp k ch = true)
    (ht : mget (fun _ => 0) c.hbm.stepAt (32 * k + ch) + 40 * usPs ≤ c.now) :
    c.opHbmRetrainStep k ch = c.stepped k (32 * k + ch) := if_pos (by rw [hu, decide_eq_true ht]; rfl)

/-! PARITY_ALERT (R284, R285) of channel i. -/

/-- The channel was retrained less than 1 ms ago. -/
def justRetrained (c : Chip) (i : Nat) : Bool :=
  (mget chanQuiet c.hbm.chans i).retrainAt.any (fun t => decide (c.now < t + msPs))

/-- Replays in a row that were met by an alert, with the one that now runs. -/
def replaysMet (c : Chip) (i : Nat) : Nat :=
  if (mget chanQuiet c.hbm.chans i).replayAt.any (fun t => decide (c.now < t + 500 * nsPs)) then (mget chanQuiet c.hbm.chans i).met + 1
  else 0

/-- The alerts of the channel are x. -/
def setChan (c : Chip) (i : Nat) (x : Chan) : Chip := { c with hbm.chans := mset chanQuiet c.hbm.chans i x }

/-- The channel is retrained. -/
def retrained (c : Chip) (k i : Nat) : Chip := (c.bump (Reg.MEM_CNT k 5) 1).setChan i ⟨none, 0, some c.now⟩

/-- The channel replays its commands. -/
def replayed (c : Chip) (k i : Nat) : Chip :=
  (((c.bump (Reg.MEM_CNT k 4) 1).closeRows i).report (0x0C + k) 0 0x08 outMasked).setChan i ⟨some c.now, c.replaysMet i, none⟩

section
variable (hu : c.chanUp k ch = true)
include hu

theorem opParityAlert_up : c.opParityAlert k ch
    = if c.justRetrained (32 * k + ch) then (c.setChan (32 * k + ch) Chan.quiet).failChannel k ch
      else if 3 ≤ c.replaysMet (32 * k + ch) then c.retrained k (32 * k + ch)
      else c.replayed k (32 * k + ch) := if_neg (by rw [hu]; decide)

theorem opParityAlert_fails (hr : c.justRetrained (32 * k + ch) = true) :
    c.opParityAlert k ch = (c.setChan (32 * k + ch) Chan.quiet).failChannel k ch := (opParityAlert_up hu).trans (if_pos hr)

variable (hr : c.justRetrained (32 * k + ch) = false)
include hr

theorem opParityAlert_retrains (hm : 3 ≤ c.replaysMet (32 * k + ch)) : c.opParityAlert k ch = c.retrained k (32 * k + ch) :=
  (opParityAlert_up hu).trans ((if_neg (Bool.eq_false_iff.1 hr)).trans (if_pos hm))

theorem opParityAlert_replays (hm : c.replaysMet (32 * k + ch) < 3) : c.opParityAlert k ch = c.replayed k (32 * k + ch) :=
  (opParityAlert_up hu).trans ((if_neg (Bool.eq_false_iff.1 hr)).trans (if_neg (Nat.not_le.2 hm)))

end

/-! MIGRATION_BLOCK (R290). -/

/-- The block at POINTER is copied, and its uncorrectable words are marked in the spare. -/
def blockCopied (c : Chip) (k held : Nat) (bad : List (Fin 128)) (accs : List MemAcc) : Chip :=
  bad.foldl (badWord k (c.fld (Reg.MEM_MIG k) Fd.MEM_MIG_SRC) (c.fld (Reg.MEM_MIG k) Fd.MEM_MIG_DST)
    (c.fld (Reg.MEM_MIG k) Fd.MEM_MIG_POINTER)) ((memUsed 1 (memUsed 0 (c.memAccs 3 false accs) k) k).bump (Reg.MEM_CNT k 11) held)

/-- POINTER is n, and the block before it counts. -/
def blockCounted (c : Chip) (k n : Nat) : Chip :=
  let c1 := (c.setF (Reg.MEM_MIG k) Fd.MEM_MIG_POINTER n).bump (Reg.MEM_CNT k 10) 1
  { c1 with hbm.migAt := mset (fun _ => 0) c1.hbm.migAt k c.now }

/-- The migration moves on to block n, or ends behind the last. -/
def migratedTo (c : Chip) (k n : Nat) : Chip :=
  if rankBlocks ≤ n then (c.blockCounted k n).endMigration k else c.blockCounted k n

theorem opMigrationBlock_due {held : Nat} {bad : List (Fin 128)} {accs : List MemAcc} (hu : c.memUp k = true)
    (hm : c.on (Reg.MEM_STATUS k) Fd.MEM_STATUS_MIGRATING = true) (ht : mget (fun _ => 0) c.hbm.migAt k + 4 * usPs ≤ c.now) :
    c.opMigrationBlock k held bad accs
      = (c.blockCopied k held bad accs).migratedTo k (c.fld (Reg.MEM_MIG k) Fd.MEM_MIG_POINTER + 1) :=
  if_pos (by rw [hu, hm, decide_eq_true ht]; rfl)

/-! BACKING_TRAVERSE (R293). -/

section
variable {oneBad : List (Fin 4 × Loc)} {bothBad : List Loc} {accs : List MemAcc}

/-- The controllers that work. -/
def memsUp (c : Chip) : List Nat := (List.range 4).filter c.memUp

/-- The copies have been read, and their bad words and lost stacks dealt with. -/
def backRead (c : Chip) (oneBad : List (Fin 4 × Loc)) (bothBad : List Loc) (accs : List MemAcc) : Chip :=
  (List.range 4).foldl backLost
    (bothBad.foldl backBoth (oneBad.foldl backOne (c.memsUp.foldl (memUsed 0) (c.memAccs 3 false accs))))

/-- A traverse has ended at time t; the stacks ks hold their copies again. -/
def traversed (c : Chip) (ks : List Nat) (t : Nat) : Chip :=
  { c with hbm.backAt := t, hbm.backed := (List.range 4).filter (fun k => ks.contains k || c.hbm.backed.contains k) }

theorem opBackingTraverse_due (ht : c.hbm.backAt + 10000 * msPs ≤ c.now) :
    c.opBackingTraverse oneBad bothBad accs = (c.backRead oneBad bothBad accs).traversed c.memsUp c.now := if_neg (Nat.not_lt.2 ht)

theorem opBackingTraverse_early (ht : c.now < c.hbm.backAt + 10000 * msPs) : c.opBackingTraverse oneBad bothBad accs = c := if_pos ht

end

/-! CXL_TIMEOUT, CXL_LINK_DOWN and CXL_LINK_UP (R295). -/

section
variable {n : Nat}

/-- A request of port n has timed out: its next user meets the failure (log 140). -/
def requestLost (c : Chip) (n : Nat) : Chip :=
  { c.bump (Reg.XM_CNT n 5) 1 with
    hbm.timedOut := mset (fun _ => 0) c.hbm.timedOut n (mget (fun _ => 0) c.hbm.timedOut n + 1) }

/-- Port n has had t timeouts in a row. -/
def setTimeouts (c : Chip) (n t : Nat) : Chip := { c with hbm.timeouts := mset (fun _ => 0) c.hbm.timeouts n t }

section
variable (hu : c.xmUp n = true)
include hu

theorem opCxlTimeout_up : c.opCxlTimeout n
    = if 16 ≤ mget (fun _ => 0) c.hbm.timeouts n + 1 then ((c.requestLost n).setTimeouts n 0).xmLinkDown n
      else (c.requestLost n).setTimeouts n (mget (fun _ => 0) c.hbm.timeouts n + 1) := if_pos hu

theorem opCxlTimeout_counts (ht : mget (fun _ => 0) c.hbm.timeouts n + 1 < 16) :
    c.opCxlTimeout n = (c.requestLost n).setTimeouts n (mget (fun _ => 0) c.hbm.timeouts n + 1) :=
  (opCxlTimeout_up hu).trans (if_neg (Nat.not_le.2 ht))

theorem opCxlTimeout_linkDown (ht : 16 ≤ mget (fun _ => 0) c.hbm.timeouts n + 1) :
    c.opCxlTimeout n = ((c.requestLost n).setTimeouts n 0).xmLinkDown n := (opCxlTimeout_up hu).trans (if_pos ht)

end

theorem opCxlLinkDown_up (h : c.on (Reg.XM_STATUS n) Fd.XM_STATUS_LINK_UP = true) : c.opCxlLinkDown n
    = ((c.setF (Reg.XM_STATUS n) Fd.XM_STATUS_LINK_UP 0).bump (Reg.XM_CNT n 4) 1).report (0x10 + n) 0 0x17 outReported := if_pos h

theorem opCxlLinkUp_powered (h : c.domOn (112 + n) = true) : c.opCxlLinkUp n
    = { c.setF (Reg.XM_STATUS n) Fd.XM_STATUS_LINK_UP 1 with
        hbm.timeouts := mset (fun _ => 0) c.hbm.timeouts n 0, hbm.timedOut := mset (fun _ => 0) c.hbm.timedOut n 0 } := if_pos h

end

end

end Chip

/-- Settles O15: command by command, one case of its operation for each clause. -/
theorem memoryControllerActs : Obligations.MemoryControllerActs := by
  unfold Obligations.MemoryControllerActs
  refine ⟨?refresh, ?step, ?fails, ?retrains, ?replays, ?retires, ?migrates, ?traverse, ?early, ?timeout, ?timeoutDown, ?linkDown,
    ?linkUp⟩
  case refresh => exact fun s k ch hu ht => runChip_eq (opHbmRefresh_due hu ht)
  case step => exact fun s k ch hu ht => runChip_eq (opHbmRetrainStep_due hu ht)
  case fails => exact fun s k ch hu hr => runChip_eq (opParityAlert_fails hu hr)
  case retrains => exact fun s k ch hu hr hm => runChip_eq (opParityAlert_retrains hu hr hm)
  case replays => exact fun s k ch hu hr hm => runChip_eq (opParityAlert_replays hu hr hm)
  case retires => exact fun s rq k r hp ho hr => runChip_regCmd hp ho (if_pos hr)
  case migrates => exact fun s k held bad accs hu hm ht => runChip_eq (opMigrationBlock_due hu hm ht)
  case traverse => exact fun s oneBad bothBad accs ht => runChip_eq (opBackingTraverse_due ht)
  case early => exact fun s oneBad bothBad accs ht => runChip_eq (opBackingTraverse_early ht)
  case timeout => exact fun s n hu ht => runChip_eq (opCxlTimeout_counts hu ht)
  case timeoutDown => exact fun s n hu ht => runChip_eq (opCxlTimeout_linkDown hu ht)
  case linkDown => exact fun s n h => runChip_eq (opCxlLinkDown_up h)
  case linkUp => exact fun s n h => runChip_eq (opCxlLinkUp_powered h)

end Sys2Proof.Machine
end

section
/-!
PROOFS. Little-endian fields and cuts of a byte list, and the 64 bytes of an update descriptor (R380); from that O53.
-/

namespace Sys2Proof.Machine

/-! Little-endian numbers and their bytes. -/

@[simp] theorem length_leBytes (n v : Nat) : (leBytes n v).length = n := by
  induction n generalizing v with
  | zero => rfl
  | succ n ih => simp [leBytes, ih]

theorem leNat_leBytes (n v : Nat) : leNat (leBytes n v) = v % 256 ^ n := by
  induction n generalizing v with
  | zero => simp [leBytes, leNat, Nat.mod_one]
  | succ n ih =>
    have split : v % (256 * 256 ^ n) = v % 256 + 256 * (v / 256 % 256 ^ n) := Nat.mod_mul
    rw [pow_succ', split, leBytes, leNat, ih, BitVec.toNat_ofNat]

theorem leNat_leBytes_of_lt {n v : Nat} (h : v < 256 ^ n) : leNat (leBytes n v) = v :=
  (leNat_leBytes n v).trans (Nat.mod_eq_of_lt h)

theorem leBytes_leNat (l : List Byte) : leBytes l.length (leNat l) = l := by
  induction l with
  | nil => rfl
  | cons b l ih =>
    have hb := b.isLt
    have low : BitVec.ofNat 8 (b.toNat + 256 * leNat l) = b := BitVec.eq_of_toNat_eq (by rw [BitVec.toNat_ofNat]; omega)
    have high : (b.toNat + 256 * leNat l) / 256 = leNat l := by omega
    rw [List.length_cons, leBytes, leNat, low, high, ih]

theorem leNat_lt (l : List Byte) : leNat l < 256 ^ l.length := by
  rw [← leBytes_leNat l, leNat_leBytes, length_leBytes]
  exact Nat.mod_lt _ (Nat.pow_pos (by decide))

/-! Cuts of a byte list. -/

@[simp] theorem length_slice (l : List Byte) (o n : Nat) : (slice l o n).length = n := by simp [slice]

theorem byteAt_lt (l : List Byte) (i : Nat) : byteAt l i < 256 := by
  unfold byteAt
  split
  · next b _ => exact b.isLt
  · decide

@[simp] theorem byteAt_cons_zero (b : Byte) (l : List Byte) : byteAt (b :: l) 0 = b.toNat := rfl

@[simp] theorem byteAt_cons_succ (b : Byte) (l : List Byte) (i : Nat) : byteAt (b :: l) (i + 1) = byteAt l i := by simp [byteAt]

theorem byteAt_append_left {a b : List Byte} {i : Nat} (h : i < a.length) : byteAt (a ++ b) i = byteAt a i := by
  simp [byteAt, List.getElem?_append_left h]

theorem byteAt_append_right {a b : List Byte} {i : Nat} (h : a.length ≤ i) : byteAt (a ++ b) i = byteAt b (i - a.length) := by
  simp [byteAt, List.getElem?_append_right h]

theorem slice_append_right {a b : List Byte} {o n : Nat} (h : a.length ≤ o) : slice (a ++ b) o n = slice b (o - a.length) n := by
  refine List.map_congr_left fun i _ => ?_
  rw [byteAt_append_right (Nat.le_add_right_of_le h), Nat.sub_add_comm h]

theorem slice_whole (l : List Byte) : slice l 0 l.length = l := by
  refine List.ext_getElem (length_slice ..) fun i _ h => ?_
  simp [slice, byteAt, h]

theorem slice_append_left {a b : List Byte} {n : Nat} (h : a.length = n) : slice (a ++ b) 0 n = a := by
  subst h
  refine Eq.trans (List.map_congr_left fun i hi => ?_) (slice_whole a)
  rw [byteAt_append_left (by simpa using hi)]

/-- Two cuts that adjoin are one. -/
theorem slice_append_slice (l : List Byte) (o n k : Nat) : slice l o n ++ slice l (o + n) k = slice l o (n + k) := by
  simp [slice, List.range_add, Nat.add_assoc]

/-- The bytes of the number that a cut spells are the cut. -/
theorem leBytes_slice (l : List Byte) (o n : Nat) : leBytes n (leNat (slice l o n)) = slice l o n := by
  have h := leBytes_leNat (slice l o n)
  rwa [length_slice] at h

theorem leNat_slice_lt (l : List Byte) (o n : Nat) : leNat (slice l o n) < 256 ^ n := by
  have h := leNat_lt (slice l o n)
  rwa [length_slice] at h

theorem leBytes_ofNat_slice (l : List Byte) (o : Nat) {n w : Nat} (h : 256 ^ n ≤ 2 ^ w) :
    leBytes n (BitVec.ofNat w (leNat (slice l o n))).toNat = slice l o n := by
  rw [BitVec.toNat_ofNat, Nat.mod_eq_of_lt (Nat.lt_of_lt_of_le (leNat_slice_lt l o n) h), leBytes_slice]

/-- Zero bytes spell 0. -/
theorem slice_of_leNat_zero {l : List Byte} {o n : Nat} (h : leNat (slice l o n) = 0) : leBytes n 0 = slice l o n := by
  rw [← h, leBytes_slice]

/-! The descriptor (R380). -/

/-- What the reserved fields and the OP of 64 bytes say when none is set and the OP is listed. -/
theorem descBack_rsv {l : List Byte} : (descBack l).rsv = false
    ↔ opListed (byteAt l 8) = true ∧ byteAt l 10 < 16 ∧ byteAt l 11 = 0 ∧ leNat (slice l 28 4) = 0 := by
  simp [descBack, and_assoc]

/-- The four bytes between SEQ and INDEX. -/
def descHead (d : Desc) : List Byte := [d.op, BitVec.ofNat 8 d.slot.val, BitVec.ofNat 8 d.table.val, 0]

theorem descBytes_fields (d : Desc) : descBytes d = leBytes 8 d.seq.toNat ++ (descHead d ++ (leBytes 4 d.index.toNat
    ++ (leBytes 8 d.addr.toNat ++ (leBytes 4 d.len.toNat ++ (leBytes 4 0 ++ leBytes 32 d.data.toNat))))) := by
  simp only [descBytes, descHead, List.append_assoc]

/-- A field of w bits is read back from its bytes. -/
theorem ofNat_leBytes {w n : Nat} (x : BitVec w) (h : 2 ^ w ≤ 256 ^ n) : BitVec.ofNat w (leNat (leBytes n x.toNat)) = x := by
  rw [leNat_leBytes_of_lt (Nat.lt_of_lt_of_le x.isLt h), BitVec.ofNat_toNat, BitVec.setWidth_eq]

@[simp] theorem length_descHead (d : Desc) : (descHead d).length = 4 := by simp [descHead]

section
variable (d : Desc)

theorem slice_descBytes :
    slice (descBytes d) 0 8 = leBytes 8 d.seq.toNat ∧ slice (descBytes d) 12 4 = leBytes 4 d.index.toNat ∧
    slice (descBytes d) 16 8 = leBytes 8 d.addr.toNat ∧ slice (descBytes d) 24 4 = leBytes 4 d.len.toNat ∧
    slice (descBytes d) 28 4 = leBytes 4 0 ∧ slice (descBytes d) 32 32 = leBytes 32 d.data.toNat := by
  rw [descBytes_fields]
  have last : slice (leBytes 32 d.data.toNat) 0 32 = leBytes 32 d.data.toNat := by simpa using slice_whole (leBytes 32 d.data.toNat)
  simp [slice_append_right, slice_append_left, last]

theorem byteAt_descBytes {i : Nat} (h : i < 4) : byteAt (descBytes d) (8 + i) = byteAt (descHead d) i := by
  rw [descBytes_fields, byteAt_append_right (by simp), byteAt_append_left (by simpa using h)]
  simp


end

/-- A descriptor that sets no reserved field is what its bytes spell. -/
theorem descBack_descBytes {d : Desc} (hr : d.rsv = false) (ho : opListed d.op.toNat = true) : descBack (descBytes d) = d := by
  obtain ⟨hseq, hindex, haddr, hlen, hzero, hdata⟩ := slice_descBytes d
  have hop : byteAt (descBytes d) 8 = d.op.toNat := byteAt_descBytes d (i := 0) (by decide)
  have hslot : byteAt (descBytes d) 9 = d.slot := by
    rw [byteAt_descBytes d (i := 1) (by decide)]
    simp [descHead]
  have htable : byteAt (descBytes d) 10 = d.table := by
    rw [byteAt_descBytes d (i := 2) (by decide)]
    have := d.table.isLt
    simp only [descHead, byteAt_cons_succ, byteAt_cons_zero, BitVec.toNat_ofNat]
    omega
  have hres : byteAt (descBytes d) 11 = 0 := byteAt_descBytes d (i := 3) (by decide)
  have hrsv : (descBack (descBytes d)).rsv = d.rsv :=
    (descBack_rsv.2 ⟨by rwa [hop], by rw [htable]; exact d.table.isLt, hres, by rw [hzero]; rfl⟩).trans hr.symm
  cases d
  simp only [descBack, Desc.mk.injEq] at hrsv ⊢
  refine ⟨?seq, ?op, ?slot, ?table, ?index, ?addr, ?len, ?data, hrsv⟩
  case seq => rw [hseq, ofNat_leBytes _ (by norm_num)]
  case op => rw [hop, BitVec.ofNat_toNat, BitVec.setWidth_eq]
  case slot => rw [hslot, Fin.ofNat_val_eq_self]
  case table => rw [htable, Nat.mod_eq_of_lt (Fin.isLt _), Fin.ofNat_val_eq_self]
  case index => rw [hindex, ofNat_leBytes _ (by norm_num)]
  case addr => rw [haddr, ofNat_leBytes _ (by norm_num)]
  case len => rw [hlen, ofNat_leBytes _ (by norm_num)]
  case data => rw [hdata, ofNat_leBytes _ (by norm_num)]

/-- The four bytes between SEQ and INDEX, of what 64 bytes spell. -/
theorem descHead_descBack {l : List Byte} (ht : byteAt l 10 < 16) (hz : byteAt l 11 = 0) : descHead (descBack l) = slice l 8 4 := by
  have hs := byteAt_lt l 9
  have slot : byteAt l 9 % 256 = byteAt l 9 := Nat.mod_eq_of_lt hs
  have table : byteAt l 10 % 16 % 16 = byteAt l 10 := by omega
  simp [descHead, descBack, slice, List.range_succ, Fin.ofNat, slot, table, hz]

/-- 64 bytes that set no reserved field are those of the descriptor that they spell. -/
theorem descBytes_descBack {l : List Byte} (hl : l.length = 64) (hr : (descBack l).rsv = false) : descBytes (descBack l) = l := by
  obtain ⟨-, htable, hres, hzero⟩ := descBack_rsv.1 hr
  calc descBytes (descBack l)
    _ = slice l 0 8 ++ (slice l 8 4 ++ (slice l 12 4 ++ (slice l 16 8 ++ (slice l 24 4 ++ (slice l 28 4 ++ slice l 32 32))))) := by
      rw [descBytes_fields, descHead_descBack htable hres, slice_of_leNat_zero hzero]
      simp only [descBack]
      rw [leBytes_ofNat_slice, leBytes_ofNat_slice, leBytes_ofNat_slice, leBytes_ofNat_slice, leBytes_ofNat_slice] <;> norm_num
    _ = slice l 0 l.length := by
      simp only [slice_append_slice l, hl]
    _ = l := slice_whole l

/-- Settles O53: field by field, each a cut of the 64 bytes. -/
theorem descriptorRoundTrip : Obligations.DescriptorRoundTrip := by
  unfold Obligations.DescriptorRoundTrip
  exact ⟨fun _ hr ho => descBack_descBytes hr ho, fun _ hl hr => descBytes_descBack hl hr⟩

end Sys2Proof.Machine
end

section
/-!
PROOFS. Latches of a requester (R66) and the reads of Datum that latch a group (R324); from that O57.
-/

namespace Sys2Proof.Machine

/-- The latch is the one of a kind that a requester holds. -/
def Latch.isOf (rq : Req) (kind : Nat) (x : Latch) : Bool := decide (x.rq = rq) && x.kind == kind

theorem Latch.isOf_iff {rq : Req} {kind : Nat} {x : Latch} : x.isOf rq kind = true ↔ x.rq = rq ∧ x.kind = kind := by
  simp [Latch.isOf]

namespace Chip

/-! A latch after a latch is set. -/

section
variable (c : Chip) (rq : Req) (kind : Nat) (vals : List (Nat × Nat))

theorem latchOf_eq : c.latchOf rq kind = ((c.latches.find? (Latch.isOf rq kind)).map (·.vals)).getD [] := by
  unfold latchOf Latch.isOf
  split <;> simp [*]

theorem setLatch_latches : (c.setLatch rq kind vals).latches
    = c.latches.filter (fun x => !x.isOf rq kind) ++ (if vals.isEmpty then [] else [⟨rq, kind, vals⟩]) := by
  unfold setLatch Latch.isOf
  split <;> simp [*]

@[simp] theorem latchOf_setLatch_same : (c.setLatch rq kind vals).latchOf rq kind = vals := by
  have gone : (c.latches.filter (fun x => !x.isOf rq kind)).find? (Latch.isOf rq kind) = none :=
    List.find?_eq_none.2 fun x hx => by simpa using (List.mem_filter.1 hx).2
  have new : (⟨rq, kind, vals⟩ : Latch).isOf rq kind = true := Latch.isOf_iff.2 ⟨rfl, rfl⟩
  rw [latchOf_eq, setLatch_latches, List.find?_append, gone]
  cases vals <;> simp [new]

theorem latchOf_setLatch_other {r : Req} {n : Nat} (h : r ≠ rq ∨ n ≠ kind) :
    (c.setLatch rq kind vals).latchOf r n = c.latchOf r n := by
  have apart : ∀ x : Latch, x.isOf r n = true → x.isOf rq kind = false := by
    intro x hx
    obtain ⟨rfl, rfl⟩ := Latch.isOf_iff.1 hx
    exact Bool.eq_false_iff.2 fun ho => (not_and_or.2 h) (Latch.isOf_iff.1 ho)
  have old : (c.latches.filter (fun x => !x.isOf rq kind)).find? (Latch.isOf r n) = c.latches.find? (Latch.isOf r n) := by
    rw [List.find?_filter]
    congr 1
    funext x
    cases hx : x.isOf r n with
    | false => simp
    | true => simp [apart x hx]
  have new : (⟨rq, kind, vals⟩ : Latch).isOf r n = false :=
    Bool.eq_false_iff.2 fun hx => Bool.false_ne_true ((apart _ hx).symm.trans (Latch.isOf_iff.2 ⟨rfl, rfl⟩))
  rw [latchOf_eq, latchOf_eq, setLatch_latches, List.find?_append, old]
  cases vals <;> simp [new]

theorem useLatch_latched {c : Chip} {rq : Req} {kind k v w : Nat} (h : (c.latchOf rq kind).find? (fun x => x.1 == k) = some (k, w)) :
    c.useLatch rq kind k v = (c.setLatch rq kind ((c.latchOf rq kind).filter (fun y => y.1 != k)), w) := by
  simp only [useLatch, h]

end

/-! Reads of Datum. -/

/-- A 32-bit register of Datum that is no mailbox result. -/
def datumWord (k : Nat) : Bool :=
  k % 4 == 0 && decide (0x50000 ≤ k) && decide (k < 0x60000) && !mbxAt k && (descOf k).any (fun r => decide (r.1.width = .w32))

/-- The registers of the groups of R324 are such. -/
theorem datumWord_ns : ∀ (clk : Fin 3) (pps : Bool), datumWord (nsReg clk pps) = true := by decide

theorem datumWord_group : ∀ (clk : Fin 3) (pps : Bool), ∀ j ∈ dtmGroup (nsReg clk pps), datumWord j = true ∧ dtmGroup j = [] := by decide

section
variable {c : Chip} {rq : Req} {k : Nat}

/-- The address of a Datum register is its key for every requester but a VF. -/
theorem keyOf_datum (hp : rq.priv = true) (hl : 0x50000 ≤ k) (hu : k < 0x60000) : c.keyOf rq k = some k := by
  cases rq with
  | vf n => cases hp
  | _ =>
    simp only [keyOf]
    repeat rw [if_neg (by omega)]
    exact if_pos (by omega)

theorem read32_datumWord (hp : rq.priv = true) (hk : datumWord k = true) (ho : c.addrOff k = false) :
    c.read32 rq k = c.readDtm rq k := by
  simp only [datumWord, Bool.and_eq_true, beq_iff_eq, decide_eq_true_eq, Bool.not_eq_true', Option.any_eq_true] at hk
  obtain ⟨⟨⟨⟨ha, hl⟩, hu⟩, hm⟩, ⟨d, ix⟩, hd, hw⟩ := hk
  have ht : c.target rq k = some (k, d, ix) := by simp only [target, keyOf_datum hp hl hu, hd]
  have plain : ¬ d.width ≠ .w32 := Decidable.not_not.2 hw
  rw [read32_listed ha ht ho, readKey, if_neg plain, hm, if_neg Bool.false_ne_true, if_pos ⟨hl, hu⟩]

/-- A read of an NS register latches the other registers of its group. -/
theorem readDtm_latches (h : dtmGroup k ≠ []) :
    c.readDtm rq k = (c.setLatch rq latDtm ((dtmGroup k).map (fun j => (j, (c.view j).toNat))), (c.view k).toNat) := by
  unfold readDtm
  split
  · contradiction
  · rfl

/-- A read of another register of a group answers what is latched. -/
theorem readDtm_latched {v : Nat} (h : dtmGroup k = []) (hv : (c.latchOf rq latDtm).find? (fun x => x.1 == k) = some (k, v)) :
    c.readDtm rq k = (c.setLatch rq latDtm ((c.latchOf rq latDtm).filter (fun y => y.1 != k)), v) := by
  unfold readDtm
  rw [h]
  exact useLatch_latched hv

end

theorem dtmGroup_ns_ne_nil : ∀ (clk : Fin 3) (pps : Bool), dtmGroup (nsReg clk pps) ≠ [] := by decide

end Chip

open Chip

/-- What is latched for a key is found under it. -/
theorem find?_keyed {l : List Nat} {j : Nat} (g : Nat → Nat) (h : j ∈ l) :
    (l.map (fun i => (i, g i))).find? (fun x => x.1 == j) = some (j, g j) := by
  induction l with
  | nil => cases h
  | cons i l ih =>
    rcases eq_or_ne i j with rfl | hi
    · simp
    · rw [List.map_cons, List.find?_cons_of_neg (by simpa using hi)]
      exact ih (List.mem_of_ne_of_mem hi.symm h)

/-- Settles O57: the latch of a group set and used up. -/
theorem datumReadsLatch : Obligations.DatumReadsLatch := by
  unfold Obligations.DatumReadsLatch
  refine ⟨?groups, ?latches, ?latched, fun g clk pps j h => find?_keyed g h⟩
  case groups => decide
  case latches =>
    intro s rq clk pps hp ho k c
    refine ⟨?_, latchOf_setLatch_same .., fun r n h => latchOf_setLatch_other _ _ _ _ h⟩
    exact exec_datumNsRead ((read32_datumWord hp (datumWord_ns clk pps) ho).trans (readDtm_latches (dtmGroup_ns_ne_nil clk pps)))
  case latched =>
    intro s rq clk pps j hp ho hj v hv
    obtain ⟨word, alone⟩ := datumWord_group clk pps j hj
    exact exec_latchingRead ((read32_datumWord hp word ho).trans (readDtm_latched alone hv))

end Sys2Proof.Machine
end

section
/-!
PROOFS. The counters of the harts and their overflow interrupt (R417, log 145); from that O59.
-/

namespace Sys2Proof.Machine

theorem bitOf_toNat {w : Nat} (x : BitVec w) (i : Nat) : bitOf x.toNat i = x.getLsbD i := by
  rw [bitOf, BitVec.getLsbD, Nat.testBit_eq_decide_div_mod_eq]

namespace Chip

section
variable {c : Chip} {h r n : Nat}

theorem pmuGet_pmuSet_same (v : BitVec 64) : (c.pmuSet h r v).pmuGet h r = v := mget_mset_same _ _ _ _

theorem pmuGet_pmuSet_other {g k : Nat} (v : BitVec 64) (hk : 8192 * g + k ≠ 8192 * h + r) : (c.pmuSet h r v).pmuGet g k = c.pmuGet g k :=
  mget_mset_other _ _ _ _ _ hk

/-- Counter r, when it rises by n, sets its overflow interrupt waiting. -/
def overflows (c : Chip) (h r n : Nat) : Prop :=
  2 ^ 64 ≤ (c.pmuGet h r).toNat + n ∧ (mget (fun _ => 0) c.dbg.pmuIrq h).getLsbD (pmuCtrs.idxOf r) = true ∧ mfind c.dbg.pmuWait h = none

/-- The overflow interrupt of hart h waits for k more retired instructions. -/
def interruptWaits (c : Chip) (h : Nat) (k : Fin 7) : Chip := { c with dbg.pmuWait := mput c.dbg.pmuWait h (k.val, k) }

theorem pmuCount_overflows (ho : c.overflows h r n) :
    pmuCount h r n c = (c.pmuSet h r (c.pmuGet h r + BitVec.ofNat 64 n)).interruptWaits h (Config.coreSkid h c.now) := by
  obtain ⟨wraps, enabled, idle⟩ := ho
  exact if_pos ⟨wraps, by rwa [bitOf_toNat], by rw [idle]; rfl⟩

theorem pmuCount_counts (ho : ¬ c.overflows h r n) : pmuCount h r n c = c.pmuSet h r (c.pmuGet h r + BitVec.ofNat 64 n) := by
  refine if_neg fun ⟨wraps, enabled, idle⟩ => ho ⟨wraps, by rwa [bitOf_toNat] at enabled, Option.isNone_iff_eq_none.1 idle⟩

/-- Either way the counter is set; only the interrupts that wait may change besides. -/
theorem pmuCount_eq (h r n : Nat) (c : Chip) : ∃ w, pmuCount h r n c =
    { c.pmuSet h r (c.pmuGet h r + BitVec.ofNat 64 n) with dbg.pmuWait := w } := by
  by_cases ho : c.overflows h r n
  · exact ⟨_, pmuCount_overflows ho⟩
  · exact ⟨_, pmuCount_counts ho⟩

section
variable {left retired : Nat} {k : Fin 7} (hw : mfind c.dbg.pmuWait h = some (left, k))
include hw

theorem pmuTake_taken (hl : left ≤ retired) : c.pmuTake h retired
    = ({ c with dbg.pmuWait := mdel c.dbg.pmuWait h, dbg.mepcSkid := mput c.dbg.mepcSkid h k }, true) := by
  simp only [pmuTake, hw, if_pos hl]

theorem pmuTake_waits (hl : retired < left) : c.pmuTake h retired
    = ({ c with dbg.pmuWait := mput c.dbg.pmuWait h (left - retired, k) }, false) := by
  simp only [pmuTake, hw, if_neg (Nat.not_le.2 hl)]

end

end

end Chip

open Chip

/-- Settles O59: a counter that rises without its interrupt or with it, an interrupt that is taken or waits on. -/
theorem hartCounters : Obligations.HartCounters := by
  unfold Obligations.HartCounters
  refine ⟨?rises, ?overflows, ?keeps, ?taken, ?waits⟩
  case rises =>
    intro c h r n
    obtain ⟨w, e⟩ := pmuCount_eq h r n c
    rw [e]
    exact ⟨pmuGet_pmuSet_same _, fun g k hk => pmuGet_pmuSet_other _ hk, rfl, rfl⟩
  case overflows =>
    intro c h r n wraps enabled idle
    rw [pmuCount_overflows ⟨wraps, enabled, idle⟩]
    exact ⟨_, mfind_mput_same _ _ _⟩
  case keeps =>
    intro c h r n hn
    have ho : ¬ c.overflows h r n := by
      rintro ⟨wraps, enabled, idle⟩
      rcases hn with hn | hn | hn
      · omega
      · exact Bool.false_ne_true (hn.symm.trans enabled)
      · rw [idle] at hn
        cases hn
    rw [pmuCount_counts ho]
    rfl
  case taken =>
    intro c h retired left k hw hl
    rw [pmuTake_taken hw hl]
    exact ⟨rfl, mfind_mdel_same _ _, mfind_mput_same _ _ _⟩
  case waits =>
    intro c h retired left k hw hl
    rw [pmuTake_waits hw hl]
    exact ⟨rfl, mfind_mput_same _ _ _, rfl⟩

end Sys2Proof.Machine
end

section
/-!
PROOFS. Datum's clocks, its pulses and its servos (R300 to R306, R315 to R321, R325); from that O16 and O17.
-/

namespace Sys2Proof.Machine

namespace Chip

section
variable {c : Chip}

/-! LOCK, the pulses and TIME_REF. -/

theorem opDatumLock_on (h : c.datumOn = true) : c.opDatumLock = c.setF Reg.DTM_STATUS Fd.DTM_STATUS_LOCK 1 := if_pos h

/-- GO is stored as a write of SET_CMD is (R303). -/
theorem opClkSet_taken {rq : Req} {x : Nat} {atPps : Bool} (hp : rq.priv = true) (ho : c.addrOff (Reg.DTM_CLK_SET_CMD x) = false) :
    c.opClkSet rq x atPps = c.storeFields rq (Reg.DTM_CLK_SET_CMD x) (Reg.DTM_CLK_SET_CMD x) (fieldsAt (Reg.DTM_CLK_SET_CMD x))
      (1 + 2 * b2n atPps) := by
  simp only [opClkSet, regCmd_ok _ _ _ _ hp ho]

theorem opPpsOutPulse_rises (ho : c.pins.ppsOut = false) (hd : c.dtm.ppsDue = true) : c.opPpsOutPulse
    = { c.emit (.pps true) with
        pins.ppsOut := true, dtm.ppsDue := false, dtm.ppsEnd := c.now + c.fld Reg.DTM_CFG Fd.DTM_CFG_PPS_WIDTH * msPs } := by
  simp [opPpsOutPulse, ho, hd]

theorem opPpsOutPulse_falls (ho : c.pins.ppsOut = true) (he : c.dtm.ppsEnd ≤ c.now) : c.opPpsOutPulse
    = { c.emit (.pps false) with pins.ppsOut := false, dtm.ppsDue := false } := by
  simp [opPpsOutPulse, ppsLow, ho, he]

theorem opTimeRefLoss_reports (hr : c.on Reg.DTM_STATUS Fd.DTM_STATUS_REF_LOST = false) (hd : c.domOn 116 = true) : c.opTimeRefLoss
    = ((({ c with pins.timeRef := false }).setF Reg.DTM_STATUS Fd.DTM_STATUS_REF_LOST 1).bump (Reg.DTM_CNT 6) 1).report
        0x05 0 0x12 outDegraded := if_neg (by simp [hr, hd])

/-! The servos' mailbox operations, and holdover. -/

variable {args : List Nat}

theorem actServoMode_set (hx : args.getD 0 0 < 2) (hm : args.getD 1 0 < 3) (hd : c.datumOn = true) :
    c.actServoMode args = (c.servoModeSet (args.getD 0 0) (args.getD 1 0), some (0, [])) := by
  have inRange : ¬ (2 ≤ args.getD 0 0 ∨ 3 ≤ args.getD 1 0) := by omega
  simp only [actServoMode, if_neg inRange, hd]
  rfl

theorem actServoMode_outOfRange (h : 2 ≤ args.getD 0 0 ∨ 3 ≤ args.getD 1 0) : c.actServoMode args = (c, some (1, [])) := if_pos h

/-- The time that a sample states, in 2^-32 ns. -/
def sampleTime (args : List Nat) : Int := (signedOf 32 (args.getD 1 0) * 65536 + (bitsOf (args.getD 0 0) 31 16 : Nat)) * 65536

/-- How long ago the sample was taken, by the served clock. -/
def sampleAge (c : Chip) (args : List Nat) : Int := timeDiff c.served32 (args.getD 2 0)

theorem actSample_taken (hx : bitsOf (args.getD 0 0) 15 1 = 0) (hd : c.datumOn = true) (hm : (c.servo (args.getD 0 0 % 2)).mode = 1)
    (ha : 0 ≤ c.sampleAge args) (hb : c.sampleAge args ≤ 4000000000) : c.actSample args
      = (c.tick.servoTake (args.getD 0 0 % 2)
          (sampleTime args - c.histAt (args.getD 0 0 % 2) (c.servedNs - (c.sampleAge args).toNat)), some (0, [])) := by
  unfold sampleAge at *
  have young : ¬ (timeDiff c.served32 (args.getD 2 0) < 0 ∨ 4000000000 < timeDiff c.served32 (args.getD 2 0)) := by omega
  simp only [actSample, hx, hd, hm, if_neg young]
  rfl

theorem actServoStatus_answers (hx : args.getD 0 0 < 2) (hd : c.datumOn = true) : c.actServoStatus args
    = (c, some (0, [(c.servo (args.getD 0 0)).state, wrapTo 32 ((c.servo (args.getD 0 0)).last.tdiv (unitNs : Nat)),
        c.inc (args.getD 0 0) % 2 ^ 32, c.inc (args.getD 0 0) / 2 ^ 32])) := by
  simp only [actServoStatus, if_neg (Nat.not_le.2 hx), hd]
  rfl

theorem opServoHoldover_enters {x : Nat} (hc : c.coreServes 3 = true) (hs : (c.servo x).state = 1 ∨ (c.servo x).state = 2)
    (ht : (c.servo x).lastAt + Config.servoHoldS x * sPs ≤ c.now) : c.opServoHoldover x
      = (c.setInc x (c.incAverage x)).setServo x { (c.setInc x (c.incAverage x)).servo x with state := 3, good := 0, bad := 0 } :=
  if_pos (by simp [hc, hs, ht])

end

end Chip

open Chip

/-- Settles O16: command by command, one case of its operation for each clause. -/
theorem datumActs : Obligations.DatumActs := by
  unfold Obligations.DatumActs
  refine ⟨?inc, ?adj, ?set, ?serve, ?snap, ?lock, ?ppsIn, ?rises, ?falls, ?refLost, ?refBack⟩
  case inc => exact fun s rq x value hp ho => runChip_regCmd hp ho rfl
  case adj => exact fun s rq x value hp ho => runChip_regCmd hp ho rfl
  case set => exact fun s rq x atPps hp ho => runChip_eq (opClkSet_taken hp ho)
  case serve => exact fun s rq value hp ho => runChip_regCmd hp ho rfl
  case snap => exact fun s rq hp ho => runChip_regCmd hp ho rfl
  case lock => exact fun s h => runChip_eq (opDatumLock_on h)
  case ppsIn => exact fun s h => runChip_eq (if_pos h)
  case rises => exact fun s ho hd => runChip_eq (opPpsOutPulse_rises ho hd)
  case falls => exact fun s ho he => runChip_eq (opPpsOutPulse_falls ho he)
  case refLost => exact fun s hr hd => runChip_eq (opTimeRefLoss_reports hr hd)
  case refBack => exact fun s => runChip_eq rfl

/-- Settles O17: operation by operation, one case for each clause. -/
theorem servoActs : Obligations.ServoActs := by
  unfold Obligations.ServoActs
  refine ⟨?mode, ?modeOutOfRange, ?sample, ?status, ?holdover⟩
  case mode => exact fun s rq tag m h hx hm hd => runChip_mbx h (actServoMode_set hx hm hd)
  case modeOutOfRange => exact fun s rq tag m h hx => runChip_mbx h (actServoMode_outOfRange hx)
  case sample => exact fun s rq tag m h hx hd hm ha hb => runChip_mbx h (actSample_taken hx hd hm ha hb)
  case status => exact fun s rq tag m h hx hd => runChip_mbx h (actServoStatus_answers hx hd)
  case holdover => exact fun s x hc hs ht => runChip_eq (opServoHoldover_enters hc hs ht)

end Sys2Proof.Machine
end

section
/-!
PROOFS. The fault collector, its journal and its mailbox, and the core watchdogs (R327 to R355, R407); from that O18 and O19.
-/

namespace Sys2Proof.Machine

namespace Chip

section
variable {c : Chip} {m : Store}

/-! FAULT_EVENT: an event of class 0x15 resets, but under the Plain profile. -/

theorem criticalEvent_none : c.criticalEvent false m = (m, c) := rfl

theorem criticalEvent_plain (h : c.plain = true) : c.criticalEvent true m = (m, { c with boot.plainHold := true }) := if_pos h

theorem criticalEvent_resets (h : c.plain = false) (hf : c.firstInCycle = true) :
    c.criticalEvent true m = (m.lostHbm, (c.cutFrames (fun _ => true)).restarted 6) :=
  (if_neg (Bool.eq_false_iff.1 h)).trans (resetSource_first c 6 m (.inl h) hf)

theorem opFaultEvent_eq {evs : List FaultEv} {b : Bool} (h : ((evs.foldl arrive c).takeDies.2.any (fun ev => ev.cls == 0x15)) = b) :
    opFaultEvent evs m c
      = ((evs.foldl arrive c).takeDies.1.faultEvents (evs.foldl arrive c).takeDies.2).criticalEvent b m := h ▸ rfl

/-! STORE_RELOAD_COMPLETE. -/

section
variable {k : Nat} (h : (c.flt.reloads.filter (fun r => r.1 == k)).isEmpty = false)
include h

/-- Store k no longer reloads. -/
def reloadOver (c : Chip) (k : Nat) : Chip :=
  { c.setF (Reg.TS_STATUS k) Fd.TS_STATUS_RELOADING 0 with flt.reloads := c.flt.reloads.filter (fun r => r.1 != k) }

theorem opStoreReloadComplete_back : c.opStoreReloadComplete k true
    = ((c.flt.reloads.filter (fun r => r.1 == k)).foldl (fun c r => reloaded k c r.2)
        ((((c.reloadOver k).setF (Reg.TS_STATUS k) Fd.TS_STATUS_FAILED 0).setF (Reg.TS_CTRL k) Fd.TS_CTRL_EN 1).renewStore k)).nextUnserved :=
  if_neg (Bool.eq_false_iff.1 h)

theorem opStoreReloadComplete_fails : c.opStoreReloadComplete k false = (storeSlices k).foldl slicePowerOff (c.reloadOver k) :=
  if_neg (Bool.eq_false_iff.1 h)

end

/-! WIRE_FAULT: collected once, and acted on when it persists. -/

section
variable {unit line : Nat} {level : Bool}

/-- A fault of the wire pair is known. -/
def wireKnown (c : Chip) (unit line : Nat) : Bool := c.flt.wires.any (fun w => w.unit == unit && w.line == line)

/-- The wire fault is known from now on. -/
def wireNoted (c : Chip) (unit line : Nat) (level : Bool) : Chip :=
  { c with flt.wires := c.flt.wires ++ [⟨unit, line, c.now, level, false⟩] }

theorem opWireFault_collected (hu : unitListed unit = true) (hk : c.wireKnown unit line = false) : c.opWireFault unit line level
    = (c.wireNoted unit line level).tick.collect unit line 0x16 outReported
        (setBit (c.wireNoted unit line level).free.toNat 0 level) := by
  unfold wireKnown at hk
  exact if_neg (by simp only [hu, hk]; decide)

theorem opWireFault_unlisted (hu : unitListed unit = false) : c.opWireFault unit line level = c := if_pos (by rw [hu]; rfl)

theorem opWireFault_known (hk : c.wireKnown unit line = true) : c.opWireFault unit line level = c := by
  unfold wireKnown at hk
  exact if_pos (by rw [hk, Bool.or_true])

/-- The wire fault is marked as acted on. -/
def wireActed (c : Chip) (unit line : Nat) : Chip :=
  { c with flt.wires := c.flt.wires.map (fun v => if v.unit = unit ∧ v.line = line then { v with acted := true } else v) }

section
variable {w : WireFault} (hw : c.flt.wires.find? (fun w => w.unit == unit && w.line == line) = some w) (ha : w.acted = false)
  (ht : w.since + msPs ≤ c.now)
include hw ha ht

theorem opWireFaultPersist_acts : c.opWireFaultPersist unit line
    = if 0x20 ≤ unit ∧ unit ≤ 0x28 then (c.wireActed unit line).sliceFaults [⟨unit - 0x20, line, false, false⟩]
      else if 0x30 ≤ unit ∧ unit ≤ 0x34 then (c.wireActed unit line).storeFail (unit - 0x30)
      else c.wireActed unit line := by
  have due : ¬ (w.acted = true ∨ c.now < w.since + msPs) := not_or.2 ⟨Bool.eq_false_iff.1 ha, Nat.not_lt.2 ht⟩
  simp only [opWireFaultPersist, hw, if_neg due]
  rfl

theorem opWireFaultPersist_slice (hu : 0x20 ≤ unit ∧ unit ≤ 0x28) :
    c.opWireFaultPersist unit line = (c.wireActed unit line).sliceFaults [⟨unit - 0x20, line, false, false⟩] :=
  (opWireFaultPersist_acts hw ha ht).trans (if_pos hu)

theorem opWireFaultPersist_store (hu : 0x30 ≤ unit ∧ unit ≤ 0x34) :
    c.opWireFaultPersist unit line = (c.wireActed unit line).storeFail (unit - 0x30) :=
  (opWireFaultPersist_acts hw ha ht).trans ((if_neg (by omega)).trans (if_pos hu))

theorem opWireFaultPersist_other (hs : ¬ (0x20 ≤ unit ∧ unit ≤ 0x28)) (hk : ¬ (0x30 ≤ unit ∧ unit ≤ 0x34)) :
    c.opWireFaultPersist unit line = c.wireActed unit line :=
  (opWireFaultPersist_acts hw ha ht).trans ((if_neg hs).trans (if_neg hk))

end

end

/-! The quench and FAULT_N (R332, R334). -/

theorem releaseQuench_done (hc : c.flt.critical = false) (hp : c.boot.plainHold = false)
    (hq : (c.flt.quenchAt == some c.aonCycle) = false) : c.releaseQuench = c.setF Reg.FLT_STATUS Fd.FLT_STATUS_QUENCH 0 :=
  if_neg (by rw [hc, hp, hq]; decide)

/-- The release of FAULT_N is noted, with what it undoes. -/
def releaseNoted (c : Chip) : Chip := { c with flt.released := some (c.aonCycle, c.flt.held, c.flt.relPending) }

section
variable (hn : c.on Reg.FLT_STATUS Fd.FLT_STATUS_FAULTN = true) (hq : (c.flt.faultnAt == some c.aonCycle) = false)
include hn hq

theorem releaseFaultn_set : c.releaseFaultn
    = if c.now < c.flt.faultnEnd then { c.releaseNoted with flt.relPending := true } else c.releaseNoted.dropFaultn :=
  if_neg (by rw [hn, hq]; decide)

theorem releaseFaultn_drops (ht : c.flt.faultnEnd ≤ c.now) : c.releaseFaultn = c.releaseNoted.dropFaultn :=
  (releaseFaultn_set hn hq).trans (if_neg (Nat.not_lt.2 ht))

theorem releaseFaultn_waits (ht : c.now < c.flt.faultnEnd) : c.releaseFaultn = { c.releaseNoted with flt.relPending := true } :=
  (releaseFaultn_set hn hq).trans (if_pos ht)

end

theorem opFaultnPulseEnd_drops (hn : c.on Reg.FLT_STATUS Fd.FLT_STATUS_FAULTN = true) (ht : c.flt.faultnEnd ≤ c.now)
    (hh : c.flt.held = false ∨ c.flt.relPending = true) : c.opFaultnPulseEnd = c.dropFaultn := by
  have ended : ¬ (!c.on Reg.FLT_STATUS Fd.FLT_STATUS_FAULTN || decide (c.now < c.flt.faultnEnd)) = true := by simp [hn, ht]
  have free : ¬ (c.flt.held && !c.flt.relPending) = true := by rcases hh with hh | hh <;> simp [hh]
  exact (if_neg ended).trans (if_neg free)

/-! JOURNAL_WRITE (R349). -/

/-- Record r stands in the journal, l waits. -/
def journaled (c : Chip) (r : JrnRec) (l : List JrnRec) : Chip :=
  let c1 := { c with flt.journal := mset jrnSlotDefault c.flt.journal c.flt.jrnNext (BitVec.ofNat 256 (leNat r.bytes)),
                     flt.jrnNext := (c.flt.jrnNext + 1) % 4096, flt.jrnQ := l }
  ((c1.setF Reg.FLT_JRN_STATUS Fd.FLT_JRN_STATUS_VALID 1).setF Reg.FLT_JRN_STATUS Fd.FLT_JRN_STATUS_NEWEST c.flt.jrnNext).bump
    (Reg.FLT_CNT 32) 1

theorem opJournalWrite_oldest {r : JrnRec} {l : List JrnRec} (h : c.flt.jrnQ = r :: l) : c.opJournalWrite
    = if l.isEmpty then (c.journaled r l).setF Reg.FLT_STATUS Fd.FLT_STATUS_JRN_BUSY 0 else c.journaled r l := by
  simp only [opJournalWrite, h]
  rfl

/-! The FLT mailbox (R340, R355). -/

variable {args : List Nat}

theorem actReadJournal_valid (hi : args.getD 0 0 < 4096) (hv : recordValid (c.jrnSlot (args.getD 0 0)) = true) :
    c.actReadJournal args = (c, some (0, words8 (c.jrnSlot (args.getD 0 0)))) := by
  simp only [actReadJournal, if_neg (Nat.not_le.2 hi), if_pos hv]

theorem actReadJournal_invalid (hi : args.getD 0 0 < 4096) (hv : recordValid (c.jrnSlot (args.getD 0 0)) = false) :
    c.actReadJournal args = (c, some (2, [])) := by
  simp only [actReadJournal, if_neg (Nat.not_le.2 hi), if_neg (Bool.eq_false_iff.1 hv)]

theorem actGiveback_starts (hp : args.getD 0 0 < 8) (ha : c.on Reg.FLT_TKO_STATUS Fd.FLT_TKO_STATUS_ACTIVE = false)
    (hs : c.serving (args.getD 0 0) = some 8) (hf : c.sliceFailed (args.getD 0 0) = false)
    (hd : c.domOn (80 + args.getD 0 0) = true) : c.actGiveback args
      = ({ (c.discardPanel (args.getD 0 0)).setF Reg.FLT_TKO_STATUS Fd.FLT_TKO_STATUS_ACTIVE 1 with flt.giveAt := c.now }, none) := by
  simp only [actGiveback, if_neg (Nat.not_le.2 hp), ha, hs, hf, hd]
  rfl

/-- The unit that an INJECT names. -/
def injUnit (args : List Nat) : Nat := bitsOf (args.getD 0 0) 7 0

/-- The line that it names. -/
def injLine (args : List Nat) : Nat := bitsOf (args.getD 0 0) 10 8

/-- The class that it names. -/
def injClass (args : List Nat) : Nat := bitsOf (args.getD 0 0) 15 11

/-- Arguments that INJECT refuses. -/
def injRefused (args : List Nat) : Prop :=
  65536 ≤ args.getD 0 0 ∨ 2 ≤ args.getD 1 0 ∨ unitListed (injUnit args) = false ∨ injClass args = 0 ∨ 0x1A ≤ injClass args

/-- The event that INJECT makes. -/
def injEvent (c : Chip) (args : List Nat) : FaultEv :=
  ⟨injUnit args, injLine args, injClass args, classOutcome (injClass args), c.free, 0, false⟩

section
variable (he : c.on Reg.FLT_CTRL Fd.FLT_CTRL_INJECT_EN = true) (ha : ¬ injRefused args)
include he ha

theorem actInject_wire (hw : args.getD 1 0 = 1) : c.actInject args
    = ((c.opWireFault (injUnit args) (injLine args) (c.free.toNat % 2 == 1)).tick, some (0, [])) :=
  (if_neg (by rw [he]; decide)).trans ((if_neg ha).trans (if_pos hw))

theorem actInject_event (hw : args.getD 1 0 ≠ 1) : c.actInject args
    = (if c.unseen (c.injEvent args) then c else c.tick.faultEvents [c.injEvent args], some (0, [])) :=
  (if_neg (by rw [he]; decide)).trans ((if_neg ha).trans (if_neg hw))

theorem actInject_seen (hw : args.getD 1 0 ≠ 1) (hu : c.unseen (c.injEvent args) = false) :
    c.actInject args = (c.tick.faultEvents [c.injEvent args], some (0, [])) := by
  rw [actInject_event he ha hw, if_neg (Bool.eq_false_iff.1 hu)]

theorem actInject_unseen (hw : args.getD 1 0 ≠ 1) (hu : c.unseen (c.injEvent args) = true) :
    c.actInject args = (c, some (0, [])) := by
  rw [actInject_event he ha hw, if_pos hu]

end

/-! The core watchdogs (R346, R407). -/

theorem opWdtKick_key {rq : Req} {n : Nat} (hp : rq.priv = true) (ho : c.addrOff (Reg.FLT_WDT_KICK n) = false) :
    c.opWdtKick rq n 0x6B1C = { c with flt.kicks := mput c.flt.kicks n c.now } := regCmd_ok _ _ _ _ hp ho

theorem opWdtKick_wrongKey {rq : Req} {n : Nat} {key : BitVec 16} (hp : rq.priv = true) (ho : c.addrOff (Reg.FLT_WDT_KICK n) = false)
    (hk : key ≠ 0x6B1C) : c.opWdtKick rq n key = c.err rq errBadValue (Reg.FLT_WDT_KICK n) :=
  (regCmd_ok _ _ _ _ hp ho).trans (if_neg hk)

end

end Chip

open Chip

/-- An INJECT that raises no critical event is its mailbox's operation. -/
theorem exec_inject {s : State} {rq : Req} {tag : BitVec 16} {c : Chip} {r : Option (Nat × List Nat)}
    (h : s.chip.mbxStarts rq .flt 3 = true) (hc : (s.chip.mbxStarts rq .flt 3 && s.chip.injectCritical (s.chip.mbxArgs .flt)) = false)
    (e : (s.chip.pendingIn .flt).actInject (s.chip.mbxArgs .flt) = (c, r)) :
    exec (.inject rq tag) s = .next (s.withChip (c.mbxTaken .flt tag 3 (s.chip.mbxArgs .flt) r)) := by
  refine runBoth_eq_withChip ?_
  rw [opInject, hc, criticalEvent_none, mbxRun_eq _ _ _ _ _ _ _ _ h e]

/-- Settles O18: command by command, one case of its operation for each clause. -/
theorem faultActs : Obligations.FaultActs := by
  unfold Obligations.FaultActs
  refine ⟨?events, ?critical, ?criticalPlain, ?reloaded, ?reloadFails, ?wire, ?wireUnlisted, ?wireKnown, ?persistSlice, ?persistStore,
    ?persistOther, ?quench, ?faultn, ?faultnWaits, ?faultnSet, ?pulseEnd, ?journal, ?scrub⟩
  case events => exact fun s evs h => runBoth_eq_withChip (opFaultEvent_eq h)
  case critical => exact fun s evs h hp hf => runBoth_eq ((opFaultEvent_eq h).trans (criticalEvent_resets hp hf))
  case criticalPlain => exact fun s evs h hp => runBoth_eq_withChip ((opFaultEvent_eq h).trans (criticalEvent_plain hp))
  case reloaded => exact fun s k h => runChip_eq (opStoreReloadComplete_back h)
  case reloadFails => exact fun s k h => runChip_eq (opStoreReloadComplete_fails h)
  case wire => exact fun s unit line level hu hk => runChip_eq (opWireFault_collected hu hk)
  case wireUnlisted => exact fun s unit line level hu => runChip_eq (opWireFault_unlisted hu)
  case wireKnown => exact fun s unit line level hk => runChip_eq (opWireFault_known hk)
  case persistSlice => exact fun s unit line w hw ha ht hl hu => runChip_eq (opWireFaultPersist_slice hw ha ht ⟨hl, hu⟩)
  case persistStore => exact fun s unit line w hw ha ht hl hu => runChip_eq (opWireFaultPersist_store hw ha ht ⟨hl, hu⟩)
  case persistOther => exact fun s unit line w hw ha ht hs hk => runChip_eq (opWireFaultPersist_other hw ha ht hs hk)
  case quench => exact fun s rq hp ho hc hh hq => runChip_regCmd hp ho (releaseQuench_done hc hh hq)
  case faultn => exact fun s rq hp ho hn hq ht => runChip_regCmd hp ho (releaseFaultn_drops hn hq ht)
  case faultnWaits => exact fun s rq hp ho hn hq ht => runChip_regCmd hp ho (releaseFaultn_waits hn hq ht)
  case faultnSet => exact fun s rq hp ho => runChip_regCmd hp ho rfl
  case pulseEnd => exact fun s hn ht hh => runChip_eq (opFaultnPulseEnd_drops hn ht hh)
  case journal => exact fun s r l h => runChip_eq (opJournalWrite_oldest h)
  case scrub => exact fun s hits => runChip_eq rfl

/-- Settles O19: operation by operation, one case for each clause. -/
theorem faultMailboxActs : Obligations.FaultMailboxActs := by
  unfold Obligations.FaultMailboxActs
  refine ⟨?read, ?readInvalid, ?giveback, ?wire, ?event, ?unseen, ?kick, ?wrongKey, ?expires, ?keeps⟩
  case read => exact fun s rq tag h hi hv => runChip_mbx h (actReadJournal_valid hi hv)
  case readInvalid => exact fun s rq tag h hi hv => runChip_mbx h (actReadJournal_invalid hi hv)
  case giveback => exact fun s rq tag h hp ha hs hf hd => runChip_mbx h (actGiveback_starts hp ha hs hf hd)
  case wire => exact fun s rq tag h hc he ha hw => exec_inject h hc (actInject_wire he ha hw)
  case event => exact fun s rq tag h hc he ha hw hu => exec_inject h hc (actInject_seen he ha hw hu)
  case unseen => exact fun s rq tag h hc he ha hw hu => exec_inject h hc (actInject_unseen he ha hw hu)
  case kick => exact fun s rq c hp ho => runChip_eq (opWdtKick_key hp ho)
  case wrongKey => exact fun s rq c key hp ho hk => runChip_eq (opWdtKick_wrongKey hp ho hk)
  case expires => exact fun s c ht hc hk => runChip_eq (if_pos ⟨ht, hc, hk⟩)
  case keeps => exact fun s c h => runChip_eq (if_neg h)

end Sys2Proof.Machine
end

section
/-!
PROOFS. The power states: entry, exit and the RTC alarm (R357 to R364, R372); from that O20.
-/

namespace Sys2Proof.Machine

namespace Chip

section
variable {c : Chip} {args : List Nat}

/-! ENTER (R358). -/

/-- An entry to state t starts, with every quad fenced. -/
def enterStarted (c : Chip) (t : Nat) (discard : Bool) : Chip :=
  { quads.foldl (fun (c : Chip) d => c.setFence d true) c with
    pwr.entry := some ⟨t, discard, c.now, c.pwrState == 1, false⟩ }.showTrans

theorem actEnter_state (h : args.getD 0 0 % 4 ≠ 0) : c.actEnter args
    = (c.enterCheck (args.getD 0 0 % 4)).elim (c.enterStarted (args.getD 0 0 % 4) (args.getD 1 0 % 2 == 1), none)
        (fun r => (c.account (args.getD 0 0 % 4 - 1) false r.2 r.1, some (2, []))) := by
  simp only [actEnter, if_neg h]
  cases c.enterCheck (args.getD 0 0 % 4) <;> rfl

theorem actEnter_noState (h : args.getD 0 0 % 4 = 0) : c.actEnter args = (c, some (1, [])) := if_pos h

/-! The entry completes, is aborted, or cuts power (R360 to R362). -/

/-- The entry is through its drain. -/
def entryDrained (c : Chip) (e : Entry) : Bool :=
  e.fromMoored || (c.drained && c.learnIdle && decide (e.start + 4 * usPs ≤ c.now))

/-- What the state entered keeps is saved. -/
def entrySaved (c : Chip) (e : Entry) : Chip :=
  (if e.fromMoored then c else c.moor).takeSave (Config.saveAreaPages e.target).val

/-- The chip is Moored. -/
def mooredNow (c : Chip) (e : Entry) : Chip :=
  ({ (c.setF Reg.PWR_STATUS Fd.PWR_STATUS_STATE 1).pwrEnd 1 0 with pwr.entry := none }.showTrans).heldAlarm e.alarm

/-- Power is cut at time t. -/
def powerCutAt (c : Chip) (t : Nat) : Chip := { (c.saveRegs deflatedOff).pwrEnd 1 0 with pwr.offAt := some t }

section
variable {e : Entry} (he : c.pwr.entry = some e)
include he

section
variable (ho : c.pwr.offAt = none)
include ho

section
variable (hd : c.entryDrained e = true)
include hd

theorem opEntryDrainDone_drained : c.opEntryDrainDone
    = if c.pagesFree < (Config.saveAreaPages e.target).val then c.abortEntry e 0x12 0x0C false
      else if e.target = 1 then (c.entrySaved e).mooredNow e else (c.entrySaved e).powerCutAt c.now := by
  have through : ¬ (c.pwr.offAt.isSome || !c.entryDrained e) = true := by simp [ho, hd]
  simp only [opEntryDrainDone, he]
  exact if_neg through

theorem opEntryDrainDone_moored (ht : e.target = 1) : c.opEntryDrainDone
    = if c.pagesFree < (Config.saveAreaPages e.target).val then c.abortEntry e 0x12 0x0C false else (c.entrySaved e).mooredNow e :=
  (opEntryDrainDone_drained he ho hd).trans (congrArg (ite _ _) (if_pos ht))

theorem opEntryDrainDone_powerCut (ht : e.target ≠ 1) : c.opEntryDrainDone
    = if c.pagesFree < (Config.saveAreaPages e.target).val then c.abortEntry e 0x12 0x0C false
      else (c.entrySaved e).powerCutAt c.now :=
  (opEntryDrainDone_drained he ho hd).trans (congrArg (ite _ _) (if_neg ht))

end

section
variable (hm : e.fromMoored = false)
include hm

theorem opEntryAbort_bound (hd : c.drained = false) (ht : e.start + c.fld Reg.PWR_CFG Fd.PWR_CFG_DRAIN_MS * msPs ≤ c.now) :
    c.opEntryAbort none = c.abortEntry e 0x13 0x04 false := by
  simp [opEntryAbort, he, ho, hm, hd, ht]

theorem opEntryAbort_selfRefresh {k : Fin 4} (hd : c.drained = true) (hl : c.learnIdle = true) (ht : e.start + 4 * usPs ≤ c.now) :
    c.opEntryAbort (some k) = c.abortEntry e (0x0C + k.val) 0x0B true := by
  simp [opEntryAbort, he, ho, hm, hd, hl, ht]

end

end

/-- The domains that lose power in Deflated. -/
def losingPower (c : Chip) : List Nat := deflatedOff.filter (fun d => c.domOn d || c.domState d == domRetained)

/-- Those domains are off, and what they held is lost. -/
def powerCut (c : Chip) : Chip :=
  let c1 := c.losingPower.foldl (fun (c : Chip) d => c.setDom d domOff) c.saveCtrs.hostLost
  { c1.wrN Reg.TET_STATUS 0 with
    dtm := Dtm.reset, tet := Tet.reset, pwr.entryOff := c.pwr.entryOff ++ c.losingPower, pwr.entry := none, pwr.offAt := none }

/-- The journal is flushed where the state entered is 3. -/
def journalFlushed (c : Chip) (e : Entry) : Chip := if e.target = 3 then flushJournal c.flt.jrnQ.length c else c

theorem opDeflatePowerOff_due {t : Nat} (ho : c.pwr.offAt = some t) (ht : t + 10 * msPs ≤ c.now) : c.opDeflatePowerOff
    = (((c.powerCut.journalFlushed e).setF Reg.PWR_STATUS Fd.PWR_STATUS_STATE e.target).showTrans).heldAlarm e.alarm := by
  simp only [opDeflatePowerOff, he, ho]
  exact if_neg (Nat.not_lt.2 ht)

end

/-! EXIT (R363, R364). -/

/-- The exit is answered at its end, or at once where nothing is left to do. -/
def exitAnswer (c : Chip) : Option (Nat × List Nat) := if c.pwr.exiting then none else some (0, [])

theorem actExit_starts (h : c.pwrState = 1 ∧ c.pwr.entry.isNone = true ∧ c.pwr.exiting = false) :
    c.actExit args = (c.startExit, c.startExit.exitAnswer) :=
  (if_pos h).trans (apply_ite (Prod.mk c.startExit) _ _ _).symm

theorem actExit_refused (h : ¬ (c.pwrState = 1 ∧ c.pwr.entry.isNone = true ∧ c.pwr.exiting = false)) :
    c.actExit args = (c, some (2, [])) := if_neg h

theorem opDeflatedExit_starts (hs : c.pwrState = 2) (he : c.pwr.exiting = false) :
    c.opDeflatedExit = { c with pins.perstN := true }.startDeflatedExit := if_pos ⟨hs, he⟩

/-! The RTC alarm (R372). -/

/-- ALARM_HIT is set. -/
def alarmHit (c : Chip) : Chip := c.setBkpF Reg.PWR_RTC_CTRL Fd.PWR_RTC_CTRL_ALARM_HIT 1

section
variable (hen : bfGet Fd.PWR_RTC_CTRL_ALARM_EN (c.inBkp Reg.PWR_RTC_CTRL) = 1) (ht : c.time.rtc = c.alarmTick)
include hen ht

theorem opRtcAlarm_entering {e : Entry} (he : c.pwr.entry = some e) :
    c.opRtcAlarm = { c.alarmHit with pwr.entry := some { e with alarm := true } } := by
  simp only [opRtcAlarm, hen, ht, he]
  rfl

variable (he : c.pwr.entry = none)
include he

theorem opRtcAlarm_noEntry : c.opRtcAlarm
    = if c.pwr.stowed then { c.alarmHit with pins.wakeOut := c.pins.vbat }
      else if c.pwr.exiting || c.pwrState == 0 then c.alarmHit else c.alarmHit.heldAlarm true := by
  simp only [opRtcAlarm, hen, ht, he]
  rfl

theorem opRtcAlarm_stowed (hs : c.pwr.stowed = true) : c.opRtcAlarm = { c.alarmHit with pins.wakeOut := c.pins.vbat } :=
  (opRtcAlarm_noEntry hen ht he).trans (if_pos hs)

variable (hs : c.pwr.stowed = false)
include hs

theorem opRtcAlarm_running (hr : c.pwr.exiting = true ∨ c.pwrState = 0) : c.opRtcAlarm = c.alarmHit :=
  (opRtcAlarm_noEntry hen ht he).trans ((if_neg (Bool.eq_false_iff.1 hs)).trans (if_pos (by simpa using hr)))

theorem opRtcAlarm_wakes (hx : c.pwr.exiting = false) (hp : c.pwrState ≠ 0) : c.opRtcAlarm = c.alarmHit.heldAlarm true :=
  (opRtcAlarm_noEntry hen ht he).trans ((if_neg (Bool.eq_false_iff.1 hs)).trans (if_neg (by simp [hx, hp])))

end

end

end Chip

open Chip

/-- Settles O20: command by command, one case of its operation for each clause. -/
theorem powerStateActs : Obligations.PowerStateActs := by
  unfold Obligations.PowerStateActs
  refine ⟨?enter, ?enterNoState, ?moored, ?powerCut, ?bound, ?selfRefresh, ?powerOff, ?exit, ?exitRefused, ?deflatedExit, ?alarmRunning,
    ?alarmStowed, ?alarmWakes, ?alarmEntering, ?rtcWrite⟩
  case enter =>
    intro s rq tag h ht
    refine (runChip_mbx h (actEnter_state ht)).trans ?_
    cases (s.chip.pendingIn .pwr).enterCheck ((s.chip.mbxArgs .pwr).getD 0 0 % 4) <;> rfl
  case enterNoState => exact fun s rq tag h ht => runChip_mbx h (actEnter_noState ht)
  case moored => exact fun s e he ho hd ht => runChip_eq (opEntryDrainDone_moored he ho hd ht)
  case powerCut => exact fun s e he ho hd ht => runChip_eq (opEntryDrainDone_powerCut he ho hd ht)
  case bound => exact fun s e he ho hm hd ht => runChip_eq (opEntryAbort_bound he ho hm hd ht)
  case selfRefresh => exact fun s e k he ho hm hd hl ht => runChip_eq (opEntryAbort_selfRefresh he ho hm hd hl ht)
  case powerOff => exact fun s e t he ho ht => runChip_eq (opDeflatePowerOff_due he ho ht)
  case exit => exact fun s rq tag h hs he hx => runChip_mbx h (actExit_starts ⟨hs, he, hx⟩)
  case exitRefused => exact fun s rq tag h hx => runChip_mbx h (actExit_refused hx)
  case deflatedExit => exact fun s hs he => runChip_eq (opDeflatedExit_starts hs he)
  case alarmRunning => exact fun s hen ht he hs hr => runChip_eq (opRtcAlarm_running hen ht he hs hr)
  case alarmStowed => exact fun s hen ht he hs => runChip_eq (opRtcAlarm_stowed hen ht he hs)
  case alarmWakes => exact fun s hen ht he hs hx hp => runChip_eq (opRtcAlarm_wakes hen ht he hs hx hp)
  case alarmEntering => exact fun s e hen ht he => runChip_eq (opRtcAlarm_entering hen ht he)
  case rtcWrite => exact fun s rq value hp ho => runChip_regCmd hp ho rfl

end Sys2Proof.Machine
end

section
/-!
PROOFS. Supply levels and power domains (R365 to R371); from that O21.
-/

namespace Sys2Proof.Machine

namespace Chip

section
variable {c : Chip} {args : List Nat}

/-! SET_LEVEL and LEVEL_SWITCH (R365). -/

/-- The level that SET_LEVEL asks for. -/
def levelArg (args : List Nat) : Nat := args.getD 0 0 % 4

/-- The level that runs. -/
def level (c : Chip) : Nat := c.fld Reg.PWR_STATUS Fd.PWR_STATUS_LEVEL

/-- A state or another change holds the level. -/
def levelHeld (c : Chip) : Prop := c.pwrState ≠ 0 ∨ c.pwr.entry.isSome = true ∨ c.pwr.change.isSome = true

/-- A change to level n has started. -/
def levelChanging (c : Chip) (n : Nat) : Chip :=
  { c.setF Reg.PWR_STATUS Fd.PWR_STATUS_TARGET n with pwr.change := some ⟨c.level, n, c.now⟩ }.showTrans

theorem actSetLevel_same (h : levelArg args = c.level) : c.actSetLevel args = (c, some (0, [])) := if_pos h

theorem actSetLevel_held (h : levelArg args ≠ c.level) (hb : c.levelHeld) : c.actSetLevel args = (c, some (2, [])) :=
  (if_neg h).trans (if_pos hb)

theorem actSetLevel_starts (h : levelArg args ≠ c.level) (hb : ¬ c.levelHeld) : c.actSetLevel args
    = (if levelArg args < c.level then (c.levelChanging (levelArg args)).setpoint (levelArg args) else c.levelChanging (levelArg args),
        none) := (if_neg h).trans (if_neg hb)

/-- LEVEL is n, and the change counts. -/
def levelReached (c : Chip) (n : Nat) : Chip := (c.setF Reg.PWR_STATUS Fd.PWR_STATUS_LEVEL n).bump (Reg.PWR_CNT 10) 1

section
variable {x : LevelChange} (h : c.pwr.change = some x) (ht : x.start + 50 * usPs ≤ c.now)
include h ht

theorem opLevelSwitch_settled : c.opLevelSwitch true
    = ({ (if x.old < x.new then (c.levelReached x.new).setpoint x.new else c.levelReached x.new) with
          pwr.change := none }.showTrans).pwrEnd 3 0 := by
  simp only [opLevelSwitch, h]
  exact if_neg (Nat.not_lt.2 ht)

theorem opLevelSwitch_failed : c.opLevelSwitch false
    = (({ (c.setF Reg.PWR_STATUS Fd.PWR_STATUS_TARGET x.old).setpoint x.old with pwr.change := none }.showTrans).report
        0x03 0 0x10 outReported).pwrEnd 3 3 := by
  simp only [opLevelSwitch, h]
  exact if_neg (Nat.not_lt.2 ht)

end

/-! DOMAIN_OFF, DOMAIN_ON and DOMAIN_CLEAR (R368 to R371). -/

section
variable {d : Nat} {discard host : Bool} (hd : d < 117)
include hd

theorem domainOff_stateDom (hs : stateDom d = true) : c.domainOff d discard host = (c, some (5, [])) :=
  (if_neg (Nat.not_le.2 hd)).trans (if_pos hs)

variable (hs : stateDom d = false)
include hs

theorem domainOff_off (ho : c.domState d = domOff) : c.domainOff d discard host = (c, some (0, [])) :=
  (if_neg (Nat.not_le.2 hd)).trans ((if_neg (Bool.eq_false_iff.1 hs)).trans (if_pos ho))

/-- The domain is switched off through a drain: a quad, or a cell group. -/
abbrev drainedDom (d : Nat) : Prop := (d < 72 ∧ d % 9 < 8) ∨ (94 ≤ d ∧ d < 102)

section
variable (hu : c.domState d = domUp) (hp : c.pwrState = 0) (he : c.pwr.entry.isSome = false)
include hu hp he

/-- Nothing of the power states stands in the way of a domain that is up. -/
theorem domainOff_up : c.domainOff d discard host
    = if drainedDom d then (c.startDrain d discard host,
        if (c.startDrain d discard host).domState d = domOff then some (0, []) else none)
      else match c.offCheck d with
        | some (reason, unit) => (c.account 3 false unit reason, some (2, []))
        | none => (c.switchOff d, some (0, [])) := by
  have up : ¬ c.domState d = domOff := by rw [hu]; decide
  have allowed : ¬ (c.domState d ≠ domUp ∨ c.pwrState ≠ 0 ∨ c.pwr.entry.isSome = true) := by simp [hu, hp, he]
  exact (if_neg (Nat.not_le.2 hd)).trans ((if_neg (Bool.eq_false_iff.1 hs)).trans ((if_neg up).trans (if_neg allowed)))

theorem domainOff_drains (hg : drainedDom d) : c.domainOff d discard host
    = (c.startDrain d discard host, if (c.startDrain d discard host).domState d = domOff then some (0, []) else none) :=
  (domainOff_up hd hs hu hp he).trans (if_pos hg)

variable (hg : ¬ drainedDom d)
include hg

theorem domainOff_switches (hc : c.offCheck d = none) : c.domainOff d discard host = (c.switchOff d, some (0, [])) := by
  rw [domainOff_up hd hs hu hp he, if_neg hg, hc]

theorem domainOff_refused {r : Nat × Nat} (hc : c.offCheck d = some r) :
    c.domainOff d discard host = (c.account 3 false r.2 r.1, some (2, [])) := by
  rw [domainOff_up hd hs hu hp he, if_neg hg, hc]

end

end

section
variable (hd : args.getD 0 0 % 128 < 117)
include hd

section
variable (hs : stateDom (args.getD 0 0 % 128) = false)
include hs

theorem actDomainOn_failed (hf : c.domState (args.getD 0 0 % 128) = domFailed) :
    c.actDomainOn args = (c.lastRefuse 3 false 0x03 0x07, some (2, [])) :=
  (if_neg (Nat.not_le.2 hd)).trans ((if_neg (Bool.eq_false_iff.1 hs)).trans (if_pos hf))

theorem actDomainOn_on (hf : c.domState (args.getD 0 0 % 128) ≠ domFailed) (ho : c.domOn (args.getD 0 0 % 128) = true) :
    c.actDomainOn args = (c, some (0, [])) :=
  (if_neg (Nat.not_le.2 hd)).trans ((if_neg (Bool.eq_false_iff.1 hs)).trans ((if_neg hf).trans (if_pos ho)))

theorem actDomainOn_queues (ho : c.domState (args.getD 0 0 % 128) = domOff) (hp : c.pwrState = 0)
    (he : c.pwr.entry.isSome = false) : c.actDomainOn args = (c.request (args.getD 0 0 % 128), none) := by
  have notFailed : ¬ c.domState (args.getD 0 0 % 128) = domFailed := by rw [ho]; decide
  have notOn : ¬ c.domOn (args.getD 0 0 % 128) = true := by rw [domOn, ho]; decide
  have allowed : ¬ (c.domState (args.getD 0 0 % 128) ≠ domOff ∨ c.pwrState ≠ 0 ∨ c.pwr.entry.isSome = true) := by
    rw [ho, hp, he]
    decide
  exact (if_neg (Nat.not_le.2 hd)).trans ((if_neg (Bool.eq_false_iff.1 hs)).trans ((if_neg notFailed).trans
    ((if_neg notOn).trans (if_neg allowed))))

end

theorem actDomainClear_clears (hf : c.domState (args.getD 0 0 % 128) = domFailed)
    (hk : c.pwr.stuck.contains (args.getD 0 0 % 128) = false) :
    c.actDomainClear args = (c.setDom (args.getD 0 0 % 128) domOff, some (0, [])) :=
  if_neg (not_or.2 ⟨Nat.not_le.2 hd, not_or.2 ⟨not_not.2 hf, Bool.eq_false_iff.1 hk⟩⟩)

end

/-! Ramps (R369, R370). -/

theorem opRampStart_starts {r : DomReq} {l : List DomReq} (hq : c.pwr.queue = r :: l) (hm : c.mayStart = true) :
    c.opRampStart = { c.setDom r.dom domRamping with pwr.queue := l, pwr.lastStart := c.now } := by
  simp only [opRampStart, hq]
  exact if_pos hm

variable {d : Nat}

/-- The domain has tripped before within the last second. -/
def tripsAgain (c : Chip) (d : Nat) : Bool := (mfind c.pwr.tripAt d).any (fun t => decide (c.now < t + sPs))

/-- A trip of domain d counts. -/
def tripCounted (c : Chip) (d : Nat) : Chip := (c.satF (Reg.PWR_DOM d) Fd.PWR_DOM_TRIPS 1).bump (Reg.PWR_CNT 12) 1

/-- Domain d has tripped at time t; after the second trip in a row it stays failed. -/
def tripMarked (c : Chip) (d t : Nat) (again : Bool) : Chip :=
  { c with pwr.tripAt := mput c.pwr.tripAt d t, pwr.stuck := if again then c.pwr.stuck ++ [d] else c.pwr.stuck }

/-- The ramp of domain d has tripped. -/
def tripped (c : Chip) (d : Nat) : Chip :=
  ((((c.tripCounted d).tripMarked d c.now (c.tripsAgain d)).domainFault d domFailed).pwrEndDom 5 d 4).exitStep d

theorem withStack_softstartTrip {m : Store} (h : c.domState d = domRamping) : withStack d (opSoftstartTrip d) m c
    = (if 104 ≤ d ∧ d < 108 ∧ (c.tripped d).domState d ≠ domRamping then m.lostStack (d - 104) else m, c.tripped d) := by
  have trips : c.opSoftstartTrip d = c.tripped d := if_pos h
  simp only [withStack, trips, h]

/-! DOMAIN_DRAIN_TIMEOUT (R368). -/

section
variable {x : Drain} (hx : c.pwr.drains.find? (fun x => x.dom == d) = some x)
include hx

theorem opDomainDrainTimeout_ends (hr : c.drainReady x = true) : c.opDomainDrainTimeout d = c.endDrain x := by
  simp only [opDomainDrainTimeout, hx]
  exact if_pos hr

/-- The domain takes part again: its fence or its group is as it was. -/
def drainLifted (c : Chip) (d : Nat) (x : Drain) : Chip :=
  if d < 72 then c.setFence d false else c.setFBit Reg.BPM_CELL_CFG Fd.BPM_CELL_CFG_GROUP_EN (d - 94) x.discard

/-- The drain of domain d is over, and the domain is up. -/
def drainUndone (c : Chip) (d : Nat) : Chip := { c.setDom d domUp with pwr.drains := c.pwr.drains.filter (fun y => y.dom != d) }

theorem opDomainDrainTimeout_undone (hr : c.drainReady x = false)
    (ht : x.start + c.fld Reg.PWR_CFG Fd.PWR_CFG_DRAIN_MS * msPs ≤ c.now) : c.opDomainDrainTimeout d
      = (((c.drainLifted d x).drainUndone d).account 3 true (if d < 72 then 0x13 else 0x12) 0x04).pwrEndDom 4 d 3 := by
  simp only [opDomainDrainTimeout, hx]
  exact (if_neg (Bool.eq_false_iff.1 hr)).trans (if_neg (Nat.not_lt.2 ht))

end

end

end Chip

open Chip

/-- Settles O21: command by command, one case of its operation for each clause. -/
theorem powerDomainActs : Obligations.PowerDomainActs := by
  unfold Obligations.PowerDomainActs
  refine ⟨?same, ?starts, ?held, ?settled, ?notSettled, ?offState, ?offAlready, ?offDrains, ?offSwitches, ?offRefused, ?onQueues,
    ?onFailed, ?onAlready, ?clear, ?rampStart, ?rampDone, ?trip, ?drainEnds, ?drainUndone⟩
  case same => exact fun s rq tag h hl => runChip_mbx h (actSetLevel_same hl)
  case starts => exact fun s rq tag h hl hb => runChip_mbx h (actSetLevel_starts hl hb)
  case held => exact fun s rq tag h hl hb => runChip_mbx h (actSetLevel_held hl hb)
  case settled => exact fun s x h ht => runChip_eq (opLevelSwitch_settled h ht)
  case notSettled => exact fun s x h ht => runChip_eq (opLevelSwitch_failed h ht)
  case offState => exact fun s rq tag h hd hs => runChip_mbx h (domainOff_stateDom hd hs)
  case offAlready => exact fun s rq tag h hd hs ho => runChip_mbx h (domainOff_off hd hs ho)
  case offDrains => exact fun s rq tag h hd hs hu hp he hg => runChip_mbx h (domainOff_drains hd hs hu hp he hg)
  case offSwitches => exact fun s rq tag h hd hs hu hp he hg hc => runChip_mbx h (domainOff_switches hd hs hu hp he hg hc)
  case offRefused => exact fun s rq tag r h hd hs hu hp he hg hc => runChip_mbx h (domainOff_refused hd hs hu hp he hg hc)
  case onQueues => exact fun s rq tag h hd hs ho hp he => runChip_mbx h (actDomainOn_queues hd hs ho hp he)
  case onFailed => exact fun s rq tag h hd hs hf => runChip_mbx h (actDomainOn_failed hd hs hf)
  case onAlready => exact fun s rq tag h hd hs hf ho => runChip_mbx h (actDomainOn_on hd hs hf ho)
  case clear => exact fun s rq tag h hd hf hk => runChip_mbx h (actDomainClear_clears hd hf hk)
  case rampStart => exact fun s r l hq hm => runChip_eq (opRampStart_starts hq hm)
  case rampDone => exact fun s dom h => runChip_eq (if_pos h)
  case trip =>
    rintro s dom c h rfl
    exact runBoth_eq (withStack_softstartTrip h)
  case drainEnds => exact fun s dom x hx hr => runChip_eq (opDomainDrainTimeout_ends hx hr)
  case drainUndone => exact fun s dom x hx hr ht => runChip_eq (opDomainDrainTimeout_undone hx hr ht)

end Sys2Proof.Machine
end

section
/-!
PROOFS. A parcel's life (R392 to R397); from that O23.
-/

namespace Sys2Proof.Machine

namespace Chip

section
variable {c : Chip} {args : List Nat}

/-! What every PAR operation checks first: the parcel (code 1), then its state (code 2). -/

section
variable {states : List Nat} {act : Nat → Chip → Chip × Option (Nat × List Nat)}

theorem parCmd_noParcel (h : args.getD 0 0 = 0 ∨ 64 ≤ args.getD 0 0) : parCmd states act c args = (c, some (1, [])) := if_pos h

variable (hz : args.getD 0 0 ≠ 0) (hp : args.getD 0 0 < 64)
include hz hp

theorem parCmd_otherState (hs : states.contains (c.parState (args.getD 0 0)) = false) :
    parCmd states act c args = (c, some (2, [])) :=
  (if_neg (not_or.2 ⟨hz, Nat.not_le.2 hp⟩)).trans (if_pos (by rw [hs]; rfl))

theorem parCmd_acts (hs : states.contains (c.parState (args.getD 0 0)) = true) :
    parCmd states act c args = act (args.getD 0 0) c :=
  (if_neg (not_or.2 ⟨hz, Nat.not_le.2 hp⟩)).trans (if_neg (by rw [hs]; decide))

/-! REMOVE (R394). -/

variable (hs : [2, 3].contains (c.parState (args.getD 0 0)) = true)
include hs

theorem actRemove_starts (hn : c.portNames (args.getD 0 0) = false) : actRemove c args
    = ({ c with hif.parTx := some ⟨args.getD 0 0, none, false, [], []⟩ }.startRemove, none) :=
  (parCmd_acts hz hp hs).trans (if_neg (Bool.eq_false_iff.1 hn))

theorem actRemove_portNames (hn : c.portNames (args.getD 0 0) = true) : actRemove c args = (c, some (3, [])) :=
  (parCmd_acts hz hp hs).trans (if_pos hn)

end

/-- A write of PAR_CTRL.EN creates a parcel that is none. -/
theorem opParcelCreate_creates {rq : Req} {p : Nat} (hp : rq.priv = true) (ho : c.addrOff (Reg.PAR_CTRL p) = false)
    (hs : c.parState p = 0) : c.opParcelCreate rq p = (c.setF (Reg.PAR_CTRL p) Fd.PAR_CTRL_EN 1).setPar p 1 :=
  (regCmd_ok _ _ _ _ hp ho).trans (if_pos hs)

/-! SAVE (R395). -/

section
variable {m : Store} (hz : args.getD 0 0 ≠ 0) (hp : args.getD 0 0 < 64)
include hz hp

theorem actSave_otherState (hs : [3].contains (c.parState (args.getD 0 0)) = false) : actSave m c args = (m, c, some (2, [])) := by
  simp only [actSave, parCmd_otherState hz hp hs]

variable (hs : [3].contains (c.parState (args.getD 0 0)) = true)
include hs

theorem actSave_frozen : actSave m c args
    = if parSize args < (c.saveArea (args.getD 0 0)).length then (m, c, some (4, [(c.saveArea (args.getD 0 0)).length]))
      else match xmPut (c.saveArea (args.getD 0 0)).length m c (parXa args) (c.saveArea (args.getD 0 0)) with
        | (m1, c1, ok) => (m1, c1, some (if ok then (0, []) else (5, []))) := by
  simp only [actSave, parCmd_acts hz hp hs]

theorem actSave_short (hl : parSize args < (c.saveArea (args.getD 0 0)).length) :
    actSave m c args = (m, c, some (4, [(c.saveArea (args.getD 0 0)).length])) :=
  (actSave_frozen hz hp hs).trans (if_pos hl)

theorem actSave_writes {m1 : Store} {c1 : Chip} {ok : Bool} (hl : ¬ parSize args < (c.saveArea (args.getD 0 0)).length)
    (hx : xmPut (c.saveArea (args.getD 0 0)).length m c (parXa args) (c.saveArea (args.getD 0 0)) = (m1, c1, ok)) :
    actSave m c args = (m1, c1, some (if ok then (0, []) else (5, []))) := by
  rw [actSave_frozen hz hp hs, if_neg hl, hx]

end

/-! RESTORE (R396): the head of the area is read first; it states the length of the whole. -/

/-- The length of a save area, as its head states it. -/
def areaLen (h : List Byte) : Nat := leNat (slice h 0x10 8)

section
variable {m : Store} {c1 : Chip} (hz : args.getD 0 0 ≠ 0) (hp : args.getD 0 0 < 64)
  (hs : [0].contains (c.parState (args.getD 0 0)) = true)
include hz hp hs

theorem actRestore_noHead (hx : xmGet m 1 c (parXa args) [] = (c1, none)) : actRestore m c args = (c1, some (5, [])) := by
  simp only [actRestore, parCmd_acts hz hp hs, hx]

variable {h : List Byte} (hx : xmGet m 1 c (parXa args) [] = (c1, some h))
include hx

theorem actRestore_wrong (ha : areaOk h = false) : actRestore m c args = (c1, some (6, [])) := by
  simp only [actRestore, parCmd_acts hz hp hs, hx, ha, Bool.not_false, if_true]

variable (ha : areaOk h = true)
include ha

theorem actRestore_short (hl : parSize args < areaLen h) : actRestore m c args = (c1, some (4, [areaLen h])) := by
  simp only [actRestore, parCmd_acts hz hp hs, hx, ha, Bool.not_true, Bool.false_eq_true, if_false]
  exact if_pos hl

theorem actRestore_restores {c2 c3 : Chip} {l : List Byte} (hl : ¬ parSize args < areaLen h)
    (hy : xmGet m (ceilDiv (areaLen h) 64) c1 (parXa args) [] = (c2, some l))
    (hr : c2.restoreArea (args.getD 0 0) (l.take (areaLen h)) = some c3) : actRestore m c args = (c3, none) := by
  unfold areaLen at *
  simp only [actRestore, parCmd_acts hz hp hs, hx, ha, Bool.not_true, Bool.false_eq_true, if_false, if_neg hl, hy, hr]

end

end

end Chip

open Chip

/-- RESTORE reads the byte memories and leaves them. -/
theorem exec_restore {s : State} {rq : Req} {tag : BitVec 16} {c : Chip} {r : Option (Nat × List Nat)}
    (h : s.chip.mbxStarts rq .par 5 = true) (e : actRestore s.store (s.chip.pendingIn .par) (s.chip.mbxArgs .par) = (c, r)) :
    exec (.restore rq tag) s = .next (s.withChip (c.mbxTaken .par tag 5 (s.chip.mbxArgs .par) r)) :=
  runRead_eq (mbxRun_eq _ _ _ _ _ _ _ _ h e)

/-- Settles O23: operation by operation, one case for each clause. -/
theorem parcelActs : Obligations.ParcelActs := by
  unfold Obligations.ParcelActs
  refine ⟨?create, ?quiesce, ?freeze, ?resume, ?reset, ?remove, ?removeNamed, ?quiesceState, ?quiesceNone, ?resumeState, ?resumeNone,
    ?freezeState, ?freezeNone, ?resetState, ?resetNone, ?removeState, ?removeNone, ?saveShort, ?save, ?saveState, ?restoreNoHead,
    ?restoreWrong, ?restoreShort, ?restore⟩
  case create => exact fun s rq p hp ho hs => runChip_eq (opParcelCreate_creates hp ho hs)
  case quiesce => exact fun s rq tag h hz hp hs => runChip_mbx h (parCmd_acts hz hp hs)
  case freeze => exact fun s rq tag h hz hp hs => runChip_mbx h (parCmd_acts hz hp hs)
  case resume => exact fun s rq tag h hz hp hs => runChip_mbx h (parCmd_acts hz hp hs)
  case reset => exact fun s rq tag h hz hp hs => runChip_mbx h (parCmd_acts hz hp hs)
  case remove => exact fun s rq tag h hz hp hs hn => runChip_mbx h (actRemove_starts hz hp hs hn)
  case removeNamed => exact fun s rq tag h hz hp hs hn => runChip_mbx h (actRemove_portNames hz hp hs hn)
  case quiesceState => exact fun s rq tag h hz hp hs => runChip_mbx h (parCmd_otherState hz hp hs)
  case quiesceNone => exact fun s rq tag h hz => runChip_mbx h (parCmd_noParcel hz)
  case resumeState => exact fun s rq tag h hz hp hs => runChip_mbx h (parCmd_otherState hz hp hs)
  case resumeNone => exact fun s rq tag h hz => runChip_mbx h (parCmd_noParcel hz)
  case freezeState => exact fun s rq tag h hz hp hs => runChip_mbx h (parCmd_otherState hz hp hs)
  case freezeNone => exact fun s rq tag h hz => runChip_mbx h (parCmd_noParcel hz)
  case resetState => exact fun s rq tag h hz hp hs => runChip_mbx h (parCmd_otherState hz hp hs)
  case resetNone => exact fun s rq tag h hz => runChip_mbx h (parCmd_noParcel hz)
  case removeState => exact fun s rq tag h hz hp hs => runChip_mbx h (parCmd_otherState hz hp hs)
  case removeNone => exact fun s rq tag h hz => runChip_mbx h (parCmd_noParcel hz)
  case saveShort => exact fun s rq tag h hz hp hs hl => runBoth_mbx_chip h (actSave_short hz hp hs hl)
  case save => exact fun s rq tag m1 c1 ok h hz hp hs hl hx => runBoth_mbx h (actSave_writes hz hp hs hl hx)
  case saveState => exact fun s rq tag h hz hp hs => runBoth_mbx_chip h (actSave_otherState hz hp hs)
  case restoreNoHead => exact fun s rq tag c1 h hz hp hs hx => exec_restore h (actRestore_noHead hz hp hs hx)
  case restoreWrong => exact fun s rq tag c1 l h hz hp hs hx ha => exec_restore h (actRestore_wrong hz hp hs hx ha)
  case restoreShort => exact fun s rq tag c1 l h hz hp hs hx ha hl => exec_restore h (actRestore_short hz hp hs hx ha hl)
  case restore =>
    exact fun s rq tag c1 b c2 l c3 h hz hp hs hx ha hl hy hr => exec_restore h (actRestore_restores hz hp hs hx ha hl hy hr)

end Sys2Proof.Machine
end

section
/-!
PROOFS. The messages of the Tether, and its own commands and time limits (R398 to R406); from that O24 and O25.
-/

namespace Sys2Proof.Machine

namespace Chip

section
variable {c : Chip} {m : TetMsg}

/-! A message that the engine takes: of its generation it acts, of another it counts. -/

section
variable {act : Chip → Chip} (he : c.on Reg.TET_CTRL Fd.TET_CTRL_EN = true) (hf : m.fcsGood = true)
include he hf

theorem tetTake_acts (hg : m.gen.toNat = c.roleGen) : c.tetTake m act = act c.tetHear :=
  (if_neg (by rw [he, hf]; decide)).trans (if_neg (not_not.2 hg))

theorem tetTake_otherGen (hg : m.gen.toNat ≠ c.roleGen) : c.tetTake m act = c.tetHear.bump (Reg.TET_CNT 2) 1 :=
  (if_neg (by rw [he, hf]; decide)).trans (if_pos hg)

/-- The chip that has heard a heartbeat, and reports a partner of its own slot. -/
def heardBeat (c : Chip) (m : TetMsg) : Chip :=
  if !c.partner && m.slotId.val == c.pins.slotId then c.tetHear.report 0x08 0 0x19 outReported else c.tetHear

theorem opHeartbeat_accepted (hg : ¬ (m.role.val ≠ roleNone ∧ epochDiff m.gen.toNat c.roleGen < 0)) :
    c.opHeartbeat m = (c.heardBeat m).hbTake m :=
  (if_neg (by rw [he, hf]; decide)).trans (if_neg hg)

theorem opHeartbeat_older (hg : m.role.val ≠ roleNone ∧ epochDiff m.gen.toNat c.roleGen < 0) :
    c.opHeartbeat m = (c.heardBeat m).bump (Reg.TET_CNT 2) 1 :=
  (if_neg (by rw [he, hf]; decide)).trans (if_pos hg)

end

/-! Numbered messages act in order, for an engine that follows its partner. -/

section
variable {act : Chip → Option Chip}

theorem tetNumbered_notFollowing (h : c.follows = false) : c.tetNumbered m act = c := if_pos (by rw [h]; rfl)

variable (h : c.follows = true)
include h

theorem tetNumbered_outOfOrder (ho : m.tseq.toNat ≠ c.tet.recv + 1) : c.tetNumbered m act
    = (c.bump (Reg.TET_CNT 4) 1).sendTet tetAck c.roleGen 0 (leBytes 8 c.tet.recv) :=
  (if_neg (by rw [h]; decide)).trans (if_pos ho)

variable (ho : m.tseq.toNat = c.tet.recv + 1)
include ho

theorem tetNumbered_acts {c1 : Chip} (ha : act c = some c1) : c.tetNumbered m act
    = { c1 with tet.recv := m.tseq.toNat }.sendTet tetAck c.roleGen 0 (leBytes 8 m.tseq.toNat) := by
  simp only [tetNumbered, ha]
  exact (if_neg (by rw [h]; decide)).trans (if_neg (not_not.2 ho))

theorem tetNumbered_nothing (ha : act c = none) : c.tetNumbered m act = c := by
  simp only [tetNumbered, ha]
  exact (if_neg (by rw [h]; decide)).trans (if_neg (not_not.2 ho))

end

/-! Heartbeats, retransmission, loss of the partner, and an engine alone (R398, R402, R404, R406). -/

theorem opHeartbeatSend_due (he : c.on Reg.TET_CTRL Fd.TET_CTRL_EN = true)
    (ht : c.tet.hbAt + c.fld Reg.TET_CFG Fd.TET_CFG_HB_US * usPs ≤ c.now) : c.opHeartbeatSend
      = { c.sendTet tetHeartbeat c.roleGen 0 (leBytes 2 c.epoch ++ [BitVec.ofNat 8 (b2n c.tet.synced + 2 * b2n c.tet.ownSwap), 0]
            ++ leBytes 8 Config.uid.toNat ++ leBytes 8 c.tet.recv) with tet.hbAt := c.now } :=
  if_neg (by simp [he, ht])

theorem opTetherRetransmit_due (hu : c.tet.unacked.isEmpty = false) (ht : c.tet.progressAt + 50 * usPs ≤ c.now)
    (hr : c.role = roleActive) : c.opTetherRetransmit
      = { (c.tet.unacked.foldl (fun c x => c.sendTet x.2.1 c.roleGen x.1 x.2.2) c).bump (Reg.TET_CNT 3) c.tet.unacked.length with
          tet.progressAt := c.now } :=
  if_neg (by rw [hu, hr, decide_eq_false (Nat.not_lt.2 ht)]; decide)

theorem opPartnerLoss_lost {t : Nat} (hh : c.tet.heard = some t) (hp : c.partner = true) (hs : c.coreServes 3 = true)
    (ht : t + c.fld Reg.TET_CFG Fd.TET_CFG_HB_MISS * c.fld Reg.TET_CFG Fd.TET_CFG_HB_US * usPs ≤ c.now) : c.opPartnerLoss
      = { (c.setF Reg.TET_STATUS Fd.TET_STATUS_PARTNER 0).setF Reg.TET_STATUS Fd.TET_STATUS_LINK 0 with
          tet.heard := none }.lostPartner := by
  simp only [opPartnerLoss, hh]
  exact if_pos (by rw [hp, hs, decide_eq_true ht]; rfl)

theorem opAloneTimeout_activates (he : c.on Reg.TET_CTRL Fd.TET_CTRL_EN = true) (hr : c.role = roleNone) (hp : c.partner = false)
    (hd : c.tet.dead = false) (hs : c.coreServes 3 = true)
    (ht : c.tet.aloneAt + c.fld Reg.TET_CFG2 Fd.TET_CFG2_ALONE_MS * msPs ≤ c.now) : c.opAloneTimeout
      = { c with tet.synced := true }.setRole roleActive ((c.roleGen + 1) % 65536) :=
  if_pos (by rw [he, hr, hp, hd, hs, decide_eq_true ht]; rfl)

/-! SWAP (R403). -/

variable {args : List Nat}

/-- The engine has started a swap of its own. -/
def ownSwapStarted (c : Chip) : Chip := { c.swapStart with tet.ownSwap := true }

theorem actTetSwap_notSynced (h : c.syncedPair = false) : c.actTetSwap args = (c, some (2, [])) := if_pos (by rw [h]; rfl)

section
variable (h : c.syncedPair = true)
include h

theorem actTetSwap_standby (hr : c.role = roleStandby) :
    c.actTetSwap args = (c.ownSwapStarted.sendTet tetSwapReq c.ownSwapStarted.roleGen 0 [], none) :=
  (if_neg (by rw [h]; decide)).trans (if_pos hr)

theorem actTetSwap_active (hr : c.role ≠ roleStandby) : c.actTetSwap args = (c.ownSwapStarted.swapGoOn, none) :=
  (if_neg (by rw [h]; decide)).trans (if_neg hr)

end

end

end Chip

open Chip

section
variable {s : State} {m : TetMsg} {rows : List (List Byte)} (he : s.chip.on Reg.TET_CTRL Fd.TET_CTRL_EN = true)
  (hf : m.fcsGood = true)
include he hf

/-- A message of another generation is counted, whatever it would do. -/
theorem runChip_otherGen {act : Chip → Chip} (hg : m.gen.toNat ≠ s.chip.roleGen) :
    runChip s (fun c => c.tetTake m act) = .next (s.withChip (s.chip.tetHear.bump (Reg.TET_CNT 2) 1)) :=
  runChip_eq (tetTake_otherGen he hf hg)

/-- A message of the engine's generation acts on the engine that has heard it. -/
theorem runChip_heard {act : Chip → Chip} {c : Chip} (hg : m.gen.toNat = s.chip.roleGen) (h : act s.chip.tetHear = c) :
    runChip s (fun c => c.tetTake m act) = .next (s.withChip c) :=
  runChip_eq ((tetTake_acts he hf hg).trans h)

end

/-- Settles O24: message by message, of the engine's generation or of another. -/
theorem tetherMessageActs : Obligations.TetherMessageActs := by
  unfold Obligations.TetherMessageActs
  refine ⟨?update, ?updateOutOfOrder, ?updateAlone, ?chunk, ?chunkNoSlot, ?chunkOutOfOrder, ?chunkAlone, ?ack, ?swapReq, ?swapReqIgnored,
    ?swapGo, ?swapGoIgnored, ?swapDone, ?swapDoneIgnored, ?updateOtherGen, ?chunkOtherGen, ?ackOtherGen, ?swapReqOtherGen,
    ?swapGoOtherGen, ?swapDoneOtherGen, ?heartbeat, ?heartbeatOlder⟩
  case update => exact fun s m rows he hf hg h ho => runChip_heard he hf hg (tetNumbered_acts h ho rfl)
  case updateOutOfOrder => exact fun s m rows he hf hg h ho => runChip_heard he hf hg (tetNumbered_outOfOrder h ho)
  case updateAlone => exact fun s m rows he hf hg h => runChip_heard he hf hg (tetNumbered_notFollowing h)
  case chunk =>
    intro s m rows c1 t he hf hg h ho hr
    exact runChip_heard he hf hg (tetNumbered_acts h ho (by simp only [hr]))
  case chunkNoSlot =>
    intro s m rows he hf hg h ho hr
    exact runChip_heard he hf hg (tetNumbered_nothing h ho (by simp only [hr]))
  case chunkOutOfOrder => exact fun s m rows he hf hg h ho => runChip_heard he hf hg (tetNumbered_outOfOrder h ho)
  case chunkAlone => exact fun s m rows he hf hg h => runChip_heard he hf hg (tetNumbered_notFollowing h)
  case ack => exact fun s m he hf hg => runChip_heard he hf hg rfl
  case swapReq => exact fun s m he hf hg hs => runChip_heard he hf hg (if_pos hs)
  case swapReqIgnored => exact fun s m he hf hg hs => runChip_heard he hf hg (if_neg (Bool.eq_false_iff.1 hs))
  case swapGo => exact fun s m he hf hg hr => runChip_heard he hf hg (if_pos hr)
  case swapGoIgnored => exact fun s m he hf hg hr => runChip_heard he hf hg (if_neg hr)
  case swapDone => exact fun s m he hf hg hs => runChip_heard he hf hg (if_pos hs)
  case swapDoneIgnored => exact fun s m he hf hg hs => runChip_heard he hf hg (if_neg (Bool.eq_false_iff.1 hs))
  case updateOtherGen => exact fun s m rows he hf hg => runChip_otherGen he hf hg
  case chunkOtherGen => exact fun s m rows he hf hg => runChip_otherGen he hf hg
  case ackOtherGen => exact fun s m he hf hg => runChip_otherGen he hf hg
  case swapReqOtherGen => exact fun s m he hf hg => runChip_otherGen he hf hg
  case swapGoOtherGen => exact fun s m he hf hg => runChip_otherGen he hf hg
  case swapDoneOtherGen => exact fun s m he hf hg => runChip_otherGen he hf hg
  case heartbeat => exact fun s m he hf hg => runChip_eq (opHeartbeat_accepted he hf hg)
  case heartbeatOlder => exact fun s m he hf hg => runChip_eq (opHeartbeat_older he hf hg)

/-- Settles O25: command by command, one case of its operation for each clause. -/
theorem tetherRoleActs : Obligations.TetherRoleActs := by
  unfold Obligations.TetherRoleActs
  refine ⟨?heartbeat, ?retransmit, ?partnerLoss, ?alone, ?swapStandby, ?swapActive, ?swapNotSynced, ?resync, ?resyncRefused⟩
  case heartbeat => exact fun s he ht => runChip_eq (opHeartbeatSend_due he ht)
  case retransmit => exact fun s hu ht hr => runChip_eq (opTetherRetransmit_due hu ht hr)
  case partnerLoss => exact fun s t hh hp hs ht => runChip_eq (opPartnerLoss_lost hh hp hs ht)
  case alone => exact fun s he hr hp hd hs ht => runChip_eq (opAloneTimeout_activates he hr hp hd hs ht)
  case swapStandby => exact fun s rq tag h hs hr => runChip_mbx h (actTetSwap_standby hs hr)
  case swapActive => exact fun s rq tag h hs hr => runChip_mbx h (actTetSwap_active hs hr)
  case swapNotSynced => exact fun s rq tag h hs => runChip_mbx h (actTetSwap_notSynced hs)
  case resync => exact fun s rq tag h hr => runChip_mbx h (if_pos hr)
  case resyncRefused => exact fun s rq tag h hr => runChip_mbx h (if_neg hr)

end Sys2Proof.Machine
end

section
/-!
PROOFS. Snapshots and the windows of the performance monitor (R408, R418, R420); from that O26.
-/

namespace Sys2Proof.Machine

namespace Chip

section
variable {c : Chip}

/-- The milliseconds of the time base. -/
def msNow (c : Chip) : Nat := c.tb / tbMs

/-- GO is cleared. -/
def goTaken (c : Chip) : Chip := c.setF Reg.PMC_SNAP_CTRL Fd.PMC_SNAP_CTRL_GO 0

theorem snapTake_starts (h : c.pmc.copy.isSome = false) : c.snapTake
    = { c.goTaken.setF Reg.PMC_SNAP_STATUS Fd.PMC_SNAP_STATUS_BUSY 1 with pmc.copy := some c.ctrs } :=
  if_neg (Bool.eq_false_iff.1 h)

theorem snapTake_joins (h : c.pmc.copy.isSome = true) : c.snapTake = c.goTaken := if_pos h

/-- A multiple of PERIOD_MS has been passed since the last snapshot that the period took. -/
theorem opSnapshotGo_periodic {rq : Req} (hp : c.fld Reg.PMC_SNAP_CTRL Fd.PMC_SNAP_CTRL_PERIOD_MS ≠ 0)
    (ht : c.pmc.snapAt / c.fld Reg.PMC_SNAP_CTRL Fd.PMC_SNAP_CTRL_PERIOD_MS
      < c.msNow / c.fld Reg.PMC_SNAP_CTRL Fd.PMC_SNAP_CTRL_PERIOD_MS) :
    c.opSnapshotGo rq true = { c.snapTake with pmc.snapAt := c.msNow } := if_neg (not_or.2 ⟨hp, Nat.not_le.2 ht⟩)

/-- The copy m is published under the next SEQ. -/
def published (c : Chip) (m : NMap (BitVec 64)) : Chip :=
  let c1 := (c.setF Reg.PMC_SNAP_STATUS Fd.PMC_SNAP_STATUS_BUSY 0).setF Reg.PMC_SNAP_STATUS Fd.PMC_SNAP_STATUS_SEQ
    ((c.fld Reg.PMC_SNAP_STATUS Fd.PMC_SNAP_STATUS_SEQ + 1) % 65536)
  { c1 with snapC := m, pmc.copy := none }

theorem opSnapshotComplete_publishes {m : NMap (BitVec 64)} (h : c.pmc.copy = some m) : c.opSnapshotComplete = c.published m := by
  simp only [opSnapshotComplete, h]
  rfl

/-- Every port's bandwidth window has ended, and BW_STATUS counts it. -/
def bwEnded (c : Chip) : Chip :=
  let c1 := (List.range 1024).foldl bwOne c
  c1.wrN Reg.PMC_BW_STATUS ((c1.rd Reg.PMC_BW_STATUS + 1) % 2 ^ 32)

theorem opBwWindow_ends (h : c.pmc.bwAt / c.pmc.bwMs < c.msNow / c.pmc.bwMs) : c.opBwWindow
    = { c.bwEnded with pmc.bwAt := c.msNow, pmc.bwMs := c.bwEnded.fld Reg.PMC_BW_CFG Fd.PMC_BW_CFG_WINDOW_MS } :=
  if_neg (Nat.not_le.2 h)

theorem opLoadWindow_ends {loads : List Nat} (h : c.dbg.loadAt < c.msNow) : c.opLoadWindow loads
    = (List.range 6).foldl (fun c i => c.coreLoad i (loads.getD i 0)) { c with dbg.loadAt := c.msNow } := if_neg (Nat.not_le.2 h)

end

end Chip

open Chip

/-- Settles O26: command by command, one case of its operation for each clause. -/
theorem monitorActs : Obligations.MonitorActs := by
  unfold Obligations.MonitorActs
  refine ⟨?go, ?goJoins, ?periodic, ?complete, ?bandwidth, ?load⟩
  case go => exact fun s rq hp ho h => runChip_regCmd hp ho (snapTake_starts h)
  case goJoins => exact fun s rq hp ho h => runChip_regCmd hp ho (snapTake_joins h)
  case periodic => exact fun s rq hp ht => runChip_eq (opSnapshotGo_periodic hp ht)
  case complete => exact fun s m h => runChip_eq (opSnapshotComplete_publishes h)
  case bandwidth => exact fun s h => runChip_eq (opBwWindow_ends h)
  case load => exact fun s loads h => runChip_eq (opLoadWindow_ends h)

end Sys2Proof.Machine
end

section
/-!
PROOFS. The debug port: authentication, scan instructions, hart commands and system bus (R409 to R414); from that O27.
-/

namespace Sys2Proof.Machine

namespace Chip

section
variable {c : Chip}

/-! DBG_AUTH (R411, R412). -/

/-- A response is under verification, or the port is locked out. -/
abbrev authHeld (c : Chip) : Prop := c.dbgState = 2 ∨ c.dbgState = 4

/-- The nonce that a challenge draws. -/
def newNonce (c : Chip) : BitVec 384 :=
  BitVec.ofNat 384 ((List.range 6).foldl (fun a i => a + (Config.freeWord (c.freeCtr + i)).toNat * 2 ^ (64 * i)) 0)

/-- The challenge's nonce n is shown. -/
def challenged (c : Chip) (n : BitVec 384) : Chip :=
  { c.authShift with dbg.nonce := some n, dbg.shown := n, freeCtr := c.freeCtr + 6 }

theorem opChallenge_taken (h : ¬ c.authHeld) : c.opChallenge
    = if c.dbgState = 3 then c.challenged c.newNonce
      else (c.challenged c.newNonce).setF Reg.MGT_DBG_STATUS Fd.MGT_DBG_STATUS_STATE 1 := if_neg h

theorem opResponse_taken {data : List Byte} (h : ¬ c.authHeld) : c.opResponse data
    = { c.authShift.setF Reg.MGT_DBG_STATUS Fd.MGT_DBG_STATUS_STATE (if c.dbgState = 3 then 3 else 2) with
        dbg.nonce := none, dbg.resp := some ⟨data, c.dbg.nonce⟩ } := if_neg h

/-- The response is verified. -/
def verified (c : Chip) : Chip := { c with dbg.resp := none }

/-- The port is open for a scope. -/
def opened (c : Chip) (scope : Nat) : Chip :=
  (((c.setF Reg.MGT_DBG_STATUS Fd.MGT_DBG_STATUS_STATE 3).setF Reg.MGT_DBG_STATUS Fd.MGT_DBG_STATUS_SCOPE scope).bump
    (Reg.MGT_CNT 1) 1).collect 0x09 0 0x19 outReported scope

/-- The failures with one more. -/
def fails (c : Chip) : Nat := c.fld Reg.MGT_DBG_STATUS Fd.MGT_DBG_STATUS_FAILS + 1

/-- FAILS is n, of at most 3, and the failure counts. -/
def failed (c : Chip) (n : Nat) : Chip := (c.setF Reg.MGT_DBG_STATUS Fd.MGT_DBG_STATUS_FAILS (min n 3)).bump (Reg.MGT_CNT 2) 1

/-- The port is locked out. -/
def lockedOut (c : Chip) : Chip :=
  (c.lockPort.setF Reg.MGT_DBG_STATUS Fd.MGT_DBG_STATUS_STATE 4).setF Reg.MGT_DBG_STATUS Fd.MGT_DBG_STATUS_SCOPE 0

theorem opAuthVerdict_resp {r : AuthResp} (h : c.dbg.resp = some r) : c.opAuthVerdict
    = if c.authGood r = true then c.verified.opened (byteAt r.data 2)
      else if 3 ≤ c.fails then (c.verified.failed c.fails).lockedOut
      else if c.dbgState = 2 then (c.verified.failed c.fails).setF Reg.MGT_DBG_STATUS Fd.MGT_DBG_STATUS_STATE 0
      else c.verified.failed c.fails := by
  simp only [opAuthVerdict, h]
  rfl

/-! The scan instructions that drive lanes (R410). -/

theorem scanOut_granted {code shown : Nat} (h : c.granted 0 = true) :
    c.scanOut code shown = { c.emit (.debug code shown) with dbg.lanesOut := true } := if_pos h

theorem scanOut_closed {code shown : Nat} (h : c.granted 0 = false) : c.scanOut code shown = c.emit (.debug code 0) :=
  if_neg (Bool.eq_false_iff.1 h)

/-- The counters and their events lie below the general registers. -/
theorem isPmu_lt {r : Nat} (h : isPmu r = true) : r < 0x1000 := by
  simp only [isPmu, pmuCtrs, Bool.or_eq_true, List.contains_iff_mem, List.mem_cons, List.not_mem_nil, or_false, Bool.and_eq_true,
    decide_eq_true_eq] at h
  omega

/-! The hart commands (R413, R414). -/

section
variable {h : Nat}

theorem opDebugHalt_halts (hr : c.reaches h = true) (hh : c.hartHalted h = false) :
    c.opDebugHalt h = { c.bump (Reg.MGT_CNT 3) 1 with dbg.halted := c.dbg.halted ++ [hartIdx h] } := if_pos (by rw [hr, hh]; rfl)

/-- Debug knows nothing of the registers and the memory of hart h. -/
def hartForgotten (c : Chip) (h : Nat) : Chip :=
  { c with dbg.regs := c.dbg.regs.filter (fun x => x.1 / 8192 != h), dbg.mem := c.dbg.mem.filter (fun x => x.1 / 2 ^ 61 != h) }

section
variable (hr : c.reaches h = true) (hh : c.hartHalted h = true)
include hr hh

theorem opDebugStep_steps : c.opDebugStep h
    = (if h < 5 then (c.hartRun h (Config.coreEvents h c.now c.freeCtr 6) 1).tick else c).hartForgotten h :=
  if_pos (by rw [hr, hh]; rfl)

theorem opDebugStep_counted (h5 : h < 5) :
    c.opDebugStep h = (c.hartRun h (Config.coreEvents h c.now c.freeCtr 6) 1).tick.hartForgotten h :=
  (opDebugStep_steps hr hh).trans (by rw [if_pos h5])

theorem opDebugStep_uncounted (h5 : h = 5) : c.opDebugStep h = c.hartForgotten h :=
  (opDebugStep_steps hr hh).trans (by rw [if_neg (by omega)])

end

section
variable (hr : c.reaches h = false)
include hr

theorem opDebugHalt_unreached : c.opDebugHalt h = c := if_neg (by rw [hr]; exact Bool.false_ne_true)

theorem opDebugResume_unreached : c.opDebugResume h = c := if_neg (Bool.eq_false_iff.1 hr)

theorem opDebugStep_unreached : c.opDebugStep h = c := if_neg (by rw [hr]; exact Bool.false_ne_true)

theorem opAbstractCommand_unreached {cmd : AbsCmd} : c.opAbstractCommand h cmd = c := if_pos (by rw [hr]; rfl)

end

/-! Abstract commands (R414): code 4 unless the hart is halted. -/

section
variable (hr : c.reaches h = true)
include hr

theorem opAbstractCommand_running {cmd : AbsCmd} (hh : c.hartHalted h = false) :
    c.opAbstractCommand h cmd = c.emit (.debug 0x11 4) :=
  (if_neg (by rw [hr]; decide)).trans (if_pos (by rw [hh]; rfl))

variable (hh : c.hartHalted h = true)
include hh

/-- A halted hart within reach executes the command's own branch. -/
theorem ite_halted {a b x : Chip} : (if !c.reaches h then a else if !c.hartHalted h then b else x) = x := by
  rw [hr, hh]
  rfl

theorem opAbstractCommand_readMem {a : BitVec 64} : c.opAbstractCommand h (.readMem a)
    = (c.hartMem h a.toNat).1.emit (.debug 0x10 (c.hartMem h a.toNat).2.toNat) := ite_halted hr hh

theorem opAbstractCommand_writeMem {a v : BitVec 64} : c.opAbstractCommand h (.writeMem a v)
    = (c.setHartMem h a.toNat v).emit (.debug 0x10 0) := ite_halted hr hh

variable {r : Fin 8192} {v : BitVec 64}

theorem opAbstractCommand_readReg (hx : r.val < 0x1020) : c.opAbstractCommand h (.readReg r)
    = (c.hartReg h r).1.emit (.debug 0x10 (c.hartReg h r).2.toNat) :=
  (ite_halted hr hh).trans (if_neg (Nat.not_le.2 hx))

/-- A register other than x0 is written. -/
theorem opAbstractCommand_writeReg_stored (hx : r.val < 0x1020) (h0 : r.val ≠ 0x1000) : c.opAbstractCommand h (.writeReg r v)
    = if h < 5 ∧ isPmu r.val = true then (c.pmuSet h r.val v).emit (.debug 0x10 0)
      else { c.emit (.debug 0x10 0) with dbg.regs := mput c.dbg.regs (8192 * h + r.val) v } :=
  (ite_halted hr hh).trans ((if_neg (Nat.not_le.2 hx)).trans (if_neg h0))

theorem opAbstractCommand_writeReg (hx : r.val < 0x1020) (h0 : r.val ≠ 0x1000) (hp : ¬ (h < 5 ∧ isPmu r.val = true)) :
    c.opAbstractCommand h (.writeReg r v)
      = { c.emit (.debug 0x10 0) with dbg.regs := mput c.dbg.regs (8192 * h + r.val) v } :=
  (opAbstractCommand_writeReg_stored hr hh hx h0).trans (if_neg hp)

section
variable (h5 : h < 5) (hp : isPmu r.val = true)
include h5 hp

theorem opAbstractCommand_writeCounter : c.opAbstractCommand h (.writeReg r v) = (c.pmuSet h r v).emit (.debug 0x10 0) := by
  have hlt := isPmu_lt hp
  exact (opAbstractCommand_writeReg_stored hr hh (by omega) (by omega)).trans (if_pos ⟨h5, hp⟩)

theorem opAbstractCommand_readCounter : c.opAbstractCommand h (.readReg r) = c.emit (.debug 0x10 (c.pmuGet h r).toNat) := by
  have hlt := isPmu_lt hp
  have counter : c.hartReg h r = (c, c.pmuGet h r) := (if_neg (by omega)).trans (if_pos ⟨h5, hp⟩)
  rw [opAbstractCommand_readReg hr hh (by omega), counter]

end

end

end

/-! System bus accesses (R414). -/

section
variable {m : Store} {h : Fin 6} {a : Nat} {v : BitVec 64} {w64 : Bool}

section
variable (hg : c.granted 4 = true)
include hg

theorem opSystemBusAccess_regRead : c.opSystemBusAccess (.regRead a w64) m = (m, answerRead .debug a (c.readReg .debug a w64)) :=
  if_pos hg

theorem opSystemBusAccess_regWrite : c.opSystemBusAccess (.regWrite a v w64) m = c.writeReg .debug a v w64 true m := if_pos hg

variable (hd : (h.val == 5 || c.domOn 115) = true)
include hd

theorem opSystemBusAccess_memRead : c.opSystemBusAccess (.memRead h a) m
    = (m, (c.hartMem h a).1.emit (.debug 0x12 (c.hartMem h a).2.toNat)) := if_pos (by rw [hg, hd]; rfl)

theorem opSystemBusAccess_memWrite : c.opSystemBusAccess (.memWrite h a v) m = (m, c.setHartMem h a v) :=
  congrArg (Prod.mk m) (if_pos (by rw [hg, hd]; rfl))

end

section
variable (hg : c.granted 4 = false)
include hg

theorem opSystemBusAccess_regWrite_closed : c.opSystemBusAccess (.regWrite a v w64) m = (m, c) := if_neg (Bool.eq_false_iff.1 hg)

theorem opSystemBusAccess_regRead_closed : c.opSystemBusAccess (.regRead a w64) m = (m, c.emit (.debug 0x12 0)) :=
  if_neg (Bool.eq_false_iff.1 hg)

end

end

end

end Chip

open Chip

/-- Settles O27: command by command, one case of its operation for each clause. -/
theorem debugPortActs : Obligations.DebugPortActs := by
  unfold Obligations.DebugPortActs
  refine ⟨?challenge, ?challengeHeld, ?response, ?responseHeld, ?verdict, ?relock, ?idcode, ?sample, ?extest, ?extestClosed, ?clamp,
    ?clampClosed, ?highz, ?highzClosed, ?bypass, ?halt, ?resume, ?step, ?stepSafety, ?haltOut, ?resumeOut, ?stepOut, ?abstractOut,
    ?abstractRunning, ?readReg, ?writeReg, ?writeCounter, ?readCounter, ?readMem, ?writeMem, ?busRegRead, ?busRegWrite, ?busMemRead,
    ?busMemWrite, ?busRegWriteClosed, ?busRegReadClosed⟩
  case challenge => exact fun s h => runChip_eq (opChallenge_taken h)
  case challengeHeld => exact fun s h => runChip_eq (if_pos h)
  case response => exact fun s data h => runChip_eq (opResponse_taken h)
  case responseHeld => exact fun s data h => runChip_eq (if_pos h)
  case verdict => exact fun s r h => runChip_eq (opAuthVerdict_resp h)
  case relock => exact fun s => runChip_eq rfl
  case idcode => exact fun s => runChip_eq rfl
  case sample => exact fun s sampled shifted => runChip_eq rfl
  case extest => exact fun s h => runChip_eq (scanOut_granted h)
  case extestClosed => exact fun s h => runChip_eq (scanOut_closed h)
  case clamp => exact fun s h => runChip_eq (scanOut_granted h)
  case clampClosed => exact fun s h => runChip_eq (scanOut_closed h)
  case highz => exact fun s h => runChip_eq (scanOut_granted h)
  case highzClosed => exact fun s h => runChip_eq (scanOut_closed h)
  case bypass => exact fun s => runChip_eq rfl
  case halt => exact fun s hart hr hh => runChip_eq (opDebugHalt_halts hr hh)
  case resume => exact fun s hart hr => runChip_eq (if_pos hr)
  case step => exact fun s hart hr hh h5 => runChip_eq (opDebugStep_counted hr hh h5)
  case stepSafety => exact fun s hart hr hh h5 => runChip_eq (opDebugStep_uncounted hr hh h5)
  case haltOut => exact fun s hart hr => runChip_eq (opDebugHalt_unreached hr)
  case resumeOut => exact fun s hart hr => runChip_eq (opDebugResume_unreached hr)
  case stepOut => exact fun s hart hr => runChip_eq (opDebugStep_unreached hr)
  case abstractOut => exact fun s hart cmd hr => runChip_eq (opAbstractCommand_unreached hr)
  case abstractRunning => exact fun s hart cmd hr hh => runChip_eq (opAbstractCommand_running hr hh)
  case readReg => exact fun s hart r hr hh hx => runChip_eq (opAbstractCommand_readReg hr hh hx)
  case writeReg => exact fun s hart r v hr hh hx h0 hp => runChip_eq (opAbstractCommand_writeReg hr hh hx h0 hp)
  case writeCounter => exact fun s hart r v hr hh h5 hp => runChip_eq (opAbstractCommand_writeCounter hr hh h5 hp)
  case readCounter => exact fun s hart r hr hh h5 hp => runChip_eq (opAbstractCommand_readCounter hr hh h5 hp)
  case readMem => exact fun s hart a hr hh => runChip_eq (opAbstractCommand_readMem hr hh)
  case writeMem => exact fun s hart a v hr hh => runChip_eq (opAbstractCommand_writeMem hr hh)
  case busRegRead => exact fun s a w64 hg => runBoth_eq_withChip (opSystemBusAccess_regRead hg)
  case busRegWrite => exact fun s a v w64 hg => runBoth_eq_pair (opSystemBusAccess_regWrite hg)
  case busMemRead => exact fun s hart a hg hd => runBoth_eq_withChip (opSystemBusAccess_memRead hg hd)
  case busMemWrite => exact fun s hart a v hg hd => runBoth_eq_withChip (opSystemBusAccess_memWrite hg hd)
  case busRegWriteClosed => exact fun s a v w64 hg => runBoth_eq_withChip (opSystemBusAccess_regWrite_closed hg)
  case busRegReadClosed => exact fun s a w64 hg => runBoth_eq_withChip (opSystemBusAccess_regRead_closed hg)

end Sys2Proof.Machine
end
